-- ==== Sys2Proof/Word.lean ====
section
/-! DEFINITION. The word types of the Gudrieri machine (01 R6, R18). -/

namespace Sys2Proof

/-- A lane value, a mask of lanes, an address offset: 64 bits. -/
abbrev Word := BitVec 64

/-- One byte of memory. -/
abbrev Byte := BitVec 8

/-- The index of a lane register, v0 to v511. -/
abbrev RegIx := BitVec 9

/-- The number of a predicate, p0 to p7. -/
abbrev PredIx := BitVec 3

end Sys2Proof
end

