-- ==== Sys2Proof/Syntax.lean ====
section
/-! DEFINITION. The instructions and events of spec/opcode_table.json, one constructor a row (02 R32, 95). -/

namespace Sys2Proof

/-- The special operands of 01 R20. -/
inductive Special
  | zero | lane | grp | team | seed | gw | gn | tn | tx | ty | tz | one | ones | sign | lo32
  deriving DecidableEq, Repr

/-- A source operand: a lane register, a special operand, or the 64-bit immediate of format VI (01 R20, R21). -/
inductive Src
  | reg (i : RegIx)
  | spec (x : Special)
  | imm (v : Word)
  deriving DecidableEq, Repr

/-- The retain selector RT (01 R31). -/
inductive Retain
  | none | a | b | c
  deriving DecidableEq, Repr

/-- The guard every word carries: predicate, negation, park marker, retain (01 R18, R27, R28, R31). -/
structure Guard where
  pg : PredIx
  pn : Bool
  k : Bool
  rt : Retain
  deriving DecidableEq, Repr

/-- Conditions of icmp (02 R33). -/
inductive Cond
  | eq | ne | lt | le | gt | ge
  deriving DecidableEq, Repr

/-- Conditions of fcmp (02 R33). -/
inductive FCond
  | eq | ne | lt | le | gt | ge | un
  deriving DecidableEq, Repr

/-- The forms of vote with their operands (03 R63). -/
inductive VoteForm
  | every (d : PredIx) (a : PredIx)
  | some (d : PredIx) (a : PredIx)
  | mask (d : RegIx) (a : PredIx)
  | same (d : PredIx) (a : Src)
  | count (d : RegIx) (a : PredIx)
  deriving DecidableEq, Repr

/-- The forms of shfl with their operands; n is LIMM (03 R64). -/
inductive ShflForm
  | get (a b : Src)
  | rot (a : Src) (n : BitVec 8)
  | slup (a : Src) (n : BitVec 8) (c : Src)
  | sldn (a : Src) (n : BitVec 8) (c : Src)
  | xor (a : Src) (n : BitVec 8)
  deriving DecidableEq, Repr

/-- The combining operations OPX of scan and redl (03 R65). -/
inductive ScanOp
  | add | and | or | xor | min | max | umin | umax | fadd | fmin | fmax
  deriving DecidableEq, Repr

/-- The operations of pset (02 R33). -/
inductive PsetOp
  | and | or | xor | andn
  deriving DecidableEq, Repr

/-- What getx reads (03 R69). -/
inductive GetxKind
  | mask | path | depth
  deriving DecidableEq, Repr

/-- The width codes of 02 R33. -/
inductive Width
  | b8 | b16 | b32 | b64 | b128 | x8 | x16 | x32
  deriving DecidableEq, Repr

/-- The operations of atom and red (02 R33). -/
inductive AtomOp
  | add | and | or | xor | min | max | umin | umax | exch | fadd | fmin | fmax
  deriving DecidableEq, Repr

/-- ORD of format M (01 R22). -/
inductive Order
  | plain | acq | rel | ar
  deriving DecidableEq, Repr

/-- SCOPE of format M (01 R22). -/
inductive Scope
  | grp | team | dev | sys
  deriving DecidableEq, Repr

/-- HINT of format M (01 R22). -/
inductive Hint
  | dflt | strm | stky | byp
  deriving DecidableEq, Repr

/-- The address fields of format M (01 R13, R22). -/
structure Addr where
  base : Src
  seg : BitVec 8
  pair : Bool
  off : BitVec 32
  deriving DecidableEq, Repr

/-- Block-size codes BS that are not trapped (01 R26). -/
inductive BlockSize
  | bk8 | bk16 | bk32
  deriving DecidableEq, Repr

/-- The operations of coll (02 R33). -/
inductive CollOp
  | red | gath | bcast
  deriving DecidableEq, Repr

/-- The bank modes of 02 R33. -/
inductive BankMode
  | off | cache | scratch | strand
  deriving DecidableEq, Repr

/-- A team of an accepted launch: the launch's serial number and the logical team index. -/
structure TeamId where
  launch : Nat
  team : Nat
  deriving DecidableEq, Repr

/-- A group of an accepted launch. -/
structure GroupId where
  launch : Nat
  team : Nat
  grp : Nat
  deriving DecidableEq, Repr

/-- A core: logical cluster and core 0 or 1 within it. -/
structure CoreId where
  clus : Nat
  core : Nat
  deriving DecidableEq, Repr

/-- A request extension of 14 R297 with the data it carries. -/
structure RemoteReq where
  ext : Bool               -- false: a plain request without the extension
  hm : BitVec 32
  rb : BitVec 32
  rqid : BitVec 24
  expinc : BitVec 16
  kind : BitVec 4
  retx : Bool
  rsvd : Bool              -- word 0 [18]
  lanes : BitVec 6
  rslot : BitVec 12
  src : Nat                -- the requesting device
  pa : Nat                 -- owner physical address of the first byte
  data : List Byte         -- operand or written bytes
  mask : List Bool         -- which of the bytes are written, for a write
  fdef : Word              -- slot definition carried by codes 9 to 11
  coll : List Word         -- fields of a contribution: TAG, HOME, NPM1, PIDX, OP, FMT, GIDX, NELEM, TOUT, value, arr/op code
  deriving DecidableEq, Repr

/-- A response of 14 R298 with its data; ext false for an answer without extension (a read, or a peer without PEERX). -/
structure RemoteResp where
  ext : Bool
  src : Nat                -- the answering device
  tag : Nat                -- the link-level transaction the response belongs to
  echo : BitVec 16
  hm : BitVec 32
  incarn : BitVec 16
  rstat : BitVec 4
  data : List Byte
  err : Bool               -- data in error (14 R304)
  deriving DecidableEq, Repr

/-- One constructor per row of spec/opcode_table.json: first the words of 02 R32, then the device's other steps (95). -/
inductive Instr
  -- 0x0_ control
  | illegalWord (detail : BitVec 8)
  | nop (g : Guard)
  | bra (g : Guard) (off : BitVec 32)
  | brc (g : Guard) (a : Src) (off : BitVec 32)
  | brd (g : Guard) (off roff : BitVec 32)
  | join (g : Guard)
  | brx (g : Guard) (a : Src) (off : BitVec 32)
  | call (g : Guard) (d : RegIx) (off : BitVec 32)
  | callTbl (g : Guard) (d : RegIx) (a : Src) (off : BitVec 32)
  | ret (g : Guard) (a : Src)
  | exit (g : Guard)
  | trap (g : Guard) (code : BitVec 32)
  | pmark (g : Guard) (live : Word) (b : Src)
  | prog (g : Guard)
  | yield (g : Guard)
  | rte (g : Guard)
  -- 0x1_, 0x2_ integer
  | iadd (g : Guard) (w : Bool) (d : RegIx) (a b : Src)
  | isub (g : Guard) (w : Bool) (d : RegIx) (a b : Src)
  | imul (g : Guard) (w : Bool) (d : RegIx) (a b : Src)
  | imulh (g : Guard) (w u : Bool) (d : RegIx) (a b : Src)
  | imad (g : Guard) (w : Bool) (d : RegIx) (a b c : Src)
  | idiv (g : Guard) (w u : Bool) (d : RegIx) (a b : Src)
  | irem (g : Guard) (w u : Bool) (d : RegIx) (a b : Src)
  | imin (g : Guard) (w u : Bool) (d : RegIx) (a b : Src)
  | imax (g : Guard) (w u : Bool) (d : RegIx) (a b : Src)
  | iabs (g : Guard) (w : Bool) (d : RegIx) (a : Src)
  | ineg (g : Guard) (w : Bool) (d : RegIx) (a : Src)
  | and (g : Guard) (w : Bool) (d : RegIx) (a b : Src)
  | or (g : Guard) (w : Bool) (d : RegIx) (a b : Src)
  | xor (g : Guard) (w : Bool) (d : RegIx) (a b : Src)
  | andn (g : Guard) (w : Bool) (d : RegIx) (a b : Src)
  | not (g : Guard) (w : Bool) (d : RegIx) (a : Src)
  | shl (g : Guard) (w : Bool) (d : RegIx) (a b : Src)
  | shr (g : Guard) (w : Bool) (d : RegIx) (a b : Src)
  | sar (g : Guard) (w : Bool) (d : RegIx) (a b : Src)
  | rot (g : Guard) (w : Bool) (d : RegIx) (a b : Src)
  | clz (g : Guard) (w : Bool) (d : RegIx) (a : Src)
  | popc (g : Guard) (w : Bool) (d : RegIx) (a : Src)
  | brev (g : Guard) (w : Bool) (d : RegIx) (a : Src)
  | bfx (g : Guard) (w : Bool) (d : RegIx) (a b : Src)
  | bfi (g : Guard) (w : Bool) (d : RegIx) (a b c : Src)
  | icmp (g : Guard) (cc : Cond) (w u : Bool) (d : PredIx) (a b : Src)
  | sel (g : Guard) (w : Bool) (d : RegIx) (a b : Src) (p : PredIx)
  | mov (g : Guard) (w : Bool) (d : RegIx) (a : Src)
  | movi (g : Guard) (w : Bool) (d : RegIx) (v : Word)
  | lea (g : Guard) (d : RegIx) (a : Src) (off : BitVec 32)
  | iaddc (g : Guard) (w : Bool) (d : RegIx) (a b c : Src)
  | isat (g : Guard) (w u : Bool) (d : RegIx) (a b : Src)
  -- 0x3_ cross-lane, predicate, shape
  | vote (g : Guard) (span : BitVec 3) (f : VoteForm)
  | shfl (g : Guard) (span : BitVec 3) (d : RegIx) (f : ShflForm)
  | scan (g : Guard) (span : BitVec 3) (op : ScanOp) (fs : BitVec 4) (excl : Bool) (d : RegIx) (a : Src)
  | redl (g : Guard) (span : BitVec 3) (op : ScanOp) (fs : BitVec 4) (d : RegIx) (a : Src)
  | pmov (g : Guard) (d : RegIx) (a : PredIx)
  | pset (g : Guard) (op : PsetOp) (d a b : PredIx)
  | shape (g : Guard) (d : RegIx) (a : Src)
  | matz (g : Guard) (d : RegIx)
  | getx (g : Guard) (k : GetxKind) (d : RegIx)
  -- 0x4_, 0x5_ floating point
  | fadd (g : Guard) (fs : BitVec 4) (d : RegIx) (a b : Src)
  | fsub (g : Guard) (fs : BitVec 4) (d : RegIx) (a b : Src)
  | fmul (g : Guard) (fs : BitVec 4) (d : RegIx) (a b : Src)
  | ffma (g : Guard) (fs : BitVec 4) (d : RegIx) (a b c : Src)
  | fmin (g : Guard) (fs : BitVec 4) (d : RegIx) (a b : Src)
  | fmax (g : Guard) (fs : BitVec 4) (d : RegIx) (a b : Src)
  | fcmp (g : Guard) (cc : FCond) (fs : BitVec 4) (d : PredIx) (a b : Src)
  | fclass (g : Guard) (fs : BitVec 4) (d : RegIx) (a b : Src)
  | fcvt (g : Guard) (fs sc : BitVec 4) (d : RegIx) (a b c : Src)
  | f2i (g : Guard) (fs : BitVec 4) (w u : Bool) (d : RegIx) (a : Src)
  | i2f (g : Guard) (fs : BitVec 4) (w u : Bool) (d : RegIx) (a : Src)
  | frnd (g : Guard) (fs : BitVec 4) (d : RegIx) (a : Src)
  | fdiv (g : Guard) (fs : BitVec 4) (d : RegIx) (a b : Src)
  | fsqrt (g : Guard) (fs : BitVec 4) (d : RegIx) (a : Src)
  | frcp (g : Guard) (fs : BitVec 4) (d : RegIx) (a : Src)
  | frsq (g : Guard) (fs : BitVec 4) (d : RegIx) (a : Src)
  | fex2 (g : Guard) (fs : BitVec 4) (d : RegIx) (a : Src)
  | flg2 (g : Guard) (fs : BitVec 4) (d : RegIx) (a : Src)
  | fscl (g : Guard) (fs : BitVec 4) (d : RegIx) (a b : Src)
  | fdot (g : Guard) (fs sb sc : BitVec 4) (d : RegIx) (a b c : Src)
  | fsum (g : Guard) (fs : BitVec 4) (d : RegIx) (a : Src)
  | fmtdef (g : Guard) (fs : BitVec 4) (a : Src)
  | fmtrd (g : Guard) (fs : BitVec 4) (d : RegIx)
  | fseed (g : Guard) (fs : BitVec 4) (a : Src)
  | fstat (g : Guard) (clr : Bool) (d : RegIx)
  -- 0x6_ scaled blocks
  | scq (g : Guard) (fs sb sc : BitVec 4) (bs : BlockSize) (res : Option RegIx) (d a : RegIx)
  | scdq (g : Guard) (fs sc : BitVec 4) (d : RegIx) (a c : Src)
  | scpk (g : Guard) (fs sb : BitVec 4) (bs : BlockSize) (d a : RegIx) (b : Src)
  | scup (g : Guard) (fs : BitVec 4) (res : RegIx) (d : RegIx) (a c : Src)
  | bscl (g : Guard) (fs sb sc : BitVec 4) (d : RegIx) (a b : Src)
  -- 0x7_ memory
  | ld (g : Guard) (wd : Width) (o : Order) (sc : Scope) (h : Hint) (d : RegIx) (m : Addr)
  | st (g : Guard) (wd : Width) (o : Order) (sc : Scope) (h : Hint) (m : Addr) (b : Src)
  | ldp (g : Guard) (x : Bool) (pw : BitVec 6) (h : Hint) (d : RegIx) (m : Addr) (c : Src)
  | stp (g : Guard) (pw : BitVec 6) (h : Hint) (m : Addr) (b c : Src)
  | ldi (g : Guard) (wd : Width) (ac : BitVec 4) (h : Hint) (d : RegIx) (m : Addr)
  | waitac (g : Guard) (n : BitVec 4) (t : BitVec 6)
  | pref (g : Guard) (sc : Scope) (h : Hint) (m : Addr)
  | cinv (g : Guard) (sc : Scope) (m : Addr)
  | cwb (g : Guard) (sc : Scope) (m : Addr)
  | stz (g : Guard) (fs : BitVec 4) (h : Hint) (m : Addr) (b : RegIx) (c : Src)
  | ldz (g : Guard) (fs : BitVec 4) (h : Hint) (d : RegIx) (m : Addr) (c : Src)
  | ldq (g : Guard) (wd : Width) (d : RegIx) (a : Src) (off : BitVec 32)
  | stq (g : Guard) (wd : Width) (a : Src) (off : BitVec 32) (b : Src)
  | fence (g : Guard) (o : Order) (sc : Scope)
  | qfence (g : Guard) (q : BitVec 8)
  | ldfr (g : Guard) (fs : BitVec 4) (h : Hint) (d : RegIx) (m : Addr) (c : Src)
  -- 0x9_ atomics and bead
  | atom (g : Guard) (op : AtomOp) (b64 : Bool) (fs : BitVec 4) (o : Order) (sc : Scope) (d : RegIx) (m : Addr) (b : Src)
  | red (g : Guard) (op : AtomOp) (b64 : Bool) (fs : BitVec 4) (o : Order) (sc : Scope) (m : Addr) (b : Src)
  | acas (g : Guard) (b64 : Bool) (o : Order) (sc : Scope) (d : RegIx) (m : Addr) (b c : Src)
  | bead (g : Guard) (drain : Bool)
  -- 0xA_ clasps
  | clinit (g : Guard) (n : BitVec 4) (a : Src)
  | clarr (g : Guard) (d : RegIx) (n : BitVec 4) (a : Src)
  | clwait (g : Guard) (n : BitVec 4) (a : Src)
  | clsync (g : Guard) (n : BitVec 4) (a : Src)
  | clexp (g : Guard) (n : BitVec 4) (a : Src)
  | clrd (g : Guard) (d : RegIx) (n : BitVec 4) (word : Bool)
  -- 0xB_ matrix
  | mma (g : Guard) (fs sb sc : BitVec 4) (d a b c mk : RegIx)
  | mmas (g : Guard) (fs sb sc : BitVec 4) (bs : BlockSize) (d a b c mk : RegIx)
  | mmaz (g : Guard) (fs sb sc : BitVec 4) (d a b mk : RegIx)
  | stfr (g : Guard) (fs : BitVec 4) (h : Hint) (m : Addr) (b : RegIx) (c : Src)
  -- 0xC_, 0xE_ engines and system
  | tmpl (g : Guard) (t : BitVec 6) (seg : BitVec 8) (a : Src)
  | coll (g : Guard) (op : CollOp) (arr : Bool) (seg : BitVec 8) (a : Src)
  | launch (g : Guard) (seg q : BitVec 8) (a : Src)
  | bankm (g : Guard) (mode : BankMode) (d : RegIx) (b : BitVec 5)
  | engst (g : Guard) (d : RegIx) (sel : BitVec 16)
  | ctlr (g : Guard) (d : RegIx) (sel : BitVec 16)
  | ctlw (g : Guard) (sel : BitVec 16) (a : Src)
  | rdcyc (g : Guard) (d : RegIx)
  | perf (g : Guard) (clr : Bool) (d : RegIx) (sel : BitVec 16)
  -- steps of the device (95)
  | loadReply (gid : GroupId) (n : Nat)
  | ldiArrival (gid : GroupId) (n : Nat)
  | captureEnd (c : CoreId)
  | matrixComplete (c : CoreId)
  | matrixPriorityRaise (gid : GroupId) (slot : Nat)
  | trapTaken (gid : GroupId)
  | groupRetire (gid : GroupId)
  | teamRetire (tid : TeamId)
  | teamComplete (tid : TeamId)
  | preemptionRequestVisible (gid : GroupId)
  | groupSave (gid : GroupId)
  | graceLimitExpiry (gid : GroupId)
  | teamEvict (tid : TeamId)
  | teamRestore (tid : TeamId)
  | teamPlace (tid : TeamId)
  | placementAgeExpiry (tid : TeamId)
  | quantumExpiry (tid : TeamId)
  | launchCommand (q : Nat)
  | wait (q : Nat)
  | waitPoll (q : Nat)
  | signal (q : Nat)
  | queueNotify (q : Nat)
  | tailPoll (q : Nat)
  | kill (q : Nat)
  | watchdogStage1 (q : Nat)
  | watchdogStage2 (q : Nat)
  | watchdogStage3 (q : Nat)
  | copyGranule (clus : Nat)
  | copyStrandPush (tid : TeamId) (q : Nat)
  | copyComplete (tid : TeamId) (q : Nat)
  | bankModeChange (clus bank : Nat)
  | collSubtree (n : Nat)
  | collHomeTimeout (slot : Nat)
  | collParticipantTimeout (n : Nat)
  | receive (m : RemoteReq)
  | retire (m : RemoteReq)
  | close (m : RemoteReq)
  | remoteResponse (m : RemoteResp)
  | rtoExpiry (n : Nat)
  | busyBackoffExpiry (n : Nat)
  | idleRetire (ctx owner : Nat)
  | drainClose (ctx owner : Nat)
  | rlimExpiry (ctx : Nat)
  | frst
  | laneRepair (port : Nat) (lane : BitVec 2)
  | crcError (port : Nat)
  | repairRetrain (port : Nat)
  | retrainComplete (port : Nat)
  | faultNotify (ctx : Nat)
  | replayAll
  | faultAbort
  | inval
  | flush
  | free
  | migrate
  | migrateTry (n : Nat)
  | migrateSourceRelease (n : Nat)
  | genAdvance (i : Nat)
  | atsInvalidation (lo hi : Nat)
  | atsTranslationCompletion (page : Nat) (ok : Bool) (target : Nat)
  | bar2Read (off len : Nat)
  | bar2Write (off : Nat) (data : List Byte)
  | preempt (ctx : Nat)
  | resume (ctx : Nat)
  | switchOut (ctx : Nat)
  | destroy (ctx : Nat)
  | spareCore (u0 u1 : Nat)
  | spareCluster (u0 u1 : Nat)
  | spareSramRow (u0 u1 u2 : Nat)
  | spareHbmLane (u0 u1 u2 : Nat)
  | pcieLaneReversal
  | linkTraining (width : Nat)
  | faultBufferEnable (ctx : Nat) (v : Word)
  | islandWrite (i : Nat) (v : Word)
  | islandChangeComplete (i : Nat)
  | clampEnter
  | clampExit
  | spdmRequest (len : BitVec 32)
  | recoveryChunk (len : BitVec 32)
  | deviceReset
  | firmwareVerify
  | rowPrecharge (stack bank row : Nat)
  | registerWrite (off : Nat) (half : Bool) (v : Word)
  | writePerformed (l2 : Bool) (clus : Nat) (sec : Nat)
  | spareComplete
  deriving DecidableEq, Repr

end Sys2Proof
end

