-- ==== Sys2Proof/WellFormed.lean ====
section
/-! DEFINITION. When an instruction is one a word can carry under a launch's limits: the operand limits of
01 R19 to R26, 02 R33 to R37 and the entries. Steps that are not words are always well formed. -/

namespace Sys2Proof

/-- The launch limits the word check uses: `.regs`, the group width and `.clasps` (01 R19, R24, 05 R134). -/
structure Env where
  nr : Nat
  width : Nat
  clasps : Nat
  deriving DecidableEq, Repr

namespace WellFormed

/-- A register index below `.regs` (01 R19). -/
def reg (e : Env) (i : RegIx) : Bool := decide (i.toNat < e.nr)

/-- The even register of a pair whose odd partner is below `.regs` too (02 R33). -/
def pair (e : Env) (i : RegIx) : Bool := decide (i.toNat % 2 = 0) && decide (i.toNat + 1 < e.nr)

/-- A source that is not an immediate. -/
def src (e : Env) : Src → Bool
  | .reg i => reg e i
  | .spec _ => true
  | .imm _ => false

/-- A source of format V or VI. -/
def srcV (e : Env) : Src → Bool
  | .reg i => reg e i
  | _ => true

def isImm : Src → Bool
  | .imm _ => true
  | _ => false

/-- At most one source field holds the immediate (01 R21). -/
def oneImm (xs : List Src) : Bool := decide ((xs.filter isImm).length ≤ 1)

/-- The sources of a format V or VI word. -/
def srcsV (e : Env) (xs : List Src) : Bool := xs.all (srcV e) && oneImm xs

/-- p7 cannot be written (02 R35). -/
def predDst (d : PredIx) : Bool := d != 7

/-- The guard: (!p7) is no guard, and RT names a used field (01 R27, R31). -/
def guard (g : Guard) (a b c : Bool) : Bool :=
  !(g.pg == 7 && g.pn) &&
  match g.rt with
  | .none => true
  | .a => a
  | .b => b
  | .c => c

/-- The guard of an instruction that takes no predicate (03 R54). -/
def p7 (g : Guard) (a b c : Bool) : Bool := g.pg == 7 && !g.pn && guard g a b c

/-- The address of format M (01 R22). -/
def addr (e : Env) (m : Addr) : Bool :=
  if m.pair then
    m.seg == 0 && match m.base with
      | .reg i => pair e i
      | _ => false
  else src e m.base

/-- ORD and SCOPE of ld and st: an order names its scope, a plain access has scope 00 (05 R104). -/
def ordScope (o : Order) (sc : Scope) (ok : Order → Bool) : Bool :=
  ok o && (o != .plain || sc == .grp)

/-- SPAN within the group width (01 R24). -/
def span (e : Env) (s : BitVec 3) : Bool := decide (s.toNat ≤ 5) && decide (2 ^ (s.toNat + 1) ≤ e.width)

/-- LIMM below the group width (01 R24). -/
def limm (e : Env) (n : BitVec 8) : Bool := decide (n.toNat < e.width)

def isFloat : ScanOp → Bool
  | .fadd | .fmin | .fmax => true
  | _ => false

def isFloatAtom : AtomOp → Bool
  | .fadd | .fmin | .fmax => true
  | _ => false

/-- A clasp below `.clasps` (05 R134). -/
def clasp (e : Env) (n : BitVec 4) : Bool := decide (n.toNat < e.clasps)

/-- Selectors of engst (07 R179). -/
def engstSel (s : BitVec 16) : Bool :=
  let n := s.toNat
  decide (n ≤ 7) || (decide (0x20 ≤ n) && decide (n ≤ 0x3F)) || n == 0x40 || n == 0x41

/-- Selectors of perf (07 R181). -/
def perfSel (s : BitVec 16) : Bool :=
  let n := s.toNat
  decide (n ≤ 7) || (decide (0x100 ≤ n) && decide (n ≤ 0x102))

def voteForm (e : Env) : VoteForm → Bool
  | .every d _ => predDst d
  | .some d _ => predDst d
  | .mask d _ => reg e d
  | .same d a => predDst d && src e a
  | .count d _ => reg e d

/-- The retain fields the form of shfl uses, and its operands (03 R64). -/
def shflForm (e : Env) (g : Guard) (s : BitVec 3) : ShflForm → Bool
  | .get a b => src e a && src e b && guard g true true false
  | .rot a n => src e a && limm e n && guard g true false false
  | .slup a n c => src e a && src e c && limm e n && guard g true false true
  | .sldn a n c => src e a && src e c && limm e n && guard g true false true
  | .xor a n => src e a && limm e n && decide (n.toNat < 2 ^ (s.toNat + 1)) && guard g true false false

end WellFormed

open WellFormed in
/-- Whether a word carries the instruction under the launch limits. -/
def wellFormed (e : Env) : Instr → Bool
  | .illegalWord _ => false
  | .nop g => guard g false false false
  | .bra g _ => guard g false false false
  | .brc g a _ => p7 g true false false && src e a
  | .brd g _ _ => guard g false false false
  | .join g => p7 g false false false
  | .brx g a _ => p7 g true false false && src e a
  | .call g d _ => p7 g false false false && reg e d
  | .callTbl g d a _ => p7 g true false false && reg e d && src e a
  | .ret g a => p7 g true false false && srcsV e [a]
  | .exit g => guard g false false false
  | .trap g _ => guard g false false false
  | .pmark g _ b => p7 g true true false && src e b
  | .prog g => p7 g false false false
  | .yield g => p7 g false false false
  | .rte g => p7 g false false false
  | .iadd g _ d a b => guard g true true false && reg e d && srcsV e [a, b]
  | .isub g _ d a b => guard g true true false && reg e d && srcsV e [a, b]
  | .imul g _ d a b => guard g true true false && reg e d && srcsV e [a, b]
  | .imulh g _ _ d a b => guard g true true false && reg e d && srcsV e [a, b]
  | .imad g _ d a b c => guard g true true true && reg e d && srcsV e [a, b, c]
  | .idiv g _ _ d a b => guard g true true false && reg e d && srcsV e [a, b]
  | .irem g _ _ d a b => guard g true true false && reg e d && srcsV e [a, b]
  | .imin g _ _ d a b => guard g true true false && reg e d && srcsV e [a, b]
  | .imax g _ _ d a b => guard g true true false && reg e d && srcsV e [a, b]
  | .iabs g _ d a => guard g true false false && reg e d && srcsV e [a]
  | .ineg g _ d a => guard g true false false && reg e d && srcsV e [a]
  | .and g _ d a b => guard g true true false && reg e d && srcsV e [a, b]
  | .or g _ d a b => guard g true true false && reg e d && srcsV e [a, b]
  | .xor g _ d a b => guard g true true false && reg e d && srcsV e [a, b]
  | .andn g _ d a b => guard g true true false && reg e d && srcsV e [a, b]
  | .not g _ d a => guard g true false false && reg e d && srcsV e [a]
  | .shl g _ d a b => guard g true true false && reg e d && srcsV e [a, b]
  | .shr g _ d a b => guard g true true false && reg e d && srcsV e [a, b]
  | .sar g _ d a b => guard g true true false && reg e d && srcsV e [a, b]
  | .rot g _ d a b => guard g true true false && reg e d && srcsV e [a, b]
  | .clz g _ d a => guard g true false false && reg e d && srcsV e [a]
  | .popc g _ d a => guard g true false false && reg e d && srcsV e [a]
  | .brev g _ d a => guard g true false false && reg e d && srcsV e [a]
  | .bfx g _ d a b => guard g true true false && reg e d && srcsV e [a, b]
  | .bfi g _ d a b c => guard g true true true && reg e d && srcsV e [a, b, c]
  | .icmp g _ _ _ d a b => guard g true true false && predDst d && srcsV e [a, b]
  | .sel g _ d a b _ => guard g true true true && reg e d && srcsV e [a, b]
  | .mov g _ d a => guard g true false false && reg e d && src e a
  | .movi g _ d _ => guard g true false false && reg e d
  | .lea g d a _ => guard g true false false && reg e d && src e a
  | .iaddc g _ d a b c => guard g true true true && reg e d && srcsV e [a, b, c]
  | .isat g _ _ d a b => guard g true true false && reg e d && srcsV e [a, b]
  | .vote g s f => guard g true false false && span e s && voteForm e f
  | .shfl g s d f => reg e d && span e s && shflForm e g s f
  | .scan g s op fs _ d a => guard g true false false && span e s && reg e d && src e a && (isFloat op || fs == 0)
  | .redl g s op fs d a => guard g true false false && span e s && reg e d && src e a && (isFloat op || fs == 0)
  | .pmov g d _ => guard g true false false && reg e d
  | .pset g _ d _ _ => guard g true true false && predDst d
  | .shape g d a => guard g true false false && reg e d && srcsV e [a]
  | .matz g d => guard g false false false && reg e d
  | .getx g _ d => guard g false false false && reg e d
  | .fadd g _ d a b => guard g true true false && reg e d && srcsV e [a, b]
  | .fsub g _ d a b => guard g true true false && reg e d && srcsV e [a, b]
  | .fmul g _ d a b => guard g true true false && reg e d && srcsV e [a, b]
  | .ffma g _ d a b c => guard g true true true && reg e d && srcsV e [a, b, c]
  | .fmin g _ d a b => guard g true true false && reg e d && srcsV e [a, b]
  | .fmax g _ d a b => guard g true true false && reg e d && srcsV e [a, b]
  | .fcmp g _ _ d a b => guard g true true false && predDst d && srcsV e [a, b]
  | .fclass g _ d a b => guard g true true false && reg e d && srcsV e [a, b]
  | .fcvt g _ _ d a b c => guard g true true true && reg e d && src e a && src e b && src e c
  | .f2i g _ _ _ d a => guard g true false false && reg e d && srcsV e [a]
  | .i2f g _ _ _ d a => guard g true false false && reg e d && srcsV e [a]
  | .frnd g _ d a => guard g true false false && reg e d && srcsV e [a]
  | .fdiv g _ d a b => guard g true true false && reg e d && srcsV e [a, b]
  | .fsqrt g _ d a => guard g true false false && reg e d && srcsV e [a]
  | .frcp g _ d a => guard g true false false && reg e d && srcsV e [a]
  | .frsq g _ d a => guard g true false false && reg e d && srcsV e [a]
  | .fex2 g _ d a => guard g true false false && reg e d && srcsV e [a]
  | .flg2 g _ d a => guard g true false false && reg e d && srcsV e [a]
  | .fscl g _ d a b => guard g true true false && reg e d && srcsV e [a, b]
  | .fdot g _ _ _ d a b c => guard g true true true && reg e d && src e a && src e b && src e c
  | .fsum g _ d a => guard g true false false && reg e d && srcsV e [a]
  | .fmtdef g _ a => guard g true false false && srcsV e [a]
  | .fmtrd g _ d => guard g false false false && reg e d
  | .fseed g _ a => guard g true false false && srcsV e [a]
  | .fstat g _ d => guard g false false false && reg e d
  | .scq g _ _ _ _ res d a => guard g true false false && reg e d && reg e a && res.all (reg e)
  | .scdq g _ _ d a c => guard g true false true && reg e d && src e a && src e c
  | .scpk g _ _ _ d a b => guard g true true false && reg e d && reg e a && src e b
  | .scup g _ res d a c => guard g true false true && reg e d && src e a && src e c && reg e res
  | .bscl g _ _ _ d a b => guard g true true false && reg e d && src e a && src e b
  | .ld g wd o sc _ d m =>
    guard g true false false && (if wd == .b128 then pair e d else reg e d) && addr e m &&
      ordScope o sc (fun o => o == .plain || o == .acq)
  | .st g wd o sc _ m b =>
    guard g true true false && addr e m && ordScope o sc (fun o => o == .plain || o == .rel) &&
      match wd with
      | .b8 | .b16 | .b32 | .b64 => src e b
      | .b128 => (match b with
        | .reg i => pair e i
        | _ => false)
      | _ => false
  | .ldp g _ _ _ d m c => guard g true false true && reg e d && addr e m && src e c
  | .stp g _ _ m b c => guard g true true true && addr e m && src e b && src e c
  | .ldi g wd _ _ d m => guard g true false false && reg e d && addr e m && wd != .b128
  | .waitac g _ _ => p7 g false false false
  | .pref g sc h m => guard g true false false && addr e m && (sc == .team || sc == .dev) && h != .byp
  | .cinv g sc m => guard g true false false && addr e m && sc != .grp
  | .cwb g sc m => guard g true false false && addr e m && sc != .grp
  | .stz g _ _ m b c => guard g true true true && addr e m && reg e b && src e c
  | .ldz g _ _ d m c => guard g true false true && reg e d && addr e m && src e c
  | .ldq g wd d a _ => guard g true false false && reg e d && src e a && wd != .b128
  | .stq g wd a _ b =>
    guard g true true false && src e a && src e b && (wd == .b8 || wd == .b16 || wd == .b32 || wd == .b64)
  | .fence g o _ => guard g false false false && o != .plain
  | .qfence g q => p7 g false false false && q != 0
  | .ldfr g _ _ d m c => guard g true false true && reg e d && addr e m && src e c
  | .atom g op _ fs _ _ d m b =>
    guard g true true false && reg e d && addr e m && src e b && (isFloatAtom op || fs == 0)
  | .red g op _ fs o _ m b =>
    guard g true true false && addr e m && src e b && op != .exch && (isFloatAtom op || fs == 0) &&
      (o == .plain || o == .rel)
  | .acas g _ _ _ d m b c => guard g true true true && reg e d && addr e m && src e b && src e c
  | .bead g _ => guard g false false false
  | .clinit g n a => guard g true false false && clasp e n && src e a
  | .clarr g d n a => guard g true false false && reg e d && clasp e n && src e a
  | .clwait g n a => guard g true false false && clasp e n && src e a
  | .clsync g n a => guard g true false false && clasp e n && src e a
  | .clexp g n a => guard g true false false && clasp e n && src e a
  | .clrd g d n _ => guard g false false false && reg e d && clasp e n
  | .mma g _ _ _ d a b c mk => guard g true true true && reg e d && reg e a && reg e b && reg e c && reg e mk
  | .mmas g _ _ _ _ d a b c mk => guard g true true true && reg e d && reg e a && reg e b && reg e c && reg e mk
  | .mmaz g _ _ _ d a b mk => guard g true true false && reg e d && reg e a && reg e b && reg e mk
  | .stfr g _ _ m b c => guard g true true true && addr e m && reg e b && src e c
  | .tmpl g _ _ a => guard g true false false && src e a
  | .coll g op arr _ a => guard g true false false && src e a && (!arr || op == .red)
  | .launch g _ _ a => guard g true false false && src e a
  | .bankm g _ d _ => guard g false false false && reg e d
  | .engst g d s => guard g false false false && reg e d && engstSel s
  | .ctlr g d s => guard g false false false && reg e d && decide (s.toNat ≤ 7)
  | .ctlw g s a => guard g true false false && src e a && decide (s.toNat ≤ 7)
  | .rdcyc g d => p7 g false false false && reg e d
  | .perf g _ d s => guard g false false false && reg e d && perfSel s
  | .loadReply _ _ | .ldiArrival _ _ | .captureEnd _ | .matrixComplete _ | .matrixPriorityRaise _ _
  | .trapTaken _ | .groupRetire _ | .teamRetire _ | .teamComplete _ | .preemptionRequestVisible _
  | .groupSave _ | .graceLimitExpiry _ | .teamEvict _ | .teamRestore _ | .teamPlace _
  | .placementAgeExpiry _ | .quantumExpiry _ | .launchCommand _ | .wait _ | .waitPoll _ | .signal _
  | .queueNotify _ | .tailPoll _ | .kill _ | .watchdogStage1 _ | .watchdogStage2 _ | .watchdogStage3 _
  | .copyGranule _ | .copyStrandPush _ _ | .copyComplete _ _ | .bankModeChange _ _ | .collSubtree _
  | .collHomeTimeout _ | .collParticipantTimeout _ | .receive _ | .retire _ | .close _ | .remoteResponse _
  | .rtoExpiry _ | .busyBackoffExpiry _ | .idleRetire _ _ | .drainClose _ _ | .rlimExpiry _ | .frst
  | .laneRepair _ _ | .crcError _ | .repairRetrain _ | .retrainComplete _ | .faultNotify _ | .replayAll
  | .faultAbort | .inval | .flush | .free | .migrate | .migrateTry _ | .migrateSourceRelease _
  | .genAdvance _ | .atsInvalidation _ _ | .atsTranslationCompletion _ _ _ | .bar2Read _ _ | .bar2Write _ _
  | .preempt _ | .resume _ | .switchOut _ | .destroy _ | .spareCore _ _ | .spareCluster _ _
  | .spareSramRow _ _ _ | .spareHbmLane _ _ _ | .pcieLaneReversal | .linkTraining _ | .faultBufferEnable _ _
  | .islandWrite _ _ | .islandChangeComplete _ | .clampEnter | .clampExit | .spdmRequest _ | .recoveryChunk _
  | .deviceReset | .firmwareVerify | .rowPrecharge _ _ _ | .registerWrite _ _ _ | .writePerformed _ _ _
  | .spareComplete => true

end Sys2Proof
end

