-- ==== Sys2Proof/Decode.lean ====
section
/-! DEFINITION. From words to instructions and back (01 R18 to R26, 02 R32 to R37). A word is taken apart once
(`unpack`), checked in the order of detail codes (`failure`), and built into an instruction (`build`). The encoder
writes the same fields. Log entries 9 to 11 name the readings taken. -/

namespace Sys2Proof

/-- The fields of a word (01 R18). -/
structure Raw where
  op : BitVec 8
  fs : BitVec 4
  k : Bool
  pg : BitVec 3
  pn : Bool
  rt : BitVec 2
  d : BitVec 9
  ak : Bool
  a : BitVec 9
  bk : Bool
  b : BitVec 9
  ck : Bool
  c : BitVec 9
  md : BitVec 6
  ext : BitVec 64
  deriving DecidableEq, Repr

/-- The fields of a 128-bit word (01 R18). -/
def unpack (w : BitVec 128) : Raw where
  op := w.extractLsb' 0 8
  fs := w.extractLsb' 8 4
  k := w.getLsbD 12
  pg := w.extractLsb' 13 3
  pn := w.getLsbD 16
  rt := w.extractLsb' 17 2
  d := w.extractLsb' 19 9
  a := w.extractLsb' 28 9
  ak := w.getLsbD 37
  b := w.extractLsb' 38 9
  bk := w.getLsbD 47
  c := w.extractLsb' 48 9
  ck := w.getLsbD 57
  md := w.extractLsb' 58 6
  ext := w.extractLsb' 64 64

def bit1 (b : Bool) : BitVec 1 := BitVec.ofBool b

/-- The word of the fields (01 R18). -/
def pack (r : Raw) : BitVec 128 :=
  r.ext ++ r.md ++ bit1 r.ck ++ r.c ++ bit1 r.bk ++ r.b ++ bit1 r.ak ++ r.a ++ r.d ++ r.rt ++ bit1 r.pn ++ r.pg
    ++ bit1 r.k ++ r.fs ++ r.op

namespace Decode

/-- The format letters (02 R32). -/
inductive Letter
  | v | b | m | x | e | s
  deriving DecidableEq, Repr

/-- How an opcode uses D. -/
inductive DUse
  | none | reg | pair | pred
  deriving DecidableEq, Repr

/-- How an opcode uses a source field: unused; any source of its format; no immediate; the immediate only; a register
run (06 R144); the data pair of st.b128; a predicate (03 R63, R67); the predicate of sel (03 R49). -/
inductive SUse
  | none | any | noImm | immOnly | run | pair | pred | predSel
  deriving DecidableEq, Repr

/-- How an opcode uses FS: not at all, as a slot, as one of n listed values. -/
inductive FsUse
  | none | slot | upTo (n : Nat)
  deriving DecidableEq, Repr

/-- What the word check needs to know of an opcode (02 R32, R33 and the entries). `modOk` judges MOD and FS values,
`ext` lists the EXT fields that hold an invalid value, `xregs` the EXT register fields. -/
structure Usage where
  letter : Letter
  d : DUse
  a : SUse
  b : SUse
  c : SUse
  fs : FsUse
  modOk : Bool
  p7 : Bool
  extOk : Bool
  xregs : List Nat
  deriving DecidableEq, Repr

-- EXT fields (01 R22 to R26), positions within EXT
def extF (r : Raw) (lo n : Nat) : Nat := (r.ext.toNat / 2 ^ lo) % 2 ^ n
def mPw (r : Raw) : Nat := extF r 51 6
def mAc (r : Raw) : Nat := extF r 47 4
def mOrd (r : Raw) : Nat := extF r 45 2
def mScope (r : Raw) : Nat := extF r 43 2
def mHint (r : Raw) : Nat := extF r 41 2
def mPair (r : Raw) : Nat := extF r 40 1
def mSeg (r : Raw) : Nat := extF r 32 8
def mOff (r : Raw) : Nat := extF r 0 32
def bRoff (r : Raw) : Nat := extF r 32 32
def bOff (r : Raw) : Nat := extF r 0 32
def xOpx (r : Raw) : Nat := extF r 16 4
def xLimm (r : Raw) : Nat := extF r 8 8
def xSpan (r : Raw) : Nat := extF r 0 3
def eImm (r : Raw) : Nat := extF r 32 32
def eQmask (r : Raw) : Nat := extF r 16 8
def eSel (r : Raw) : Nat := extF r 0 16
def sMk (r : Raw) : Nat := extF r 20 9
def sRes (r : Raw) : Nat := extF r 11 9
def sRe (r : Raw) : Nat := extF r 10 1
def sBs (r : Raw) : Nat := extF r 8 2
def sSc (r : Raw) : Nat := extF r 4 4
def sSb (r : Raw) : Nat := extF r 0 4

/-- Reserved bits of EXT by letter; for V every bit, unless an immediate stands there (01 R21 to R26, 02 R37). Index 0x1FF
in two source fields also stands for one here, and is a fault of its own (DEDUCED, log entry 79). -/
def extReserved (l : Letter) (r : Raw) : Bool :=
  let hasImm := (r.ak && r.a == 0x1FF) || (r.bk && r.b == 0x1FF) || (r.ck && r.c == 0x1FF)
  match l with
  | .v => !hasImm && r.ext != 0
  | .b => false
  | .m => extF r 57 7 != 0
  | .x => extF r 20 44 != 0 || extF r 3 5 != 0
  | .e => extF r 24 8 != 0
  | .s => extF r 29 35 != 0

/-- The format M fields within the values of 05 R104. -/
def mFields (r : Raw) (ords : List Nat) (scopes : List Nat) (hints : List Nat) (pw ac : Bool) (addr : Bool) : Bool :=
  ords.contains (mOrd r) && scopes.contains (mScope r) && hints.contains (mHint r) && (pw || mPw r == 0) &&
    (ac || mAc r == 0) && (addr || (mSeg r == 0 && mPair r == 0)) && (mPair r == 0 || mSeg r == 0)

/-- SCOPE of ld and st: any with an order, otherwise 00 (05 R104). -/
def ldScopes (r : Raw) : List Nat := if mOrd r == 0 then [0] else [0, 1, 2, 3]

def hintsAny : List Nat := [0, 1, 2, 3]

/-- Format X: SPAN and LIMM within the group width (01 R24). -/
def xFields (e : Env) (r : Raw) : Bool :=
  decide (xSpan r ≤ 5) && decide (2 ^ (xSpan r + 1) ≤ e.width) && decide (xLimm r < e.width)

/-- Format S fields that an entry does not use are zero; BS 11 is invalid (01 R26, 04 R84, 06 R145, R156). -/
def sFields (r : Raw) (sb sc bs re mk : Bool) : Bool :=
  (sb || sSb r == 0) && (sc || sSc r == 0) && (if bs then sBs r != 3 else sBs r == 0) &&
    (if re then sRe r == 1 || sRes r == 0 else sRe r == 0 && sRes r == 0) && (mk || sMk r == 0)

/-- The usage of each assigned opcode (02 R32, R33); none for an unassigned one. shfl with a form that FS does not list
uses neither B nor C (DEDUCED, log entry 80). -/
def usage (e : Env) (r : Raw) : Option Usage :=
  let md := r.md.toNat
  let fsn := r.fs.toNat
  let v (d : DUse) (a b c : SUse) (fs : FsUse) (modOk p7 : Bool) : Option Usage :=
    some { letter := .v, d := d, a := a, b := b, c := c, fs := fs, modOk := modOk, p7 := p7, extOk := true, xregs := [] }
  let br (d : DUse) (a : SUse) (modOk p7 roff : Bool) : Option Usage :=
    some { letter := .b, d := d, a := a, b := .none, c := .none, fs := .none, modOk := modOk, p7 := p7,
           extOk := roff || bRoff r == 0, xregs := [] }
  let m (d : DUse) (a b c : SUse) (fs : FsUse) (modOk ok : Bool) : Option Usage :=
    some { letter := .m, d := d, a := a, b := b, c := c, fs := fs, modOk := modOk, p7 := false, extOk := ok, xregs := [] }
  let x (d : DUse) (a b c : SUse) (fs : FsUse) (modOk ok : Bool) : Option Usage :=
    some { letter := .x, d := d, a := a, b := b, c := c, fs := fs, modOk := modOk, p7 := false,
           extOk := xFields e r && ok, xregs := [] }
  let en (d : DUse) (a : SUse) (fs : FsUse) (modOk p7 ok : Bool) : Option Usage :=
    some { letter := .e, d := d, a := a, b := .none, c := .none, fs := fs, modOk := modOk, p7 := p7, extOk := ok, xregs := [] }
  let sf (d : DUse) (a b c : SUse) (ok : Bool) (xr : List Nat) : Option Usage :=
    some { letter := .s, d := d, a := a, b := b, c := c, fs := .slot, modOk := md == 0, p7 := false, extOk := ok, xregs := xr }
  let q0 := eQmask r == 0
  let s0 := eSel r == 0
  let i0 := eImm r == 0
  let w1 := decide (md ≤ 1)
  let w2 := decide (md ≤ 3)
  let m0 := md == 0
  let cl := decide (eSel r < 16) && decide (eSel r < e.clasps)
  match r.op.toNat with
  | 0x01 => v .none .none .none .none .none m0 false
  | 0x02 => br .none .none m0 false false
  | 0x03 => br .none .noImm m0 true false
  | 0x04 => br .none .none m0 false true
  | 0x05 => v .none .none .none .none .none m0 true
  | 0x06 => br .none .noImm m0 true false
  | 0x07 => br .reg (if md % 2 = 1 then .noImm else .none) w1 true false
  | 0x08 => v .none .any .none .none .none m0 true
  | 0x09 => v .none .none .none .none .none m0 false
  | 0x0A => en .none .none .none m0 false (q0 && s0)
  | 0x0B => v .none .immOnly .any .none .none m0 true
  | 0x0C => v .none .none .none .none .none m0 true
  | 0x0D => v .none .none .none .none .none m0 true
  | 0x0E => v .none .none .none .none .none m0 true
  | 0x10 => v .reg .any .any .none .none w1 false
  | 0x11 => v .reg .any .any .none .none w1 false
  | 0x12 => v .reg .any .any .none .none w1 false
  | 0x13 => v .reg .any .any .none .none w2 false
  | 0x14 => v .reg .any .any .any .none w1 false
  | 0x15 => v .reg .any .any .none .none w2 false
  | 0x16 => v .reg .any .any .none .none w2 false
  | 0x17 => v .reg .any .any .none .none w2 false
  | 0x18 => v .reg .any .any .none .none w2 false
  | 0x19 => v .reg .any .none .none .none w1 false
  | 0x1A => v .reg .any .none .none .none w1 false
  | 0x1B => v .reg .any .any .none .none w1 false
  | 0x1C => v .reg .any .any .none .none w1 false
  | 0x1D => v .reg .any .any .none .none w1 false
  | 0x1E => v .reg .any .any .none .none w1 false
  | 0x1F => v .reg .any .none .none .none w1 false
  | 0x20 => v .reg .any .any .none .none w1 false
  | 0x21 => v .reg .any .any .none .none w1 false
  | 0x22 => v .reg .any .any .none .none w1 false
  | 0x23 => v .reg .any .any .none .none w1 false
  | 0x24 => v .reg .any .none .none .none w1 false
  | 0x25 => v .reg .any .none .none .none w1 false
  | 0x26 => v .reg .any .none .none .none w1 false
  | 0x27 => v .reg .any .any .none .none w1 false
  | 0x28 => v .reg .any .any .any .none w1 false
  | 0x29 => v .pred .any .any .none (.upTo 6) w2 false
  | 0x2A => v .reg .any .any .predSel .none w1 false
  | 0x2B => v .reg .noImm .none .none .none w1 false
  | 0x2C => v .reg .immOnly .none .none .none w1 false
  | 0x2D => m .reg .noImm .none .none .none m0 (mFields r [0] [0] [0] false false false)
  | 0x2E => v .reg .any .any .any .none w1 false
  | 0x2F => v .reg .any .any .none .none w2 false
  | 0x30 => x (if fsn = 2 ∨ fsn = 4 then .reg else .pred) (if fsn = 3 then .noImm else .pred) .none .none (.upTo 5) m0 (xOpx r == 0 && xLimm r == 0)
  | 0x31 => x .reg .noImm (if fsn = 0 then .noImm else .none) (if fsn = 2 ∨ fsn = 3 then .noImm else .none) (.upTo 5) m0
      (xOpx r == 0 && (fsn != 0 || xLimm r == 0) && (fsn != 4 || decide (xLimm r < 2 ^ (xSpan r + 1))))
  | 0x32 => x .reg .noImm .none .none (if 8 ≤ xOpx r ∧ xOpx r ≤ 10 then .slot else .upTo 1) w1 (decide (xOpx r ≤ 10) && xLimm r == 0)
  | 0x33 => x .reg .noImm .none .none (if 8 ≤ xOpx r ∧ xOpx r ≤ 10 then .slot else .upTo 1) m0 (decide (xOpx r ≤ 10) && xLimm r == 0)
  | 0x34 => v .reg .pred .none .none .none m0 false
  | 0x35 => v .pred .pred .pred .none (.upTo 4) m0 false
  | 0x36 => v .reg .any .none .none .none m0 false
  | 0x37 => v .reg .none .none .none .none m0 false
  | 0x38 => v .reg .none .none .none (.upTo 3) m0 false
  | 0x40 => v .reg .any .any .none .slot m0 false
  | 0x41 => v .reg .any .any .none .slot m0 false
  | 0x42 => v .reg .any .any .none .slot m0 false
  | 0x43 => v .reg .any .any .any .slot m0 false
  | 0x44 => v .reg .any .any .none .slot m0 false
  | 0x45 => v .reg .any .any .none .slot m0 false
  | 0x46 => v .pred .any .any .none .slot (decide (md ≤ 6)) false
  | 0x47 => v .reg .any .any .none .slot m0 false
  | 0x48 => sf .reg .noImm .noImm .noImm (sFields r false true false false false) []
  | 0x49 => v .reg .any .none .none .slot w2 false
  | 0x4A => v .reg .any .none .none .slot w2 false
  | 0x4B => v .reg .any .none .none .slot m0 false
  | 0x4C => v .reg .any .any .none .slot m0 false
  | 0x4D => v .reg .any .none .none .slot m0 false
  | 0x4E => v .reg .any .none .none .slot m0 false
  | 0x4F => v .reg .any .none .none .slot m0 false
  | 0x50 => v .reg .any .none .none .slot m0 false
  | 0x51 => v .reg .any .none .none .slot m0 false
  | 0x52 => v .reg .any .any .none .slot m0 false
  | 0x53 => sf .reg .noImm .noImm .noImm (sFields r true true false false false) []
  | 0x54 => v .reg .any .none .none .slot m0 false
  | 0x55 => v .none .any .none .none .slot m0 false
  | 0x56 => v .reg .none .none .none .slot m0 false
  | 0x57 => v .none .any .none .none .slot m0 false
  | 0x58 => v .reg .none .none .none .none w1 false
  | 0x60 => sf .reg .run .none .none (sFields r true true true true false) (if sRe r = 1 then [sRes r] else [])
  | 0x61 => sf .reg .noImm .none .noImm (sFields r false true false false false) []
  | 0x62 => sf .reg .run .noImm .none (sFields r true false true false false) []
  | 0x63 => sf .reg .noImm .none .noImm (sFields r false false false true false && sRe r == 1) [sRes r]
  | 0x64 => sf .reg .noImm .noImm .none (sFields r true true false false false) []
  | 0x70 => m (if md = 4 then .pair else .reg) .noImm .none .none .none (decide (md ≤ 7)) (mFields r [0, 1] (ldScopes r) hintsAny false false true)
  | 0x71 => m .none .noImm (if md = 4 then .pair else .noImm) .none .none (decide (md ≤ 4)) (mFields r [0, 2] (ldScopes r) hintsAny false false true)
  | 0x72 => m .reg .noImm .none .noImm .none w1 (mFields r [0] [0] hintsAny true false true)
  | 0x73 => m .none .noImm .noImm .noImm .none m0 (mFields r [0] [0] hintsAny true false true)
  | 0x74 => m .reg .noImm .none .none .none (decide (md ≤ 7) && md != 4) (mFields r [0] [0] hintsAny false true true)
  | 0x75 => en .none .none .none m0 true (q0 && decide (eSel r < 16) && decide (eImm r < 64))
  | 0x76 => m .none .noImm .none .none .none m0 (mFields r [0] [1, 2] [0, 1, 2] false false true)
  | 0x77 => m .none .noImm .none .none .none m0 (mFields r [0] [1, 2, 3] [0] false false true)
  | 0x78 => m .none .noImm .none .none .none m0 (mFields r [0] [1, 2, 3] [0] false false true)
  | 0x79 => m .none .noImm .run .noImm .slot m0 (mFields r [0] [0] hintsAny false false true)
  | 0x7A => m .reg .noImm .none .noImm .slot m0 (mFields r [0] [0] hintsAny false false true)
  | 0x7B => m .reg .noImm .none .none .none (decide (md ≤ 7) && md != 4) (mFields r [0] [0] [0] false false false)
  | 0x7C => m .none .noImm .noImm .none .none (decide (md ≤ 3)) (mFields r [0] [0] [0] false false false)
  | 0x7D => m .none .none .none .none .none m0 (mFields r [1, 2, 3] [0, 1, 2, 3] [0] false false false && mOff r == 0)
  | 0x7E => en .none .none .none m0 true (!q0 && s0 && i0)
  | 0x7F => m .reg .noImm .none .noImm .slot m0 (mFields r [0] [0] hintsAny false false true)
  | 0x90 => m .reg .noImm .noImm .none (if 9 ≤ md / 4 ∧ md / 4 ≤ 11 then .slot else .upTo 1) (md / 2 % 2 == 0 && decide (md / 4 ≤ 11)) (mFields r [0, 1, 2, 3] [0, 1, 2, 3] [0] false false true)
  | 0x91 => m .none .noImm .noImm .none (if 9 ≤ md / 4 ∧ md / 4 ≤ 11 then .slot else .upTo 1) (md / 2 % 2 == 0 && decide (md / 4 ≤ 11) && md / 4 != 8) (mFields r [0, 2] [0, 1, 2, 3] [0] false false true)
  | 0x92 => m .reg .noImm .noImm .noImm .none w1 (mFields r [0, 1, 2, 3] [0, 1, 2, 3] [0] false false true)
  | 0x93 => v .none .none .none .none (.upTo 2) m0 false
  | 0xA0 => en .none .noImm .none m0 false (q0 && cl && i0)
  | 0xA1 => en .reg .noImm .none m0 false (q0 && cl && i0)
  | 0xA2 => en .none .noImm .none m0 false (q0 && cl && i0)
  | 0xA3 => en .none .noImm .none m0 false (q0 && cl && i0)
  | 0xA4 => en .none .noImm .none m0 false (q0 && cl && i0)
  | 0xA5 => en .reg .none .none m0 false (q0 && cl && decide (eImm r ≤ 1))
  | 0xB0 => sf .reg .run .run .run (sFields r true true false false true) [sMk r]
  | 0xB1 => sf .reg .run .run .run (sFields r true true true false true) [sMk r]
  | 0xB2 => sf .reg .run .run .none (sFields r true true false false true) [sMk r]
  | 0xB3 => m .none .noImm .run .noImm .slot m0 (mFields r [0] [0] hintsAny false false true)
  | 0xC0 => en .none .noImm .none m0 false (q0 && decide (eSel r < 64) && decide (eImm r < 256))
  | 0xC1 => en .none .noImm (.upTo 3) (decide (md ≤ 1) && (md == 0 || fsn == 0)) false (q0 && s0 && decide (eImm r < 256))
  | 0xC2 => en .none .noImm .none m0 false (q0 && s0 && decide (eImm r < 65536))
  | 0xC3 => en .reg .none (.upTo 4) m0 false (q0 && decide (eSel r < 32) && i0)
  | 0xC4 => en .reg .none .none m0 false (q0 && WellFormed.engstSel (BitVec.ofNat 16 (eSel r)) && i0)
  | 0xE0 => en .reg .none .none m0 false (q0 && decide (eSel r ≤ 7) && i0)
  | 0xE1 => en .none .noImm .none m0 false (q0 && decide (eSel r ≤ 7) && i0)
  | 0xE2 => v .reg .none .none .none .none m0 true
  | 0xE3 => en .reg .none .none w1 false (q0 && WellFormed.perfSel (BitVec.ofNat 16 (eSel r)) && i0)
  | _ => none

/-- A special-operand index listed in 01 R20. -/
def specialOk (i : Nat) : Bool := decide (i ≤ 0xA) || (decide (0x10 ≤ i) && decide (i ≤ 0x13))

def specialOf (i : Nat) : Special :=
  match i with
  | 0 => .zero | 1 => .lane | 2 => .grp | 3 => .team | 4 => .seed | 5 => .gw | 6 => .gn | 7 => .tn
  | 8 => .tx | 9 => .ty | 10 => .tz | 0x10 => .one | 0x11 => .ones | 0x12 => .sign | 0x13 => .lo32 | _ => .zero

/-- The details a source field fails (02 R37). -/
def srcFails (e : Env) (l : Letter) (u : SUse) (k : Bool) (i : BitVec 9) : List Nat :=
  let n := i.toNat
  let special (immOk : Bool) : List Nat := if n = 0x1FF then (if immOk then [] else [7]) else if specialOk n then [] else [7]
  match u with
  | .none => if k || n != 0 then [3] else []
  | .any => if k then special (l == .v) else if n < e.nr then [] else [6]
  | .noImm => if k then special false else if n < e.nr then [] else [6]
  | .immOnly => if k && n == 0x1FF then [] else if k || n < e.nr then [7] else [6, 7]
  | .run => if k then [7] else if n < e.nr then [] else [6]
  | .pair => if k then [7] else if n % 2 = 0 ∧ n + 1 < e.nr then [] else [6]
  | .pred => if k || decide (7 < n) then [6] else []
  | .predSel => if k then [7] else if n ≤ 7 then [] else [6]

/-- The details D fails. -/
def dFails (e : Env) (u : DUse) (d : BitVec 9) : List Nat :=
  match u with
  | .none => if d != 0 then [3] else []
  | .reg => if d.toNat < e.nr then [] else [6]
  | .pair => if d.toNat % 2 = 0 ∧ d.toNat + 1 < e.nr then [] else [6]
  | .pred => if d.toNat / 8 != 0 || d.toNat % 8 == 7 then [8] else []

/-- PAIR with an odd base or a base of kind 1 (01 R22). -/
def pairFails (e : Env) (l : Letter) (r : Raw) : List Nat :=
  if l == .m && mPair r == 1 then
    if r.ak then [7] else if r.a.toNat % 2 = 0 ∧ r.a.toNat + 1 < e.nr then [] else [6]
  else []

/-- More than one source field of index 0x1FF (01 R21). -/
def immCount (r : Raw) : Nat :=
  (if r.ak && r.a == 0x1FF then 1 else 0) + (if r.bk && r.b == 0x1FF then 1 else 0)
    + (if r.ck && r.c == 0x1FF then 1 else 0)

/-- RT names a field that is not used (01 R31). -/
def rtBad (u : Usage) (r : Raw) : Bool :=
  match r.rt.toNat with
  | 1 => u.a == .none
  | 2 => u.b == .none
  | 3 => u.c == .none
  | _ => false

/-- Every detail code the word fails (02 R37). -/
def failures (e : Env) (r : Raw) : List Nat :=
  if r.op == 0 then [1]
  else match usage e r with
    | none => [2]
    | some u =>
      dFails e u.d r.d ++ srcFails e u.letter u.a r.ak r.a ++ srcFails e u.letter u.b r.bk r.b
        ++ srcFails e u.letter u.c r.ck r.c
        ++ (match u.fs with
          | .none => if r.fs != 0 then [3] else []
          | .slot => []
          | .upTo n => if r.fs.toNat < n then [] else [5])
        ++ (if extReserved u.letter r then [4] else [])
        ++ (if u.modOk then [] else [5])
        ++ (if u.xregs.all (fun i => decide (i < e.nr)) then [] else [6])
        ++ pairFails e u.letter r
        ++ (if immCount r ≤ 1 then [] else [7])
        ++ (if (r.pg == 7 && r.pn) || (u.p7 && !(r.pg == 7 && !r.pn)) then [8] else [])
        ++ (if rtBad u r then [9] else [])
        ++ (if u.extOk then [] else [10])

/-- The lowest detail code a word fails, if any (02 R37). -/
def failure (e : Env) (r : Raw) : Option Nat := (failures e r).min?

/-- A source field read as an operand. -/
def srcOf (k : Bool) (i : BitVec 9) (ext : BitVec 64) : Src :=
  if k then if i == 0x1FF then .imm ext else .spec (specialOf i.toNat) else .reg i

def retainOf : Nat → Retain
  | 1 => .a | 2 => .b | 3 => .c | _ => .none

def guardOf (r : Raw) : Guard := { pg := r.pg, pn := r.pn, k := r.k, rt := retainOf r.rt.toNat }

def condOf : Nat → Cond
  | 0 => .eq | 1 => .ne | 2 => .lt | 3 => .le | 4 => .gt | _ => .ge
def fcondOf : Nat → FCond
  | 0 => .eq | 1 => .ne | 2 => .lt | 3 => .le | 4 => .gt | 5 => .ge | _ => .un
def scanOf : Nat → ScanOp
  | 0 => .add | 1 => .and | 2 => .or | 3 => .xor | 4 => .min | 5 => .max | 6 => .umin | 7 => .umax
  | 8 => .fadd | 9 => .fmin | _ => .fmax
def psetOf : Nat → PsetOp
  | 0 => .and | 1 => .or | 2 => .xor | _ => .andn
def getxOf : Nat → GetxKind
  | 0 => .mask | 1 => .path | _ => .depth
def widthOf : Nat → Width
  | 0 => .b8 | 1 => .b16 | 2 => .b32 | 3 => .b64 | 4 => .b128 | 5 => .x8 | 6 => .x16 | _ => .x32
def atomOf : Nat → AtomOp
  | 0 => .add | 1 => .and | 2 => .or | 3 => .xor | 4 => .min | 5 => .max | 6 => .umin | 7 => .umax
  | 8 => .exch | 9 => .fadd | 10 => .fmin | _ => .fmax
def orderOf : Nat → Order
  | 0 => .plain | 1 => .acq | 2 => .rel | _ => .ar
def scopeOf : Nat → Scope
  | 0 => .grp | 1 => .team | 2 => .dev | _ => .sys
def hintOf : Nat → Hint
  | 0 => .dflt | 1 => .strm | 2 => .stky | _ => .byp
def blockOf : Nat → BlockSize
  | 0 => .bk8 | 1 => .bk16 | _ => .bk32
def collOf : Nat → CollOp
  | 0 => .red | 1 => .gath | _ => .bcast
def bankOf : Nat → BankMode
  | 0 => .off | 1 => .cache | 2 => .scratch | _ => .strand

def addrOf (r : Raw) : Addr :=
  { base := srcOf r.ak r.a r.ext, seg := BitVec.ofNat 8 (mSeg r), pair := mPair r == 1, off := BitVec.ofNat 32 (mOff r) }

def pred3 (i : BitVec 9) : PredIx := i.extractLsb' 0 3

/-- The instruction of a word that passed the checks (02 R32). -/
def build (r : Raw) : Instr :=
  let g := guardOf r
  let d := r.d
  let a := srcOf r.ak r.a r.ext
  let b := srcOf r.bk r.b r.ext
  let c := srcOf r.ck r.c r.ext
  let w := r.md.getLsbD 0
  let u := r.md.getLsbD 1
  let fs := r.fs
  let sb := BitVec.ofNat 4 (sSb r)
  let sc := BitVec.ofNat 4 (sSc r)
  let mk := BitVec.ofNat 9 (sMk r)
  let bs := blockOf (sBs r)
  let m := addrOf r
  let h := hintOf (mHint r)
  let off := BitVec.ofNat 32 (bOff r)
  let sp := BitVec.ofNat 3 (xSpan r)
  let limm := BitVec.ofNat 8 (xLimm r)
  let sel4 := BitVec.ofNat 4 (eSel r)
  let sel16 := BitVec.ofNat 16 (eSel r)
  let seg := BitVec.ofNat 8 (eImm r)
  match r.op.toNat with
  | 0x01 => .nop g
  | 0x02 => .bra g off
  | 0x03 => .brc g a off
  | 0x04 => .brd g off (BitVec.ofNat 32 (bRoff r))
  | 0x05 => .join g
  | 0x06 => .brx g a off
  | 0x07 => if w then .callTbl g d a off else .call g d off
  | 0x08 => .ret g a
  | 0x09 => .exit g
  | 0x0A => .trap g (BitVec.ofNat 32 (eImm r))
  | 0x0B => .pmark g r.ext b
  | 0x0C => .prog g
  | 0x0D => .yield g
  | 0x0E => .rte g
  | 0x10 => .iadd g w d a b
  | 0x11 => .isub g w d a b
  | 0x12 => .imul g w d a b
  | 0x13 => .imulh g w u d a b
  | 0x14 => .imad g w d a b c
  | 0x15 => .idiv g w u d a b
  | 0x16 => .irem g w u d a b
  | 0x17 => .imin g w u d a b
  | 0x18 => .imax g w u d a b
  | 0x19 => .iabs g w d a
  | 0x1A => .ineg g w d a
  | 0x1B => .and g w d a b
  | 0x1C => .or g w d a b
  | 0x1D => .xor g w d a b
  | 0x1E => .andn g w d a b
  | 0x1F => .not g w d a
  | 0x20 => .shl g w d a b
  | 0x21 => .shr g w d a b
  | 0x22 => .sar g w d a b
  | 0x23 => .rot g w d a b
  | 0x24 => .clz g w d a
  | 0x25 => .popc g w d a
  | 0x26 => .brev g w d a
  | 0x27 => .bfx g w d a b
  | 0x28 => .bfi g w d a b c
  | 0x29 => .icmp g (condOf fs.toNat) w u (pred3 d) a b
  | 0x2A => .sel g w d a b (pred3 r.c)
  | 0x2B => .mov g w d a
  | 0x2C => .movi g w d r.ext
  | 0x2D => .lea g d a (BitVec.ofNat 32 (mOff r))
  | 0x2E => .iaddc g w d a b c
  | 0x2F => .isat g w u d a b
  | 0x30 => match fs.toNat with
    | 0 => .vote g sp (.every (pred3 d) (pred3 r.a))
    | 1 => .vote g sp (.some (pred3 d) (pred3 r.a))
    | 2 => .vote g sp (.mask d (pred3 r.a))
    | 3 => .vote g sp (.same (pred3 d) a)
    | _ => .vote g sp (.count d (pred3 r.a))
  | 0x31 => match fs.toNat with
    | 0 => .shfl g sp d (.get a b)
    | 1 => .shfl g sp d (.rot a limm)
    | 2 => .shfl g sp d (.slup a limm c)
    | 3 => .shfl g sp d (.sldn a limm c)
    | _ => .shfl g sp d (.xor a limm)
  | 0x32 => .scan g sp (scanOf (xOpx r)) fs w d a
  | 0x33 => .redl g sp (scanOf (xOpx r)) fs d a
  | 0x34 => .pmov g d (pred3 r.a)
  | 0x35 => .pset g (psetOf fs.toNat) (pred3 d) (pred3 r.a) (pred3 r.b)
  | 0x36 => .shape g d a
  | 0x37 => .matz g d
  | 0x38 => .getx g (getxOf fs.toNat) d
  | 0x40 => .fadd g fs d a b
  | 0x41 => .fsub g fs d a b
  | 0x42 => .fmul g fs d a b
  | 0x43 => .ffma g fs d a b c
  | 0x44 => .fmin g fs d a b
  | 0x45 => .fmax g fs d a b
  | 0x46 => .fcmp g (fcondOf r.md.toNat) fs (pred3 d) a b
  | 0x47 => .fclass g fs d a b
  | 0x48 => .fcvt g fs sc d a b c
  | 0x49 => .f2i g fs w u d a
  | 0x4A => .i2f g fs w u d a
  | 0x4B => .frnd g fs d a
  | 0x4C => .fdiv g fs d a b
  | 0x4D => .fsqrt g fs d a
  | 0x4E => .frcp g fs d a
  | 0x4F => .frsq g fs d a
  | 0x50 => .fex2 g fs d a
  | 0x51 => .flg2 g fs d a
  | 0x52 => .fscl g fs d a b
  | 0x53 => .fdot g fs sb sc d a b c
  | 0x54 => .fsum g fs d a
  | 0x55 => .fmtdef g fs a
  | 0x56 => .fmtrd g fs d
  | 0x57 => .fseed g fs a
  | 0x58 => .fstat g w d
  | 0x60 => .scq g fs sb sc bs (if sRe r = 1 then some (BitVec.ofNat 9 (sRes r)) else none) d r.a
  | 0x61 => .scdq g fs sc d a c
  | 0x62 => .scpk g fs sb bs d r.a b
  | 0x63 => .scup g fs (BitVec.ofNat 9 (sRes r)) d a c
  | 0x64 => .bscl g fs sb sc d a b
  | 0x70 => .ld g (widthOf r.md.toNat) (orderOf (mOrd r)) (scopeOf (mScope r)) h d m
  | 0x71 => .st g (widthOf r.md.toNat) (orderOf (mOrd r)) (scopeOf (mScope r)) h m b
  | 0x72 => .ldp g w (BitVec.ofNat 6 (mPw r)) h d m c
  | 0x73 => .stp g (BitVec.ofNat 6 (mPw r)) h m b c
  | 0x74 => .ldi g (widthOf r.md.toNat) (BitVec.ofNat 4 (mAc r)) h d m
  | 0x75 => .waitac g sel4 (BitVec.ofNat 6 (eImm r))
  | 0x76 => .pref g (scopeOf (mScope r)) h m
  | 0x77 => .cinv g (scopeOf (mScope r)) m
  | 0x78 => .cwb g (scopeOf (mScope r)) m
  | 0x79 => .stz g fs h m r.b c
  | 0x7A => .ldz g fs h d m c
  | 0x7B => .ldq g (widthOf r.md.toNat) d a (BitVec.ofNat 32 (mOff r))
  | 0x7C => .stq g (widthOf r.md.toNat) a (BitVec.ofNat 32 (mOff r)) b
  | 0x7D => .fence g (orderOf (mOrd r)) (scopeOf (mScope r))
  | 0x7E => .qfence g (BitVec.ofNat 8 (eQmask r))
  | 0x7F => .ldfr g fs h d m c
  | 0x90 => .atom g (atomOf (r.md.toNat / 4)) w fs (orderOf (mOrd r)) (scopeOf (mScope r)) d m b
  | 0x91 => .red g (atomOf (r.md.toNat / 4)) w fs (orderOf (mOrd r)) (scopeOf (mScope r)) m b
  | 0x92 => .acas g w (orderOf (mOrd r)) (scopeOf (mScope r)) d m b c
  | 0x93 => .bead g (fs.toNat == 1)
  | 0xA0 => .clinit g sel4 a
  | 0xA1 => .clarr g d sel4 a
  | 0xA2 => .clwait g sel4 a
  | 0xA3 => .clsync g sel4 a
  | 0xA4 => .clexp g sel4 a
  | 0xA5 => .clrd g d sel4 (eImm r == 1)
  | 0xB0 => .mma g fs sb sc d r.a r.b r.c mk
  | 0xB1 => .mmas g fs sb sc bs d r.a r.b r.c mk
  | 0xB2 => .mmaz g fs sb sc d r.a r.b mk
  | 0xB3 => .stfr g fs h m r.b c
  | 0xC0 => .tmpl g (BitVec.ofNat 6 (eSel r)) seg a
  | 0xC1 => .coll g (collOf fs.toNat) w seg a
  | 0xC2 => .launch g seg (BitVec.ofNat 8 (eImm r / 256)) a
  | 0xC3 => .bankm g (bankOf fs.toNat) d (BitVec.ofNat 5 (eSel r))
  | 0xC4 => .engst g d sel16
  | 0xE0 => .ctlr g d sel16
  | 0xE1 => .ctlw g sel16 a
  | 0xE2 => .rdcyc g d
  | 0xE3 => .perf g w d sel16
  | _ => .illegalWord 2

end Decode

/-- The instruction of the fields under the launch limits: `illegalWord` with the detail of a failed check (02 R37). -/
def decodeRaw (e : Env) (r : Raw) : Instr :=
  match Decode.failure e r with
  | some n => .illegalWord (BitVec.ofNat 8 n)
  | none => Decode.build r

/-- The instruction of a word (02 R36, R37). Total: a word that fails a check decodes to `illegalWord`. -/
def decode (e : Env) (w : BitVec 128) : Instr := decodeRaw e (unpack w)

/-- A word from 16 bytes, least significant first (01 R18). -/
def wordOfBytes (bs : List Byte) : BitVec 128 :=
  BitVec.ofNat 128 (bs.foldr (fun b acc => b.toNat + 256 * acc) 0)

/-- The bytes of a word, least significant first (01 R18). -/
def bytesOfWord (w : BitVec 128) : List Byte := (List.range 16).map (fun i => BitVec.ofNat 8 (w.toNat / 2 ^ (8 * i)))

/-- Decoding of a byte sequence: a word and the bytes after it, or none when fewer than 16 bytes stand there. -/
def decodeBytes (e : Env) (bs : List Byte) : Option (Instr × List Byte) :=
  if bs.length < 16 then none else some (decode e (wordOfBytes (bs.take 16)), bs.drop 16)

/-- The widest launch limits. -/
def Env.widest : Env := { nr := 512, width := 64, clasps := 16 }

/-- What the decoder reads from the bits of an instruction of the opcode table, under the widest launch limits. -/
def decodeTableWord (nbits w : Nat) : Option Instr :=
  if nbits ≤ 128 then some (decode .widest (BitVec.ofNat 128 (w % 2 ^ nbits))) else none

namespace Encode

def rt : Retain → BitVec 2
  | .none => 0 | .a => 1 | .b => 2 | .c => 3

def special : Special → BitVec 9
  | .zero => 0 | .lane => 1 | .grp => 2 | .team => 3 | .seed => 4 | .gw => 5 | .gn => 6 | .tn => 7
  | .tx => 8 | .ty => 9 | .tz => 10 | .one => 0x10 | .ones => 0x11 | .sign => 0x12 | .lo32 => 0x13

/-- Kind and index of a source field (01 R20, R21). -/
def src : Src → Bool × BitVec 9
  | .reg i => (false, i)
  | .spec x => (true, special x)
  | .imm _ => (true, 0x1FF)

/-- The immediate of a word with these sources, or zero. -/
def immOf : List Src → BitVec 64
  | [] => 0
  | .imm v :: _ => v
  | _ :: xs => immOf xs

def cond : Cond → BitVec 4
  | .eq => 0 | .ne => 1 | .lt => 2 | .le => 3 | .gt => 4 | .ge => 5
def fcond : FCond → BitVec 6
  | .eq => 0 | .ne => 1 | .lt => 2 | .le => 3 | .gt => 4 | .ge => 5 | .un => 6
def scan : ScanOp → BitVec 4
  | .add => 0 | .and => 1 | .or => 2 | .xor => 3 | .min => 4 | .max => 5 | .umin => 6 | .umax => 7
  | .fadd => 8 | .fmin => 9 | .fmax => 10
def pset : PsetOp → BitVec 4
  | .and => 0 | .or => 1 | .xor => 2 | .andn => 3
def getx : GetxKind → BitVec 4
  | .mask => 0 | .path => 1 | .depth => 2
def width : Width → BitVec 6
  | .b8 => 0 | .b16 => 1 | .b32 => 2 | .b64 => 3 | .b128 => 4 | .x8 => 5 | .x16 => 6 | .x32 => 7
def atomOp : AtomOp → BitVec 4
  | .add => 0 | .and => 1 | .or => 2 | .xor => 3 | .min => 4 | .max => 5 | .umin => 6 | .umax => 7
  | .exch => 8 | .fadd => 9 | .fmin => 10 | .fmax => 11
def order : Order → BitVec 2
  | .plain => 0 | .acq => 1 | .rel => 2 | .ar => 3
def scope : Scope → BitVec 2
  | .grp => 0 | .team => 1 | .dev => 2 | .sys => 3
def hint : Hint → BitVec 2
  | .dflt => 0 | .strm => 1 | .stky => 2 | .byp => 3
def block : BlockSize → BitVec 2
  | .bk8 => 0 | .bk16 => 1 | .bk32 => 2
def collOp : CollOp → BitVec 4
  | .red => 0 | .gath => 1 | .bcast => 2
def bank : BankMode → BitVec 4
  | .off => 0 | .cache => 1 | .scratch => 2 | .strand => 3

/-- A word's header from its parts, EXT to be filled in. -/
def hdr (op : BitVec 8) (g : Guard) (fs : BitVec 4) (md : BitVec 6) (d : BitVec 9) (a b c : Bool × BitVec 9)
    (ext : BitVec 64) : Raw :=
  { op := op, fs := fs, k := g.k, pg := g.pg, pn := g.pn, rt := rt g.rt, d := d, ak := a.1, a := a.2, bk := b.1,
    b := b.2, ck := c.1, c := c.2, md := md, ext := ext }

def z : Bool × BitVec 9 := (false, 0)
def lane (i : RegIx) : Bool × BitVec 9 := (false, i)
def prd (p : PredIx) : Bool × BitVec 9 := (false, p.zeroExtend 9)

def wBit (w : Bool) : BitVec 6 := (BitVec.ofBool w).zeroExtend 6
def wuBits (w u : Bool) : BitVec 6 := (BitVec.ofBool u ++ BitVec.ofBool w).zeroExtend 6

/-- Format V and VI words of one, two and three sources. -/
def v1 (op : BitVec 8) (g : Guard) (fs : BitVec 4) (md : BitVec 6) (d : BitVec 9) (a : Src) : Raw :=
  hdr op g fs md d (src a) z z (immOf [a])
def v2 (op : BitVec 8) (g : Guard) (fs : BitVec 4) (md : BitVec 6) (d : BitVec 9) (a b : Src) : Raw :=
  hdr op g fs md d (src a) (src b) z (immOf [a, b])
def v3 (op : BitVec 8) (g : Guard) (fs : BitVec 4) (md : BitVec 6) (d : BitVec 9) (a b c : Src) : Raw :=
  hdr op g fs md d (src a) (src b) (src c) (immOf [a, b, c])
def v0 (op : BitVec 8) (g : Guard) (fs : BitVec 4) (md : BitVec 6) (d : BitVec 9) : Raw := hdr op g fs md d z z z 0

/-- EXT of formats B, X, E, S and M (01 R22 to R26). -/
def extB (off roff : BitVec 32) : BitVec 64 := roff ++ off
def extX (opx : BitVec 4) (limm : BitVec 8) (s : BitVec 3) : BitVec 64 :=
  (0 : BitVec 44) ++ opx ++ limm ++ (0 : BitVec 5) ++ s
def extE (imm : BitVec 32) (q : BitVec 8) (sel : BitVec 16) : BitVec 64 := imm ++ (0 : BitVec 8) ++ q ++ sel
def extS (mk res : BitVec 9) (re : Bool) (bs : BitVec 2) (sc sb : BitVec 4) : BitVec 64 :=
  (0 : BitVec 35) ++ mk ++ res ++ BitVec.ofBool re ++ bs ++ sc ++ sb
def extM (pw : BitVec 6) (ac : BitVec 4) (o sc h : BitVec 2) (pair : Bool) (seg : BitVec 8) (off : BitVec 32) :
    BitVec 64 := (0 : BitVec 7) ++ pw ++ ac ++ o ++ sc ++ h ++ BitVec.ofBool pair ++ seg ++ off

/-- A format M word. -/
def mem (op : BitVec 8) (g : Guard) (fs : BitVec 4) (md : BitVec 6) (d : BitVec 9) (m : Addr) (b c : Bool × BitVec 9)
    (pw : BitVec 6) (ac : BitVec 4) (o sc h : BitVec 2) : Raw :=
  hdr op g fs md d (src m.base) b c (extM pw ac o sc h m.pair m.seg m.off)

/-- The fields of an instruction that is a word; none for a step that is not one. -/
def raw : Instr → Option Raw
  | .nop g => some (v0 0x01 g 0 0 0)
  | .bra g off => some (hdr 0x02 g 0 0 0 z z z (extB off 0))
  | .brc g a off => some (hdr 0x03 g 0 0 0 (src a) z z (extB off 0))
  | .brd g off roff => some (hdr 0x04 g 0 0 0 z z z (extB off roff))
  | .join g => some (v0 0x05 g 0 0 0)
  | .brx g a off => some (hdr 0x06 g 0 0 0 (src a) z z (extB off 0))
  | .call g d off => some (hdr 0x07 g 0 0 d z z z (extB off 0))
  | .callTbl g d a off => some (hdr 0x07 g 0 1 d (src a) z z (extB off 0))
  | .ret g a => some (v1 0x08 g 0 0 0 a)
  | .exit g => some (v0 0x09 g 0 0 0)
  | .trap g code => some (hdr 0x0A g 0 0 0 z z z (extE code 0 0))
  | .pmark g live b => some (hdr 0x0B g 0 0 0 (true, 0x1FF) (src b) z live)
  | .prog g => some (v0 0x0C g 0 0 0)
  | .yield g => some (v0 0x0D g 0 0 0)
  | .rte g => some (v0 0x0E g 0 0 0)
  | .iadd g w d a b => some (v2 0x10 g 0 (wBit w) d a b)
  | .isub g w d a b => some (v2 0x11 g 0 (wBit w) d a b)
  | .imul g w d a b => some (v2 0x12 g 0 (wBit w) d a b)
  | .imulh g w u d a b => some (v2 0x13 g 0 (wuBits w u) d a b)
  | .imad g w d a b c => some (v3 0x14 g 0 (wBit w) d a b c)
  | .idiv g w u d a b => some (v2 0x15 g 0 (wuBits w u) d a b)
  | .irem g w u d a b => some (v2 0x16 g 0 (wuBits w u) d a b)
  | .imin g w u d a b => some (v2 0x17 g 0 (wuBits w u) d a b)
  | .imax g w u d a b => some (v2 0x18 g 0 (wuBits w u) d a b)
  | .iabs g w d a => some (v1 0x19 g 0 (wBit w) d a)
  | .ineg g w d a => some (v1 0x1A g 0 (wBit w) d a)
  | .and g w d a b => some (v2 0x1B g 0 (wBit w) d a b)
  | .or g w d a b => some (v2 0x1C g 0 (wBit w) d a b)
  | .xor g w d a b => some (v2 0x1D g 0 (wBit w) d a b)
  | .andn g w d a b => some (v2 0x1E g 0 (wBit w) d a b)
  | .not g w d a => some (v1 0x1F g 0 (wBit w) d a)
  | .shl g w d a b => some (v2 0x20 g 0 (wBit w) d a b)
  | .shr g w d a b => some (v2 0x21 g 0 (wBit w) d a b)
  | .sar g w d a b => some (v2 0x22 g 0 (wBit w) d a b)
  | .rot g w d a b => some (v2 0x23 g 0 (wBit w) d a b)
  | .clz g w d a => some (v1 0x24 g 0 (wBit w) d a)
  | .popc g w d a => some (v1 0x25 g 0 (wBit w) d a)
  | .brev g w d a => some (v1 0x26 g 0 (wBit w) d a)
  | .bfx g w d a b => some (v2 0x27 g 0 (wBit w) d a b)
  | .bfi g w d a b c => some (v3 0x28 g 0 (wBit w) d a b c)
  | .icmp g cc w u d a b => some (v2 0x29 g (cond cc) (wuBits w u) (d.zeroExtend 9) a b)
  | .sel g w d a b p => some (hdr 0x2A g 0 (wBit w) d (src a) (src b) (prd p) (immOf [a, b]))
  | .mov g w d a => some (v1 0x2B g 0 (wBit w) d a)
  | .movi g w d v => some (v1 0x2C g 0 (wBit w) d (.imm v))
  | .lea g d a off => some (hdr 0x2D g 0 0 d (src a) z z (extM 0 0 0 0 0 false 0 off))
  | .iaddc g w d a b c => some (v3 0x2E g 0 (wBit w) d a b c)
  | .isat g w u d a b => some (v2 0x2F g 0 (wuBits w u) d a b)
  | .vote g s (.every d a) => some (hdr 0x30 g 0 0 (d.zeroExtend 9) (prd a) z z (extX 0 0 s))
  | .vote g s (.some d a) => some (hdr 0x30 g 1 0 (d.zeroExtend 9) (prd a) z z (extX 0 0 s))
  | .vote g s (.mask d a) => some (hdr 0x30 g 2 0 d (prd a) z z (extX 0 0 s))
  | .vote g s (.same d a) => some (hdr 0x30 g 3 0 (d.zeroExtend 9) (src a) z z (extX 0 0 s))
  | .vote g s (.count d a) => some (hdr 0x30 g 4 0 d (prd a) z z (extX 0 0 s))
  | .shfl g s d (.get a b) => some (hdr 0x31 g 0 0 d (src a) (src b) z (extX 0 0 s))
  | .shfl g s d (.rot a n) => some (hdr 0x31 g 1 0 d (src a) z z (extX 0 n s))
  | .shfl g s d (.slup a n c) => some (hdr 0x31 g 2 0 d (src a) z (src c) (extX 0 n s))
  | .shfl g s d (.sldn a n c) => some (hdr 0x31 g 3 0 d (src a) z (src c) (extX 0 n s))
  | .shfl g s d (.xor a n) => some (hdr 0x31 g 4 0 d (src a) z z (extX 0 n s))
  | .scan g s op fs x d a => some (hdr 0x32 g fs (wBit x) d (src a) z z (extX (scan op) 0 s))
  | .redl g s op fs d a => some (hdr 0x33 g fs 0 d (src a) z z (extX (scan op) 0 s))
  | .pmov g d a => some (hdr 0x34 g 0 0 d (prd a) z z 0)
  | .pset g op d a b => some (hdr 0x35 g (pset op) 0 (d.zeroExtend 9) (prd a) (prd b) z 0)
  | .shape g d a => some (v1 0x36 g 0 0 d a)
  | .matz g d => some (v0 0x37 g 0 0 d)
  | .getx g k d => some (v0 0x38 g (getx k) 0 d)
  | .fadd g fs d a b => some (v2 0x40 g fs 0 d a b)
  | .fsub g fs d a b => some (v2 0x41 g fs 0 d a b)
  | .fmul g fs d a b => some (v2 0x42 g fs 0 d a b)
  | .ffma g fs d a b c => some (v3 0x43 g fs 0 d a b c)
  | .fmin g fs d a b => some (v2 0x44 g fs 0 d a b)
  | .fmax g fs d a b => some (v2 0x45 g fs 0 d a b)
  | .fcmp g cc fs d a b => some (v2 0x46 g fs (fcond cc) (d.zeroExtend 9) a b)
  | .fclass g fs d a b => some (v2 0x47 g fs 0 d a b)
  | .fcvt g fs sc d a b c => some (hdr 0x48 g fs 0 d (src a) (src b) (src c) (extS 0 0 false 0 sc 0))
  | .f2i g fs w u d a => some (v1 0x49 g fs (wuBits w u) d a)
  | .i2f g fs w u d a => some (v1 0x4A g fs (wuBits w u) d a)
  | .frnd g fs d a => some (v1 0x4B g fs 0 d a)
  | .fdiv g fs d a b => some (v2 0x4C g fs 0 d a b)
  | .fsqrt g fs d a => some (v1 0x4D g fs 0 d a)
  | .frcp g fs d a => some (v1 0x4E g fs 0 d a)
  | .frsq g fs d a => some (v1 0x4F g fs 0 d a)
  | .fex2 g fs d a => some (v1 0x50 g fs 0 d a)
  | .flg2 g fs d a => some (v1 0x51 g fs 0 d a)
  | .fscl g fs d a b => some (v2 0x52 g fs 0 d a b)
  | .fdot g fs sb sc d a b c => some (hdr 0x53 g fs 0 d (src a) (src b) (src c) (extS 0 0 false 0 sc sb))
  | .fsum g fs d a => some (v1 0x54 g fs 0 d a)
  | .fmtdef g fs a => some (v1 0x55 g fs 0 0 a)
  | .fmtrd g fs d => some (v0 0x56 g fs 0 d)
  | .fseed g fs a => some (v1 0x57 g fs 0 0 a)
  | .fstat g x d => some (v0 0x58 g 0 (wBit x) d)
  | .scq g fs sb sc bs res d a => some (hdr 0x60 g fs 0 d (lane a) z z (extS 0 (res.getD 0) res.isSome (block bs) sc sb))
  | .scdq g fs sc d a c => some (hdr 0x61 g fs 0 d (src a) z (src c) (extS 0 0 false 0 sc 0))
  | .scpk g fs sb bs d a b => some (hdr 0x62 g fs 0 d (lane a) (src b) z (extS 0 0 false (block bs) 0 sb))
  | .scup g fs res d a c => some (hdr 0x63 g fs 0 d (src a) z (src c) (extS 0 res true 0 0 0))
  | .bscl g fs sb sc d a b => some (hdr 0x64 g fs 0 d (src a) (src b) z (extS 0 0 false 0 sc sb))
  | .ld g wd o sc h d m => some (mem 0x70 g 0 (width wd) d m z z 0 0 (order o) (scope sc) (hint h))
  | .st g wd o sc h m b => some (mem 0x71 g 0 (width wd) 0 m (src b) z 0 0 (order o) (scope sc) (hint h))
  | .ldp g x pw h d m c => some (mem 0x72 g 0 (wBit x) d m z (src c) pw 0 0 0 (hint h))
  | .stp g pw h m b c => some (mem 0x73 g 0 0 0 m (src b) (src c) pw 0 0 0 (hint h))
  | .ldi g wd ac h d m => some (mem 0x74 g 0 (width wd) d m z z 0 ac 0 0 (hint h))
  | .waitac g n t => some (hdr 0x75 g 0 0 0 z z z (extE (t.zeroExtend 32) 0 (n.zeroExtend 16)))
  | .pref g sc h m => some (mem 0x76 g 0 0 0 m z z 0 0 0 (scope sc) (hint h))
  | .cinv g sc m => some (mem 0x77 g 0 0 0 m z z 0 0 0 (scope sc) 0)
  | .cwb g sc m => some (mem 0x78 g 0 0 0 m z z 0 0 0 (scope sc) 0)
  | .stz g fs h m b c => some (mem 0x79 g fs 0 0 m (lane b) (src c) 0 0 0 0 (hint h))
  | .ldz g fs h d m c => some (mem 0x7A g fs 0 d m z (src c) 0 0 0 0 (hint h))
  | .ldq g wd d a off => some (hdr 0x7B g 0 (width wd) d (src a) z z (extM 0 0 0 0 0 false 0 off))
  | .stq g wd a off b => some (hdr 0x7C g 0 (width wd) 0 (src a) (src b) z (extM 0 0 0 0 0 false 0 off))
  | .fence g o sc => some (hdr 0x7D g 0 0 0 z z z (extM 0 0 (order o) (scope sc) 0 false 0 0))
  | .qfence g q => some (hdr 0x7E g 0 0 0 z z z (extE 0 q 0))
  | .ldfr g fs h d m c => some (mem 0x7F g fs 0 d m z (src c) 0 0 0 0 (hint h))
  | .atom g op x fs o sc d m b => some (mem 0x90 g fs (atomOp op ++ (0 : BitVec 1) ++ BitVec.ofBool x) d m (src b) z 0 0 (order o) (scope sc) 0)
  | .red g op x fs o sc m b => some (mem 0x91 g fs (atomOp op ++ (0 : BitVec 1) ++ BitVec.ofBool x) 0 m (src b) z 0 0 (order o) (scope sc) 0)
  | .acas g x o sc d m b c => some (mem 0x92 g 0 (wBit x) d m (src b) (src c) 0 0 (order o) (scope sc) 0)
  | .bead g x => some (v0 0x93 g (if x then 1 else 0) 0 0)
  | .clinit g n a => some (hdr 0xA0 g 0 0 0 (src a) z z (extE 0 0 (n.zeroExtend 16)))
  | .clwait g n a => some (hdr 0xA2 g 0 0 0 (src a) z z (extE 0 0 (n.zeroExtend 16)))
  | .clsync g n a => some (hdr 0xA3 g 0 0 0 (src a) z z (extE 0 0 (n.zeroExtend 16)))
  | .clexp g n a => some (hdr 0xA4 g 0 0 0 (src a) z z (extE 0 0 (n.zeroExtend 16)))
  | .clarr g d n a => some (hdr 0xA1 g 0 0 d (src a) z z (extE 0 0 (n.zeroExtend 16)))
  | .clrd g d n x => some (hdr 0xA5 g 0 0 d z z z (extE (if x then 1 else 0) 0 (n.zeroExtend 16)))
  | .mma g fs sb sc d a b c mk => some (hdr 0xB0 g fs 0 d (lane a) (lane b) (lane c) (extS mk 0 false 0 sc sb))
  | .mmas g fs sb sc bs d a b c mk => some (hdr 0xB1 g fs 0 d (lane a) (lane b) (lane c) (extS mk 0 false (block bs) sc sb))
  | .mmaz g fs sb sc d a b mk => some (hdr 0xB2 g fs 0 d (lane a) (lane b) z (extS mk 0 false 0 sc sb))
  | .stfr g fs h m b c => some (mem 0xB3 g fs 0 0 m (lane b) (src c) 0 0 0 0 (hint h))
  | .tmpl g t seg a => some (hdr 0xC0 g 0 0 0 (src a) z z (extE (seg.zeroExtend 32) 0 (t.zeroExtend 16)))
  | .coll g op x seg a => some (hdr 0xC1 g (collOp op) (wBit x) 0 (src a) z z (extE (seg.zeroExtend 32) 0 0))
  | .launch g seg q a => some (hdr 0xC2 g 0 0 0 (src a) z z (extE ((q ++ seg).zeroExtend 32) 0 0))
  | .bankm g mode d b => some (hdr 0xC3 g (bank mode) 0 d z z z (extE 0 0 (b.zeroExtend 16)))
  | .engst g d s => some (hdr 0xC4 g 0 0 d z z z (extE 0 0 s))
  | .ctlr g d s => some (hdr 0xE0 g 0 0 d z z z (extE 0 0 s))
  | .ctlw g s a => some (hdr 0xE1 g 0 0 0 (src a) z z (extE 0 0 s))
  | .rdcyc g d => some (v0 0xE2 g 0 0 d)
  | .perf g x d s => some (hdr 0xE3 g 0 (wBit x) d z z z (extE 0 0 s))
  | _ => none

end Encode

/-- The word of an instruction, where it is one (01 R18). -/
def encode (i : Instr) : Option (BitVec 128) := (Encode.raw i).map pack

end Sys2Proof
end

