-- ==== Sys2Proof/Machine/Exact.lean ====
section
/-! DEFINITION. Exact values before rounding (04 R75, R76, R79, R86): what Decode gives and what Round takes. A value
that need not be rational is held by what it is (a root, a power of two, a logarithm) and compared exactly with
rationals. -/

namespace Sys2Proof.Machine

/-- An exact value: `rat` holds a nonzero rational; the last three hold the argument of √, of 2^ and of log2. -/
inductive Num
  | nan
  | inf (neg : Bool)
  | zero (neg : Bool)
  | rat (q : Rat)
  | sqrt (q : Rat)
  | exp2 (q : Rat)
  | log2 (q : Rat)
  deriving DecidableEq, Repr

/-- 2^e. -/
def pow2 (e : Int) : Rat := if 0 ≤ e then ((2 ^ e.toNat : Nat) : Rat) else mkRat 1 (2 ^ (-e).toNat)

/-- ⌊log2 |q|⌋ of a nonzero rational. -/
def floorLog2 (q : Rat) : Int :=
  let e : Int := (Nat.log2 q.num.natAbs : Int) - (Nat.log2 q.den : Int)
  if |q| < pow2 e then e - 1 else e

/-- A rational as a value; zero is +0. -/
def Num.ofRat (q : Rat) : Num := if q = 0 then .zero false else .rat q

/-- Bits of the enclosure that `cmpLog2Loop` squares. -/
def logBits : Nat := 1024

/-- Compares log2 m with y, both in [0, 1), by the binary digits of each: squaring m doubles its logarithm. m lies
between lo and hi over 2^logBits. None where the enclosure cannot tell or the fuel ends. -/
def cmpLog2Loop : Nat → Nat → Nat → Rat → Option Ordering
  | 0, _, _, _ => none
  | n + 1, lo, hi, y =>
    if y = 0 ∧ 2 ^ logBits < lo then some .gt
    else
      let lo2 := lo * lo / 2 ^ logBits
      let hi2 := hi * hi / 2 ^ logBits + 1
      if 2 ^ (logBits + 1) ≤ lo2 then
        if 1 ≤ 2 * y then cmpLog2Loop n (lo2 / 2) (hi2 / 2 + 1) (2 * y - 1) else some .gt
      else if hi2 < 2 ^ (logBits + 1) then
        if 1 ≤ 2 * y then some .lt else cmpLog2Loop n lo2 hi2 (2 * y)
      else none

/-- Compares log2 x with y for x > 0, exactly: with y = a / b, x^b against 2^a where the digits do not tell. -/
def cmpLog2 (x y : Rat) : Ordering :=
  let e := floorLog2 x
  let m := x / pow2 e
  let y' := y - e
  if y' < 0 then .gt
  else if m = 1 then compare 0 y'
  else if 1 ≤ y' then .lt
  else
    let lo := (m * pow2 logBits).floor.toNat
    match cmpLog2Loop 768 lo (lo + 1) y' with
    | some o => o
    | none => compare (m ^ y'.den) (pow2 y'.num)

/-- Compares a value that is no NaN with a rational. -/
def Num.cmp : Num → Rat → Ordering
  | .nan, _ => .eq
  | .inf neg, _ => if neg then .lt else .gt
  | .zero _, r => compare 0 r
  | .rat q, r => compare q r
  | .sqrt q, r => if r < 0 then .gt else compare q (r * r)
  | .exp2 q, r => if r ≤ 0 then .gt else (cmpLog2 r q).swap
  | .log2 q, r => cmpLog2 q r

def Num.ltRat (x : Num) (r : Rat) : Bool := x.cmp r == .lt
def Num.leRat (x : Num) (r : Rat) : Bool := x.cmp r != .gt
def Num.gtRat (x : Num) (r : Rat) : Bool := x.cmp r == .gt
def Num.geRat (x : Num) (r : Rat) : Bool := x.cmp r != .lt

/-- Whether |x| > r, for r ≥ 0. -/
def Num.absGt (x : Num) (r : Rat) : Bool := x.gtRat r || x.ltRat (-r)

/-- Whether |x| < r, for r > 0. -/
def Num.absLt (x : Num) (r : Rat) : Bool := x.ltRat r && x.gtRat (-r)

/-- The sign of a value; −0 is negative. -/
def Num.neg : Num → Bool
  | .nan => false
  | .inf n => n
  | .zero n => n
  | x => x.ltRat 0

/-- The largest k from lo to lo + 2^n − 1 with p k, for a p that holds at lo and, once false, stays false. -/
def bisect (p : Int → Bool) (lo : Int) : Nat → Int
  | 0 => lo
  | n + 1 => if p (lo + (2 ^ n : Nat)) then bisect p (lo + (2 ^ n : Nat)) n else bisect p lo n

/-- ⌊log2 |x|⌋ of a finite nonzero value. -/
def Num.floorLog2Abs : Num → Int
  | .rat q => floorLog2 q
  | .sqrt q => floorLog2 q / 2
  | .exp2 q => q.floor
  | x => bisect (fun e => !x.absLt (pow2 e)) (-8192) 14

/-- ⌊x / g⌋ of a finite value, for g > 0. -/
def Num.floorDiv (x : Num) (g : Rat) : Int :=
  match x with
  | .nan | .inf _ | .zero _ => 0
  | .rat q => (q / g).floor
  | _ =>
    let n := (x.floorLog2Abs - floorLog2 g + 2).toNat
    bisect (fun k => x.geRat (k * g)) (-(2 ^ n : Nat)) (n + 1)

/-- The order of two decoded values that are no NaN; −0 below +0 where `signed` is set (04 R86, R87). -/
def Num.lt (signed : Bool) (x y : Num) : Bool :=
  match x, y with
  | .inf a, .inf b => a && !b
  | .inf a, _ => a
  | _, .inf b => !b
  | .zero a, .zero b => signed && a && !b
  | x, .zero _ => x.ltRat 0
  | x, .rat q => x.ltRat q
  | _, _ => false

/-- −x (04 R86). -/
def Num.negate : Num → Num
  | .inf n => .inf (!n)
  | .zero n => .zero (!n)
  | .rat q => .rat (-q)
  | x => x

/-- The value as a rational, for zeros and rationals. -/
def Num.toRat : Num → Rat
  | .rat q => q
  | _ => 0

/-- A sum of two decoded values rounded in a slot: an exact zero of opposite signs is +0, or −0 under toward −∞. The
flag says that the sum is invalid: +∞ and −∞ (04 R79). -/
def Num.add (down : Bool) : Num → Num → Num × Bool
  | .nan, _ => (.nan, false)
  | _, .nan => (.nan, false)
  | .inf a, .inf b => if a = b then (.inf a, false) else (.nan, true)
  | .inf a, _ => (.inf a, false)
  | _, .inf b => (.inf b, false)
  | .zero a, .zero b => (.zero (if a = b then a else down), false)
  | .zero _, y => (y, false)
  | x, .zero _ => (x, false)
  | x, y => (if x.toRat + y.toRat = 0 then .zero down else .rat (x.toRat + y.toRat), false)

/-- A product; invalid for 0 × ∞ (04 R79). -/
def Num.mul : Num → Num → Num × Bool
  | .nan, _ => (.nan, false)
  | _, .nan => (.nan, false)
  | .inf _, .zero _ => (.nan, true)
  | .zero _, .inf _ => (.nan, true)
  | .inf a, y => (.inf (a != y.neg), false)
  | x, .inf b => (.inf (x.neg != b), false)
  | .zero a, y => (.zero (a != y.neg), false)
  | x, .zero b => (.zero (x.neg != b), false)
  | x, y => (.rat (x.toRat * y.toRat), false)

/-- A quotient; invalid for 0/0 and ∞/∞; a nonzero value over ±0 is ±∞ (04 R79). -/
def Num.div : Num → Num → Num × Bool
  | .nan, _ => (.nan, false)
  | _, .nan => (.nan, false)
  | .inf _, .inf _ => (.nan, true)
  | .zero _, .zero _ => (.nan, true)
  | .inf a, y => (.inf (a != y.neg), false)
  | x, .inf b => (.zero (x.neg != b), false)
  | .zero a, y => (.zero (a != y.neg), false)
  | x, .zero b => (.inf (x.neg != b), false)
  | x, y => (.rat (x.toRat / y.toRat), false)

/-- √x; √(−0) is −0 (04 R79). -/
def Num.root : Num → Num × Bool
  | .inf false => (.inf false, false)
  | .inf true => (.nan, true)
  | .zero n => (.zero n, false)
  | .rat q => if q < 0 then (.nan, true) else (.sqrt q, false)
  | _ => (.nan, false)

/-- 1/√x; of ±0 it is ±∞ (04 R79). -/
def Num.rroot : Num → Num × Bool
  | .inf false => (.zero false, false)
  | .inf true => (.nan, true)
  | .zero n => (.inf n, false)
  | .rat q => if q < 0 then (.nan, true) else (.sqrt (1 / q), false)
  | _ => (.nan, false)

/-- Beyond ±2^14 an exponent rounds in every format as ±2^14 does: far past every largest or smallest value. -/
def clampExp (b : Int) : Int := max (-16384) (min 16384 b)

/-- 2^x (04 R86). -/
def Num.power : Num → Num × Bool
  | .inf n => (if n then .zero false else .inf false, false)
  | .zero _ => (.rat 1, false)
  | .rat q =>
    if q.den = 1 ∨ q ≤ -16384 ∨ 16384 ≤ q then (.rat (pow2 (clampExp q.floor)), false) else (.exp2 q, false)
  | _ => (.nan, false)

/-- log2 x; of ±0 it is −∞ (04 R79, R86). -/
def Num.logarithm : Num → Num × Bool
  | .inf false => (.inf false, false)
  | .inf true => (.nan, true)
  | .zero _ => (.inf true, false)
  | .rat q =>
    if q < 0 then (.nan, true)
    else if q = pow2 (floorLog2 q) then (Num.ofRat (floorLog2 q), false) else (.log2 q, false)
  | _ => (.nan, false)

end Sys2Proof.Machine
end

