-- ==== Sys2Proof/Config.lean ====
section
/-! DEFINITION. What an AX-4192 fixes within a range the manual gives (00 R9), and the free values: constants
without a body, so that no proof can see them (log entries 4 to 7, 25 to 28). -/

namespace Sys2Proof.Config

/-- Raw choice behind each implementation-chosen capacity; see `capacity`. -/
opaque rawCapacity : Nat → Nat

/-- The capacity chosen from lo to hi: never outside the range of its rule (00 R9). -/
def capacity (which lo hi : Nat) : Nat := lo + rawCapacity which % (hi + 1 - lo)

/-- Whether `used` fills the capacity; below `lo` the answer does not depend on the choice. -/
def atCapacity (which lo hi used : Nat) : Bool :=
  decide (lo ≤ used) && decide (capacity which lo hi ≤ used)

/-- 05 R130: contribution buffer, 256 to 1024 entries. -/
def contribFull (used : Nat) : Bool := atCapacity 0 256 1024 used
/-- 07 R170: pending copies of a queue, 32 to 128. -/
def copyQueueOver (used : Nat) : Bool := decide (32 < used) && decide (capacity 1 32 128 < used)
/-- 07 R178: device-launch buffer, 16 to 64 records. -/
def launchBufferFull (used : Nat) : Bool := atCapacity 2 16 64 used
/-- 07 R175: unfinished collectives of a context, 64 to 256. -/
def collsFull (used : Nat) : Bool := atCapacity 3 64 256 used
/-- 15 R332: coalescing keys of a die or the hub, 256 to 4096. -/
def keysFull (used : Nat) : Bool := atCapacity 4 256 4096 used
/-- 14 R303: floor table, 8192 to 32,768 entries. -/
def floorsFull (used : Nat) : Bool := atCapacity 5 8192 32768 used
/-- 14 R300: outstanding non-idempotent requests of a device, 4096 to 65,536. -/
def remotesFull (used : Nat) : Bool := atCapacity 6 4096 65536 used
/-- 16 R340: address translation cache, 512 to 4096 entries. -/
def atcSize : Nat := capacity 7 512 4096
/-- 08 R190: entries of the divergence stack that a core holds on chip, 2 to 8. -/
def stackOnChip : Nat := capacity 9 2 8
/-- 15 R325: the die's L2 TLB, 8192 to 32,768 entries. -/
def l2TlbSize : Nat := capacity 8 8192 32768

/-- Free value: arithmetic cycles that pass beyond one at the n-th step (log entry 5). -/
opaque extraCycles : Nat → Nat

/-- Free value: a byte the manual leaves open (log entry 4). -/
opaque freeByte : Nat → Byte

/-- Free values: whether an image's ECDSA and LMS signatures verify, and its security version (16 R348; log entry 25). -/
opaque ecdsaOk : List Byte → Bool
opaque lmsOk : List Byte → Bool
opaque imageVersion : List Byte → Nat
/-- Free value: the image the flash holds as the machine was made (16 R348). -/
opaque flashImage : List Byte
/-- Free value: whether the n-th step's read of the flash fails (16 R348). -/
opaque flashFails : Nat → Bool
/-- Free value: whether the activation count read at the n-th step fails its parity (16 R352; log entry 40). -/
opaque parityFails : Nat → Bool

/-- Free values: what SPDM 1.3 puts into a response beside what 16 R347 names, for a request at the n-th step; and the
bytes of its ECDSA and LMS signatures over a transcript (16 R347; log entry 26). -/
opaque spdmFields : List Byte → Nat → List Byte
opaque ecdsaByte : List Byte → Nat → Byte
opaque lmsByte : List Byte → Nat → Byte
/-- Free values: the measurement of the ROM, of a firmware image, of the fuses with their security version, and of a
spare map (16 R347; log entry 26). -/
opaque romMeasure : List Byte
opaque imageMeasure : List Byte → List Byte
opaque fuseMeasure : Nat → List Byte
opaque spareMeasure : List (List Nat) → List Byte

/-- Free values: whether the units of a KIND 3 or 4 spare command exist, and whether a spare is left for them when so
many are in use (16 R353; log entry 75). -/
opaque spareUnit : Nat → Nat → Nat → Nat → Bool
opaque spareLeft : Nat → Nat → Nat → Nat → Nat → Bool

/-- Free value behind the FDIV limit of 16 R349. -/
opaque rawFdiv : Nat → Nat
/-- The highest FDIV an island takes at VSEL: monotonic in VSEL (16 R349; log entry 27). -/
def fdivLimit : Nat → Nat
  | 0 => rawFdiv 0 % 16
  | v + 1 => fdivLimit v + rawFdiv (v + 1)

/-- Free value: whether a write to another frame sets the filter entry of `src` (15 R338; log entry 28). -/
opaque filterAlias : Nat → Nat → Bool

/-- Free value: the page that the host's translation of a bus page gives, where the translation cache does not hold it
(16 R340; log entry 66). -/
opaque hostPage : Nat → Nat

/-- Free value: the port that carries messages to a device (14 R293; log entry 68). -/
opaque rawPort : Nat → Nat

/-- Free value: the L2 slice of its die that is home to a line (12 R248; log entry 37). -/
opaque rawSlice : Nat → Nat
/-- Free value: the slice that holds a reduction slot (14 R303; log entry 37). -/
opaque rawSlotSlice : Nat → Nat

/-- Free value: a lane of a register that scup names both for codes and for scales (06 R148; log entry 61); the first
argument lists the team, the group, the word's address and the lanes of the sectors that it unpacks, so that runs that
correspond agree on it (11 R233). -/
opaque rawTwice : List Nat → Nat → Nat

end Sys2Proof.Config
end

