-- ==== Sys2Proof/Machine/State.lean ====
section
/-! DEFINITION. The state of one AX-4192 as plain data, and the state after reset. Tables keyed by number hold only
entries that differ from the table's default (see Machine/Store.lean). -/

namespace Sys2Proof.Machine

/-- Why the machine stops. -/
inductive Fault
  /-- Raised by the save engine, by trap entry and by `rte` when a context area (08 R198, 16 R344) reaches a device
  physical address outside tiers 0 and 1; the manual says what the areas must be and nothing of this. Safe. -/
  | contextAreaOutsideMemory
  deriving DecidableEq, Repr

/-- Why a step has no meaning. -/
inductive Refusal
  /-- An instruction whose meaning is not written yet. Safe. -/
  | notModelled (mnemonic : String)
  deriving DecidableEq, Repr

/-- A lane register with its shape tag (08 R192). -/
inductive RegVal
  | unwritten
  | uniform (u : Word)
  | affine (base stride : Word)
  | general (xs : List Word)
  deriving DecidableEq, Repr

/-- The four sticky counters of 04 R81. -/
structure Counts where
  inv : BitVec 16
  nanl : BitVec 16
  flush : BitVec 16
  sat : BitVec 16
  deriving DecidableEq, Repr

/-- The wait half of clsync (05 R139). -/
structure ClsyncWait where
  clasp : BitVec 4
  phase : Bool
  deriving DecidableEq, Repr

/-- How a read of a peer sector ended: its bytes, indeterminate (14 R306), or poisoned (14 R304). -/
inductive FillRes
  | bytes (bs : List Byte)
  /-- with the DETAIL of trap 0x0D -/
  | failed (detail : BitVec 16)
  | poisoned (bs : List Byte)
  deriving DecidableEq, Repr

/-- A path in a path slot (03 R51, 08 R201). -/
structure Path where
  pc : Word
  mask : Word
  /-- the RECONVERGE entry the path must meet (JX), by identity -/
  jx : Option Nat
  /-- parked by K until the slot's outstanding results are zero (01 R28) -/
  park : Bool
  /-- the implicit park of this word is already counted in HAZPARK (01 R29) -/
  held : Bool
  /-- the capture wait of this word is already counted in CAPPARK (06 R161) -/
  capHeld : Bool
  /-- its word waited or was held when it was last tried (05 R139, 08 R189) -/
  waiting : Bool
  cwait : Option ClsyncWait
  /-- the clasp and the phase whose overflow is not checked again (05 R139; log entry 20) -/
  seenOver : Option (BitVec 4 × Nat)
  /-- deferred by yield: the path slots that still have to get their opportunity, and the issue clocks left (03 R61) -/
  deferral : Option (List (GroupId × Nat) × Nat)
  /-- parked at a pmark: its bitmap and live scratch range (03 R60) -/
  pmark : Option (Word × BitVec 32)
  /-- the operand buffer: the retained register and its value as read (01 R31) -/
  retained : Option (Nat × RegVal)
  /-- what reads of peer sectors for the waiting word gave (log entry 7) -/
  fills : List (Nat × FillRes)
  /-- rounds of write-backs the waiting word's release has started (05 R123) -/
  released : Nat
  /-- requests the waiting word's release waits for (14 R315) -/
  waits : List Nat
  /-- parked on a recoverable fault of this path's word (05 R102); released by REPLAY-ALL and FAULT-ABORT -/
  onFault : Bool
  /-- that fault was found by the fetch of the word -/
  onFetch : Bool
  /-- waits for the bead (11 R242) -/
  onBead : Bool
  /-- the serial of an acquiring atomic that went to a peer: the acquire comes after its reading half, before
  the path's next word (05 R128) -/
  acquiring : Option Nat
  /-- the probe that parked treats a recoverable fault as unrecoverable when it runs again (15 R335) -/
  abortNext : Bool
  deriving DecidableEq, Repr

/-- An entry of the divergence stack (03 R51). -/
inductive Entry
  | path (pc mask : Word) (jx : Option Nat)
  | reconv (id : Nat) (rpc expect arrived : Word) (parent : Option Nat)
  deriving DecidableEq, Repr

/-- A trap with the fields its frame carries (07 R182, R183). -/
structure TrapInfo where
  code : BitVec 8
  detail : BitVec 16
  lane : BitVec 16
  prec : Bool
  pc : Word
  rpc : Word
  addr : Word
  aseg : BitVec 8
  mask : Word
  info : Word
  slot : Nat
  deriving DecidableEq, Repr

/-- What kind of result is in flight (01, the park marker). -/
inductive FlightKind
  | alu | load | ldi (ac : BitVec 4) | atom | matrix
  deriving DecidableEq, Repr

/-- A register write a result in flight will make: the lanes of `mask` take the lanes of `val`; `run` marks a member
of a run. -/
structure RegWrite where
  reg : Nat
  mask : Word
  val : RegVal
  run : Bool
  deriving DecidableEq, Repr

/-- The C operand of a matrix instruction: none, its registers, or the D of an earlier one (06 R162). -/
inductive MatrixC
  | absent
  | regs (xs : List RegVal)
  | awaits (serial : Nat)
  deriving DecidableEq, Repr

/-- A matrix instruction as issued (06 R150 to R161): definitions, shape, and the runs it captured. -/
structure MatrixJob where
  fa : Word
  fb : Word
  fc : Word
  /-- definition of the scale slot, and B; 0 for both without scales -/
  fs : Word
  block : Nat
  m : Nat
  n : Nat
  k : Nat
  w : Nat
  a : List RegVal
  b : List RegVal
  c : MatrixC
  d : Nat
  gd : Nat
  seed : Word
  gid : GroupId
  draw : List (BitVec 32)
  soff : BitVec 32
  deriving DecidableEq, Repr

/-- A result issued and not yet written (01 R28, R29). -/
structure InFlight where
  serial : Nat
  slot : Nat
  kind : FlightKind
  /-- a park marker has covered it (01 R28, R29) -/
  covered : Bool
  dests : List Nat
  writes : List RegWrite
  counts : Counts
  /-- trap 0x12 or 0x0D that becomes due with the reply (05 R103) -/
  due : List TrapInfo
  /-- remote requests whose outcome is still open -/
  waits : List Nat
  /-- what a matrix instruction has captured (06 R161) -/
  job : Option MatrixJob
  /-- quarantine and generation of each access in flight (12 R273) -/
  stamps : List (Nat × BitVec 32)
  deriving DecidableEq, Repr

/-- Whether a group runs, is being saved, saved, halted or retired (08 R188, R204 to R209, 07 R184). -/
inductive GroupPhase
  | absent | running | saved (pmark : Bool) | halted | retired
  deriving DecidableEq, Repr

/-- A group of a placed team. -/
structure Group where
  phase : GroupPhase
  core : CoreId
  gslot : Nat
  width : Nat
  nr : Nat
  budget : Nat
  divdepth : Nat
  regs : List (Nat × RegVal)
  /-- resident general registers (08 R195) -/
  resident : List Nat
  /-- when each register was last used, and the number of the next use (08 R195) -/
  used : List (Nat × Nat)
  useNo : Nat
  preds : List (Nat × Word)
  exited : Word
  p0 : Option Path
  p1 : Option Path
  /-- the path slot that issued last (08 R189) -/
  lastSlot : Nat
  /-- path slots that a word with K has left parked and empty (01 R28) -/
  left : List Nat
  stack : List Entry
  nextId : Nat
  /-- valid definitions of the format slots; 0 is never valid (04 R82, R95) -/
  slots : List (Nat × Word)
  soff : List (Nat × BitVec 32)
  draw : List (Nat × BitVec 32)
  counts : Counts
  /-- events that were added since the trap frame, and since the save image, were written (04 R81, 09 R218) -/
  lateTrap : Counts
  lateSave : Counts
  acs : List (Nat × Nat)
  perf : List (Nat × BitVec 32)
  flight : List InFlight
  trap : Option TrapInfo
  imprecise : List TrapInfo
  inHandler : Bool
  tframe : Word
  /-- what `seenOver` of P0 and of P1 held, while in the handler or saved (05 R139) -/
  overSeen : Option (BitVec 4 × Nat) × Option (BitVec 4 × Nat)
  /-- the frame as the device wrote it, its address and the trapped slot, while in the handler (08 R209) -/
  frame : Option (Nat × List Byte × Nat)
  /-- split-phase loads of the trapped program that are still out while the handler runs (01 R30) -/
  preTrap : List InFlight
  /-- their writes that arrived meanwhile, due at `rte` -/
  late : List RegWrite
  /-- imprecise traps that were pending when the handler started (07 R184) -/
  laterTraps : List TrapInfo
  preqVisible : Bool
  graceOver : Bool
  /-- it was saved in its wait for the bead (11 R242) -/
  beadSave : Bool
  /-- the save image as the device wrote it (08 R209) -/
  image : List Byte
  deriving DecidableEq, Repr

/-- A clasp (05 R133). -/
structure Clasp where
  ovr : Bool
  pers : Bool
  phase : Bool
  count : BitVec 16
  arrived : BitVec 16
  expb : BitVec 32
  bytes : BitVec 32
  /-- the model's own: which phase of the clasp is open, counted (05 R139) -/
  gen : Nat
  deriving DecidableEq, Repr

/-- A pending copy with the template record it took (07 R168 to R171). -/
structure Copy where
  serial : Nat
  gid : GroupId
  tidx : Nat
  words : List Word
  coords : List Nat
  doff : Nat
  /-- source sectors read so far: byte offset of the sector in its segment, and its bytes -/
  got : List (Nat × List Byte)
  wrote : Nat
  reserved : Bool
  faulted : Bool
  abortNext : Bool
  /-- accepted while the destination bank drained (10 R223) -/
  late : Bool
  /-- the engine fault of the copy start, with INFO and ADDR still open (07 R172) -/
  due : TrapInfo
  deriving DecidableEq, Repr

/-- An engine queue of a team (07 R169, R179). -/
structure CopyQueue where
  pending : List Copy
  done : BitVec 32
  deriving DecidableEq, Repr

/-- A buffered floating contribution: the combined operation of 05 R126, R130. -/
structure Contrib where
  gid : GroupId
  seq : Nat
  /-- the word lies in the team's scratch, at offset `ga` -/
  scratch : Bool
  ga : Nat
  /-- stamps of its translation (12 R273) -/
  stamps : List (Nat × BitVec 32)
  b64 : Bool
  fdef : Word
  total : Word
  lanet : Nat
  draw : BitVec 32
  soff : BitVec 32
  /-- the events of its nodes, which count when it is performed (05 R126) -/
  nodes : Counts
  /-- trap 0x12 where its sector proves poisoned (05 R103) -/
  due : TrapInfo
  deriving DecidableEq, Repr

/-- Where a team stands (08 R187, R207, 11 R239). -/
inductive TeamPhase
  | waiting | resident | saved | evicted | exited | retired | halted
  deriving DecidableEq, Repr

/-- A team of an accepted launch. -/
structure Team where
  phase : TeamPhase
  clus : Nat
  core : Nat
  /-- holds a scratch partition in its cluster -/
  part : Bool
  /-- where the partition lies: its units as pairs of bank and unit, in runs of bank, first unit, count (10 R222) -/
  units : List (Nat × Nat × Nat)
  scratch : List Host.Cell
  clasps : List (Nat × Clasp)
  tmpls : List (Nat × List Word)
  queues : List (Nat × CopyQueue)
  contrib : List Contrib
  discarded : BitVec 32
  aged : Bool
  completed : Bool
  deriving DecidableEq, Repr

/-- The fields of a launch record (07 R176). -/
structure LaunchRec where
  kentry : Word
  kseg : BitVec 8
  dseg : BitVec 8
  slotv : BitVec 16
  depc : Bool
  paired : Bool
  pers : Bool
  coop : Bool
  quant : Bool
  det : Bool
  data : Word
  teams : Nat
  vx : Nat
  vy : Nat
  seed : Word
  nr : Nat
  budget : Nat
  divdepth : Nat
  groups : Nat
  width : Nat
  clasps : Nat
  scru : Nat
  qlen : BitVec 32
  task : Word
  tseg : BitVec 8
  cpl : Word
  cseg : BitVec 8
  fmts : List Word
  deriving DecidableEq, Repr

/-- An accepted launch (07 R177, R178, 11 R239, 13 R283, R286). -/
structure Launch where
  ctx : Nat
  queue : Nat
  lrec : LaunchRec
  /-- working counts and successors, with DEPC (07 R177) -/
  npred : List Nat
  succs : List (List Nat)
  retiredCount : Nat
  /-- the team that holds the bead -/
  bead : Nat
  runq : List Nat
  status : Option (BitVec 8)
  killed : Bool
  deriving DecidableEq, Repr

/-- A command made visible to the front end and not yet taken (13 R282). -/
inductive PendingCmd
  | ring (i : BitVec 32)
  | device (ctx : Nat) (bytes : List Byte)
  deriving DecidableEq, Repr

/-- A write of the front end: a completion record with its STATUS and DETAIL, or the value of a SIGNAL. -/
structure FrontWrite where
  ctx : Nat
  addr : Word
  seg : BitVec 8
  data : List Byte
  record : Option (BitVec 8 × BitVec 8)
  deriving DecidableEq, Repr

/-- Where a write of the front end stands. -/
inductive FrontStage
  /-- its release waits for write-backs (14 R315) -/
  | releasing (waits : List Nat)
  /-- its SIGNAL could not be performed, and the host has to clear HALT (log entry 31) -/
  | stopped
  /-- it waits for REPLAY-ALL (15 R328) -/
  | parked
  /-- on its way to the owner of a peer page -/
  | sent (waits : List Nat)
  deriving DecidableEq, Repr

/-- The launch record of a command: at an offset, or copied at issue (07 R178). -/
inductive RecordSource
  | at_ (addr : Word) (seg : BitVec 8)
  | copied (bytes : List Byte)
  deriving DecidableEq, Repr

/-- A command taken and not completed (13 R281). -/
inductive ActiveCmd
  /-- its record or task table is being read; parked until REPLAY-ALL -/
  | accepting (ctx : Nat) (src : RecordSource) (parked : Bool)
  | launch (n : Nat)
  | wait (ctx : Nat) (addr : Word) (seg : BitVec 8) (value : Word) (parked : Bool)
  | write (w : FrontWrite) (stage : FrontStage)
  deriving DecidableEq, Repr

/-- A hardware queue (13 R279, R280, R290). -/
structure Queue where
  ring : BitVec 52
  ptrs : BitVec 58
  ctx : BitVec 8
  log2n : BitVec 4
  prio : BitVec 2
  halt : Bool
  en : Bool
  head : BitVec 32
  tail : BitVec 32
  t1 : BitVec 32
  t2 : BitVec 32
  t3 : BitVec 32
  w : BitVec 32
  stage : BitVec 2
  /-- W as stage 2 was entered: stage 3 comes T3 units later (13 R292) -/
  killedAt : BitVec 32
  visible : List PendingCmd
  active : List (Nat × ActiveCmd)
  /-- the command that started last (13 R282) -/
  last : Option Nat
  deriving DecidableEq, Repr

/-- A serial pair (14 R299). -/
structure SerialPair where
  next : BitVec 32
  low : BitVec 32
  ann : BitVec 32
  expinc : BitVec 16
  /-- hallmarks issued and not retired -/
  openHms : List (BitVec 32)
  /-- a DESTROY has sent its CLOSE (14 R305, 16 R345) -/
  closed : Bool
  deriving DecidableEq, Repr

/-- A context (16 R344, 15 R331, 07 R180). -/
structure Context where
  rqid : BitVec 24
  asid : BitVec 16
  en : Bool
  t4base : BitVec 46
  gcaBase : Word
  gcaStr : Word
  tcaBase : Word
  tcaStr : Word
  trapBase : Word
  trapStr : Word
  grace : BitVec 32
  serbase : BitVec 32
  clmask0 : BitVec 64
  clmask1 : BitVec 32
  out : Bool
  held : Bool
  busy : Bool
  /-- OPC of the context command in progress, 0 for none -/
  cmd : BitVec 8
  fbBase : BitVec 52
  drops : BitVec 32
  vec : BitVec 16
  log2n : BitVec 5
  nen : Bool
  dropped : Bool
  fbEn : Bool
  put : BitVec 32
  get : BitVec 32
  strict : Bool
  trapvec : BitVec 60
  preq : Bool
  pairs : List (Nat × SerialPair)
  /-- no new remote request is sent: step 1 of 14 R312 -/
  quiet : Bool
  /-- the records of the serial pairs in the context save area, while it is switched out (14 R312) -/
  saved : List Byte
  /-- records were posted whose message is not sent yet (15 R333) -/
  notifyDue : Bool
  deriving DecidableEq, Repr

/-- A fault coalescing key (15 R332): table (0-3 die, 4 hub), context, segment, page, ACC. -/
structure FaultKey where
  die : Nat
  ctx : Nat
  seg : BitVec 8
  page : Nat
  acc : BitVec 2
  deriving DecidableEq, Repr

/-- A TLB entry: a leaf (15 R325). -/
structure TlbEntry where
  ctx : Nat
  asid : BitVec 16
  seg : BitVec 8
  base : Nat
  size : Nat
  leaf : BitVec 128
  deriving DecidableEq, Repr

/-- An entry of a core's matrix reservation table (10 R232). -/
structure MatrixEntry where
  gid : GroupId
  serial : Nat
  /-- registers being captured; empty once capture has ended (06 R161) -/
  capture : List Nat
  captured : Bool
  deriving DecidableEq, Repr

/-- A matrix instruction that waits only for an entry (13 R289). -/
structure MatrixWaiter where
  gid : GroupId
  slot : Nat
  pc : Word
  /-- CYC of the first clock in which it waited only for an entry -/
  since : Word
  raised : Bool
  /-- given a freed entry by the arbiter -/
  granted : Bool
  deriving DecidableEq, Repr

/-- A core (07 R181, 10 R232, 13 R287, R292). -/
structure Core where
  fenced : Bool
  ptr : Nat
  /-- path slots tried in the current issue clock (2 × group slot + path slot), and words issued in it on the vector
  ports and on the scalar path (13 R287) -/
  tried : List Nat
  vec : Nat
  scal : Nat
  cyc : Word
  resv : List MatrixEntry
  mwait : List MatrixWaiter
  perf : List (Nat × BitVec 32)
  tlb : List TlbEntry
  deriving DecidableEq, Repr

/-- An entry of a strand: reserved while `data` is none (10 R226). -/
structure StrandEntry where
  owner : Nat
  data : Option (List Byte)
  deriving DecidableEq, Repr

/-- A cluster bank (07 R179, 10 R221). -/
structure Bank where
  mode : BankMode
  target : Option BankMode
  /-- the context bits of the owner field, and its VALID (16 R346) -/
  ownCtx : BitVec 8
  ownValid : Bool
  strand : List StrandEntry
  deriving DecidableEq, Repr

/-- A cached sector: its bytes, which of them it holds, and which were written since it was filled (12 R252). -/
structure Sector where
  bytes : List Byte
  valid : Word
  mask : Word
  /-- one store has written the whole sector since the mask was clear (05 R103) -/
  whole : Bool
  deriving DecidableEq, Repr

/-- A line of a cluster L1: its number, its retention record, and the bank that holds it (05 R114, 10 R224). -/
structure L1Line where
  line : Nat
  hint : Hint
  bank : Nat
  deriving DecidableEq, Repr

/-- A cluster (10 R221 to R228). -/
structure Cluster where
  banks : List (Nat × Bank)
  /-- L1 sectors by sector number (12 R252) -/
  l1 : List (Nat × Sector)
  /-- the L1's lines, the oldest first (05 R114, 10 R224, R225) -/
  lines : List L1Line
  /-- round robin position of the copy engine: the queue served last -/
  rr : Option (TeamId × Nat)
  deriving DecidableEq, Repr

/-- Lanes of a remote atomic: lane, destination value rule (exclusive prefix, if any) and its stochastic key. -/
structure FetchLane where
  lane : Nat
  pre : Option Word
  lanet : Nat
  draw : BitVec 32
  deriving DecidableEq, Repr

/-- What an outstanding remote request was made for (14 R294, R308). -/
inductive Purpose
  | fill (gid : GroupId) (slot : Nat) (sec : Nat)
  | copyRead (tid : TeamId) (q : Nat) (off : Nat)
  | engineRead (n : Nat) (sec : Nat)
  | frontRead (q : Nat) (sec : Nat)
  /-- the read of the WAIT with that identity in a queue (13 R281) -/
  | waitRead (q : Nat) (id : Nat)
  | drainRead (tid : TeamId) (sec : Nat)
  /-- `pref` of a peer line: the cluster whose L1 it names, the sector, and the hints of the L1 and the L2 -/
  | prefetch (clus : Option Nat) (sec : Nat) (h h2 : Hint)
  | writeback (sec : Nat) (who : Option (GroupId × TrapInfo))
  | atomic (gid : GroupId) (serial : Nat) (reg : Option Nat) (op : AtomOp) (b64 : Bool) (fdef : Word)
      (soff : BitVec 32) (lanes : List FetchLane) (counts : Counts) (pc rpc : Word) (addr : Word) (aseg : BitVec 8)
      (mask : Word) (slot lane : Nat)
  | contribution (n : Nat)
  | recordWrite (slot : Nat)
  | slotRead (slot sec : Nat)
  | slotWrite (slot : Nat)
  | dataWrite (n : Nat)
  | store (q : Nat)
  | retire
  | close
  deriving DecidableEq, Repr

/-- An outstanding remote request of this device (14 R306). -/
structure Remote where
  ctx : Nat
  owner : Nat
  sec : Nat
  req : RemoteReq
  /-- EXPINC of each transmission so far -/
  sent : List (BitVec 16)
  retries : Nat
  backoff : Bool
  /-- not yet sent: waits behind an earlier request to its sector (14 R302) -/
  queued : Bool
  purpose : Purpose
  deriving DecidableEq, Repr

/-- What this device has put on the fabric (14 R293): the message, and its bytes, which are the extension's two words
and the data (14 R297, R298). -/
inductive FabMsg
  | req (dst : Nat) (serial : Nat) (m : RemoteReq) (wire : List Byte)
  | resp (dst : Nat) (m : RemoteResp) (wire : List Byte)
  deriving DecidableEq, Repr

/-- A locket entry (14 R303, R304). -/
structure LocketEntry where
  rqid : BitVec 24
  hm : BitVec 32
  kind : BitVec 4
  result : Word
  poisoned : Bool
  slice : Nat
  deriving DecidableEq, Repr

/-- A write that the collective engine still has to make. -/
inductive EngWrite
  /-- bytes of one sector -/
  | store (p : Nat) (bs : List Byte)
  /-- the bits of the masks `ms` in the bytes of a sector, in one piece (12 R250) -/
  | sector (sec : Nat) (bs ms : List Byte)
  /-- a KIND 4 write to a device: what it is, and its data -/
  | send (dst : Nat) (coll : List Word) (bs : List Byte)
  deriving DecidableEq, Repr

/-- A counted contribution (14 R316); `job` names a collective of this device. -/
structure CollPart where
  dev : Nat
  pidx : Nat
  gidx : Nat
  nelem : Nat
  value : Word
  job : Option Nat
  deriving DecidableEq, Repr

/-- Where a reduction slot stands. -/
inductive SlotStage
  | gathering
  /-- DST is being written, or the data of a `.bcast` sent -/
  | storing
  /-- completion records are on their way -/
  | records
  deriving DecidableEq, Repr

/-- A reduction slot of the home (14 R316, R317). -/
structure RedSlot where
  tag : BitVec 32
  /-- the context of the home's own `coll`, once it has been accepted; what the home sends goes out in it -/
  ctx : Nat
  /-- HOME, NPM1, OP, FMT, arr and op code: what contributions must agree on -/
  common : List Word
  tout : BitVec 32
  /-- contributions in order of arrival -/
  got : List CollPart
  stage : SlotStage
  status : BitVec 8
  result : Word
  /-- parked on a recoverable fault of DST (15 R328) -/
  faulted : Bool
  abortNext : Bool
  todo : List EngWrite
  /-- stamps of the translation of the writes (12 R273) -/
  stamps : List (Nat × BitVec 32)
  waits : List Nat
  /-- a data write had no answer -/
  lost : Bool
  /-- writes at DST have begun: the outcome stands -/
  writing : Bool
  /-- records for contributions that came after that -/
  extra : List EngWrite
  deriving DecidableEq, Repr

/-- Data of a `.gath` that the home holds: TAG, sender, PIDX, byte offset, bytes (14 R316). -/
structure GathPiece where
  tag : BitVec 32
  dev : Nat
  pidx : Nat
  off : Nat
  bytes : List Byte
  deriving DecidableEq, Repr

/-- Where an unfinished collective of this device stands. -/
inductive CollPhase
  /-- SRC is not read yet -/
  | posted
  /-- peer sectors of SRC are being read -/
  | reading
  /-- the data of a `.gath` is on its way -/
  | sending
  /-- the contribution is on its way -/
  | sent
  | answered
  /-- the data of a `.bcast` is being written at DST -/
  | storing
  /-- the record's release -/
  | releasing
  /-- the record is being written -/
  | recording
  deriving DecidableEq, Repr

/-- An unfinished collective of this device (07 R173). -/
structure CollJob where
  ctx : Nat
  gid : GroupId
  op : CollOp
  arr : Bool
  desc : List Word
  phase : CollPhase
  /-- parked on a recoverable fault (15 R328) -/
  faulted : Bool
  abortNext : Bool
  /-- the data of a `.bcast`: byte offset and bytes -/
  got : List (Nat × List Byte)
  todo : List EngWrite
  /-- stamps of the translation of the writes (12 R273) -/
  stamps : List (Nat × BitVec 32)
  /-- requests whose outcome is open (14 R316) -/
  waits : List Nat
  /-- its completion record: STATUS, RECV, RESULT -/
  status : BitVec 8
  recv : BitVec 16
  result : Word
  /-- elements of a `.bcast`, as its home gives them -/
  count : Nat
  /-- a request had no answer -/
  lost : Bool
  /-- INCARN of the home's answers to it (14 R318) -/
  inc : Option (BitVec 16)
  deriving DecidableEq, Repr

/-- A frame in quarantine: its number with the tier, and the generation at which it was freed (12 R275). -/
structure Quarantined where
  frame : Nat
  gen : BitVec 32
  deriving DecidableEq, Repr

/-- A quarantine: its generation and frames (12 R273). -/
structure Quarantine where
  gen : BitVec 32
  frames : List Quarantined
  deriving DecidableEq, Repr

/-- A migration in progress (15 R338); `dirty` is the dirty filter's entry. -/
structure Migration where
  ctx : Nat
  seg : BitVec 8
  off : Word
  pte : Nat
  src : Nat
  dst : Nat
  cpl : Word
  tries : Nat
  dirty : Bool
  committed : Bool
  /-- the generation of the source's quarantine at the commit -/
  gen : BitVec 32
  deriving DecidableEq, Repr

/-- A port's repair register and replay buffer (14 R313, R314). -/
structure Port where
  crccnt : BitVec 16
  abthr : BitVec 16
  nthr : BitVec 16
  spok : Bool
  lane : BitVec 2
  req : Bool
  abnd : Bool
  state : BitVec 2
  deriving DecidableEq, Repr

/-- An island (16 R349); `pendV`, `pendF`, `pendS` are the change in progress. -/
structure Island where
  ref : Bool
  chg : Bool
  cur : BitVec 2
  vsel : BitVec 8
  fdiv : BitVec 4
  state : BitVec 2
  deriving DecidableEq, Repr

/-- A spare command in progress (16 R353). -/
structure SpareCmd where
  kind : BitVec 8
  u0 : Nat
  u1 : Nat
  u2 : Nat
  deriving DecidableEq, Repr

/-- The path slot whose word is executed. -/
structure Cur where
  gid : GroupId
  slot : Nat
  deriving DecidableEq, Repr

/-- A move of the machine: a path slot issues, a short-latency result is written, or a step of the table comes about. -/
inductive Move
  | issue (gid : GroupId) (slot : Nat)
  | settle (gid : GroupId) (serial : Nat)
  | ev (i : Instr)
  /-- symbols of a stored sector go wrong (16 R351, log entry 60): positions and what is added there -/
  | sectorError (sec : Nat) (errs : List (Nat × BitVec 16))
  /-- the host writes host memory (12 R246, log entry 67) -/
  | hostWrite (addr : Nat) (bs : List Byte)
  /-- the watchdog of a queue counts one of its units (13 R291) -/
  | watchdogUnit (q : Nat)
  /-- a port's partner acknowledges the flits of its replay buffer (14 R314) -/
  | flitAck (port : Nat)
  /-- a port trains, with a fifth lane or without (14 R313) -/
  | portTrain (port : Nat) (fifth : Bool)
  /-- a verified image advances the fused security version (16 R348) -/
  | fuseVersion (v : Nat)
  /-- the host resizes BAR2 to 2^k bytes (16 R341) -/
  | resizeBar2 (k : Nat)
  /-- the host reads BAR4 (16 R341) -/
  | bar4Read (len : Nat)
  /-- an issue clock of a core passes in which no path of it is eligible (13 R287) -/
  | idleClock (c : CoreId)
  /-- the host brings the records of serial pairs that another device wrote (14 R312) -/
  | bringPairs (ctx : Nat) (bs : List Byte)
  deriving DecidableEq, Repr

end Sys2Proof.Machine

namespace Sys2Proof.Machine

/-- The state of one device. -/
structure State where
  -- memory
  /-- tiers 0 and 1, by device physical address -/
  mem : List Host.Cell
  /-- host memory by bus address -/
  hostMem : List Host.Cell
  /-- poisoned sectors of `mem`, by sector number -/
  poison : List Nat
  /-- the package's L2 copies of peer and host sectors -/
  l2 : List (Nat × Sector)
  /-- the lines of the L2 slices by line number, each with its retention record, the oldest first (00 R1, 05 R114) -/
  l2lines : List (Nat × Hint)
  /-- sectors of peers and of the host that the checker has found uncorrectable as they came, where nothing has read them
  since (16 R352) -/
  l2bad : List Nat
  clusters : List (Nat × Cluster)
  cores : List (CoreId × Core)
  l2tlb : List (Nat × List TlbEntry)
  keys : List FaultKey
  -- work
  ctxs : List (Nat × Context)
  queues : List (Nat × Queue)
  launches : List (Nat × Launch)
  teams : List (TeamId × Team)
  groups : List (GroupId × Group)
  colls : List (Nat × CollJob)
  migrations : List (Nat × Migration)
  gens : List (Nat × Quarantine)
  -- fabric
  remotes : List (Nat × Remote)
  floors : List (BitVec 24 × BitVec 32)
  locket : List LocketEntry
  redSlots : List (Nat × RedSlot)
  gathered : List GathPiece
  remoteLanes : Word
  fabOut : List FabMsg
  /-- replay buffers: port, and a message whose flits are not acknowledged yet (14 R293, R314) -/
  unacked : List (Nat × FabMsg)
  /-- messages that wait for their port to retrain (14 R314) -/
  heldOut : List (Nat × FabMsg)
  ports : List (Nat × Port)
  peerx : List (Nat × Bool)
  peerInc : List (Nat × BitVec 16)
  rfen : Bool
  incarn : BitVec 16
  rmax : BitVec 8
  rto : BitVec 32
  rlim : BitVec 32
  drain : BitVec 32
  -- translation commands
  tca0 : Word
  tca1 : Word
  tca2 : Word
  tca3 : Word
  /-- the arguments of the command in progress, as they stood at its write (15 R334) -/
  targ : List Word
  genf : BitVec 32
  tresult : BitVec 8
  tbusy : Bool
  /-- OPC of the command in progress -/
  tcmd : BitVec 8
  -- device block
  boot : BitVec 4
  bootFail : BitVec 8
  devnum : BitVec 10
  repv : BitVec 16
  qhv : BitVec 16
  uev : BitVec 16
  clv : BitVec 16
  ilim : BitVec 16
  clampCnt : BitVec 32
  clampActive : Bool
  /-- UNIT1 and UNIT2 as last written (16 R342) -/
  spArg : BitVec 32
  spResult : BitVec 8
  spCmd : Option SpareCmd
  ueCnt : BitVec 32
  ceCnt : BitVec 32
  ueAddr : BitVec 58
  badCnt : BitVec 32
  wbase : BitVec 40
  /-- BAR2 has 2^bar2Log bytes (16 R341) -/
  bar2Log : Nat
  cxlBase : List (Nat × Word)
  cxlSize : List (Nat × Word)
  rathr : List (Nat × BitVec 16)
  rows : List ((Nat × Nat × Nat) × Nat)
  islands : List (Nat × Island)
  -- mailbox, boot image, spares
  mboxLen : BitVec 32
  mboxDone : Bool
  mboxRespLen : BitVec 32
  mbox : List (Nat × Byte)
  /-- chunks of a replacement image -/
  chunks : List Byte
  /-- the image in flash; none as the machine was made -/
  flash : Option (List Byte)
  /-- the fused security version (16 R348) -/
  fused : Nat
  /-- the image has been verified and is being started -/
  starting : Bool
  /-- logical core to (die, spare core) -/
  spareCores : List (Nat × Nat)
  spareClusters : List (Nat × Nat)
  spareRows : List (Nat × Nat × Nat)
  spareLanes : List (Nat × Nat × Nat)
  -- the endpoint
  linkWidth : Nat
  reversed : Bool
  atsEn : Bool
  atc : List (Nat × Nat)
  atsRefused : List Nat
  msix : List Nat
  /-- data of the last BAR2 read, its EP bit, and whether it was an Unsupported Request (16 R341) -/
  hostData : List Byte
  hostEp : Bool
  hostUr : Bool
  -- the model's own
  cur : Cur
  agenda : List Move
  fresh : Nat
  serial : Nat
  deriving DecidableEq, Repr

/-- The device right after reset: every register at the value of its map, every other field at the value
INVENTORY.md names (log entries 1, 2, 3, 8). -/
def State.reset : State where
  mem := []
  hostMem := []
  poison := []
  l2 := []
  l2lines := []
  l2bad := []
  clusters := []
  cores := []
  l2tlb := []
  keys := []
  ctxs := []
  queues := []
  launches := []
  teams := []
  groups := []
  colls := []
  migrations := []
  gens := []
  remotes := []
  floors := []
  locket := []
  redSlots := []
  gathered := []
  remoteLanes := 0
  fabOut := []
  unacked := []
  heldOut := []
  ports := []
  peerx := []
  peerInc := []
  rfen := false
  incarn := 0
  rmax := 8
  rto := 0
  rlim := 1024
  drain := 16384
  tca0 := 0
  tca1 := 0
  tca2 := 0
  tca3 := 0
  targ := []
  genf := 0
  tresult := 0
  tbusy := false
  tcmd := 0
  boot := 0
  bootFail := 0
  devnum := 0
  repv := 0
  qhv := 0
  uev := 0
  clv := 0
  ilim := 9000
  clampCnt := 0
  clampActive := false
  spArg := 0
  spResult := 0
  spCmd := none
  ueCnt := 0
  ceCnt := 0
  ueAddr := 0
  badCnt := 0
  wbase := 0
  bar2Log := 40
  cxlBase := []
  cxlSize := []
  rathr := []
  rows := []
  islands := []
  mboxLen := 0
  mboxDone := false
  mboxRespLen := 0
  mbox := []
  chunks := []
  flash := none
  fused := 0
  starting := false
  spareCores := []
  spareClusters := []
  spareRows := []
  spareLanes := []
  linkWidth := 0
  reversed := false
  atsEn := false
  atc := []
  atsRefused := []
  msix := []
  hostData := []
  hostEp := false
  hostUr := false
  cur := { gid := { launch := 0, team := 0, grp := 0 }, slot := 0 }
  agenda := []
  fresh := 0
  serial := 0

end Sys2Proof.Machine
end

