-- ==== Sys2Proof/Machine/Flags.lean ====
section
/-! DEFINITION. Saturating event counters (04 R81, 01 R29) and the comparison results of 02 R33. -/

namespace Sys2Proof.Machine

/-- A counter of n bits stops at all ones (04 R81, 07 R181). -/
def satAdd {n : Nat} (c : BitVec n) (k : Nat) : BitVec n := BitVec.ofNat n (min (c.toNat + k) (2 ^ n - 1))

def Counts.zero : Counts := { inv := 0, nanl := 0, flush := 0, sat := 0 }
def Counts.ofInv (n : Nat) : Counts := { Counts.zero with inv := satAdd 0 n }
def Counts.oneNanl : Counts := { Counts.zero with nanl := 1 }
def Counts.oneFlush : Counts := { Counts.zero with flush := 1 }
def Counts.oneSat : Counts := { Counts.zero with sat := 1 }

/-- Sums of counts; each counter stops at 0xFFFF (04 R81). -/
def Counts.add (a b : Counts) : Counts where
  inv := satAdd a.inv b.inv.toNat
  nanl := satAdd a.nanl b.nanl.toNat
  flush := satAdd a.flush b.flush.toNat
  sat := satAdd a.sat b.sat.toNat

def Counts.sum (cs : List Counts) : Counts := cs.foldl Counts.add Counts.zero

/-- The same events counted in each of n lanes (04 R81). -/
def Counts.times (c : Counts) (n : Nat) : Counts where
  inv := satAdd 0 (c.inv.toNat * n)
  nanl := satAdd 0 (c.nanl.toNat * n)
  flush := satAdd 0 (c.flush.toNat * n)
  sat := satAdd 0 (c.sat.toNat * n)

/-- The word fstat reads (04 R81). -/
def Counts.word (c : Counts) : Word := c.inv ++ c.nanl ++ c.flush ++ c.sat

/-- The counters a saved word holds (08 R200). -/
def Counts.ofWord (w : Word) : Counts where
  inv := w.extractLsb' 48 16
  nanl := w.extractLsb' 32 16
  flush := w.extractLsb' 16 16
  sat := w.extractLsb' 0 16

/-- The condition of icmp on two integers (02 R33, 03 R48). -/
def condHolds (c : Cond) (x y : Int) : Bool :=
  match c with
  | .eq => x == y
  | .ne => x != y
  | .lt => decide (x < y)
  | .le => decide (x ≤ y)
  | .gt => decide (y < x)
  | .ge => decide (y ≤ x)

/-- A value with the events counted on the way to it. -/
structure Tallied (α : Type) where
  val : α
  cnt : Counts
  deriving DecidableEq, Repr

def Tallied.pure {α : Type} (x : α) : Tallied α := { val := x, cnt := Counts.zero }

def Tallied.bind {α β : Type} (x : Tallied α) (f : α → Tallied β) : Tallied β :=
  { val := (f x.val).val, cnt := x.cnt.add (f x.val).cnt }

/-- A result of 04 R79: an invalid operation counts one INV. -/
def Tallied.ofOp {α : Type} (r : α × Bool) : Tallied α :=
  { val := r.1, cnt := if r.2 then Counts.ofInv 1 else Counts.zero }

/-- The result of a lane, whose events count only in a lane of the effective mask (04 R81). -/
def Tallied.inLane {α : Type} (x : Tallied α) (live : Bool) : Tallied α := if live then x else .pure x.val

/-- The results in order with all their events. -/
def Tallied.all {α : Type} (xs : List (Tallied α)) : Tallied (List α) :=
  { val := xs.map Tallied.val, cnt := Counts.sum (xs.map Tallied.cnt) }

end Sys2Proof.Machine
end

