-- ==== Sys2Proof/Machine/Formats.lean ====
section
/-! DEFINITION. Format definitions, Decode, Encode and Round (04 R70 to R81). -/

namespace Sys2Proof.Machine

/-- The fields of a format definition (04 R70). -/
structure Fmt where
  s : Nat
  ew : Nat
  mw : Nat
  bias : Int
  sub : Nat
  inf : Nat
  nan : Nat
  rnd : Nat
  ovf : Bool
  sstr : Nat
  deriving DecidableEq, Repr

/-- The fields of a definition word (04 R70). -/
def Fmt.ofWord (f : Word) : Fmt where
  s := (f.extractLsb' 0 1).toNat
  ew := (f.extractLsb' 1 4).toNat
  mw := (f.extractLsb' 5 6).toNat
  bias := (f.extractLsb' 11 12).toInt
  sub := (f.extractLsb' 23 2).toNat
  inf := (f.extractLsb' 25 2).toNat
  nan := (f.extractLsb' 27 2).toNat
  rnd := (f.extractLsb' 29 3).toNat
  ovf := f.getLsbD 32
  sstr := (f.extractLsb' 39 8).toNat

namespace Fmt

/-- The element width (04 R70). -/
def w (f : Fmt) : Nat := f.s + f.ew + f.mw

/-- Sub-elements of a lane register (04 R74). -/
def k (f : Fmt) : Nat := 64 / f.w

/-- The ±1 format (04 R77). -/
def isPm1 (f : Fmt) : Bool := f.s == 1 && f.ew == 0 && f.mw == 0

def isInt (f : Fmt) : Bool := f.ew == 0

/-- Rounding is stochastic (04 R80). -/
def sto (f : Fmt) : Bool := f.rnd == 5

/-- Toward −∞, the mode in which an exact zero sum is −0 (04 R79). -/
def down (f : Fmt) : Bool := f.rnd == 3

/-- The exponent field of the largest finite code (04 R75). -/
def eTop (f : Fmt) : Nat := 2 ^ f.ew - 1 - f.inf - (if f.nan = 3 ∧ f.mw = 0 then 1 else 0)

/-- The mantissa field of the largest finite code (04 R75). -/
def mTop (f : Fmt) : Nat := 2 ^ f.mw - 1 - (if f.nan = 3 ∧ 1 ≤ f.mw then 1 else 0)

/-- The finite value of positive exponent and mantissa fields, by the formula of Decode (04 R75). -/
def finite (f : Fmt) (e m : Nat) : Rat :=
  if e = 0 then pow2 (1 - f.bias - f.mw) * m else pow2 (e - f.bias - f.mw) * (2 ^ f.mw + m : Nat)

/-- The largest value: MAXF, or MAXI of an integer format (04 R75). -/
def maxVal (f : Fmt) : Rat :=
  if f.isPm1 then 1 else if f.isInt then ((2 ^ f.mw - 1 : Nat) : Rat) else f.finite f.eTop f.mTop

/-- The least value: −MAXF, or MINI of an integer format (04 R75). -/
def minVal (f : Fmt) : Rat :=
  if f.isPm1 then -1
  else if f.isInt then (if f.s = 1 then -((2 ^ f.mw : Nat) : Rat) else 0)
  else if f.s = 1 then -(f.finite f.eTop f.mTop) else 0

/-- The smallest normal magnitude (04 R75). -/
def minNormal (f : Fmt) : Rat := pow2 (1 - f.bias)

/-- −0 has a code: a signed floating format without NAN = 2 (04 R75). -/
def hasNegZero (f : Fmt) : Bool := !f.isInt && f.s == 1 && f.nan != 2

/-- The fields of a code: sign, exponent, mantissa (04 R70). -/
def codeSign (f : Fmt) (c : Nat) : Bool := f.s == 1 && (c / 2 ^ (f.w - 1)) % 2 == 1
def codeExp (f : Fmt) (c : Nat) : Nat := (c / 2 ^ f.mw) % 2 ^ f.ew
def codeMant (f : Fmt) (c : Nat) : Nat := c % 2 ^ f.mw

/-- −x where the sign bit is set. -/
def signed (s : Bool) (q : Rat) : Num := .rat (if s then -q else q)

/-- An integer code (04 R75). -/
def decodeInt (f : Fmt) (c : Nat) : Num :=
  if f.isPm1 then .rat (if c % 2 = 0 then 1 else -1)
  else
    let u := c % 2 ^ f.w
    Num.ofRat (if f.s = 1 ∧ 2 ^ f.mw ≤ u then ((u : Int) - 2 ^ f.w : Int) else (u : Int))

/-- Decode (04 R75). -/
def decode (f : Fmt) (c : Nat) : Tallied Num :=
  if f.isInt then .pure (f.decodeInt c)
  else
    let s := f.codeSign c
    let e := f.codeExp c
    let m := f.codeMant c
    if f.nan = 2 ∧ s = true ∧ e = 0 ∧ m = 0 then .pure .nan
    else if f.nan = 3 ∧ e = 2 ^ f.ew - 1 ∧ m = 2 ^ f.mw - 1 then .pure .nan
    else if f.inf = 1 ∧ e = 2 ^ f.ew - 1 then .pure (if m = 0 then .inf s else .nan)
    else if e = 0 ∧ m = 0 then .pure (.zero s)
    else if e = 0 ∧ f.sub = 2 then { val := .zero s, cnt := Counts.oneFlush }
    else .pure (signed s (f.finite e m))

/-- The canonical NaN (04 R75). -/
def canonNan (f : Fmt) : Nat :=
  match f.nan with
  | 1 => (2 ^ f.ew - 1) * 2 ^ f.mw + 2 ^ (f.mw - 1)
  | 2 => 2 ^ (f.w - 1)
  | _ => 2 ^ (f.ew + f.mw) - 1

/-- The sign bit of a code. -/
def signBit (f : Fmt) (s : Bool) : Nat := if s && f.s == 1 then 2 ^ (f.ew + f.mw) else 0

/-- Encode of a representable rational; `neg` is the sign where it is zero (04 R75). -/
def encodeRat (f : Fmt) (q : Rat) (neg : Bool) : Nat :=
  if f.isPm1 then (if q < 0 then 1 else 0)
  else if f.isInt then (q.floor % (2 ^ f.w : Nat)).toNat
  else if q = 0 then (if f.hasNegZero then f.signBit neg else 0)
  else
    let a := |q|
    if a < f.minNormal then f.signBit (decide (q < 0)) + (a / pow2 (1 - f.bias - f.mw)).floor.toNat
    else
      let e := floorLog2 a
      f.signBit (decide (q < 0)) + (e + f.bias).toNat * 2 ^ f.mw
        + ((a / pow2 (e - f.mw)).floor.toNat - 2 ^ f.mw)

/-- Encode of ±∞ in a format that has it (04 R75). -/
def encodeInf (f : Fmt) (neg : Bool) : Nat := f.signBit neg + (2 ^ f.ew - 1) * 2 ^ f.mw

/-- Encode(±MAXF) (04 R75, R76). -/
def encodeMax (f : Fmt) (neg : Bool) : Nat := f.encodeRat (if neg then f.minVal else f.maxVal) neg

/-- The lowest detail code of the checks a definition fails; none for a valid one (04 R71). -/
def invalid (d : Word) : Option (BitVec 8) :=
  let f := Fmt.ofWord d
  if d.extractLsb' 33 6 ≠ 0 ∨ d.extractLsb' 47 17 ≠ 0 then some 1
  else if f.w = 0 ∨ 64 < f.w then some 2
  else if 11 < f.ew ∨ 52 < f.mw then some 3
  else if f.sub = 3 ∨ 2 ≤ f.inf ∨ f.rnd = 7 then some 4
  else if f.ew = 0 ∧ (f.bias ≠ 0 ∨ f.sub ≠ 0 ∨ f.inf ≠ 0 ∨ f.nan ≠ 0) then some 5
  else if (f.inf = 1 ∧ f.ew < 2) ∨ (f.inf = 1 ∧ 1 ≤ f.mw ∧ f.nan ≠ 1) ∨ (f.nan = 1 ∧ (f.inf ≠ 1 ∨ f.mw = 0)) then
    some 6
  else if f.nan = 2 ∧ f.s = 0 then some 7
  else if f.nan = 3 ∧ f.inf = 1 then some 8
  else if 1 ≤ f.ew ∧ ¬ 0 < f.maxVal then some 9
  else none

end Fmt

/-- What decides a stochastic rounding (04 R78): launch seed, team index, lane within the team, sub-element or node,
DRAW and SOFF. -/
structure Key where
  seed : Word
  team : Nat
  lanet : Nat
  j : Nat
  draw : BitVec 32
  soff : BitVec 32
  deriving DecidableEq, Repr

/-- Mix (04 R78). -/
def mix (z : Word) : Word :=
  let z1 := (z ^^^ (z >>> 30)) * 0xBF58476D1CE4E5B9
  let z2 := (z1 ^^^ (z1 >>> 27)) * 0x94D049BB133111EB
  z2 ^^^ (z2 >>> 31)

/-- Noise (04 R78). -/
def noise (key : Key) (sstr : Nat) : Nat :=
  let b : Word := BitVec.ofNat 32 key.team ++ BitVec.ofNat 16 key.lanet ++ BitVec.ofNat 8 sstr ++ BitVec.ofNat 8 key.j
  let c : Word := key.soff ++ key.draw
  ((mix (key.seed ^^^ mix (b ^^^ mix c))).extractLsb' 32 32).toNat

/-- The grid point RoundToGrid takes, as a multiple of g (04 R76). -/
def roundToGrid (f : Fmt) (key : Key) (x : Num) (g : Rat) : Int :=
  let lo := x.floorDiv g
  let half := (lo * 2 + 1) * g / 2
  if x.cmp (lo * g) = .eq then lo
  else
    match f.rnd with
    | 0 =>
      match x.cmp half with
      | .lt => lo
      | .gt => lo + 1
      | .eq => if lo % 2 = 0 then lo else lo + 1
    | 1 => if 0 ≤ lo then lo else lo + 1
    | 2 => lo + 1
    | 3 => lo
    | 4 =>
      match x.cmp half with
      | .lt => lo
      | .gt => lo + 1
      | .eq => if 0 ≤ lo then lo + 1 else lo
    | 6 => if lo % 2 = 0 then lo + 1 else lo
    | _ => if x.gtRat (lo * g + g * noise key f.sstr / pow2 32) then lo + 1 else lo

/-- ToInf (04 R76). -/
def toInf (rnd : Nat) (neg : Bool) : Bool :=
  match rnd with
  | 0 | 4 | 5 => true
  | 2 => !neg
  | 3 => neg
  | _ => false

/-- PM1 (04 R77). -/
def roundPm1 (f : Fmt) (key : Key) (x : Num) : Tallied Nat :=
  let plus : Bool :=
    match f.rnd with
    | 2 => x.gtRat (-1)
    | 3 => x.geRat 1
    | 5 => if x.gtRat 1 then true else x.gtRat (2 * noise key f.sstr / pow2 32 - 1)
    | _ => x.geRat 0
  { val := if plus then 0 else 1, cnt := if x.absGt 1 then Counts.oneSat else Counts.zero }

/-- The code of the largest magnitude, with its count (04 R76). -/
def saturate (f : Fmt) (neg : Bool) : Tallied Nat := { val := f.encodeMax neg, cnt := Counts.oneSat }

/-- Round of a finite nonzero value (04 R76). -/
def roundFinite (f : Fmt) (key : Key) (x : Num) : Tallied Nat :=
  if !f.isInt && f.sub != 0 && x.absLt f.minNormal then
    { val := f.encodeRat 0 x.neg, cnt := Counts.oneFlush }
  else
    let g := if f.isInt then 1 else pow2 (max x.floorLog2Abs (1 - f.bias) - f.mw)
    let q : Rat := roundToGrid f key x g * g
    if f.maxVal < q ∨ q < f.minVal then
      if f.ovf && f.inf == 1 && toInf f.rnd x.neg then .pure (f.encodeInf x.neg) else saturate f x.neg
    else .pure (f.encodeRat q x.neg)

/-- Round (04 R76). -/
def round (f : Fmt) (key : Key) (x : Num) : Tallied Nat :=
  match x with
  | .nan => if f.nan = 0 then { val := 0, cnt := Counts.oneNanl } else .pure f.canonNan
  | _ =>
    if f.isPm1 then roundPm1 f key x
    else if f.s = 0 ∧ x.ltRat 0 = true then { val := 0, cnt := Counts.oneSat }
    else
      match x with
      | .inf n => if f.inf = 1 then .pure (f.encodeInf n) else saturate f n
      | .zero n => .pure (f.encodeRat 0 n)
      | _ => roundFinite f key x

/-- Rounded, and decoded again: what a tree node holds (04 R92). -/
def roundNode (f : Fmt) (key : Key) (x : Num) : Tallied Num := (round f key x).bind f.decode

/-- Sub-element j of a register value in width w (04 R74). -/
def subElem (v : Word) (w j : Nat) : Nat := (v.toNat / 2 ^ (j * w)) % 2 ^ w

/-- A register value with sub-element j of width w replaced (04 R90). -/
def setElem (v : Word) (w j c : Nat) : Word :=
  let m : Word := BitVec.ofNat 64 (2 ^ w - 1) <<< (j * w)
  (v &&& ~~~m) ||| ((BitVec.ofNat 64 (c % 2 ^ w)) <<< (j * w))

/-- A register value of codes of width w, from sub-element 0 up; the bits above are zero (04 R74). -/
def packElems (w : Nat) (cs : List Nat) : Word :=
  BitVec.ofNat 64 (cs.foldr (fun c acc => c % 2 ^ w + acc * 2 ^ w) 0)

end Sys2Proof.Machine
end

