-- ==== Sys2Proof/Machine/Store.lean ====
section
/-! DEFINITION. Sparse tables and byte memory: lists in one canonical form, keys strictly rising and no entry equal to
what an unlisted key reads as (log entries 1, 2). -/

namespace Sys2Proof.Machine

/-- What key k holds. -/
def Sparse.get {β : Type} (dflt : β) : List (Nat × β) → Nat → β
  | [], _ => dflt
  | (a, v) :: t, k => if a = k then v else if k < a then dflt else Sparse.get dflt t k

/-- Writes key k, keeping the form. -/
def Sparse.put {β : Type} [DecidableEq β] (dflt : β) : List (Nat × β) → Nat → β → List (Nat × β)
  | [], k, v => if v = dflt then [] else [(k, v)]
  | (a, x) :: t, k, v =>
    if k < a then (if v = dflt then (a, x) :: t else (k, v) :: (a, x) :: t)
    else if k = a then (if v = dflt then t else (a, v) :: t)
    else (a, x) :: Sparse.put dflt t k v

/-- The canonical form: keys above `lo`, strictly rising, and no default entry. -/
def Sparse.wfFrom {β : Type} [DecidableEq β] (dflt : β) : Nat → List (Nat × β) → Bool
  | _, [] => true
  | lo, (a, v) :: t => decide (lo ≤ a) && !decide (v = dflt) && Sparse.wfFrom dflt (a + 1) t

def Sparse.wf {β : Type} [DecidableEq β] (dflt : β) (t : List (Nat × β)) : Bool := Sparse.wfFrom dflt 0 t

/-- The entry of a key, in a table without order. -/
def Tab.get? {κ β : Type} [DecidableEq κ] (t : List (κ × β)) (k : κ) : Option β :=
  (t.find? (fun e => decide (e.1 = k))).map Prod.snd

/-- Replaces the entry of a key where it stands, or adds it at the end. -/
def Tab.put {κ β : Type} [DecidableEq κ] : List (κ × β) → κ → β → List (κ × β)
  | [], k, v => [(k, v)]
  | (a, x) :: t, k, v => if a = k then (a, v) :: t else (a, x) :: Tab.put t k v

def Tab.erase {κ β : Type} [DecidableEq κ] (t : List (κ × β)) (k : κ) : List (κ × β) :=
  t.filter (fun e => !decide (e.1 = k))

/-- Puts x before the first element it may precede. -/
def insertBy {α : Type} (le : α → α → Bool) (x : α) : List α → List α
  | [] => [x]
  | y :: ys => if le x y then x :: y :: ys else y :: insertBy le x ys

/-- A list in order; elements that tie keep theirs. -/
def sortBy {α : Type} (le : α → α → Bool) : List α → List α
  | [] => []
  | x :: xs => insertBy le x (sortBy le xs)

/-- Numbers in ascending order. -/
def sortNats (xs : List Nat) : List Nat := sortBy (fun a b => decide (a ≤ b)) xs

/-- What a byte of memory that nothing has written reads as (log entries 1, 2). -/
def Memory.unlisted : Byte := 0

/-- The byte at address a. -/
def Memory.read (m : List Host.Cell) (a : Nat) : Byte := Sparse.get Memory.unlisted m a

/-- Writes one byte. -/
def Memory.write (m : List Host.Cell) (a : Nat) (v : Byte) : List Host.Cell := Sparse.put Memory.unlisted m a v

/-- The canonical form of a memory. -/
def Memory.wf (m : List Host.Cell) : Bool := Sparse.wf Memory.unlisted m

/-- n bytes from a up. -/
def Memory.readN (m : List Host.Cell) (a n : Nat) : List Byte := (List.range n).map (fun i => Memory.read m (a + i))

/-- Writes the bytes from a up. -/
def Memory.writeN (m : List Host.Cell) (a : Nat) : List Byte → List Host.Cell
  | [] => m
  | b :: bs => Memory.writeN (Memory.write m a b) (a + 1) bs

/-- The little-endian number of the bytes (00 R6). -/
def ofBytes : List Byte → Nat
  | [] => 0
  | b :: bs => b.toNat + 256 * ofBytes bs

/-- n little-endian bytes of a number (00 R6). -/
def toBytes : Nat → Nat → List Byte
  | 0, _ => []
  | n + 1, v => BitVec.ofNat 8 v :: toBytes n (v / 256)

/-- Bits lo to lo + n − 1 of a number. -/
def bits (v lo n : Nat) : Nat := (v / 2 ^ lo) % 2 ^ n

/-- The 64-bit word of a byte list, zero-extended. -/
def wordOf (bs : List Byte) : Word := BitVec.ofNat 64 (ofBytes bs)

/-- Lane l of a mask. -/
def laneIn (m : Word) (l : Nat) : Bool := m.getLsbD l

/-- The lanes of a mask in ascending order (00 R8). -/
def lanes (m : Word) : List Nat := (List.range 64).filter (laneIn m)

/-- The mask of the lanes of a list. -/
def maskOf (ls : List Nat) : Word := ls.foldl (fun m l => m ||| (1 <<< l)) 0

/-- The mask of lanes 0 to n − 1. -/
def fullMask (n : Nat) : Word := BitVec.ofNat 64 (2 ^ n - 1)

/-- The lanes of a mask, counted. -/
def laneCount (m : Word) : Nat := (lanes m).length

end Sys2Proof.Machine
end

