-- ==== Sys2Proof/Machine/Ops.lean ====
section
/-! DEFINITION. The named operations over the tables of State: defaults, lookups, register values with their shapes,
residency, paths and the divergence stack. -/

namespace Sys2Proof.Machine

/-! ### Table defaults -/

/-- A context after reset (16 R344, 15 R331). -/
def Context.reset : Context where
  rqid := 0
  asid := 0
  en := false
  t4base := 0
  gcaBase := 0
  gcaStr := 0
  tcaBase := 0
  tcaStr := 0
  trapBase := 0
  trapStr := 0
  grace := 200000
  serbase := 0
  clmask0 := 0
  clmask1 := 0
  out := false
  held := false
  busy := false
  cmd := 0
  fbBase := 0
  drops := 0
  vec := 0
  log2n := 3
  nen := false
  dropped := false
  fbEn := false
  put := 0
  get := 0
  strict := false
  trapvec := 0
  preq := false
  pairs := []
  quiet := false
  saved := []
  notifyDue := false

/-- A queue after reset (13 R279, R290). -/
def Queue.reset : Queue where
  ring := 0
  ptrs := 0
  ctx := 0
  log2n := 0
  prio := 0
  halt := false
  en := false
  head := 0
  tail := 0
  t1 := 0
  t2 := 0
  t3 := 0
  w := 0
  stage := 0
  killedAt := 0
  visible := []
  active := []
  last := none

def Core.reset : Core where
  fenced := false
  ptr := 0
  tried := []
  vec := 0
  scal := 0
  cyc := 0
  resv := []
  mwait := []
  perf := []
  tlb := []

/-- A bank after reset: CACHE, without owner (07 R179, 10 R221). -/
def Bank.reset : Bank where
  mode := .cache
  target := none
  ownCtx := 0
  ownValid := false
  strand := []

def Cluster.reset : Cluster where
  banks := []
  l1 := []
  lines := []
  rr := none

/-- The bank has that context for its owner (10 R221). -/
def Bank.ownedBy (b : Bank) (ctx : Nat) : Bool := b.ownValid && b.ownCtx == BitVec.ofNat 8 ctx

/-- A clasp at launch start (05 R133). -/
def Clasp.reset : Clasp where
  ovr := false
  pers := false
  phase := false
  count := 0
  arrived := 0
  expb := 0
  bytes := 0
  gen := 0

def CopyQueue.reset : CopyQueue where
  pending := []
  done := 0

def Port.reset : Port where
  crccnt := 0
  abthr := 0
  nthr := 0
  spok := false
  lane := 0
  req := false
  abnd := false
  state := 0

def Island.reset : Island where
  ref := false
  chg := false
  cur := 0
  vsel := 90
  fdiv := 0
  state := 0

def Quarantine.reset : Quarantine where
  gen := 0
  frames := []

/-! ### Lookups and updates of State -/

def State.group? (s : State) (gid : GroupId) : Option Group := Tab.get? s.groups gid
def State.setGroup (s : State) (gid : GroupId) (g : Group) : State := { s with groups := Tab.put s.groups gid g }
def State.modGroup (s : State) (gid : GroupId) (f : Group → Group) : State :=
  match s.group? gid with
  | some g => s.setGroup gid (f g)
  | none => s

def State.team? (s : State) (tid : TeamId) : Option Team := Tab.get? s.teams tid
def State.setTeam (s : State) (tid : TeamId) (t : Team) : State := { s with teams := Tab.put s.teams tid t }
def State.modTeam (s : State) (tid : TeamId) (f : Team → Team) : State :=
  match s.team? tid with
  | some t => s.setTeam tid (f t)
  | none => s

def State.launch? (s : State) (n : Nat) : Option Launch := Tab.get? s.launches n
def State.setLaunch (s : State) (n : Nat) (l : Launch) : State := { s with launches := Tab.put s.launches n l }
def State.modLaunch (s : State) (n : Nat) (f : Launch → Launch) : State :=
  match s.launch? n with
  | some l => s.setLaunch n (f l)
  | none => s

def State.core (s : State) (c : CoreId) : Core := (Tab.get? s.cores c).getD Core.reset
def State.modCore (s : State) (c : CoreId) (f : Core → Core) : State :=
  { s with cores := Tab.put s.cores c (f (s.core c)) }

def State.cluster (s : State) (c : Nat) : Cluster := Sparse.get Cluster.reset s.clusters c
def State.modCluster (s : State) (c : Nat) (f : Cluster → Cluster) : State :=
  { s with clusters := Sparse.put Cluster.reset s.clusters c (f (s.cluster c)) }

def State.ctx (s : State) (c : Nat) : Context := Sparse.get Context.reset s.ctxs c
def State.modCtx (s : State) (c : Nat) (f : Context → Context) : State :=
  { s with ctxs := Sparse.put Context.reset s.ctxs c (f (s.ctx c)) }

def State.queue (s : State) (q : Nat) : Queue := Sparse.get Queue.reset s.queues q
def State.modQueue (s : State) (q : Nat) (f : Queue → Queue) : State :=
  { s with queues := Sparse.put Queue.reset s.queues q (f (s.queue q)) }

def Cluster.bank (c : Cluster) (b : Nat) : Bank := Sparse.get Bank.reset c.banks b
def State.bank (s : State) (c b : Nat) : Bank := (s.cluster c).bank b
def State.modBank (s : State) (c b : Nat) (f : Bank → Bank) : State :=
  s.modCluster c (fun x => { x with banks := Sparse.put Bank.reset x.banks b (f (x.bank b)) })

def State.port (s : State) (p : Nat) : Port := Sparse.get Port.reset s.ports p
def State.modPort (s : State) (p : Nat) (f : Port → Port) : State :=
  { s with ports := Sparse.put Port.reset s.ports p (f (s.port p)) }

def State.island (s : State) (i : Nat) : Island := Sparse.get Island.reset s.islands i
def State.modIsland (s : State) (i : Nat) (f : Island → Island) : State :=
  { s with islands := Sparse.put Island.reset s.islands i (f (s.island i)) }

def State.quar (s : State) (i : Nat) : Quarantine := Sparse.get Quarantine.reset s.gens i
def State.modQuar (s : State) (i : Nat) (f : Quarantine → Quarantine) : State :=
  { s with gens := Sparse.put Quarantine.reset s.gens i (f (s.quar i)) }

def Team.clasp (t : Team) (n : Nat) : Clasp := Sparse.get Clasp.reset t.clasps n
def Team.setClasp (t : Team) (n : Nat) (c : Clasp) : Team :=
  { t with clasps := Sparse.put Clasp.reset t.clasps n c }
def Team.queue (t : Team) (q : Nat) : CopyQueue := Sparse.get CopyQueue.reset t.queues q
def Team.setQueue (t : Team) (q : Nat) (c : CopyQueue) : Team :=
  { t with queues := Sparse.put CopyQueue.reset t.queues q c }

def tidOf (g : GroupId) : TeamId := { launch := g.launch, team := g.team }
def groupOf (t : TeamId) (n : Nat) : GroupId := { launch := t.launch, team := t.team, grp := n }

/-- The context of a launch; 0 where there is none. -/
def State.ctxOf (s : State) (launch : Nat) : Nat :=
  match s.launch? launch with
  | some l => l.ctx
  | none => 0

/-- A serial number that nothing carries yet, and the state that has used it. -/
def State.take (s : State) : Nat × State := (s.serial, { s with serial := s.serial + 1 })

/-- A step of the host on a register that answers only once the firmware runs (16 R348). -/
def State.hostStep (s t : State) : Host.Outcome State Fault Refusal := .next (if s.boot = 2 then t else s)

/-! ### Register values (08 R192) -/

namespace RegVal

/-- The value of lane l. -/
def lane (v : RegVal) (l : Nat) : Word :=
  match v with
  | .unwritten => 0
  | .uniform u => u
  | .affine b st => b + BitVec.ofNat 64 l * st
  | .general xs => xs.getD l 0

def tag : RegVal → Nat
  | .unwritten => 0
  | .uniform _ => 1
  | .affine _ _ => 2
  | .general _ => 3

def isGeneral : RegVal → Bool
  | .general _ => true
  | _ => false

/-- Uniform, which includes unwritten (03 R42). -/
def isUniform : RegVal → Bool
  | .unwritten => true
  | .uniform _ => true
  | _ => false

def isAffine : RegVal → Bool
  | .affine _ _ => true
  | _ => false

/-- The values of lanes 0 to w − 1. -/
def lanes (v : RegVal) (w : Nat) : List Word := (List.range w).map v.lane

/-- The same value in every lane of a mask (07 R165). -/
def equalIn (v : RegVal) (m : Word) : Bool :=
  match Machine.lanes m with
  | [] => true
  | l :: ls => ls.all (fun k => v.lane k == v.lane l)

/-- The value in the lowest lane of a mask. -/
def firstIn (v : RegVal) (m : Word) : Word :=
  match Machine.lanes m with
  | [] => 0
  | l :: _ => v.lane l

end RegVal

/-! ### Groups: registers, predicates, counters -/

namespace Group

def val (g : Group) (r : Nat) : RegVal := Sparse.get RegVal.unwritten g.regs r

def setVal (g : Group) (r : Nat) (v : RegVal) : Group := { g with regs := Sparse.put RegVal.unwritten g.regs r v }

/-- Predicate p of every lane; p7 reads true (03 R67). -/
def pred (g : Group) (p : PredIx) : Word := if p = 7 then fullMask 64 else Sparse.get 0 g.preds p.toNat

/-- Writes predicate p in the lanes of m. -/
def setPred (g : Group) (p : PredIx) (m v : Word) : Group :=
  { g with preds := Sparse.put 0 g.preds p.toNat ((g.pred p &&& ~~~m) ||| (v &&& m)) }

/-- Group performance counters wrap (07 R181). -/
def perfCount (g : Group) (n : Nat) : BitVec 32 := Sparse.get 0 g.perf n
def bump (g : Group) (n k : Nat) : Group :=
  { g with perf := Sparse.put 0 g.perf n (g.perfCount n + BitVec.ofNat 32 k) }

def full (g : Group) : Word := fullMask g.width

/-- The lanes that have not exited. -/
def live (g : Group) : Word := g.full &&& ~~~g.exited

def path (g : Group) (slot : Nat) : Option Path := if slot = 0 then g.p0 else g.p1
def setPath (g : Group) (slot : Nat) (p : Option Path) : Group :=
  if slot = 0 then { g with p0 := p } else { g with p1 := p }
def modPath (g : Group) (slot : Nat) (f : Path → Path) : Group := g.setPath slot ((g.path slot).map f)

/-- The definition in a format slot; none is valid as 0 (04 R95). -/
def slotDef (g : Group) (n : Nat) : Word := Sparse.get 0 g.slots n
def soffOf (g : Group) (n : Nat) : BitVec 32 := Sparse.get 0 g.soff n
def drawOf (g : Group) (l : Nat) : BitVec 32 := Sparse.get 0 g.draw l
def ac (g : Group) (n : Nat) : Nat := Sparse.get 0 g.acs n
def setAc (g : Group) (n v : Nat) : Group := { g with acs := Sparse.put 0 g.acs n v }

def addCounts (g : Group) (c : Counts) : Group := { g with counts := g.counts.add c }

/-- Events of an operation that was performed without a word of the group issuing: a group that is saved or in its
handler keeps them beside its image and its frame, so that neither takes them back (04 R81, 05 R126, 09 R218). -/
def lateCounts (g : Group) (c : Counts) : Group :=
  { g with counts := g.counts.add c, lateTrap := g.lateTrap.add c, lateSave := g.lateSave.add c }

/-- DRAW advances by one in the lanes of m (04 R80). -/
def advanceDraw (g : Group) (m : Word) : Group :=
  { g with draw := (lanes m).foldl (fun t l => Sparse.put 0 t l (Sparse.get 0 t l + 1)) g.draw }

/-! ### Residency (08 R193, R195, R196) -/

/-- Whether a general register stands in the spill area. -/
def isSpilled (g : Group) (r : Nat) : Bool := (g.val r).isGeneral && !g.resident.contains r

/-- When a register was last used. -/
def lastUse (g : Group) (r : Nat) : Nat := Sparse.get 0 g.used r

/-- The register of a list whose last use is oldest, the lowest index first among equals. -/
def oldest (g : Group) : List Nat → Option Nat
  | [] => none
  | r :: rs =>
    match g.oldest rs with
    | some x => if g.lastUse x < g.lastUse r ∨ (g.lastUse x = g.lastUse r ∧ x < r) then some x else some r
    | none => some r

/-- Spill(Victim()): the resident register whose last use is oldest, none of those named. -/
def spillVictim (g : Group) (named : List Nat) : Group :=
  match g.oldest (g.resident.filter (fun r => !named.contains r)) with
  | some r => { g with resident := g.resident.filter (fun x => x != r) }.bump 2 1
  | none => g

/-- The operand buffers that hold register r are discarded (01 R31). -/
def forgetIn (r : Nat) (p : Path) : Path :=
  if p.retained.any (fun x => x.1 == r) then { p with retained := none } else p

def forget (g : Group) (r : Nat) : Group := { g with p0 := g.p0.map (forgetIn r), p1 := g.p1.map (forgetIn r) }

/-- Takes segments for v; a run member that finds none goes to the spill area (08 R196, log entry 12). -/
def allocate (g : Group) (named : List Nat) (run : Bool) (v : Nat) : Group :=
  if g.resident.contains v then g
  else if g.budget ≤ g.resident.length then
    if run then g
    else
      let g' := g.spillVictim named
      { g' with resident := g'.resident ++ [v] }
  else { g with resident := g.resident ++ [v] }

/-- Materialise, without the count of MATPART (08 R193). -/
def materialise (g : Group) (named : List Nat) (run : Bool) (v : Nat) : Group :=
  if (g.val v).isGeneral then g
  else
    let g1 := g.allocate named run v
    g1.setVal v (.general ((g.val v).lanes g.width))

/-- WriteResult (08 R193); a spilled member of a run is written where it is (08 R196). -/
def writeResult (g : Group) (named : List Nat) (run : Bool) (v : Nat) (m : Word) (r : RegVal) : Group :=
  if m = 0 then g
  else if m = g.full then
    match r with
    | .general xs =>
      let g1 := if run && (g.val v).isGeneral then g else g.allocate named run v
      g1.setVal v (.general ((RegVal.general xs).lanes g.width))
    | _ => { g with resident := g.resident.filter (fun x => x != v) }.setVal v r
  else
    let g0 := if (g.val v).isGeneral then g else g.bump 7 1
    let g1 := g0.materialise named run v
    g1.setVal v (.general ((List.range g.width).map (fun l =>
      if laneIn m l then r.lane l else (g.val v).lane l)))

/-- Makes resident what an instruction names outside a run; nothing it names is spilled for it (08 R195). -/
def refill (g : Group) (named : List Nat) (outside : List Nat := named) : Group :=
  outside.foldl (fun g r =>
    if g.isSpilled r then
      let g' := if g.budget ≤ g.resident.length then g.spillVictim named else g
      { g' with resident := g'.resident ++ [r] }
    else g) g

/-- The registers named are used now (08 R195). -/
def touch (g : Group) (named : List Nat) : Group :=
  if named.isEmpty then g
  else { g with used := named.foldl (fun t r => Sparse.put 0 t r g.useNo) g.used, useNo := g.useNo + 1 }

/-- Registers used together with those of the next `touch`. -/
def useAlso (g : Group) (rs : List Nat) : Group := { g with used := rs.foldl (fun t r => Sparse.put 0 t r g.useNo) g.used }

/-- At an instruction boundary at most `.budget` general registers are resident (08 R195, log entry 12). -/
def trim (g : Group) : Group :=
  (List.range (g.resident.length - g.budget)).foldl (fun g _ => g.spillVictim []) g

end Group

/-! ### Results in flight (01 R28, R29) -/

/-- A short-latency result: every one but of ldi. -/
def InFlight.isShort (f : InFlight) : Bool :=
  match f.kind with
  | .ldi _ => false
  | _ => true

namespace Group

/-- A result in flight to register r. -/
def inFlightTo (g : Group) (r : Nat) : Bool := g.flight.any (fun f => f.dests.contains r)

/-- The first of the registers with a result in flight. -/
def hazard (g : Group) (rs : List Nat) : Option Nat := rs.find? g.inFlightTo

/-- The first of the registers with a result in flight that no park marker has covered (01 R29). -/
def bareHazard (g : Group) (rs : List Nat) : Option Nat :=
  rs.find? (fun r => g.flight.any (fun f => f.dests.contains r && !f.covered))

/-- Outstanding short-latency results of the group (01 R30). -/
def settled (g : Group) : Bool := !g.flight.any InFlight.isShort

/-- The slot is parked by K until its outstanding short-latency results are zero (01 R28). -/
def parked (g : Group) (slot : Nat) : Bool :=
  match g.path slot with
  | some p => p.park && g.flight.any (fun f => f.isShort && f.slot == slot)
  | none => false

/-- Adds a result in flight. -/
def fly (g : Group) (f : InFlight) : Group := { g with flight := g.flight ++ [f] }

/-- Takes a result out of flight. -/
def land (g : Group) (serial : Nat) : Group := { g with flight := g.flight.filter (fun f => f.serial != serial) }

def findFlight (g : Group) (serial : Nat) : Option InFlight := g.flight.find? (fun f => f.serial == serial)

/-! ### Which path may issue -/

/-- A path parked on a recoverable fault. -/
def faulted (p : Option Path) : Bool := p.any (fun p => p.onFault)

/-- The group takes no word: it does not run, a trap is due, a recoverable fault parks it (15 R326), or its grace limit
has expired (08 R205). -/
def isHeld (g : Group) : Bool :=
  g.phase != .running || g.trap.isSome || !g.imprecise.isEmpty || g.graceOver || faulted g.p0 || faulted g.p1

/-- The acquiring atomic whose reading half a path of the group waits for (05 R128). -/
def acquiring (g : Group) : Option Nat := (g.p0.bind (·.acquiring)).or (g.p1.bind (·.acquiring))

/-- The slot holds a path that is not parked (08 R189, 01 R28, 03 R60), nor waits for the reading half of its acquiring
atomic (05 R128). -/
def canIssue (g : Group) (slot : Nat) : Bool :=
  match g.path slot with
  | some p => !g.isHeld && !g.parked slot && p.pmark.isNone && p.acquiring.isNone
  | none => false

end Group

/-- A path slot of a group that may issue, and whose word did not wait when it was last tried, is eligible but for
`yield` (08 R189). -/
def Group.ready (g : Group) (slot : Nat) : Bool := g.canIssue slot && !(g.path slot).any (·.waiting)

/-- The path slot of a group of core c, named by its identity, is eligible but for `yield`. -/
def State.slotOpen (s : State) (c : CoreId) (x : GroupId × Nat) : Bool :=
  match s.group? x.1 with
  | some g => g.core == c && g.ready x.2
  | none => false

/-- `yield` defers the path: a path slot that was eligible beside it still is and has had no opportunity, and issue
clocks are left (03 R61). -/
def State.defers (s : State) (c : CoreId) (p : Path) : Bool :=
  match p.deferral with
  | some (xs, n) => n != 0 && xs.any (s.slotOpen c)
  | none => false

/-- The arbiter tries the slot: its path may issue, and `yield` does not defer it (03 R61, 08 R189). A word that waits is
tried in every issue clock. -/
def State.eligible (s : State) (g : Group) (slot : Nat) : Bool :=
  g.canIssue slot && !(g.path slot).any (s.defers g.core)

/-- The eligible path slots of a core. -/
def State.eligibleOn (s : State) (c : CoreId) : List (GroupId × Nat) :=
  (s.groups.filter (fun e => e.2.core == c)).flatMap (fun e =>
    [0, 1].filterMap (fun k => if s.eligible e.2 k && e.2.ready k then some (e.1, k) else none))

/-! ### Paths and the divergence stack (03 R51 to R53) -/

/-- A path at the given place. -/
def Path.start (pc mask : Word) (jx : Option Nat) : Path where
  pc := pc
  mask := mask
  jx := jx
  park := false
  held := false
  capHeld := false
  waiting := false
  cwait := none
  seenOver := none
  deferral := none
  pmark := none
  retained := none
  fills := []
  released := 0
  waits := []
  onFault := false
  onFetch := false
  onBead := false
  acquiring := none
  abortNext := false

/-- The path of an entry, or none for a RECONVERGE entry. -/
def Entry.toPath : Entry → Option Path
  | .path pc m jx => some (Path.start pc m jx)
  | .reconv _ _ _ _ _ => none

def Entry.isPath : Entry → Bool
  | .path _ _ _ => true
  | .reconv _ _ _ _ _ => false

def Entry.hasId (n : Nat) : Entry → Bool
  | .path _ _ _ => false
  | .reconv i _ _ _ _ => i == n

/-- The stack without its most recently pushed PATH entry, and that path. -/
def popPath : List Entry → Option (Path × List Entry)
  | [] => none
  | e :: es =>
    match popPath es with
    | some (p, es') => some (p, e :: es')
    | none =>
      match e.toPath with
      | some p => some (p, es)
      | none => none

namespace Group

def depth (g : Group) : Nat := g.stack.length

/-- A path comes to a slot, which is parked still where a word with K has emptied it (01 R28). -/
def enter (g : Group) (slot : Nat) (p : Path) : Group :=
  { g.setPath slot (some { p with park := g.left.contains slot }) with left := g.left.filter (fun k => k != slot) }

/-- Resume (03 R52). -/
def resume (g : Group) (slot : Nat) : Group :=
  match popPath g.stack with
  | some (p, st) => { g.enter slot p with stack := st }
  | none => g

/-- Resume where the slot is empty. -/
def resumeIfEmpty (g : Group) (slot : Nat) : Group :=
  match g.path slot with
  | none => g.resume slot
  | some _ => g

/-- Split (03 R52): none where the entries would pass `.divdepth` (R51). -/
def split (g : Group) (slot : Nat) (p : Path) (items : List (Word × Word)) (rpc : Word) : Option Group :=
  let other := 1 - slot
  let k := if (g.path other).isNone then 2 else 1
  let held := (items.drop k).reverse
  if g.divdepth < g.depth + 1 + held.length then none
  else
    let e := g.nextId
    let g1 := { g with
      nextId := e + 1
      stack := g.stack ++ Entry.reconv e rpc p.mask 0 p.jx :: held.map (fun (x : Word × Word) => Entry.path x.1 x.2 (some e)) }
    let g2 := match items with
      | x :: _ => g1.setPath slot (some { p with pc := x.1, mask := x.2, jx := some e })
      | [] => g1
    let g3 := if k = 2 then
        match items with
        | _ :: y :: _ => g2.enter other (Path.start y.1 y.2 (some e))
        | _ => g2
      else g2
    some (g3.bump 5 (1 + held.length))

/-- Arrive at address a (03 R52). -/
def arrive (g : Group) (slot : Nat) (p : Path) (a : Word) : Group :=
  let on (pc mask : Word) (jx : Option Nat) : Group := g.setPath slot (some { p with pc := pc, mask := mask, jx := jx })
  match p.jx with
  | none => on (a + 16) p.mask none
  | some n =>
    match g.stack.find? (Entry.hasId n) with
    | some (.reconv _ rpc expect arrived parent) =>
      if rpc ≠ a then on (a + 16) p.mask p.jx
      else if arrived ||| p.mask = expect then
        { on (a + 16) expect parent with stack := g.stack.filter (fun e => !Entry.hasId n e) }
      else
        ({ g.setPath slot none with
            stack := g.stack.map (fun e => if Entry.hasId n e then Entry.reconv n rpc expect (arrived ||| p.mask) parent else e) }
          ).resume slot
    | _ => on (a + 16) p.mask p.jx

/-- An entry after lanes have left, freed where it keeps none (03 R53, steps 1 to 3). -/
def leaveEntry (gone : Word) : Entry → Option Entry
  | .path pc m jx => if m &&& ~~~gone = 0 then none else some (.path pc (m &&& ~~~gone) jx)
  | .reconv i rpc e a par =>
    let e' := e &&& ~~~gone
    let a' := a &&& ~~~gone
    if e' = 0 then none else if a' = e' then some (.path (rpc + 16) e' par) else some (.reconv i rpc e' a' par)

/-- A path after lanes have left. -/
def leavePath (gone : Word) (p : Option Path) : Option Path :=
  match p with
  | some p => if p.mask &&& ~~~gone = 0 then none else some { p with mask := p.mask &&& ~~~gone }
  | none => none

/-- Lanes leave (03 R53); slot S is resumed first. -/
def leave (g : Group) (slot : Nat) (gone : Word) : Group :=
  let g1 := { g with
    exited := g.exited ||| gone
    stack := g.stack.filterMap (leaveEntry gone)
    p0 := leavePath gone g.p0
    p1 := leavePath gone g.p1 }
  (g1.resumeIfEmpty slot).resumeIfEmpty (1 - slot)

end Group

end Sys2Proof.Machine
end

