-- ==== Sys2Proof/Machine/Remote.lean ====
section
/-! DEFINITION. The requester's side of remote requests: serial pairs, the order of requests to one sector, leaving
and retiring (14 R294 to R302, R306). -/

namespace Sys2Proof.Machine

/-- Two serials of a modular order: a precedes b (14 R300). -/
def precedes (a b : BitVec 32) : Bool := decide (0 < (b - a).toNat) && decide ((b - a).toNat < 2 ^ 31)

/-- Whether the peer takes the extension (14 R295). -/
def State.isPeerx (s : State) (d : Nat) : Bool := Sparse.get false s.peerx d
def State.incOf (s : State) (d : Nat) : BitVec 16 := Sparse.get 0 s.peerInc d

/-- The pair of a context with an owner, at its start values where there is none yet (14 R299). -/
def State.pair (s : State) (ctx owner : Nat) : SerialPair :=
  match Tab.get? (s.ctx ctx).pairs owner with
  | some p => p
  | none =>
    let b := (s.ctx ctx).serbase
    { next := b, low := b, ann := b, expinc := s.incOf owner, openHms := [], closed := false }

def State.setPair (s : State) (ctx owner : Nat) (p : SerialPair) : State :=
  s.modCtx ctx (fun c => { c with pairs := Tab.put c.pairs owner p })

/-- Changes a pair that the context has. -/
def State.modPair (s : State) (ctx owner : Nat) (f : SerialPair → SerialPair) : State :=
  match Tab.get? (s.ctx ctx).pairs owner with
  | some p => s.setPair ctx owner (f p)
  | none => s

/-- Requests that change the owner (14 R294). -/
def Remote.nonIdem (r : Remote) : Bool := r.req.kind != 0

def reqHasHm (q : RemoteReq) : Bool := q.kind != 0 && q.kind != 5 && q.kind != 6

/-! ### Messages on the ports (14 R293, R297, R298, R313, R314; log entry 68) -/

/-- Word 0 of the request extension (14 R297). -/
def reqWord0 (q : RemoteReq) : Nat :=
  q.rqid.toNat * 2 ^ 40 + q.expinc.toNat * 2 ^ 24 + q.kind.toNat * 2 ^ 20 + (if q.retx then 2 ^ 19 else 0)
    + (if q.rsvd then 2 ^ 18 else 0) + q.lanes.toNat * 2 ^ 12 + q.rslot.toNat

/-- Word 1 of the request extension. -/
def reqWord1 (q : RemoteReq) : Nat := q.hm.toNat * 2 ^ 32 + q.rb.toNat

/-- A floating atomic: codes 9 to 11, whose data carries the slot definition after the operand. -/
def carriesDef (q : RemoteReq) : Bool :=
  q.kind == 2 && decide (9 ≤ q.rslot.toNat % 32) && decide (q.rslot.toNat % 32 ≤ 11)

/-- The request as bytes: word 0 first, then the data. -/
def reqWire (q : RemoteReq) : List Byte :=
  (if q.ext then toBytes 8 (reqWord0 q) ++ toBytes 8 (reqWord1 q) else []) ++ q.data
    ++ (if carriesDef q then toBytes 8 q.fdef.toNat else [])

/-- Words 0 and 1 of the response extension (14 R298). -/
def respWord0 (m : RemoteResp) : Nat := m.hm.toNat * 2 ^ 32 + m.incarn.toNat * 2 ^ 16 + m.rstat.toNat
def respWord1 (m : RemoteResp) : Nat := m.echo.toNat

/-- The response as bytes; the fetched value is its data. -/
def respWire (m : RemoteResp) : List Byte :=
  (if m.ext then toBytes 8 (respWord0 m) ++ toBytes 8 (respWord1 m) else []) ++ m.data

def FabMsg.dst : FabMsg → Nat
  | .req d _ _ _ => d
  | .resp d _ _ => d

/-- The port of a message: one of 18. -/
def portTo (dst : Nat) : Nat := Config.rawPort dst % 18

/-- A port retrains. -/
def State.retrains (s : State) (p : Nat) : Bool := s.ports.any (fun e => e.1 == p && e.2.state == 2)

/-- A message leaves by its port; where that one retrains, it waits. -/
def State.putOut (s : State) (m : FabMsg) : State :=
  let p := portTo m.dst
  if s.retrains p then { s with heldOut := s.heldOut ++ [(p, m)] }
  else { s with fabOut := s.fabOut ++ [m], unacked := s.unacked ++ [(p, m)] }

/-! ### Serial pairs and sending -/

/-- LOW: the lowest hallmark not retired, or NEXT (14 R301). -/
def SerialPair.lowest (p : SerialPair) : BitVec 32 := p.openHms.headD p.next

/-- Sends a request now: a first transmission takes the next hallmark; each transmission carries the pair's EXPINC
of its first sending or re-sending (14 R299, R306). A CLOSE that is sent again once its pair is gone stays as it was:
only a request that takes a hallmark makes a pair. -/
def State.transmit (s : State) (n : Nat) (retx renew : Bool) : State :=
  match Tab.get? s.remotes n with
  | none => s
  | some r =>
    let p := s.pair r.ctx r.owner
    let first := r.sent.isEmpty
    let takes := reqHasHm r.req && first && r.req.ext
    let hm := if takes then p.next else r.req.hm
    let p' : SerialPair := if takes then { p with next := p.next + 1, openHms := p.openHms ++ [hm], closed := false } else p
    let fresh := first || (renew && (Tab.get? (s.ctx r.ctx).pairs r.owner).isSome)
    let q : RemoteReq := { r.req with
      hm := hm
      rb := if fresh then p'.lowest else r.req.rb
      expinc := if fresh then p'.expinc else r.req.expinc
      retx := retx }
    let r' : Remote := { r with req := q, queued := false, backoff := false, sent := r.sent ++ [q.expinc] }
    let s1 := if takes then s.setPair r.ctx r.owner { p' with low := p'.lowest }
      else s.modPair r.ctx r.owner (fun p => { p with low := p.lowest })
    { s1 with remotes := Tab.put s1.remotes n r' }.putOut (.req r.owner n q (reqWire q))

/-- An earlier request of the context to the sector that holds later ones back (14 R302). -/
def holdsBack (r : Remote) (ctx owner sec : Nat) : Bool :=
  r.ctx == ctx && r.owner == owner && r.sec == sec && r.nonIdem && r.req.kind != 5 && r.req.kind != 6

/-- The unretired hallmarks of a pair, from LOW to NEXT − 1 (14 R300). -/
def SerialPair.window (p : SerialPair) : Nat := (p.next - p.lowest).toNat

/-- Both limits of 14 R300 let a request leave: the pair's window, and the device's outstanding ones. -/
def State.mayLeave (s : State) (r : Remote) : Bool :=
  !r.nonIdem || ((!reqHasHm r.req || decide ((s.pair r.ctx r.owner).window < 65536))
    && !Config.remotesFull ((s.remotes.filter (fun e => e.2.nonIdem && !e.2.queued)).length))

/-- Sends every queued request that no earlier request to its sector holds back (14 R302) and for which the limits of
R300 have room; a context being switched out sends none (R312). -/
def State.sendQueued (s : State) : State :=
  (s.remotes.foldl (fun (acc : State × List Remote) e =>
    let r := e.2
    if r.queued && !acc.2.any (fun x => holdsBack x r.ctx r.owner r.sec) && !(s.ctx r.ctx).quiet
        && acc.1.mayLeave r then
      (acc.1.transmit e.1 false true, acc.2 ++ [r])
    else (acc.1, acc.2 ++ [r])) (s, [])).1

/-- A new request; it leaves at once unless an earlier one to its sector is unresolved (14 R302). -/
def State.sendRemote (s : State) (ctx owner sec : Nat) (q : RemoteReq) (purpose : Purpose) : Nat × State :=
  let n := s.serial
  let r : Remote := {
    ctx := ctx, owner := owner, sec := sec, req := { q with ext := q.kind != 0 && s.isPeerx owner }
    sent := [], retries := 0, backoff := false, queued := true, purpose := purpose }
  (n, { s with serial := n + 1, remotes := s.remotes ++ [(n, r)] }.sendQueued)

/-- A request without contents. -/
def reqPlain (s : State) (ctx : Nat) (kind : BitVec 4) (pa : Nat) : RemoteReq where
  ext := false
  hm := 0
  rb := 0
  rqid := (s.ctx ctx).rqid
  expinc := 0
  kind := kind
  retx := false
  rsvd := false
  lanes := 0
  rslot := 0
  src := s.devnum.toNat
  pa := pa
  data := []
  mask := []
  fdef := 0
  coll := []

/-- Room for k more non-idempotent requests to an owner (14 R300). -/
def State.canSend (s : State) (ctx owner k : Nat) : Bool :=
  let used := (s.remotes.filter (fun e => e.2.nonIdem)).length
  decide ((s.pair ctx owner).window + (s.remotes.filter (fun e =>
      e.2.queued && e.2.ctx == ctx && e.2.owner == owner && reqHasHm e.2.req)).length + k ≤ 65536)
    && !Config.remotesFull (used + k - 1)

/-- The request's outcome is final: its hallmark is retired and later requests may leave (14 R301, R302). -/
def State.retireRemote (s : State) (n : Nat) : State :=
  match Tab.get? s.remotes n with
  | none => s
  | some r =>
    let s1 := if r.req.ext && reqHasHm r.req then
        s.modPair r.ctx r.owner (fun p =>
          let p1 : SerialPair := { p with openHms := p.openHms.filter (fun h => h != r.req.hm) }
          { p1 with low := p1.lowest })
      else s
    { s1 with remotes := Tab.erase s1.remotes n }.sendQueued

/-- A request is unresolved. -/
def State.isOpen (s : State) (n : Nat) : Bool := (Tab.get? s.remotes n).isSome

end Sys2Proof.Machine
end

