-- ==== Sys2Proof/Machine/Mem.lean ====
section
/-! DEFINITION. Memory as the device sees it: places, home slices, poison, the cluster L1 and the package's L2 copies
of peer and host lines, and what releases and acquires do to them (05 R103, R114 to R116, 12 R246 to R272, 15 R337,
R338). -/

namespace Sys2Proof.Machine

/-! ### Places -/

/-- A place names a byte: owner device, tier and address within the tier (15 R320, R321). -/
def mkPlace (tier dev addr : Nat) : Nat := dev * 2 ^ 60 + tier * 2 ^ 56 + addr % 2 ^ 56

def placeTier (p : Nat) : Nat := (p / 2 ^ 56) % 16
def placeDev (p : Nat) : Nat := p / 2 ^ 60
def placeAddr (p : Nat) : Nat := p % 2 ^ 56

/-- Local memory: HBM and the second tier (12 R248). -/
def isLocal (p : Nat) : Bool := decide (p < 2 ^ 57)
def isPeer (p : Nat) : Bool := placeTier p == 2
def isHost (p : Nat) : Bool := placeTier p == 3

/-- The sector of a place and the place of a sector (00 R1). -/
def sectorOf (p : Nat) : Nat := p / 64
def sectorBase (sec : Nat) : Nat := sec * 64

/-- The quarantine a local place belongs to: its compute die, or 4 for the second tier (12 R273). -/
def quarOf (p : Nat) : Nat := if p < 2 ^ 56 then (p / 2 ^ 38) % 4 else 4

/-- The enabled ranges of the root ports that decode: port, base, size (16 R345). -/
def State.cxlRange (s : State) (p : Nat) : Option (Nat × Nat) :=
  let w1 := (Sparse.get 0 s.cxlSize p).toNat
  if w1 % 2 = 1 then some (placeAddr (Sparse.get 0 s.cxlBase p).toNat, w1 - 1) else none

/-- Two ranges share an address. -/
def rangesMeet (a b : Nat × Nat) : Bool :=
  decide (max a.1 b.1 < min (a.1 + a.2) (b.1 + b.2))

/-- The enabled range of a port that no other enabled range overlaps (16 R345). -/
def State.cxlAlone (s : State) (p : Nat) : Option (Nat × Nat) :=
  match s.cxlRange p with
  | none => none
  | some r => if (List.range 8).all (fun q => q == p ||
      match s.cxlRange q with
      | some r' => !rangesMeet r r'
      | none => true) then some r else none

/-- The bytes of the ranges that do not overlap, all together. -/
def State.cxlTotal (s : State) : Nat := ((List.range 8).map (fun p => ((s.cxlAlone p).getD (0, 0)).2)).sum

/-- A range overlapped by another enabled range does not decode (16 R345); neither does any where the others come to
more than the second tier's 6144 GiB (00 R1, log entry 65). -/
def State.decodes (s : State) (p : Nat) : Bool := (s.cxlAlone p).isSome && decide (s.cxlTotal ≤ 6144 * 2 ^ 30)

/-- The end of the range that holds an address, of those that decode. -/
def State.rangeEnd (s : State) (addr : Nat) : Option Nat :=
  (List.range 8).findSome? (fun p => match s.cxlRange p with
    | some r => if s.decodes p ∧ r.1 ≤ addr ∧ addr < r.1 + r.2 then some (r.1 + r.2) else none
    | none => none)

/-- The bytes from `addr` up to `stop` lie in the union of the ranges that decode: at most eight follow one another
(16 R345). -/
def State.inUnion (s : State) (stop : Nat) : Nat → Nat → Bool
  | 0, _ => false
  | k + 1, addr =>
    match s.rangeEnd addr with
    | some e => decide (stop ≤ e) || s.inUnion stop k e
    | none => false

/-- Whether n bytes at an address lie inside a tier (15 R320, R322). -/
def State.inTier (s : State) (tier addr n : Nat) : Bool :=
  match tier with
  | 0 => decide (addr + n ≤ 2 ^ 40)
  | 1 => s.inUnion (addr + n) 8 addr
  | _ => decide (addr + n ≤ 2 ^ 56)

/-! ### Home slices -/

/-- The die of a local place's home slices: that of the stack, or f mod 4 for the second tier's frame f (15 R320). -/
def homeDie (p : Nat) : Nat := if p < 2 ^ 56 then (p / 2 ^ 38) % 4 else (placeAddr p / 65536) % 4

/-- The L2 slice of a place: its home, or the slice that may hold the package's copy (12 R248; log entry 37). -/
def sliceOf (p : Nat) : Nat :=
  if isLocal p then 16 * homeDie p + Config.rawSlice (p / 512) % 16 else Config.rawSlice (p / 512) % 64

/-- Follows migrations from frame to frame, at most n of them. -/
def redirectBy (ms : List (Nat × Migration)) : Nat → Nat → Nat
  | 0, p => p
  | n + 1, p =>
    match ms.find? (fun e => e.2.committed && e.2.src == p / 65536) with
    | some e => redirectBy ms n (e.2.dst * 65536 + p % 65536)
    | none => p

/-- Where an access to a home slice is performed: a migrated frame's accesses go to the destination, and from there to
that of a later migration of the page (15 R338, R339). -/
def State.redirect (s : State) (p : Nat) : Nat := redirectBy s.migrations s.migrations.length p

/-- A byte of local memory at its home slice. -/
def State.homeByte (s : State) (p : Nat) : Byte := Memory.read s.mem (s.redirect p)

def State.homeRead (s : State) (p n : Nat) : List Byte := (List.range n).map (fun i => s.homeByte (p + i))

/-- Whether a local sector is poisoned (05 R103). -/
def State.isPoisoned (s : State) (sec : Nat) : Bool := s.poison.contains (sectorOf (s.redirect (sectorBase sec)))

/-- The dirty-filter entries a write to a frame sets (15 R338). -/
def markDirty (frame : Nat) (e : Nat × Migration) : Nat × Migration :=
  if !e.2.committed && (e.2.src == frame || Config.filterAlias e.2.src frame) then (e.1, { e.2 with dirty := true })
  else e

/-- Writes masked bytes from a on. -/
def writeMasked : List Host.Cell → Nat → List Byte → Nat → List Host.Cell
  | m, _, [], _ => m
  | m, a, b :: bs, mask => writeMasked (if mask % 2 = 1 then Memory.write m a b else m) (a + 1) bs (mask / 2)

/-- Writes the masked bytes of a sector at its home slice; where one store has written the whole sector its poison is
cleared (05 R103). -/
def State.homeWrite (s : State) (sec : Nat) (bytes : List Byte) (mask : Word) (whole : Bool := mask == fullMask 64) :
    State :=
  let a := s.redirect (sectorBase sec)
  { s with
    mem := writeMasked s.mem a bytes mask.toNat
    poison := if whole then s.poison.filter (fun x => x != sectorOf a) else s.poison
    migrations := s.migrations.map (markDirty (a / 65536)) }

/-- The mask of n bytes from offset o of a sector. -/
def byteMask (o n : Nat) : Word := fullMask n <<< o

/-- A sector's worth of bytes with the given ones from offset o on. -/
def place64 (o : Nat) (bs : List Byte) : List Byte :=
  List.replicate o 0 ++ bs ++ List.replicate (64 - o - bs.length) 0

/-- Writes bytes that lie within one sector at its home slice. -/
def State.homeWriteAt (s : State) (p : Nat) (bs : List Byte) : State :=
  s.homeWrite (sectorOf p) (place64 (p % 64) bs) (byteMask (p % 64) bs.length)

/-- Splits bytes at sector boundaries: place and bytes of each piece. -/
def pieces : Nat → Nat → List Byte → List (Nat × List Byte)
  | 0, _, _ => []
  | _, _, [] => []
  | n + 1, p, bs =>
    let k := 64 - p % 64
    (p, bs.take k) :: pieces n (p + k) (bs.drop k)

/-- Writes any bytes at the home slices, sector by sector. -/
def State.homeWriteN (s : State) (p : Nat) (bs : List Byte) : State :=
  (pieces (bs.length + 1) p bs).foldl (fun s x => s.homeWriteAt x.1 x.2) s

/-- Stamps of accesses to local places: quarantine and its generation when translated (12 R273). -/
def State.stampOf (s : State) (p : Nat) : List (Nat × BitVec 32) :=
  if isLocal p then [(quarOf p, (s.quar (quarOf p)).gen)] else []

/-! ### Cached sectors -/

/-- Byte i of the valid ones over a list of fill bytes. -/
def overlay (valid : Word) (own fill : List Byte) : List Byte :=
  (List.range 64).map (fun i => if laneIn valid i then own.getD i 0 else fill.getD i 0)

/-- A sector filled from below: what it already holds stays (12 R252). -/
def Sector.fill (x : Sector) (below : List Byte) : Sector :=
  { x with bytes := overlay x.valid x.bytes below, valid := fullMask 64 }

/-- The masked bytes written into a cached sector by one store; `whole` says that it writes every bit of the sector. -/
def Sector.write (x : Sector) (bs : List Byte) (m : Word) (whole : Bool := m == fullMask 64) : Sector :=
  { bytes := overlay m bs x.bytes, valid := x.valid ||| m, mask := x.mask ||| m, whole := x.whole || whole }

/-- The sector after its write-back. -/
def Sector.clean (x : Sector) : Sector := { x with mask := 0, whole := false }

/-- The masked bytes, already written below, replace what the sector held of them and are not dirty any more. -/
def Sector.pass (x : Sector) (bs : List Byte) (m : Word) : Sector :=
  { x with bytes := overlay m bs x.bytes, valid := x.valid ||| m, mask := x.mask &&& ~~~m }

def Sector.holds (x : Sector) (m : Word) : Bool := x.valid &&& m == m

def Sector.blank : Sector := { bytes := List.replicate 64 0, valid := 0, mask := 0, whole := false }

/-- Written bytes only stay; a sector without any goes (12 R255). -/
def Sector.invalidate (x : Sector) : Option Sector :=
  if x.mask = 0 then none else some { x with valid := x.mask }

def setSector (t : List (Nat × Sector)) (sec : Nat) (x : Option Sector) : List (Nat × Sector) :=
  match x with
  | some v => Tab.put t sec v
  | none => Tab.erase t sec

def State.l1Sector (s : State) (clus sec : Nat) : Option Sector := Tab.get? (s.cluster clus).l1 sec

/-- Only lines with a valid sector stay lines of the L1. -/
def Cluster.prune (c : Cluster) : Cluster :=
  { c with lines := c.lines.filter (fun e => c.l1.any (fun x => x.1 / 8 == e.line)) }

def State.setL1 (s : State) (clus sec : Nat) (x : Option Sector) : State :=
  s.modCluster clus (fun c =>
    let y := { c with l1 := setSector c.l1 sec x }
    if x.isNone then y.prune else y)
def State.l2Sector (s : State) (sec : Nat) : Option Sector := Tab.get? s.l2 sec

/-- Sets or drops a copy; a line stays with the copies it holds. -/
def State.setL2 (s : State) (sec : Nat) (x : Option Sector) : State :=
  let l2 := setSector s.l2 sec x
  { s with
    l2 := l2
    l2lines := if x.isSome then s.l2lines
      else s.l2lines.filter (fun e => e.1 != sec / 8 || l2.any (fun y => y.1 / 8 == e.1)) }

/-- A write-back of the sector is on its way (14 R315). -/
def State.wbOpen (s : State) (sec : Nat) : Bool :=
  s.remotes.any (fun e => match e.2.purpose with
    | .writeback x _ => x == sec
    | _ => false)

/-! ### Host memory (16 R340; log entry 66) -/

/-- The address that a request to host memory carries: the bus address, or what its translation gave where the host has
enabled ATS (16 R340). -/
def State.bus (s : State) (addr : Nat) : Nat :=
  if s.atsEn then
    (match Tab.get? s.atc (addr / 4096) with
      | some t => t
      | none => Config.hostPage (addr / 4096)) * 4096 + addr % 4096
  else addr

def State.hostRead (s : State) (addr n : Nat) : List Byte :=
  (List.range n).map (fun i => Memory.read s.hostMem (s.bus (addr + i)))
/-- Writes the masked bytes of a sector of host memory. -/
def State.hostWrite (s : State) (addr : Nat) (bytes : List Byte) (mask : Word) : State :=
  { s with hostMem := writeMasked s.hostMem (s.bus addr) bytes mask.toNat }
def State.hostWriteN (s : State) (addr : Nat) (bs : List Byte) : State :=
  (pieces (bs.length + 1) addr bs).foldl (fun s x => { s with hostMem := Memory.writeN s.hostMem (s.bus x.1) x.2 }) s

/-! ### Lines: sets, retention and victims (05 R114, 10 R224, R225; log entry 62) -/

/-- The first choices for a victim first: the lowest class, and of a class the oldest (10 R225). -/
def byClass {α : Type} (hint : α → Hint) (xs : List α) : List α :=
  xs.filter (fun e => hint e == .strm) ++ xs.filter (fun e => hint e != .strm && hint e != .stky)
    ++ xs.filter (fun e => hint e == .stky)

/-- A sticky access beyond the cap is an ordinary one (05 R114). -/
def capped (cap sticky : Nat) (h : Hint) : Hint := if h = .stky ∧ cap ≤ sticky then .dflt else h

/-- Two lines of one set: bits 13 to 9 of the address. -/
def sameSet (a b : Nat) : Bool := a % 32 == b % 32

/-- c: the CACHE banks, those that drain among them (10 R223, R224). -/
def Cluster.cacheCount (c : Cluster) : Nat := ((List.range 32).filter (fun b => (c.bank b).mode == .cache)).length

/-- The CACHE banks that take new lines (10 R223, R224). -/
def Cluster.openBanks (c : Cluster) : List Nat :=
  (List.range 32).filter (fun b => (c.bank b).mode == .cache && (c.bank b).target.isNone)

def State.cacheBanks (s : State) (clus : Nat) : Nat := (s.cluster clus).openBanks.length

/-- The lines of a set in the banks that take new ones, the oldest first. -/
def Cluster.set (c : Cluster) (line : Nat) : List L1Line :=
  c.lines.filter (fun e => sameSet e.line line && c.openBanks.contains e.bank)

/-- The retention record after an access with a hint: at most half the ways of a set are sticky (10 R225). -/
def Cluster.record (c : Cluster) (line : Nat) (h : Hint) : Hint :=
  capped (2 * c.cacheCount) ((c.lines.filter (fun e => e.line != line && sameSet e.line line && e.hint == .stky)).length) h

/-- An access with a hint touches a line that the L1 holds (05 R114). -/
def Cluster.note (c : Cluster) (line : Nat) (h : Hint) : Cluster :=
  { c with lines := c.lines.map (fun e => if e.line = line then { e with hint := c.record line h } else e) }

def State.noteLine (s : State) (clus sec : Nat) (h : Hint) : State := s.modCluster clus (fun c => c.note (sec / 8) h)

/-- Sticky lines above the cap of their set become ordinary, the oldest first. -/
def recapLines (cap : Nat) : List L1Line → List L1Line
  | [] => []
  | e :: es =>
    let younger := (es.filter (fun x => x.hint == .stky && sameSet x.line e.line)).length
    (if e.hint = .stky ∧ cap ≤ younger then { e with hint := .dflt } else e) :: recapLines cap es

/-- The sticky cap follows a change of c (10 R225). -/
def State.recap (s : State) (clus : Nat) : State :=
  s.modCluster clus (fun c => { c with lines := recapLines (2 * c.cacheCount) c.lines })

/-- The bank with a free way for a line. -/
def Cluster.freeBank (c : Cluster) (line : Nat) : Option Nat :=
  c.openBanks.find? (fun b => decide (((c.set line).filter (fun e => e.bank == b)).length < 4))

/-- The sectors of the lines in banks that do not stay CACHE: they leave (10 R223). -/
def State.victimSectors (s : State) (clus : Nat) : List Nat :=
  let c := s.cluster clus
  (c.lines.filter (fun e => !c.openBanks.contains e.bank)).flatMap (fun e =>
    (c.l1.filter (fun x => x.1 / 8 == e.line)).map Prod.fst)

/-! ### The package's L2 copies (00 R1, 05 R114, 12 R248, R252) -/

/-- A local line at its home slice, or a copy of a peer or host line, that a slice holds. -/
def inSlice (i : Nat) (e : Nat × Hint) : Bool := sliceOf (e.1 * 512) == i

/-- The lines of a slice of 6 MiB. -/
def sliceLines : Nat := 12288

/-- The lines that the slice of a line holds. -/
def State.sliceOfLine (s : State) (line : Nat) : List (Nat × Hint) := s.l2lines.filter (inSlice (sliceOf (line * 512)))

/-- The slice of a line has room for n lines more. -/
def State.sliceRoom (s : State) (line n : Nat) : Bool :=
  decide (s.l2lines.length + n ≤ sliceLines) || decide ((s.sliceOfLine line).length + n ≤ sliceLines)

/-- The L2 holds the line. -/
def State.holdsLine (s : State) (line : Nat) : Bool := s.l2lines.any (fun e => e.1 == line)

/-- A line may leave its slice now: no copy in it holds written bytes that a request has to bring to their owner, which
stay until its outcome is final (14 R315). -/
def State.l2Leaves (s : State) (line : Nat) : Bool :=
  s.l2.all (fun e => e.1 / 8 != line || e.2.mask == 0 || isHost (sectorBase e.1))

/-- Starts the write-back of a dirty L2 copy: to host memory at once, to a peer by one KIND 1 request (14 R315). The
list holds the requests whose outcome is open. -/
def State.wbL2 (s : State) (ctx sec : Nat) (who : Option (GroupId × TrapInfo)) : State × List Nat :=
  match s.l2Sector sec with
  | none => (s, [])
  | some x =>
    if x.mask = 0 ∨ s.wbOpen sec = true ∨
        (isPeer (sectorBase sec) = true ∧ s.canSend ctx (placeDev (sectorBase sec)) 1 = false) then (s, [])
    else if isHost (sectorBase sec) then
      ((s.hostWrite (placeAddr (sectorBase sec)) x.bytes x.mask).setL2 sec (some { x with mask := 0 }), [])
    else
      let p := sectorBase sec
      let q := { reqPlain s ctx 1 (placeAddr p) with
        data := x.bytes, mask := (List.range 64).map (laneIn x.mask) }
      let r := s.sendRemote ctx (placeDev p) sec q (.writeback sec who)
      (r.2, [r.1])

/-- Every dirty L2 copy is sent to its owner or to host memory; `who` says for each sector whose write-back it is. -/
def State.wbAllL2 (s : State) (ctx : Nat) (who : Nat → Option (GroupId × TrapInfo)) : State × List Nat :=
  s.l2.foldl (fun acc e => let r := acc.1.wbL2 ctx e.1 (who e.1); (r.1, acc.2 ++ r.2)) (s, [])

/-- A line leaves its slice: copies without written bytes go, the others are written back first. A line with a
write-back on its way stays. Context 0 makes the requests (log entry 41). -/
def State.evictL2 (s : State) (line : Nat) : State :=
  let s1 := ((s.l2.filter (fun e => e.1 / 8 == line)).map Prod.fst).foldl (fun s sec => (s.wbL2 0 sec none).1) s
  let stays (e : Nat × Sector) : Bool := e.1 / 8 != line || e.2.mask != 0
  let l2 := s1.l2.filter stays
  { s1 with l2 := l2, l2lines := s1.l2lines.filter (fun e => e.1 != line || l2.any (fun x => x.1 / 8 == line)) }

/-- Room in its slice for a line: a victim leaves a full one (05 R114). Where no line may leave, the write-backs of the
first victim start, and there is no room yet. -/
def State.roomL2 (s : State) (line : Nat) : Bool × State :=
  if s.holdsLine line || s.sliceRoom line 1 then (true, s)
  else
    let es := byClass Prod.snd (s.sliceOfLine line)
    match es.find? (fun e => s.l2Leaves e.1) with
    | some e => (true, s.evictL2 e.1)
    | none => (false, es.head?.elim s (fun e => s.evictL2 e.1))

/-- The slice of a line can hold it now, with the other lines that one word writes. -/
def State.fitsL2 (s : State) (lines : List Nat) (line : Nat) : Bool :=
  s.holdsLine line || s.sliceRoom line lines.length ||
    decide (lines.length ≤ ((s.sliceOfLine line).filter (fun e => !lines.contains e.1 && s.l2Leaves e.1)).length)

/-- An access beneath the L1 with a hint allocates or touches a line of its slice, where there is room (05 R114).
Without a hint the record of a line that is there stays. -/
def State.noteL2 (s : State) (sec : Nat) (h : Option Hint) : State :=
  let line := sec / 8
  if s.holdsLine line then
    match h with
    | none => s
    | some k =>
      let sticky := if k = .stky then
          (s.l2lines.filter (fun e => e.1 != line && e.2 == .stky && inSlice (sliceOf (line * 512)) e)).length
        else 0
      { s with l2lines := s.l2lines.map (fun e => if e.1 = line then (line, capped (sliceLines / 2) sticky k) else e) }
  else
    let r := s.roomL2 line
    if r.1 then
      let k := h.getD .dflt
      let sticky := if k = .stky then ((r.2.sliceOfLine line).filter (fun e => e.2 == .stky)).length else 0
      { r.2 with l2lines := r.2.l2lines ++ [(line, capped (sliceLines / 2) sticky k)] }
    else r.2

/-- A copy of a sector comes into the L2, where its slice has room for the line. -/
def State.putL2 (s : State) (sec : Nat) (x : Sector) (h : Option Hint := none) : State :=
  let s1 := s.noteL2 sec h
  if s1.holdsLine (sec / 8) then s1.setL2 sec (some x) else s1

/-- The L2 column of 05 R114: the hint an access has there, given its page's default retention. -/
def l2Hint (h ret : Hint) : Hint :=
  match h with
  | .byp => .strm
  | .dflt => ret
  | _ => h

/-- Writes the masked bytes of a sector into the package's L2 copy of a peer or host sector. Bytes of host memory pass a
slice that has no room for the line; a peer's sector takes a write only where it has (`takesWrite`). -/
def State.l2Merge (s : State) (sec : Nat) (bytes : List Byte) (mask : Word) (h : Option Hint := none) : State :=
  let s1 := s.noteL2 sec h
  let x := (s1.l2Sector sec).getD Sector.blank
  if isHost (sectorBase sec) && !s1.holdsLine (sec / 8) && (s1.l2Sector sec).isNone then
    s1.hostWrite (placeAddr (sectorBase sec)) bytes mask
  else s1.setL2 sec (some { x with
    bytes := overlay mask bytes x.bytes, valid := x.valid ||| mask, mask := x.mask ||| mask })

/-- The sector takes a write beneath the L1 now: a peer sector does not while its write-back is on its way (14 R315), nor
while its slice has no room for the line; `lines` are those that the word writes. -/
def State.takesWrite (s : State) (sec : Nat) (lines : List Nat := [sec / 8]) : Bool :=
  !isPeer (sectorBase sec) || (!s.wbOpen sec && s.fitsL2 lines (sec / 8))

/-- Requests of write-backs on their way. -/
def State.openWbs (s : State) : List Nat :=
  (s.remotes.filter (fun e => match e.2.purpose with
    | .writeback _ _ => true
    | _ => false)).map Prod.fst

/-- Every L2 copy is invalidated; written bytes not yet at their owner stay (12 R255). -/
def State.dropL2 (s : State) : State :=
  let l2 := s.l2.filterMap (fun e => e.2.invalidate.map (fun x => (e.1, x)))
  { s with
    l2 := l2
    l2lines := s.l2lines.filter (fun e => isLocal (e.1 * 512) || l2.any (fun x => x.1 / 8 == e.1))
    l2bad := [] }

/-! ### The cluster L1: write-back and eviction (12 R252, R255) -/

/-- Writes a dirty L1 sector to the level beneath it (12 R252). A sector that takes no write there now stays dirty (14
R315). -/
def State.wbL1 (s : State) (clus sec : Nat) : State :=
  match s.l1Sector clus sec with
  | none => s
  | some x =>
    if x.mask = 0 then s
    else if isLocal (sectorBase sec) then
      (s.homeWrite sec x.bytes x.mask x.whole).setL1 clus sec (some x.clean)
    else if s.wbOpen sec then s
    else if s.takesWrite sec then (s.l2Merge sec x.bytes x.mask).setL1 clus sec (some x.clean)
    else (s.roomL2 (sec / 8)).2

/-- Every dirty sector of the cluster L1 is written back (12 R255). -/
def State.wbCluster (s : State) (clus : Nat) : State :=
  (s.cluster clus).l1.foldl (fun s e => s.wbL1 clus e.1) s

/-- The cluster L1 holds written bytes. -/
def State.l1Dirty (s : State) (clus : Nat) : Bool := (s.cluster clus).l1.any (fun e => e.2.mask != 0)

/-- The write-back of every dirty sector of a cluster, and whether it is done: a peer sector stays dirty while an
earlier write-back of it is on its way, and what writes the cluster back waits for that (12 R255, R271, 14 R315). -/
def State.drainL1 (s : State) (clus : Nat) : Bool × State :=
  let s1 := s.wbCluster clus
  (!s1.l1Dirty clus, s1)

/-- Every line of the cluster L1 is invalidated, dirty sectors written back first (12 R255). -/
def State.dropCluster (s : State) (clus : Nat) : State :=
  (s.wbCluster clus).modCluster clus (fun c =>
    Cluster.prune { c with l1 := c.l1.filterMap (fun e => e.2.invalidate.map (fun x => (e.1, x))) })

/-- A line may leave the L1 now: the level beneath takes its written bytes (14 R315). -/
def State.canLeave (s : State) (clus line : Nat) : Bool :=
  (s.cluster clus).l1.all (fun x => x.1 / 8 != line || x.2.mask == 0
    || isLocal (sectorBase x.1) || (!s.wbOpen x.1 && s.takesWrite x.1))

/-- A line leaves the L1, written bytes first (12 R253). -/
def State.evictL1 (s : State) (clus line : Nat) : State :=
  let secs := ((s.cluster clus).l1.filter (fun x => x.1 / 8 == line)).map Prod.fst
  (secs.foldl (fun s sec => s.wbL1 clus sec) s).modCluster clus (fun c => { c with
    l1 := c.l1.filter (fun x => x.1 / 8 != line), lines := c.lines.filter (fun e => e.line != line) })

/-- A line comes to the L1 of a cluster: in a free way, or in place of the victim of its set (10 R224, R225); none where
every way holds a line that cannot leave. -/
def State.enterLine (s : State) (clus line : Nat) (h : Hint) : Option State :=
  let c := s.cluster clus
  let enter (s : State) (b : Nat) : State := s.modCluster clus (fun c =>
    { c with lines := c.lines ++ [{ line := line, hint := c.record line h, bank := b }] })
  match c.freeBank line with
  | some b => some (enter s b)
  | none =>
    match (byClass L1Line.hint (c.set line)).find? (fun e => s.canLeave clus e.line) with
    | some e => some (enter (s.evictL1 clus e.line) e.bank)
    | none => none

/-- Room in the L1 for a sector: in the line that holds it, or in a new one. A line in a bank that drains takes no new
sector: it leaves, and comes again to another bank (10 R223). -/
def State.makeRoom (s : State) (clus sec : Nat) (h : Hint) : Option State :=
  let line := sec / 8
  let c := s.cluster clus
  match c.lines.find? (fun e => e.line == line) with
  | some e =>
    if c.openBanks.contains e.bank then some (s.noteLine clus sec h)
    else if c.openBanks.isEmpty || !s.canLeave clus line then none
    else (s.evictL1 clus line).enterLine clus line h
  | none => s.enterLine clus line h

/-! ### Plain reads and writes -/

/-- What a read of bytes below L1 answers. -/
inductive Below
  /-- the 64 bytes of the sector -/
  | bytes (bs : List Byte)
  /-- a peer sector that must be read from its owner first (log entry 7) -/
  | need
  | poisoned
  deriving DecidableEq, Repr

/-- The sector as the level beneath the cluster L1 gives it: the home slice, or the package's L2 copy, which host
sectors fill at once. A hint is recorded in the line (05 R114). A copy that the checker found uncorrectable is poisoned for
what reads it next, and none is left (16 R352). -/
def State.below (s : State) (sec : Nat) (h : Option Hint := none) : Below × State :=
  let p := sectorBase sec
  let t := if h.isSome then s.noteL2 sec h else s
  let fillHost (x : Sector) : Below × State :=
    let y := x.fill (s.hostRead (placeAddr p) 64)
    (.bytes y.bytes, s.putL2 sec y h)
  if isLocal p then (if s.isPoisoned sec then .poisoned else .bytes (s.homeRead p 64), t)
  else if s.l2bad.contains sec then (.poisoned, { s with l2bad := s.l2bad.filter (fun x => x != sec) })
  else
    match s.l2Sector sec with
    | some x =>
      if x.valid = fullMask 64 then (.bytes x.bytes, t)
      else if isHost p then fillHost x
      else (.need, s)
    | none => if isHost p then fillHost Sector.blank else (.need, s)

/-- An L1 sector that stores of parts of a poisoned sector alone have made: the sector stays poisoned, whatever they have
written of it (05 R103). -/
def State.ownHalf (s : State) (sec : Nat) (x : Sector) : Bool :=
  isLocal (sectorBase sec) && s.isPoisoned sec && x.valid == x.mask && !x.whole

/-- A plain read of n bytes of one sector by a cluster (12 R249, 10 R224): from the L1, which a miss fills; beneath it
with `.byp` or where the L1 has no room, but for the bytes the cluster itself has written (05 R114). What `.byp` has
read renews a copy that the L1 holds, so that a later read is no older (12 R251). `h2` is the hint in the L2. -/
def State.plainRead (s : State) (clus p n : Nat) (h : Hint) (h2 : Hint := .dflt) : Below × State :=
  let sec := sectorOf p
  let o := p % 64
  let m := byteMask o n
  let cut (bs : List Byte) : Below := .bytes ((bs.drop o).take n)
  match s.l1Sector clus sec with
  | some x =>
    if h = .byp then
      match s.below sec (some h2) with
      | (.bytes bs, s1) =>
        let y := { x with bytes := overlay x.mask x.bytes bs, valid := fullMask 64 }
        (cut y.bytes, (s1.setL1 clus sec (some y)).noteLine clus sec h)
      | r => r
    else if s.ownHalf sec x = true then (.poisoned, s)
    else if x.valid = fullMask 64 ∨ (isLocal (sectorBase sec) = false ∧ x.holds m = true) then
      (cut x.bytes, s.noteLine clus sec h)
    else
      match s.below sec (some h2) with
      | (.bytes bs, s1) =>
        let y := x.fill bs
        (cut y.bytes, (s1.setL1 clus sec (some y)).noteLine clus sec h)
      | r => r
  | none =>
    match s.below sec (some h2) with
    | (.bytes bs, s1) =>
      if h = .byp then (cut bs, s1.noteLine clus sec h)
      else
        match s1.makeRoom clus sec h with
        | some s2 => (cut bs, s2.setL1 clus sec (some (Sector.blank.fill bs)))
        | none => (cut bs, s1)
    | r => r

/-- The masked bytes of a sector, written below L1: at the home slice, or into the package's L2 copy. -/
def State.writeBelow (s : State) (sec : Nat) (bs : List Byte) (m : Word) (h : Option Hint := none)
    (whole : Bool := m == fullMask 64) : State :=
  if isLocal (sectorBase sec) then (if h.isSome then s.noteL2 sec h else s).homeWrite sec bs m whole
  else s.l2Merge sec bs m h

/-- A write that is performed below L1; a copy in the cluster L1 takes the bytes too and owes them no more. -/
def State.writeThrough (s : State) (clus sec : Nat) (bs : List Byte) (m : Word) (h : Option Hint := none)
    (whole : Bool := m == fullMask 64) : State :=
  let s1 := s.writeBelow sec bs m h whole
  match s1.l1Sector clus sec with
  | some x => s1.setL1 clus sec (some (x.pass bs m))
  | none => s1

/-- The L1 takes a store to a sector, in the state given. -/
def State.storeRoom (s : State) (clus sec : Nat) (h : Hint) : Option State :=
  if h = .byp then none
  else if (s.l1Sector clus sec).isSome then some (s.noteLine clus sec h)
  else s.makeRoom clus sec h

/-- A plain store of masked bytes of a sector (12 R249, R253): into the L1, or below it with `.byp` or where the L1 has
no room. A store miss of a local sector fills it (10 R224), unless the sector is poisoned. -/
def State.plainWrite (s : State) (clus sec : Nat) (bs : List Byte) (m : Word) (h : Hint) (h2 : Hint := .dflt)
    (whole : Bool := m == fullMask 64) : State :=
  match s.storeRoom clus sec h with
  | none => (s.writeThrough clus sec bs m (some h2) whole).noteLine clus sec h
  | some s1 =>
    let x0 := (s1.l1Sector clus sec).getD Sector.blank
    if isLocal (sectorBase sec) && !s.isPoisoned sec && x0.valid != fullMask 64 then
      (s1.noteL2 sec (some h2)).setL1 clus sec (some ((x0.fill (s1.homeRead (sectorBase sec) 64)).write bs m whole))
    else s1.setL1 clus sec (some (x0.write bs m whole))

/-- Bytes at places within one sector each, gathered by sector; later ones lie over earlier ones. -/
def gather (xs : List (Nat × List Byte)) : List (Nat × List Byte × Word) :=
  xs.foldl (fun acc x =>
    let sec := sectorOf x.1
    let m := byteMask (x.1 % 64) x.2.length
    let bs := place64 (x.1 % 64) x.2
    match Tab.get? acc sec with
    | some (old, om) => Tab.put acc sec (overlay m bs old, om ||| m)
    | none => Tab.put acc sec (bs, m)) []

/-- The peer's bytes of a sector become the L2 copy; bytes written meanwhile stay. A sector whose write-back is on its
way takes no fill (14 R315). -/
def State.installL2 (s : State) (sec : Nat) (bs : List Byte) : State :=
  let s1 := { s with l2bad := s.l2bad.filter (fun x => x != sec) }
  if s.wbOpen sec then s1 else s1.putL2 sec (((s.l2Sector sec).getD Sector.blank).fill bs)

/-- Sends a read of a peer sector (14 R294). -/
def State.askSector (s : State) (ctx sec : Nat) (purpose : Purpose) : State :=
  let p := sectorBase sec
  (s.sendRemote ctx (placeDev p) sec (reqPlain s ctx 0 (placeAddr p)) purpose).2

/-! ### Reads and writes by engines -/

/-- A read by an engine of bytes of one sector at .dev: the home slice, or the package's L2 copy (12 R267, R270). -/
def State.devRead (s : State) (p n : Nat) (h : Option Hint := none) : Below × State :=
  match s.below (sectorOf p) h with
  | (.bytes bs, s1) => (.bytes ((bs.drop (p % 64)).take n), s1)
  | r => r

/-- The package's copy after a write to its owner: it takes the bytes, but not while its write-back is on its way
(14 R315). -/
def State.passL2 (s : State) (sec : Nat) (bs : List Byte) (m : Word) : State :=
  match s.l2Sector sec with
  | some x => if s.wbOpen sec then s else s.setL2 sec (some (x.pass bs m))
  | none => s

/-- A write by an engine at .sys of masked bytes of a sector: at the home slice or in host memory; the bytes of a
peer's page leave as one KIND 1 request (12 R269, R270). -/
def State.sysWriteMasked (s : State) (ctx sec : Nat) (bs : List Byte) (m : Word) (purpose : Purpose) :
    State × List Nat :=
  let p := sectorBase sec
  if isLocal p then (s.homeWrite sec bs m, [])
  else if isHost p then ((s.passL2 sec bs m).hostWrite (placeAddr p) bs m, [])
  else
    let s1 := s.passL2 sec bs m
    let q := { reqPlain s1 ctx 1 (placeAddr p) with data := bs, mask := (List.range 64).map (laneIn m) }
    let r := s1.sendRemote ctx (placeDev p) sec q purpose
    (r.2, [r.1])

/-- The same for bytes that lie within one sector. -/
def State.sysWrite (s : State) (ctx p : Nat) (bs : List Byte) (purpose : Purpose) : State × List Nat :=
  s.sysWriteMasked ctx (sectorOf p) (place64 (p % 64) bs) (byteMask (p % 64) bs.length) purpose

/-! ### Context areas (08 R198, 16 R344) -/

/-- Bytes of a context area: physical, without translation. None where one lies outside tiers 0 and 1. -/
def State.areaOk (s : State) (p n : Nat) : Bool :=
  decide (p < 2 ^ 57) && s.inTier (placeTier p) (placeAddr p) n

/-- Context areas are written and read at their home slices, as every local place is (15 R338, 16 R352). -/
def State.areaWrite (s : State) (p : Nat) (bs : List Byte) : State := s.homeWriteN p bs

def State.areaRead (s : State) (p n : Nat) : List Byte := s.homeRead p n

/-- A sector of an area is poisoned (16 R352). -/
def State.areaPoisoned (s : State) (p n : Nat) : Bool :=
  (List.range ((p % 64 + n + 63) / 64)).any (fun i => s.isPoisoned (sectorOf p + i))

end Sys2Proof.Machine
end

