-- ==== Sys2Proof/Machine/Translate.lean ====
section
/-! DEFINITION. Translation: page tables, TLBs, the probe, and fault records (08 R197, 15 R319 to R333). -/

namespace Sys2Proof.Machine

/-! ### Page-table entries (15 R321) -/

/-- The fields of an entry. -/
structure Pte where
  peer : Nat
  frame : Nat
  size : Nat
  acc : Bool
  dirty : Bool
  mig : Bool
  ret : Nat
  tier : Nat
  ex : Bool
  wr : Bool
  rd : Bool
  v : Bool
  resv : Bool
  deriving DecidableEq, Repr

def Pte.ofWord (e : BitVec 128) : Pte where
  peer := (e.extractLsb' 64 10).toNat
  frame := (e.extractLsb' 16 48).toNat
  size := (e.extractLsb' 11 2).toNat
  acc := e.getLsbD 10
  dirty := e.getLsbD 9
  mig := e.getLsbD 8
  ret := (e.extractLsb' 6 2).toNat
  tier := (e.extractLsb' 4 2).toNat
  ex := e.getLsbD 3
  wr := e.getLsbD 2
  rd := e.getLsbD 1
  v := e.getLsbD 0
  resv := e.extractLsb' 74 54 != 0 || e.extractLsb' 13 3 != 0

/-- What an access needs of a leaf (15 R322). -/
inductive Kind
  | read | write | atomic | fetch | probe
  deriving DecidableEq, Repr

def Kind.writes : Kind → Bool
  | .write => true
  | .atomic => true
  | _ => false

/-- ACC of a fault record (15 R329). -/
def Kind.acc : Kind → BitVec 2
  | .read => 0
  | .write => 1
  | .atomic => 1
  | .fetch => 2
  | .probe => 0

def Pte.permits (e : Pte) : Kind → Bool
  | .read => e.rd
  | .write => e.wr
  | .atomic => e.rd && e.wr
  | .fetch => e.ex
  | .probe => true

/-- Bytes a leaf of level L maps (15 R319). -/
def pageSize (level : Nat) : Nat := 2 ^ (16 + 12 * level)

/-- The index of a level's table: T4 by segment (15 R319). -/
def tableIndex (seg : BitVec 8) (off : Nat) (level : Nat) : Nat :=
  if level = 4 then seg.toNat else (off / 2 ^ (16 + 12 * level)) % 4096

/-- What a walk ends with: the leaf, its place and its level. -/
inductive Walked
  | leaf (e : BitVec 128) (at_ : Nat) (level : Nat)
  | recoverable
  | bad (detail : BitVec 16)
  deriving DecidableEq, Repr

/-- Walk (15 R322) from the table at place t, with `level + 1` levels left. -/
def State.walkFrom (s : State) (seg : BitVec 8) (off : Nat) : Nat → Nat → Walked
  | 0, _ => .bad 2
  | n + 1, t =>
    let p := t + 16 * tableIndex seg off n
    let w := BitVec.ofNat 128 (ofBytes (s.homeRead p 16))
    let e := Pte.ofWord w
    if s.isPoisoned (sectorOf p) then .bad 4
    else if !e.v then .recoverable
    else if e.resv then .bad 1
    else if n = 0 ∨ e.rd = true ∨ e.wr = true ∨ e.ex = true then
      if 3 ≤ n then .bad 2
      else if e.peer ≠ 0 ∧ e.tier ≠ 2 then .bad 1
      else if e.size ≠ n then .bad 2
      else if e.frame % (pageSize n / 65536) ≠ 0 ∨ s.inTier e.tier (e.frame * 65536) (pageSize n) = false then .bad 3
      else .leaf w p n
    else if 2 ≤ e.tier ∨ e.size ≠ 0 ∨ e.acc = true ∨ e.dirty = true ∨ e.mig = true ∨ e.ret ≠ 0 ∨ e.peer ≠ 0 then .bad 1
    else if s.inTier e.tier (e.frame * 65536) 65536 = false then .bad 3
    else s.walkFrom seg off n (mkPlace e.tier 0 (e.frame * 65536))

/-- Walk of a context's tables from its T4 table (15 R322); a T4 table outside its tier is answered as any other
table there (log entry 13). -/
def State.walk (s : State) (ctx : Nat) (seg : BitVec 8) (off : Nat) : Walked :=
  let b := (s.ctx ctx).t4base.toNat * 4096
  if placeTier b < 2 ∧ s.inTier (placeTier b) (placeAddr b) 4096 = true then s.walkFrom seg off 5 b else .bad 3

/-- The walker's OR of ACC, and of DIRTY for a write, into the leaf (15 R324). -/
def State.markLeaf (s : State) (p : Nat) (w : BitVec 128) (write : Bool) : State × BitVec 128 :=
  let w' := w ||| (1 <<< 10) ||| (if write then 1 <<< 9 else 0)
  if w' = w then (s, w) else (s.homeWriteAt (p + 1) [(w'.extractLsb' 8 8)], w')

/-! ### TLBs (15 R325) -/

def TlbEntry.covers (e : TlbEntry) (ctx : Nat) (asid : BitVec 16) (seg : BitVec 8) (off : Nat) : Bool :=
  e.ctx == ctx && e.asid == asid && e.seg == seg && decide (e.base ≤ off) && decide (off < e.base + e.size)

/-- An entry serves a kind: one filled with DIRTY clear serves no write (15 R324). -/
def TlbEntry.serves (e : TlbEntry) (k : Kind) : Bool := !k.writes || (Pte.ofWord e.leaf).dirty

/-- Adds an entry to a table of n, in place of an older one for the page. -/
def tlbFill (t : List TlbEntry) (e : TlbEntry) (full : Nat → Bool) (n : Nat) : List TlbEntry :=
  let t' := e :: t.filter (fun x => !(x.ctx == e.ctx && x.asid == e.asid && x.seg == e.seg && x.base == e.base
    && x.size == e.size))
  if full t'.length then t'.take n else t'

def overL1 (k : Nat) : Bool := decide (256 < k)
def overL2 (k : Nat) : Bool := decide (8192 < k)

def State.l2tlbOf (s : State) (die : Nat) : List TlbEntry := Sparse.get [] s.l2tlb die

def State.fillL1 (s : State) (c : CoreId) (e : TlbEntry) : State :=
  s.modCore c (fun x => { x with tlb := tlbFill x.tlb e overL1 256 })

def State.fillL2 (s : State) (die : Nat) (e : TlbEntry) : State :=
  { s with l2tlb := Sparse.put [] s.l2tlb die (tlbFill (s.l2tlbOf die) e overL2 Config.l2TlbSize) }

/-- The compute die of a logical cluster (00 R1). -/
def dieOf (clus : Nat) : Nat := clus / 24

/-- Who asks for a translation: a core through its L1 TLB, a copy engine through its die's L2 TLB, the hub by walks
(15 R325, R328). -/
inductive Asker
  | core (c : CoreId)
  | engine (clus : Nat)
  | hub
  deriving DecidableEq, Repr

def Asker.die : Asker → Nat
  | .core c => dieOf c.clus
  | .engine k => dieOf k
  | .hub => 4

/-- The cached leaf of an address, if one serves the kind. -/
def State.cached (s : State) (a : Asker) (ctx : Nat) (seg : BitVec 8) (off : Nat) (k : Kind) : Option TlbEntry :=
  let asid := (s.ctx ctx).asid
  let ok (e : TlbEntry) : Bool := e.covers ctx asid seg off && e.serves k
  match a with
  | .core c => ((s.core c).tlb.find? ok).or ((s.l2tlbOf (dieOf c.clus)).find? ok)
  | .engine clus => (s.l2tlbOf (dieOf clus)).find? ok
  | .hub => none

def State.fillTlb (s : State) (a : Asker) (e : TlbEntry) : State :=
  match a with
  | .core c => (s.fillL2 (dieOf c.clus) e).fillL1 c e
  | .engine clus => s.fillL2 (dieOf clus) e
  | .hub => s

/-- What Translate answers: a place with its page's default retention (05 R114), or a fault. -/
inductive Xlat
  | ok (place : Nat) (ret : Hint)
  | recoverable
  | bad (detail : BitVec 16)
  | forbidden
  deriving DecidableEq, Repr

/-- A bus page whose translation the host refused (16 R340). -/
def State.busRefused (s : State) (addr : Nat) : Bool := s.atsEn && s.atsRefused.contains (addr / 4096)

/-- RET: the default retention of a page in the L2 (15 R321). -/
def retHint (ret : Nat) : Hint :=
  match ret with
  | 1 => .strm
  | 2 => .stky
  | _ => .dflt

/-- The place a leaf gives an address, with the check that comes after the walk (15 R322). -/
def leafPlace (w : BitVec 128) (size : Nat) (off : Nat) (k : Kind) : Xlat :=
  let e := Pte.ofWord w
  if !e.permits k then .forbidden
  else .ok (mkPlace e.tier (if e.tier = 2 then e.peer else 0) (e.frame * 65536 + off % size)) (retHint e.ret)

/-- The tables' answer for a virtual address (08 R197). -/
def State.lookup (s : State) (a : Asker) (ctx : Nat) (seg : BitVec 8) (off : Nat) (k : Kind) : Xlat × State :=
  match s.cached a ctx seg off k with
  | some e => (leafPlace e.leaf e.size off k, s)
  | none =>
    match s.walk ctx seg off with
    | .recoverable => (.recoverable, s)
    | .bad d => (.bad d, s)
    | .leaf w p level =>
      if !(Pte.ofWord w).permits k then (.forbidden, s)
      else
        let (s1, w1) := s.markLeaf p w k.writes
        let size := pageSize level
        let b := off / size * size
        let e : TlbEntry := { ctx := ctx, asid := (s.ctx ctx).asid, seg := seg, base := b, size := size, leaf := w1 }
        let s2 := s1.fillTlb a e
        (leafPlace w1 size off k, s2)

/-- A place in a bus page that the host's translation agent refuses is an unrecoverable fault (16 R340). -/
def State.checkBus (s : State) (x : Xlat) : Xlat :=
  match x with
  | .ok p _ => if isHost p && s.busRefused (placeAddr p) then .bad 7 else x
  | _ => x

/-- Translate for a virtual address, with the host's own translation (08 R197, 16 R340). -/
def State.translate (s : State) (a : Asker) (ctx : Nat) (seg : BitVec 8) (off : Nat) (k : Kind) : Xlat × State :=
  let x := s.lookup a ctx seg off k
  (x.2.checkBus x.1, x.2)

/-! ### Fault records (15 R329 to R333) -/

/-- A fault record before PH is added. -/
structure FaultRec where
  kind : Nat
  acc : BitVec 2
  src : Nat
  code : BitVec 8
  detail : Nat
  info : Nat
  addr : Word
  seg : BitVec 8
  team : Nat
  grp : Nat
  clus : Nat
  queue : Nat
  deriving DecidableEq, Repr

/-- The 32 bytes of a record (15 R329). -/
def FaultRec.bytes (r : FaultRec) (ph : Bool) : List Byte :=
  toBytes 8 r.addr.toNat
    ++ toBytes 8 (r.seg.toNat * 2 ^ 56 + r.code.toNat * 2 ^ 48 + (r.kind % 16) * 2 ^ 44 + r.acc.toNat * 2 ^ 42
      + (r.src % 4) * 2 ^ 40 + (r.detail % 256) * 2 ^ 32 + r.team % 2 ^ 32)
    ++ toBytes 8 ((r.info % 65536) * 2 ^ 48 + (r.clus % 65536) * 2 ^ 16 + r.grp % 65536)
    ++ toBytes 8 ((if ph then 2 ^ 63 else 0) + (r.queue % 256) * 2 ^ 8)

/-- LOG2N with its default (15 R331). -/
def Context.ringLog (c : Context) : Nat := if 3 ≤ c.log2n.toNat ∧ c.log2n.toNat ≤ 16 then c.log2n.toNat else 3

/-- A record that is not written. -/
def State.dropRecord (s : State) (ctx : Nat) : State :=
  s.modCtx ctx (fun c => { c with dropped := true, drops := satAdd c.drops 1 })

/-- Post, after coalescing (15 R332). -/
def State.writeRecord (s : State) (ctx : Nat) (r : FaultRec) : State :=
  let c := s.ctx ctx
  let n := c.ringLog
  let a := c.fbBase.toNat * 4096 + 32 * (c.put.toNat % 2 ^ n)
  if !c.fbEn || decide (2 ^ n ≤ (c.put - c.get).toNat) || s.busRefused a then s.dropRecord ctx
  else
    let s1 := s.hostWriteN a (r.bytes (!c.put.getLsbD n))
    s1.modCtx ctx (fun c => { c with put := c.put + 1, notifyDue := c.nen || c.notifyDue })

/-- Keys of one table, counted. -/
def State.keyCount (s : State) (die : Nat) : Nat := (s.keys.filter (fun k => k.die == die)).length

/-- Post (15 R332). -/
def State.post (s : State) (ctx die : Nat) (r : FaultRec) : State :=
  if r.kind = 0 then
    let k : FaultKey := { die := die, ctx := ctx, seg := r.seg, page := r.addr.toNat / 65536, acc := r.acc }
    if s.keys.contains k then s
    else
      let s1 := if Config.keysFull (s.keyCount die) then s else { s with keys := s.keys ++ [k] }
      s1.writeRecord ctx r
  else s.writeRecord ctx r

/-- A record about a group (15 R329). -/
def State.groupRec (s : State) (gid : GroupId) (clus : Nat) : FaultRec where
  kind := 0
  acc := 0
  src := 0
  code := 0
  detail := 0
  info := 0
  addr := 0
  seg := 0
  team := gid.team
  grp := gid.grp
  clus := clus
  queue := match s.launch? gid.launch with
    | some l => l.queue
    | none => 0

/-- A record about a context alone. -/
def FaultRec.blank : FaultRec where
  kind := 0
  acc := 3
  src := 0
  code := 0
  detail := 0
  info := 0
  addr := 0
  seg := 0
  team := 2 ^ 32 - 1
  grp := 65535
  clus := 65535
  queue := 0

/-- The translation of one 64 KiB region, and those of its sixteen 4 KiB pages that an access touches and the host's
translation agent refuses (16 R340). -/
structure Region where
  seg : BitVec 8
  page : Nat
  res : Xlat
  refused : List Nat
  deriving DecidableEq, Repr

/-- A run of bytes in a segment: segment, offset, number. -/
abbrev Run := BitVec 8 × Nat × Nat

/-- The blocks of 2^k bytes that a run touches. -/
def blocksOf (k : Nat) (x : Run) : List (BitVec 8 × Nat) :=
  if x.2.2 = 0 then []
  else (List.range ((x.2.1 % 2 ^ k + x.2.2 + 2 ^ k - 1) / 2 ^ k)).map (fun i => (x.1, (x.2.1 / 2 ^ k + i) % 2 ^ (64 - k)))

/-- Distinct segments and numbers in ascending order. -/
def inOrder (xs : List (BitVec 8 × Nat)) : List (BitVec 8 × Nat) :=
  (sortNats (xs.map (fun x => x.1.toNat * 2 ^ 64 + x.2))).dedup.map (fun n => (BitVec.ofNat 8 (n / 2 ^ 64), n % 2 ^ 64))

/-- The distinct 64 KiB regions of some runs, in ascending order (15 R326). -/
def regionsOf (xs : List Run) : List (BitVec 8 × Nat) := inOrder (xs.flatMap (blocksOf 16))

/-- The 4 KiB pages of a region, touched by some runs, whose bus pages the host refuses. -/
def State.refusedIn (s : State) (xs : List Run) (seg : BitVec 8) (page : Nat) (x : Xlat) : List Nat :=
  match x with
  | .ok p _ =>
    if isHost p && s.atsEn then
      (xs.flatMap (blocksOf 12)).filterMap (fun y =>
        if y.1 = seg ∧ y.2 / 16 = page ∧ s.busRefused (placeAddr p + y.2 % 16 * 4096) = true then some (y.2 % 16) else none)
    else []
  | _ => []

/-- Translates the regions of some runs in ascending address order (15 R326). -/
def State.translateAll (s : State) (a : Asker) (ctx : Nat) (k : Kind) (xs : List Run) : List Region × State :=
  (regionsOf xs).foldl (fun acc r =>
    let x := acc.2.lookup a ctx r.1 (r.2 * 65536) k
    (acc.1 ++ [{ seg := r.1, page := r.2, res := x.1, refused := x.2.refusedIn xs r.1 r.2 x.1 }], x.2)) ([], s)

/-- The place of an address, from translated regions. -/
def placeIn (rs : List Region) (seg : BitVec 8) (off : Nat) : Nat :=
  match rs.find? (fun r => r.seg == seg && r.page == off / 65536) with
  | some { res := .ok p _, .. } => p + off % 65536
  | _ => 0

/-- The default retention of an address's page, from translated regions (05 R114). -/
def retIn (rs : List Region) (seg : BitVec 8) (off : Nat) : Hint :=
  match rs.find? (fun r => r.seg == seg && r.page == off / 65536) with
  | some { res := .ok _ h, .. } => h
  | _ => .dflt

end Sys2Proof.Machine
end

