-- ==== Sys2Proof/Machine/Traps.lean ====
section
/-! DEFINITION. Save images and trap frames, taking a trap and returning from one (07 R182 to R185, 08 R199 to R209). -/

namespace Sys2Proof.Machine

/-! ### The save image (08 R199 to R202) -/

/-- The position of a RECONVERGE entry, 0xFFFF for none (08 R201). -/
def stackIndex (st : List Entry) (id : Option Nat) : Nat :=
  match id with
  | none => 65535
  | some n => match st.findIdx? (Entry.hasId n) with
    | some i => i
    | none => 65535

/-- A path record with the PC given (08 R201). -/
def pathRecord (st : List Entry) (pc : Word) (p : Option Path) : List Byte :=
  match p with
  | none => List.replicate 32 0
  | some p =>
    let w2 := match p.cwait with
      | some c => 2 ^ 62 + c.clasp.toNat * 2 ^ 48 + (if c.phase then 2 ^ 47 else 0)
      | none => 0
    toBytes 8 pc.toNat ++ toBytes 8 p.mask.toNat ++ toBytes 8 (2 ^ 63 + w2 + stackIndex st p.jx) ++ toBytes 8 0

/-- A stack entry (08 R201). -/
def entryRecord (st : List Entry) : Entry → List Byte
  | .path pc m jx => toBytes 8 pc.toNat ++ toBytes 8 m.toNat ++ toBytes 8 0 ++ toBytes 8 (2 ^ 62 + stackIndex st jx)
  | .reconv _ rpc e a par =>
    toBytes 8 rpc.toNat ++ toBytes 8 e.toNat ++ toBytes 8 a.toNat ++ toBytes 8 (2 * 2 ^ 62 + stackIndex st par)

/-- Pads with zeros to a multiple of 64 bytes. -/
def pad64 (bs : List Byte) : List Byte := bs ++ List.replicate ((64 - bs.length % 64) % 64) 0

/-- The code of the group width (08 R200). -/
def widCode (w : Nat) : Nat := Nat.log2 w - 3

/-- A register's payload (08 R199). -/
def payload (w : Nat) : RegVal → List Byte
  | .unwritten => []
  | .uniform u => toBytes 8 u.toNat
  | .affine b st => toBytes 8 b.toNat ++ toBytes 8 st.toNat
  | .general xs => ((RegVal.general xs).lanes w).flatMap (fun x => toBytes 8 x.toNat)

/-- The tag vector: two bits a register (08 R199). -/
def tagVector (vals : List RegVal) : List Byte :=
  pad64 (toBytes ((vals.length + 3) / 4) (vals.foldr (fun v acc => v.tag + 4 * acc) 0))

/-- The registers an image carries: those not saved count as unwritten (08 R202). -/
def savedVals (g : Group) (keep : Nat → Bool) : List RegVal :=
  (List.range g.nr).map (fun r => if keep r then g.val r else .unwritten)

/-- The fixed block (08 R200). -/
def fixedBlock (g : Group) (pc0 pc1 : Word) (pmark : Bool) (slive : BitVec 32) : List Byte :=
  pathRecord g.stack pc0 g.p0 ++ pathRecord g.stack pc1 g.p1
    ++ (List.range 7).flatMap (fun p => toBytes 8 (Sparse.get (0 : Word) g.preds p).toNat)
    ++ toBytes 8 g.exited.toNat
    ++ toBytes 8 ((if pmark then 2 ^ 20 else 0) + widCode g.width * 2 ^ 18 + (g.nr - 1) * 2 ^ 9 + g.depth)
    ++ toBytes 8 slive.toNat
    ++ toBytes 8 g.counts.word.toNat
    ++ toBytes 8 ((List.range 16).foldl (fun acc i => acc + if g.slotDef i = 0 then 0 else 2 ^ i) 0)
    ++ (List.range 16).flatMap (fun n => toBytes 1 (g.ac n))
    ++ List.replicate 16 0
    ++ (List.range 8).flatMap (fun n => toBytes 4 (g.perfCount n).toNat)
    ++ List.replicate 32 0
    ++ (List.range 16).flatMap (fun i => toBytes 8 (g.slotDef i).toNat)
    ++ (List.range 16).flatMap (fun i => toBytes 4 (g.soffOf i).toNat)
    ++ (List.range 64).flatMap (fun l => toBytes 4 (if l < g.width then g.drawOf l else 0).toNat)

/-- A save image, or the register image of a frame (08 R199). -/
def imageOf (g : Group) (pc0 pc1 : Word) (pmark : Bool) (slive : BitVec 32) (keep : Nat → Bool) : List Byte :=
  let vals := savedVals g keep
  fixedBlock g pc0 pc1 pmark slive ++ pad64 (g.stack.flatMap (entryRecord g.stack)) ++ tagVector vals
    ++ pad64 (vals.flatMap (payload g.width))

/-- Reads of an image. -/
def img8 (img : List Byte) (o : Nat) : Word := wordOf ((img.drop o).take 8)
def img4 (img : List Byte) (o : Nat) : BitVec 32 := BitVec.ofNat 32 (ofBytes ((img.drop o).take 4))

def imgDepth (img : List Byte) : Nat := ((img8 img 0x80).extractLsb' 0 9).toNat
def imgNr (img : List Byte) : Nat := ((img8 img 0x80).extractLsb' 9 9).toNat + 1
def imgTagAt (img : List Byte) : Nat := 704 + 64 * ((imgDepth img + 1) / 2)
def imgPayAt (img : List Byte) : Nat := imgTagAt img + 64 * ((imgNr img + 255) / 256)

/-- The tag of register r in an image. -/
def imgTag (img : List Byte) (r : Nat) : Nat := ((img.getD (imgTagAt img + r / 4) 0).toNat / 4 ^ (r % 4)) % 4

/-- Registers from an image: values and the place of the next payload. -/
def imgRegs (img : List Byte) (w : Nat) : Nat → List (Nat × RegVal) × Nat
  | 0 => ([], imgPayAt img)
  | r + 1 =>
    let (t, o) := imgRegs img w r
    match imgTag img r with
    | 1 => (t ++ [(r, .uniform (img8 img o))], o + 8)
    | 2 => (t ++ [(r, .affine (img8 img o) (img8 img (o + 8)))], o + 16)
    | 3 => (t ++ [(r, .general ((List.range w).map (fun l => img8 img (o + 8 * l))))], o + 8 * w)
    | _ => (t, o)

/-- A link of an image as an identity: stack position i names entry i. -/
def imgLink (n : Nat) : Option Nat := if n = 65535 then none else some n

/-- A path from its record. -/
def imgPath (img : List Byte) (o : Nat) : Option Path :=
  let w2 := img8 img (o + 16)
  if w2.getLsbD 63 then
    some { Path.start (img8 img o) (img8 img (o + 8)) (imgLink (w2.extractLsb' 0 16).toNat) with
      cwait := if w2.getLsbD 62 then
          some { clasp := w2.extractLsb' 48 4, phase := w2.getLsbD 47 }
        else none }
  else none

/-- Stack entry i of an image. -/
def imgEntry (img : List Byte) (i : Nat) : Entry :=
  let o := 704 + 32 * i
  let w3 := img8 img (o + 24)
  let link := imgLink (w3.extractLsb' 0 16).toNat
  if w3.extractLsb' 62 2 = 1 then .path (img8 img o) (img8 img (o + 8)) link
  else .reconv i (img8 img o) (img8 img (o + 8)) (img8 img (o + 16)) link

/-- A sparse table of the entries of a function that are not the default. -/
def sparseOf {β : Type} [DecidableEq β] (dflt : β) (n : Nat) (f : Nat → β) : List (Nat × β) :=
  (List.range n).foldl (fun t i => Sparse.put dflt t i (f i)) []

/-- The state an image holds, put into a group: registers and their residency in ascending index (08 R208), paths,
stack, predicates, format state and counters. -/
def loadImage (g : Group) (img : List Byte) : Group :=
  let regs := (imgRegs img g.width g.nr).1
  { g with
    regs := regs
    resident := ((regs.filter (fun e => e.2.isGeneral)).map Prod.fst).take g.budget
    used := sparseOf 0 g.nr (fun r => r)
    useNo := g.nr
    preds := sparseOf 0 7 (fun p => img8 img (0x40 + 8 * p))
    exited := img8 img 0x78
    p0 := imgPath img 0
    p1 := imgPath img 32
    stack := (List.range (imgDepth img)).map (imgEntry img)
    nextId := imgDepth img
    slots := sparseOf 0 16 (fun i => if (img8 img 0x98).getLsbD i then img8 img (0x100 + 8 * i) else 0)
    soff := sparseOf 0 16 (fun i => img4 img (0x180 + 4 * i))
    draw := sparseOf 0 64 (fun l => img4 img (0x1C0 + 4 * l))
    counts := Counts.ofWord (img8 img 0x90)
    perf := sparseOf 0 8 (fun n => img4 img (0xC0 + 4 * n)) }

/-- Bytes of the fixed block a handler may change: PRED, FCOUNT, GPERF, SOFF, DRAW (08 R200). -/
def imgRw (o : Nat) : Bool :=
  (decide (0x40 ≤ o) && decide (o < 0x78)) || (decide (0x90 ≤ o) && decide (o < 0x98))
    || (decide (0xC0 ≤ o) && decide (o < 0xE0)) || (decide (0x180 ≤ o) && decide (o < 0x2C0))

/-- The check of an image against what the device wrote: RO fields, the stack's entries and the tags are unchanged, and
padding is not looked at (08 R209). What the device writes never breaks R71, nor holds a bad link or kind, so those
causes are differences too. -/
def imageOk (written now : List Byte) : Bool :=
  written.length == now.length &&
    (List.range (704 + 32 * imgDepth written)).all (fun o => imgRw o || written.getD o 0 == now.getD o 0) &&
    (List.range (imgNr written)).all (fun r => imgTag written r == imgTag now r)

/-! ### What a group still holds (07 R184, 08 R188) -/

/-- A copy that the group posted has not ended. -/
def State.copiesOf (s : State) (gid : GroupId) : Bool :=
  match s.team? (tidOf gid) with
  | some t => t.queues.any (fun q => q.2.pending.any (fun c => c.gid == gid))
  | none => false

/-- Nothing of the group is on its way: results, arrivals, matrix instructions, captures (08 R188, step 1). -/
def State.quiet (s : State) (gid : GroupId) (g : Group) : Bool :=
  g.flight.isEmpty && g.preTrap.isEmpty && !(s.core g.core).resv.any (fun e => e.gid == gid)

/-- A group holds its slot, segments and store entries: it runs, or it has halted and something of it is still on its
way (07 R184). -/
def State.holds (s : State) (gid : GroupId) (g : Group) : Bool :=
  g.phase == .running || (g.phase == .halted && (!s.quiet gid g || s.copiesOf gid))

/-- The context has a resident group. -/
def State.anyResident (s : State) (ctx : Nat) : Bool :=
  s.groups.any (fun e => s.ctxOf e.1.launch == ctx && s.holds e.1 e.2)

/-- A pre-emption request of the context has not completed: it completes when no group is resident (08 R203). -/
def State.preempting (s : State) (ctx : Nat) : Bool := (s.ctx ctx).preq && s.anyResident ctx

/-- A killed launch of the queue. -/
def State.isKilled (s : State) (q n : Nat) : Bool :=
  match s.launch? n with
  | some l => l.queue == q && l.killed
  | none => false

/-- Cores that still hold a group of a killed launch of the queue. -/
def State.lateCores (s : State) (q : Nat) : List CoreId :=
  ((s.groups.filter (fun e => s.isKilled q e.1.launch && s.holds e.1 e.2)).map (fun e => e.2.core)).dedup

/-- A progress event of the queue's watchdog: W and STAGE return to 0, but not while a kill still waits for group
slots (13 R291, R292; log entry 35). -/
def State.progress (s : State) (q : Nat) : State :=
  if (s.queue q).stage = 2 ∧ s.lateCores q ≠ [] then s else s.modQueue q (fun x => { x with w := 0, stage := 0 })

/-! ### Teams whose groups have stopped (08 R207, 11 R242) -/

def Group.isSaved (g : Group) : Bool :=
  match g.phase with
  | .saved _ => true
  | _ => false

/-- The groups of a team. -/
def State.teamGroups (s : State) (tid : TeamId) : List (GroupId × Group) :=
  s.groups.filter (fun e => tidOf e.1 == tid)

/-- First byte and length of the scratch range a saved group keeps; none for a full save. -/
def keptRange (g : Group) : Option (Nat × Nat) :=
  if g.phase = .saved true then
    let r := img4 g.image 0x88
    some (256 * (r.extractLsb' 0 16).toNat, 256 * (r.extractLsb' 16 16).toNat)
  else none

/-- Whether a scratch byte is kept by the save of some groups (08 R207, 03 R60). -/
def keepsByte (gs : List Group) (a : Nat) : Bool :=
  gs.any (fun g => match keptRange g with
    | none => true
    | some r => decide (r.1 ≤ a) && decide (a < r.1 + r.2))

/-- A team none of whose groups runs is saved when one of them is, once its .dev release is done (12 R256, R271);
scratch bytes that no group keeps read zero from then on. Without a saved group it has halted when one of them has. -/
def State.settleTeam (s : State) (tid : TeamId) : State :=
  match s.team? tid with
  | none => s
  | some t =>
    let gs := (s.teamGroups tid).map Prod.snd
    if t.phase ≠ .resident ∨ gs.any (fun g => g.phase == .running) = true then s
    else
      match gs.filter Group.isSaved with
      | [] => if gs.any (fun g => g.phase == .halted) then s.setTeam tid { t with phase := .halted } else s
      | saved =>
        let r := s.drainL1 t.clus
        if r.1 then
          r.2.setTeam tid { t with phase := .saved, scratch := t.scratch.filter (fun c => keepsByte saved c.1) }
        else r.2

/-! ### Halting (07 R184) -/

/-- A group halts: its record of KIND 1 is posted; other teams may run on. -/
def State.haltGroup (s : State) (gid : GroupId) (code : BitVec 8) (detail : BitVec 16) (addr : Word) (seg : BitVec 8) :
    State :=
  match s.group? gid with
  | none => s
  | some g =>
    let s1 := s.setGroup gid { g with phase := .halted, trap := none, imprecise := [], laterTraps := [] }
    (s1.post (s.ctxOf gid.launch) (dieOf g.core.clus) { s1.groupRec gid g.core.clus with
      kind := 1, acc := 3, code := code, detail := detail.toNat, addr := addr, seg := seg }).settleTeam (tidOf gid)

/-! ### Taking a trap (07 R182 to R185) -/

/-- The frame of group g of team t (16 R344). -/
def frameAddr (c : Context) (gid : GroupId) : Nat :=
  (c.trapBase + c.trapStr * BitVec.ofNat 64 (32 * gid.team + gid.grp)).toNat

/-- The PC recorded for a slot in a frame: RPC for the trapped one (08 R202). -/
def framePc (g : Group) (t : TrapInfo) (slot : Nat) : Word :=
  if t.slot = slot then t.rpc else match g.path slot with
    | some p => p.pc
    | none => 0

/-- The image of a trap frame. -/
def frameImage (g : Group) (t : TrapInfo) : List Byte :=
  imageOf g (framePc g t 0) (framePc g t 1) false 0 (fun _ => true)

/-- The header of a trap frame (07 R182). -/
def frameHeader (t : TrapInfo) (imgsz : Nat) : List Byte :=
  toBytes 8 (imgsz * 2 ^ 48 + t.detail.toNat * 2 ^ 32 + t.lane.toNat * 2 ^ 16 + (if t.prec then 2 ^ 8 else 0)
      + t.code.toNat)
    ++ toBytes 8 t.pc.toNat ++ toBytes 8 t.rpc.toNat ++ toBytes 8 t.addr.toNat ++ toBytes 8 t.aseg.toNat
    ++ toBytes 8 t.mask.toNat ++ toBytes 8 t.info.toNat ++ List.replicate 72 0

/-- The trap frame. -/
def frameBytes (g : Group) (t : TrapInfo) : List Byte :=
  let img := frameImage g t
  frameHeader t (img.length / 64) ++ img

/-- What `seenOver` of the two paths holds (05 R139). -/
def Group.seenPair (g : Group) : Option (BitVec 4 × Nat) × Option (BitVec 4 × Nat) :=
  (g.p0.bind (·.seenOver), g.p1.bind (·.seenOver))

def Group.putSeen (g : Group) (x : Option (BitVec 4 × Nat) × Option (BitVec 4 × Nat)) : Group :=
  { g with p0 := g.p0.map (fun p => { p with seenOver := x.1 }), p1 := g.p1.map (fun p => { p with seenOver := x.2 }) }

/-- The group as its handler starts (07 R185): one path of the live lanes at TRAPVEC, registers unwritten, p0 to p6
false, the format state as it was. -/
def enterHandler (g : Group) (t : TrapInfo) (vec : Word) (addr : Nat) (frame : List Byte) : Group :=
  { g with
    regs := []
    resident := []
    used := []
    useNo := 1
    preds := []
    p0 := some { Path.start vec g.live none with acquiring := g.acquiring }
    p1 := none
    lastSlot := 1
    left := []
    lateTrap := Counts.zero
    overSeen := g.seenPair
    stack := []
    nextId := 0
    flight := []
    preTrap := g.flight
    late := []
    trap := none
    imprecise := []
    laterTraps := g.imprecise
    inHandler := true
    tframe := BitVec.ofNat 64 addr
    frame := some (addr, frame, t.slot) }

/-- Writes the frame of a trap to the group's trap area; none where the area lies outside memory. The cluster's lines
leave its L1 first, so that a handler's loads meet the frame (log entry 14). -/
def State.writeFrame (s : State) (gid : GroupId) (g : Group) (t : TrapInfo) : Option State :=
  let a := frameAddr (s.ctx (s.ctxOf gid.launch)) gid
  let bs := frameBytes g t
  if s.areaOk a bs.length then some ((s.dropCluster g.core.clus).areaWrite a bs) else none

/-- Takes a trap: writes the frame, then enters the handler or halts (07 R182 to R185). The trap is no more pending
in `g`. -/
def State.takeTrap (s : State) (gid : GroupId) (g : Group) (t : TrapInfo) : Host.Outcome State Fault Refusal :=
  let c := s.ctx (s.ctxOf gid.launch)
  match s.writeFrame gid g t with
  | some s1 =>
    if c.trapvec = 0 ∨ g.inHandler = true then
      .next ((s1.setGroup gid g).haltGroup gid t.code t.detail t.addr t.aseg)
    else
      .next (s1.setGroup gid
        (enterHandler g t (c.trapvec ++ (0 : BitVec 4)) (frameAddr c gid) (frameBytes g t)))
  | none => .fault .contextAreaOutsideMemory

/-- Makes a precise trap: taken at once when no short-latency result is out, otherwise pending until then (01 R30). -/
def State.raise (s : State) (gid : GroupId) (t : TrapInfo) : Host.Outcome State Fault Refusal :=
  match s.group? gid with
  | none => .next s
  | some g =>
    if g.settled then s.takeTrap gid g t else .next (s.setGroup gid { g with trap := some t })

/-- An imprecise trap becomes due (07 R184); a halted or absent group takes none. -/
def State.oweTrap (s : State) (gid : GroupId) (t : TrapInfo) : State :=
  s.modGroup gid (fun g => if g.phase = .halted ∨ g.phase = .retired ∨ g.phase = .absent then g
    else { g with imprecise := g.imprecise ++ [t] })

/-! ### Returning from a trap (07 R185, 08 R209) -/

/-- The trapped path resumes at RPC; at its own PC a clsync wait goes on, and an overflow that has trapped is not checked
again (05 R139). -/
def resumeTrapped (p : Option Path) (rpc : Word) : Option Path :=
  p.map (fun p => if p.pc = rpc then p else { p with pc := rpc, cwait := none, seenOver := none })

/-- A register write of a result that returned; an operand buffer with the register is discarded (01 R31). -/
def Group.applyWrite (g : Group) (named : List Nat) (w : RegWrite) : Group :=
  (g.writeResult named w.run w.reg w.mask w.val).forget w.reg

/-- Arrival counters as the loads in flight give them. -/
def Group.recount (g : Group) : Group :=
  { g with acs := sparseOf 0 16 (fun n => (g.flight.filter (fun f => f.kind == .ldi (BitVec.ofNat 4 n))).length) }

/-- The state `rte` resumes: the frame's image as it now stands (07 R185), then what arrived meanwhile. -/
def returnFrom (g : Group) (slot : Nat) (frame : List Byte) : Group :=
  let img := frame.drop 128
  let rpc := img8 frame 16
  let g1 := (loadImage g img).putSeen g.overSeen
  let g2 := g1.setPath slot (resumeTrapped (g1.path slot) rpc)
  let g3 := { g2 with
    flight := g.preTrap
    preTrap := []
    late := []
    imprecise := g.laterTraps ++ g.imprecise
    laterTraps := []
    inHandler := false
    tframe := 0
    counts := g1.counts.add g.lateTrap
    lateTrap := Counts.zero
    overSeen := (none, none)
    frame := none }
  let g4 := g.late.foldl (fun x w => x.applyWrite [] w) g3
  (g4.recount).leave slot (g.exited &&& ~~~g1.exited)

/-- Whether a frame passes the check of 08 R209: CODE and IMGSZ too. -/
def frameOk (written now : List Byte) : Bool :=
  written.getD 0 0 == now.getD 0 0 && (written.drop 6).take 2 == (now.drop 6).take 2
    && imageOk (written.drop 128) (now.drop 128)

end Sys2Proof.Machine
end

