-- ==== Sys2Proof/Machine/Operands.lean ====
section
/-! DEFINITION. Operands: what a word names, what its sources hold, and the shapes of results (01 R20, R27, 03 R42,
R43, 04 R85). -/

namespace Sys2Proof.Machine

/-- The registers a word names (01 R29), and the format slots it names with the detail of R38 each (02 R38). `runs`
are the registers that begin runs: they are used in place (08 R196). `fields` are the registers of the source fields
A, B and C, for RT (01 R31). -/
structure Uses where
  reads : List Nat
  writes : List Nat
  runs : List Nat
  slots : List (BitVec 4 × BitVec 16)
  fields : List (List Nat)
  deriving DecidableEq, Repr

/-- The register of a source. -/
def srcReg : Src → List Nat
  | .reg i => [i.toNat]
  | .spec _ => []
  | .imm _ => []

def Uses.none : Uses := { reads := [], writes := [], runs := [], slots := [], fields := [] }

/-- A word that reads the sources of its fields from A on, and writes registers. -/
def usesOf (srcs : List Src) (dests : List RegIx) : Uses :=
  { Uses.none with reads := srcs.flatMap srcReg, writes := dests.map (·.toNat), fields := srcs.map srcReg }

/-- The registers of the source field that RT names. -/
def Uses.field (u : Uses) : Retain → List Nat
  | .none => []
  | .a => u.fields.getD 0 []
  | .b => u.fields.getD 1 []
  | .c => u.fields.getD 2 []

/-- The members of the runs a word reads and writes (01 R29, 08 R196). -/
structure Members where
  reads : List Nat
  writes : List Nat
  /-- read, or written, in a chain with the instruction that still writes them: not waited for (06 R162) -/
  chained : List Nat := []
  deriving DecidableEq, Repr

def Members.none : Members := { reads := [], writes := [] }
def Members.all (m : Members) : List Nat := m.reads ++ m.writes

def Uses.withSlots (u : Uses) (slots : List (BitVec 4 × BitVec 16)) : Uses := { u with slots := slots }

/-- FS as a slot (02 R38). -/
def fsSlot (fs : BitVec 4) : List (BitVec 4 × BitVec 16) := [(fs, 1)]

/-- The registers of an address (05 R99). -/
def addrRegs (m : Addr) : List Nat :=
  match m.base with
  | .reg i => if m.pair then [i.toNat, i.toNat + 1] else [i.toNat]
  | _ => []

def Uses.named (u : Uses) : List Nat := u.reads ++ u.writes

/-- What a word names outside a run: it is made resident before the word issues (08 R195). -/
def Uses.outside (u : Uses) : List Nat := u.named.diff u.runs

/-- What stands around a word as it issues: its group, path, launch, and effective mask (01 R27). -/
structure Cx where
  gid : GroupId
  slot : Nat
  g : Group
  p : Path
  l : LaunchRec
  ctx : Nat
  eff : Word
  named : List Nat
  deriving DecidableEq, Repr

/-- The lanes a guard selects of a path (01 R27). -/
def effMask (g : Group) (p : Path) (w : Guard) : Word :=
  p.mask &&& (if w.pn then ~~~(g.pred w.pg) else g.pred w.pg)

/-- The values of the special operands (01 R20). -/
def specialVal (l : LaunchRec) (gid : GroupId) : Special → RegVal
  | .zero => .uniform 0
  | .lane => .affine 0 1
  | .grp => .uniform (BitVec.ofNat 64 gid.grp)
  | .team => .uniform (BitVec.ofNat 64 gid.team)
  | .seed => .uniform l.seed
  | .gw => .uniform (BitVec.ofNat 64 l.width)
  | .gn => .uniform (BitVec.ofNat 64 l.groups)
  | .tn => .uniform (BitVec.ofNat 64 l.teams)
  | .tx => .uniform (BitVec.ofNat 64 (gid.team % l.vx))
  | .ty => .uniform (BitVec.ofNat 64 (gid.team / l.vx % l.vy))
  | .tz => .uniform (BitVec.ofNat 64 (gid.team / (l.vx * l.vy)))
  | .one => .uniform 1
  | .ones => .uniform 0xFFFFFFFFFFFFFFFF
  | .sign => .uniform 0x8000000000000000
  | .lo32 => .uniform 0x00000000FFFFFFFF

/-- What a source holds (01 R20, R21). -/
def srcVal (g : Group) (l : LaunchRec) (gid : GroupId) : Src → RegVal
  | .reg i => g.val i.toNat
  | .spec x => specialVal l gid x
  | .imm v => .uniform v

def Cx.src (cx : Cx) (x : Src) : RegVal := srcVal cx.g cx.l cx.gid x

/-- The group width. -/
def Cx.w (cx : Cx) : Nat := cx.g.width

/-- The mask holds all lanes of the group (08 R192). -/
def Cx.full (cx : Cx) : Bool := cx.eff == cx.g.full

/-- The lane's index within its team (04 R78). -/
def Cx.lanet (cx : Cx) (l : Nat) : Nat := cx.gid.grp * cx.w + l

/-- The noise key of a rounding in slot fs (04 R78). -/
def Cx.key (cx : Cx) (fs : BitVec 4) (l j : Nat) : Key where
  seed := cx.l.seed
  team := cx.gid.team
  lanet := cx.lanet l
  j := j
  draw := cx.g.drawOf l
  soff := cx.g.soffOf fs.toNat

/-- The definition in a slot, as the word finds it (04 R83). -/
def Cx.fmt (cx : Cx) (fs : BitVec 4) : Fmt := Fmt.ofWord (cx.g.slotDef fs.toNat)

/-! ### Shapes of results -/

/-- Base and stride of a uniform or affine value; a uniform one has stride 0. -/
def RegVal.line : RegVal → Option (Word × Word)
  | .unwritten => some (0, 0)
  | .uniform u => some (u, 0)
  | .affine b st => some (b, st)
  | .general _ => none

/-- The affine rules of 03 R42: the line of a result from the lines of its sources, where it has one. -/
inductive LineRule
  | add | sub | mul | mad | shl | neg | copy | never
  deriving DecidableEq, Repr

/-- The line of a product: one factor is uniform (03 R42). -/
def mulLine (a b : RegVal) : Option (Word × Word) :=
  match a.line, b.line with
  | some (x, sx), some (y, sy) =>
    if b.isUniform then some (x * y, sx * y) else if a.isUniform then some (x * y, x * sy) else none
  | _, _ => none

/-- A left shift by any amount (03 R46). -/
def shlWord (x : Word) (n : Nat) : Word := if 64 ≤ n then 0 else x <<< n

/-- The line of a result (03 R42). -/
def LineRule.apply (r : LineRule) (a b c : RegVal) : Option (Word × Word) :=
  match r with
  | .add =>
    match a.line, b.line with
    | some (x, sx), some (y, sy) => some (x + y, sx + sy)
    | _, _ => none
  | .sub =>
    match a.line, b.line with
    | some (x, sx), some (y, sy) => some (x - y, sx - sy)
    | _, _ => none
  | .mul => mulLine a b
  | .mad =>
    match mulLine a b, c.line with
    | some (x, sx), some (y, sy) => some (x + y, sx + sy)
    | _, _ => none
  | .shl =>
    match a.line, b with
    | some (x, sx), .uniform n => some (shlWord x n.toNat, shlWord sx n.toNat)
    | some (x, sx), .unwritten => some (x, sx)
    | _, _ => none
  | .neg =>
    match a.line with
    | some (x, sx) => some (0 - x, 0 - sx)
    | none => none
  | .copy => a.line
  | .never => none

/-- A 64-bit value within the signed 32-bit range (03 R43). -/
def inS32 (x : Word) : Bool := x == (x.extractLsb' 0 32).signExtend 64

/-- Under `.w` the line stands only when lanes 0, 1 and W − 1 are within the range (03 R43). -/
def lineOk (w32 : Bool) (w : Nat) (ln : Word × Word) : Bool :=
  !w32 || (inS32 ln.1 && inS32 (ln.1 + ln.2) && inS32 (ln.1 + BitVec.ofNat 64 (w - 1) * ln.2))

/-- The result of a lane-wise operation under a full mask (03 R42, R43): uniform, affine or general. -/
def shaped (w : Nat) (uniform w32 : Bool) (ln : Option (Word × Word)) (f : Nat → Word) : RegVal :=
  if uniform then .uniform (f 0)
  else
    match ln with
    | some x => if lineOk w32 w x then .affine x.1 x.2 else .general ((List.range w).map f)
    | none => .general ((List.range w).map f)

/-- A general result. -/
def generalVal (w : Nat) (f : Nat → Word) : RegVal := .general ((List.range w).map f)

end Sys2Proof.Machine
end

