-- ==== Sys2Proof/Machine/Issue.lean ====
section
/-! DEFINITION. Issuing a word: slot checks, the implicit park, capture waits, residency, and what follows its
effect (01 R27 to R31, 02 R38, R39, 06 R161, 08 R195). -/

namespace Sys2Proof.Machine

/-- A cause of a precise trap. -/
structure Cause where
  code : BitVec 8
  detail : BitVec 16
  lane : BitVec 16
  addr : Word
  aseg : BitVec 8
  info : Word
  deriving DecidableEq, Repr

def cause (code : BitVec 8) (detail : BitVec 16) : Cause :=
  { code := code, detail := detail, lane := 0xFFFF, addr := 0, aseg := 0, info := 0 }

/-- What the effect of a word comes to. -/
inductive Ans
  /-- performed; the path goes on at the next word -/
  | done (s : State)
  /-- performed; the path goes to pc -/
  | goto (pc : Word) (s : State)
  /-- performed; the paths stand where the effect has put them -/
  | placed (s : State)
  /-- waits before issue (05 R139), or parked on a fault (05 R102) -/
  | wait (s : State)
  /-- a precise trap -/
  | trap (s : State) (c : Cause)
  /-- performed, then a trap with RPC the next word (03 R59) -/
  | after (s : State) (c : Cause)
  /-- the whole outcome, where a word replaces the group's state -/
  | whole (o : Host.Outcome State Fault Refusal)

/-- The path slot whose word is executed. -/
def State.cx? (s : State) (w : Guard) (u : Uses) : Option Cx :=
  match s.group? s.cur.gid, s.launch? s.cur.gid.launch with
  | some g, some l =>
    match g.path s.cur.slot with
    | some p =>
      some { gid := s.cur.gid, slot := s.cur.slot, g := g, p := p, l := l.lrec, ctx := l.ctx, eff := effMask g p w
             named := u.named }
    | none => none
  | _, _ => none

/-- The trap information of a precise cause (07 R183). -/
def Cx.info (cx : Cx) (c : Cause) (rpc : Word) : TrapInfo where
  code := c.code
  detail := c.detail
  lane := c.lane
  prec := true
  pc := cx.p.pc
  rpc := rpc
  addr := c.addr
  aseg := c.aseg
  mask := cx.eff
  info := c.info
  slot := cx.slot

/-- A definition no scale slot may have: wider than 10 bits, or without exponent (06 R144). -/
def badScale (d : Word) : Bool := decide (10 < (Fmt.ofWord d).w) || (Fmt.ofWord d).ew == 0

/-- The first slot without a valid definition (02 R38); detail 4 marks the check of a scale slot (06 R144). -/
def badSlot (g : Group) (slots : List (BitVec 4 × BitVec 16)) : Option (BitVec 16) :=
  (slots.find? (fun x =>
    if x.2 = 4 then badScale (g.slotDef x.1.toNat) else g.slotDef x.1.toNat == 0)).map Prod.snd

/-- A register of the group's runs being captured (06 R161). -/
def State.capturing (s : State) (gid : GroupId) (g : Group) (r : Nat) : Bool :=
  (s.core g.core).resv.any (fun e => e.gid == gid && !e.captured && e.capture.contains r)

/-- The word, which names the registers, is held for results in flight: the implicit park adds one to HAZPARK where no
park marker has covered one of them, or under STRICT traps (01 R29). -/
def State.holdFor (s : State) (cx : Cx) (rs : List Nat) : Host.Outcome State Fault Refusal :=
  match cx.g.bareHazard rs with
  | some r =>
    if (s.ctx cx.ctx).strict then
      s.raise cx.gid (cx.info { cause 0x14 0 with info := BitVec.ofNat 64 r } cx.p.pc)
    else
      .next (s.modGroup cx.gid (fun g =>
        (if cx.p.held then g else g.bump 0 1).modPath cx.slot (fun p => { p with held := true })))
  | none => .next s

/-- The word waits for capture to end: CAPPARK counts it once (06 R161). -/
def State.holdCapture (s : State) (cx : Cx) : State :=
  s.modGroup cx.gid (fun g =>
    (if cx.p.capHeld then g else g.bump 1 1).modPath cx.slot (fun p => { p with capHeld := true }))

/-- The spill area of a group's register (08 R195, R198). -/
def spillAddr (c : Context) (gid : GroupId) (g : Group) (r : Nat) : Nat :=
  (c.gcaBase + c.gcaStr * BitVec.ofNat 64 (32 * gid.team + gid.grp)).toNat + 64 * ((g.divdepth + 1) / 2)
    + 8 * g.width * r

/-- Writes the registers that came to stand in the spill area since `old` (08 R195). -/
def State.storeSpills (s : State) (gid : GroupId) (old : Group) : State :=
  match s.group? gid with
  | none => s
  | some g =>
    let c := s.ctx (s.ctxOf gid.launch)
    (List.range g.nr).foldl (fun s r =>
      if g.isSpilled r && (!old.isSpilled r || old.val r != g.val r) then
        let a := spillAddr c gid g r
        if s.areaOk a (8 * g.width) then s.areaWrite a (payload g.width (g.val r)) else s
      else s) s

/-- The operand buffer after a word: the register its RT names, with its value as read, unless the word wrote that
register itself; a special operand or an immediate leaves it empty (01 R31). -/
def retainedReg (g : Group) (w : Guard) (u : Uses) : Option (Nat × RegVal) :=
  match u.field w.rt with
  | r :: _ => if u.writes.contains r then none else some (r, g.val r)
  | [] => none

/-- What the slot's path carries after a word of it issued. -/
def Path.issued (p : Path) (w : Guard) (keep : Option (Nat × RegVal)) : Path :=
  { p with
    park := w.k
    held := false
    capHeld := false
    waiting := false
    retained := keep
    fills := []
    released := 0
    waits := []
    seenOver := none
    onFault := false
    onFetch := false
    onBead := false
    abortNext := false }

/-- A park marker covers the short-latency results of its slot; those of `ldi` are covered by `waitac` alone (01 R28,
05 R113). -/
def coverFor (slot : Nat) (f : InFlight) : InFlight :=
  if f.slot = slot ∧ f.isShort = true then { f with covered := true } else f

/-- The entries of the divergence stack that do not fit on chip (08 R190). -/
def Group.chipped (g : Group) : Nat := if g.depth ≤ 2 then 0 else g.depth - Config.stackOnChip

/-- Writes the entries that are not held on chip, where they changed since `old`, to the stack area (08 R190). The
entries are never read back from it: stores to the area have no effect on the group. -/
def State.storeStack (s : State) (gid : GroupId) (old : Group) : State :=
  match s.group? gid with
  | none => s
  | some g =>
    let c := s.ctx (s.ctxOf gid.launch)
    let a := (c.gcaBase + c.gcaStr * BitVec.ofNat 64 (32 * gid.team + gid.grp)).toNat
    (List.range (min g.chipped g.divdepth)).foldl (fun s i =>
      if old.chipped ≤ i ∨ old.stack[i]? ≠ g.stack[i]? then
        match g.stack[i]? with
        | some e => if s.areaOk (a + 32 * i) 32 then s.areaWrite (a + 32 * i) (entryRecord g.stack e) else s
        | none => s
      else s) s

/-- A slot that a word with K has emptied stays parked (01 R28). -/
def Group.leaveParked (g : Group) (slot : Nat) (k : Bool) : Group :=
  if k && (g.path slot).isNone then { g with left := slot :: g.left } else g

/-- After a word has issued: counters, recency, the park marker, the operand buffers, which a taken branch discards, and
residency at the boundary (01 R28, R31, 08 R190, R195). -/
def State.finish (s : State) (cx : Cx) (w : Guard) (u : Uses) (pc : Option Word) (taken : Bool := false) : State :=
  let keep := if pc = some (cx.p.pc + 16) ∧ taken = false then retainedReg cx.g w u else none
  let s1 := s.modGroup cx.gid (fun g =>
    let g1 := (g.touch u.named).bump 3 1
    let g2 := { g1 with flight := if w.k then g1.flight.map (coverFor cx.slot) else g1.flight }
    let g3 := (g2.modPath cx.slot (fun p =>
      let p1 := p.issued w keep
      match pc with
      | some x => { p1 with pc := x, cwait := none, pmark := none }
      | none => p1)).modPath (1 - cx.slot) (fun p => { p with retained := none })
    (g3.leaveParked cx.slot w.k).trim)
  (s1.storeSpills cx.gid cx.g).storeStack cx.gid cx.g

/-- What a word's effect comes to: it goes on, jumps, waits where it is, or traps. -/
def State.conclude (_s : State) (cx : Cx) (w : Guard) (u : Uses) : Ans → Host.Outcome State Fault Refusal
  | .done s' => .next (s'.finish cx w u (some (cx.p.pc + 16)))
  | .goto pc s' => .next (s'.finish cx w u (some pc) true)
  | .placed s' => .next (s'.finish cx w u none)
  | .wait s' => .next s'
  | .trap s' c => s'.raise cx.gid (cx.info c cx.p.pc)
  | .after s' c => (s'.finish cx w u (some (cx.p.pc + 16))).raise cx.gid (cx.info c (cx.p.pc + 16))
  | .whole o => o

/-- Puts a group with registers and a stack of its own in place: what it does not hold on chip is written to its areas
(08 R190, R195, R208). -/
def State.installGroup (s : State) (gid : GroupId) (g : Group) : State :=
  let none_ := { g with regs := [], resident := [], stack := [] }
  ((s.setGroup gid g).storeSpills gid none_).storeStack gid none_

/-- What a word with the members of its runs names. -/
def Uses.with (u : Uses) (m : Members) : Uses := { u with reads := u.reads ++ m.reads, writes := u.writes ++ m.writes }

/-- All that a word with runs names; members that a chain leaves out of the checks are named too (06 R162). -/
def Uses.names (u : Uses) (m : Members) : Uses := { u.with m with reads := (u.with m).reads ++ m.chained }

/-- Issues a word with runs: the checks before issue in the order of 02 R39, the refill of what it names outside its
runs, then its effect. A victim of the refill is written to its spill slot before the effect (08 R195). -/
def issueRuns (w : Guard) (u : Uses) (members : Cx → Members) (body : State → Cx → Ans) (s : State) :
    Host.Outcome State Fault Refusal :=
  match s.cx? w u with
  | none => .next s
  | some cx =>
    match badSlot cx.g u.slots with
    | some d => s.raise cx.gid (cx.info (cause 0x02 d) cx.p.pc)
    | none =>
      let v := u.with (members cx)
      match cx.g.hazard v.named with
      | some _ => s.holdFor cx v.named
      | none =>
        if v.writes.any (s.capturing cx.gid cx.g) then .next (s.holdCapture cx)
        else
          let x := u.names (members cx)
          let cx1 := { cx with g := cx.g.refill x.named u.outside, named := x.named }
          let s1 := (s.setGroup cx.gid cx1.g).storeSpills cx.gid cx.g
          s1.conclude cx1 w x (body s1 cx1)

/-- Issues a word without runs. -/
def issueWord (w : Guard) (u : Uses) (body : State → Cx → Ans) (s : State) : Host.Outcome State Fault Refusal :=
  issueRuns w u (fun _ => Members.none) body s

/-- Issues a word that acts on the lanes of its effective mask: with none it does nothing (01 R27). -/
def issueMasked (w : Guard) (u : Uses) (body : State → Cx → Ans) (s : State) : Host.Outcome State Fault Refusal :=
  issueWord w u (fun s cx => if cx.eff = 0 then .done s else body s cx) s

/-- A result written at issue: it counts as in flight until it has settled, and its events are added then (01 R28, 04
R81, R97; log entry 6). -/
def State.putResult (s : State) (cx : Cx) (d : Nat) (r : RegVal) (cnt : Counts) : State :=
  let (n, s1) := s.take
  s1.modGroup cx.gid (fun g => (g.writeResult cx.named false d cx.eff r).fly
    { serial := n, slot := cx.slot, kind := .alu, covered := false, dests := [d], writes := [], counts := cnt
      due := [], waits := [], job := none, stamps := [] })

/-! ### Register runs (01 R29, 06 R161, 08 R196) -/

/-- The registers of a run. -/
def runOf (base : Nat) (n : Nat) : List Nat := (List.range n).map (fun i => base + i)

/-- Writes registers in the lanes of m at issue, in ascending index; all but those of `plain` are run members (08 R193,
R195, R196). -/
def State.putRun (s : State) (cx : Cx) (m : Word) (plain : List Nat) (ws : List (Nat × RegVal)) (cnt : Counts) : State :=
  let (n, s1) := s.take
  s1.modGroup cx.gid (fun g =>
    ((sortBy (fun (a b : Nat × RegVal) => decide (a.1 ≤ b.1)) ws).foldl (fun g x =>
        g.writeResult cx.named (!plain.contains x.1) x.1 m x.2) g).fly
      { serial := n, slot := cx.slot, kind := .alu, covered := false, dests := ws.map Prod.fst, writes := []
        counts := cnt, due := [], waits := [], job := none, stamps := [] })

/-- A register result computed from the operands alone. -/
def aluWord (w : Guard) (srcs : List Src) (d : RegIx) (f : Cx → RegVal) (s : State) :
    Host.Outcome State Fault Refusal :=
  issueMasked w (usesOf srcs [d]) (fun s cx => .done (s.putResult cx d.toNat (f cx) Counts.zero)) s

/-- A predicate result computed from the operands alone (02 R35). -/
def predWord (w : Guard) (srcs : List Src) (d : PredIx) (f : Cx → Word) (s : State) :
    Host.Outcome State Fault Refusal :=
  issueMasked w (usesOf srcs []) (fun s cx => .done (s.modGroup cx.gid (fun g => g.setPred d cx.eff (f cx)))) s

end Sys2Proof.Machine
end

