-- ==== Sys2Proof/Machine/Access.lean ====
section
/-! DEFINITION. How words reach memory: the checks of 05 R102, the probe, fetches, reads and writes through the
caches, and the cache actions of releases and acquires (12 R249, R255). -/

namespace Sys2Proof.Machine

/-! ### Addresses and the probe -/

/-- The access of one lane: its segment, byte offset and size. -/
structure LaneAcc where
  lane : Nat
  seg : BitVec 8
  off : Nat
  n : Nat
  deriving DecidableEq, Repr

/-- Address(l) (05 R99): segment and offset. -/
def laneAddr (cx : Cx) (m : Addr) (l : Nat) : BitVec 8 × Word :=
  let seg := if m.pair then
      match m.base with
      | .reg i => ((cx.g.val (i.toNat + 1)).lane l).extractLsb' 0 8
      | _ => m.seg
    else m.seg
  (seg, (cx.src m.base).lane l + m.off.signExtend 64)

/-- Byte accesses of n bytes in the lanes of the effective mask. -/
def byteAccs (cx : Cx) (m : Addr) (n : Nat) : List LaneAcc :=
  (lanes cx.eff).map (fun l => { lane := l, seg := (laneAddr cx m l).1, off := (laneAddr cx m l).2.toNat, n := n })

/-- The address is the same in every lane, by shape (05 R99). -/
def uniformAddr (cx : Cx) (m : Addr) : Bool :=
  (cx.src m.base).isUniform && match m.base with
    | .reg i => !m.pair || (cx.g.val (i.toNat + 1)).isUniform
    | _ => true

def causeAt (code : BitVec 8) (detail : BitVec 16) (a : LaneAcc) : Cause :=
  { cause code detail with lane := BitVec.ofNat 16 a.lane, addr := BitVec.ofNat 64 a.off, aseg := a.seg }

/-- The scope of an access: one of scratch alone is performed as .team (05 R100). -/
def accScope (accs : List LaneAcc) (sc : Scope) : Scope :=
  if (sc == .dev || sc == .sys) && accs.all (fun a => a.seg == 0xFE) then .team else sc

/-- Segment protection (05 R100), check 2 of R102. -/
def segFault (accs : List LaneAcc) : Option Cause :=
  (accs.find? (fun a => a.seg == 0xFC || a.seg == 0xFF || a.seg == 0xFD)).map (causeAt 0x09 0)

/-- Alignment to z bytes (05 R101), check 3. -/
def alignFault (z : Nat) (accs : List LaneAcc) : Option Cause :=
  (accs.find? (fun a => a.off % z != 0)).map (causeAt 0x0B 0)

/-- The scratch range (05 R100), check 4, of the lanes that access a byte. -/
def scratchFault (size : Nat) (accs : List LaneAcc) : Option Cause :=
  (accs.find? (fun a => a.seg == 0xFE && a.n != 0 && decide (size < a.off + a.n))).map (causeAt 0x09 1)

def Cx.scratchSize (cx : Cx) : Nat := 256 * cx.l.scru

/-- Checks 2 to 4 (05 R102). -/
def earlyFault (cx : Cx) (z : Nat) (accs : List LaneAcc) : Option Cause :=
  ((segFault accs).or (alignFault z accs)).or (scratchFault cx.scratchSize accs)

/-- The runs of bytes of accesses to virtual memory (15 R326). -/
def accRuns (accs : List LaneAcc) : List Run :=
  (accs.filter (fun a => a.seg.toNat < 0xFC)).map (fun a => (a.seg, a.off, a.n))

/-- The cause a region gives (15 R323), where an aborted fault counts as unrecoverable (R335). -/
def regionCause (abort : Bool) (r : Region) : Option (BitVec 8 × BitVec 16) :=
  match r.res with
  | .ok _ _ => if r.refused.isEmpty then none else some (0x0A, 7)
  | .bad d => some (0x0A, d)
  | .forbidden => some (0x09, 2)
  | .recoverable => if abort then some (0x0A, 5) else none

/-- An access touches a region: of one with refused pages, such a page (16 R340). -/
def touches (r : Region) (a : LaneAcc) : Bool :=
  let x : Run := (a.seg, a.off, a.n)
  if r.refused.isEmpty then (blocksOf 16 x).contains (r.seg, r.page)
  else (blocksOf 12 x).any (fun y => y.1 == r.seg && y.2 / 16 == r.page && r.refused.contains (y.2 % 16))

/-- The trap of a cause that some regions have: of the lowest lane that touches one of them (05 R102, 15 R323). -/
def regionsTrap (accs : List LaneAcc) (code : BitVec 8) (d : BitVec 16) (rs : List Region) : Cause :=
  match accs.find? (fun a => rs.any (fun r => touches r a)) with
  | some a => causeAt code d a
  | none => cause code d

/-- What the probe comes to: the translated regions, or an answer in place of the access. -/
inductive Probed
  | ok (rs : List Region) (s : State)
  | stop (a : Ans)

/-- Parks the group on recoverable faults: each is offered to Post (15 R326, R332). -/
def State.parkOn (s : State) (cx : Cx) (acc : BitVec 2) (fetch : Bool) (rs : List Region) : State :=
  let s1 := rs.foldl (fun s r =>
    s.post cx.ctx (dieOf cx.g.core.clus) { s.groupRec cx.gid cx.g.core.clus with
      acc := acc, addr := BitVec.ofNat 64 (r.page * 65536), seg := r.seg }) s
  s1.modGroup cx.gid (fun g =>
    (g.modPath cx.slot (fun p => { p with onFault := true, onFetch := fetch, abortNext := false })).bump 6 1)

/-- FAULT-ABORT holds for one probe (15 R335). -/
def State.endAbort (s : State) (cx : Cx) : State :=
  s.modGroup cx.gid (fun g => g.modPath cx.slot (fun p => { p with abortNext := false }))

/-- The probe (15 R326), check 6 of 05 R102; `fetch` says that it is that of the word's own fetch. A released probe
under FAULT-ABORT is the one that had parked (R335). -/
def State.probe (s : State) (cx : Cx) (k : Kind) (accs : List LaneAcc) (fetch : Bool := false) : Probed :=
  let x := s.translateAll (.core cx.g.core) cx.ctx k (accRuns accs)
  let abort := cx.p.abortNext && cx.p.onFetch == fetch
  let s1 := if abort then x.2.endAbort cx else x.2
  match x.1.findSome? (regionCause abort) with
  | some c => .stop (.trap s1 (regionsTrap accs c.1 c.2 (x.1.filter (fun r => regionCause abort r == some c))))
  | none =>
    match x.1.filter (fun r => r.res == .recoverable) with
    | [] => .ok x.1 s1
    | rs =>
      if (s1.ctx cx.ctx).fbEn then .stop (.wait (s1.parkOn cx k.acc fetch rs))
      else .stop (.trap s1 (regionsTrap accs 0x0A 6 (rs.take 1)))

/-- An imprecise trap of the word (07 R183); RPC is set when it is taken. -/
def Cx.imprecise (cx : Cx) (code : BitVec 8) (detail : BitVec 16) (lane : Nat) (seg : BitVec 8) (addr : Nat)
    (info : Word) : TrapInfo where
  code := code
  detail := detail
  lane := BitVec.ofNat 16 lane
  prec := false
  pc := cx.p.pc
  rpc := cx.p.pc
  addr := BitVec.ofNat 64 addr
  aseg := seg
  mask := cx.eff
  info := info
  slot := cx.slot

/-! ### Fetches (15 R327) -/

/-- What a fetch of 16 bytes in KSEG comes to. -/
inductive Fetched
  | ok (bs : List Byte) (s : State)
  | stop (a : Ans)

/-- A read of a peer sector for the waiting word: sent once (log entry 7). -/
def State.askFill (s : State) (cx : Cx) (sec : Nat) : State :=
  if s.remotes.any (fun e => e.2.purpose == .fill cx.gid cx.slot sec) then s
  else s.askSector cx.ctx sec (.fill cx.gid cx.slot sec)

/-- A sector as its owner gave it, with what the package's L2 and, for a word that reads through it, the cluster L1
hold of it over that: a store of the cluster's own may stand there still (05 R105). -/
def State.overOwn (s : State) (clus : Option Nat) (sec : Nat) (bs : List Byte) : List Byte :=
  let low := match s.l2Sector sec with
    | some x => overlay x.valid x.bytes bs
    | none => bs
  match clus.bind (fun c => s.l1Sector c sec) with
  | some x => overlay x.valid x.bytes low
  | none => low

/-- Fetches the 16 bytes at an address: below the L1, translated with the kind fetch; `word` says that they are the
word itself. -/
def State.fetch16 (s : State) (cx : Cx) (pc : Word) (word : Bool) : Fetched :=
  let a : LaneAcc := { lane := 0xFFFF, seg := cx.l.kseg, off := pc.toNat, n := 16 }
  match s.probe cx .fetch [a] word with
  | .stop r => .stop r
  | .ok rs s1 =>
    let p := placeIn rs cx.l.kseg pc.toNat
    match s1.devRead p 16 with
    | (.bytes bs, s2) => .ok bs s2
    | (.poisoned, s2) =>
      .stop (.trap s2 { cause 0x12 0 with addr := BitVec.ofNat 64 (pc.toNat / 64 * 64), aseg := cx.l.kseg })
    | (.need, s2) =>
      match Tab.get? cx.p.fills (sectorOf p) with
      | some (.bytes bs) => .ok (((s2.overOwn none (sectorOf p) bs).drop (p % 64)).take 16) s2
      | some (.poisoned _) =>
        .stop (.trap s2 { cause 0x12 0 with addr := BitVec.ofNat 64 (pc.toNat / 64 * 64), aseg := cx.l.kseg })
      | some (.failed d) =>
        .stop (.wait ((s2.modGroup cx.gid (fun g => g.modPath cx.slot (fun q => { q with fills := [] }))).oweTrap cx.gid
          (cx.imprecise 0x0D d 0xFFFF cx.l.kseg pc.toNat (BitVec.ofNat 64 (placeDev p * 2 ^ 32)))))
      | none => .stop (.wait (s2.askFill cx (sectorOf p)))

/-! ### Reads -/

/-- What a read of bytes of one sector gives a word. -/
inductive Got
  | bytes (bs : List Byte)
  | need (sec : Nat)
  | poisoned
  | failed (detail : BitVec 16)
  /-- the word waits until a write-back that is on its way has ended (14 R315) -/
  | wait
  deriving DecidableEq, Repr

/-- The answer for a sector that only its owner can give; `lay` lays over it what the reader holds of the sector. -/
def fillAnswer (cx : Cx) (lay : List Byte → List Byte) (p n : Nat) : Got :=
  match Tab.get? cx.p.fills (sectorOf p) with
  | some (.bytes bs) => .bytes (((lay bs).drop (p % 64)).take n)
  | some (.failed d) => .failed d
  | some (.poisoned _) => .poisoned
  | none => .need (sectorOf p)

/-- Scratch bytes of the team (05 R100). -/
def State.scratchRead (s : State) (tid : TeamId) (o n : Nat) : List Byte :=
  match s.team? tid with
  | some t => Memory.readN t.scratch o n
  | none => List.replicate n 0

def State.scratchWrite (s : State) (tid : TeamId) (o : Nat) (bs : List Byte) : State :=
  s.modTeam tid (fun t => { t with scratch := Memory.writeN t.scratch o bs })

/-- Counts an L1 hit or miss of the core (07 R181). -/
def State.countL1 (s : State) (cx : Cx) (sec : Nat) (m : Word) : State :=
  let hit := match s.l1Sector cx.g.core.clus sec with
    | some x => x.holds m
    | none => false
  let k := if hit then 0x101 else 0x102
  s.modCore cx.g.core (fun c => { c with perf := Sparse.put 0 c.perf k (Sparse.get 0 c.perf k + 1) })

/-- The group that a write-back belongs to, and its trap 0x0D but for DETAIL and INFO (14 R308). Where no lane of the
word names the sector, ADDR and ASEG are 0 and LANE is 0xFFFF (log entry 38). -/
def Cx.who (cx : Cx) : Option (GroupId × TrapInfo) := some (cx.gid, cx.imprecise 0x0D 0 0xFFFF 0 0 0)

/-- A piece of a lane's access: the bytes of one sector, in scratch or at a place, with the default retention of its
page (05 R114). -/
structure Piece where
  lane : Nat
  scratch : Bool
  seg : BitVec 8
  off : Nat
  place : Nat
  n : Nat
  ret : Hint
  deriving DecidableEq, Repr

/-- The trap of a write-back whose outcome stays open: the lowest lane that names the sector (14 R308). -/
def storeWho (cx : Cx) (ps : List Piece) (sec : Nat) : Option (GroupId × TrapInfo) :=
  match ps.find? (fun q => !q.scratch && sectorOf q.place == sec) with
  | some q => some (cx.gid, cx.imprecise 0x0D 0 q.lane q.seg q.off 0)
  | none => cx.who

/-- A plain read of bytes of one sector of virtual memory. -/
def State.wordRead (s : State) (cx : Cx) (h : Hint) (q : Piece) : Got × State :=
  match (s.countL1 cx (sectorOf q.place) (byteMask (q.place % 64) q.n)).plainRead cx.g.core.clus q.place q.n h
      (l2Hint h q.ret) with
  | (.bytes bs, s1) => (.bytes bs, s1)
  | (.poisoned, s1) => (.poisoned, s1)
  | (.need, s1) => (fillAnswer cx (s1.overOwn (some cx.g.core.clus) (sectorOf q.place)) q.place q.n, s1)

/-- The cluster's own written bytes of a sector have not reached the level beneath it: an earlier write-back is on its
way (14 R315). -/
def State.ownDirty (s : State) (clus sec : Nat) : Bool := (s.l1Sector clus sec).any (fun x => x.mask != 0)

/-- An acquiring read at .dev: from the home slice or the package's L2 copy, the cluster's own bytes there first (05
R105, 12 R249, R251). -/
def State.devWordRead (s : State) (cx : Cx) (h : Hint) (q : Piece) : Got × State :=
  let s0 := s.wbL1 cx.g.core.clus (sectorOf q.place)
  if s0.ownDirty cx.g.core.clus (sectorOf q.place) then (.wait, s0)
  else
    match s0.devRead q.place q.n (some (l2Hint h q.ret)) with
    | (.bytes bs, s1) => (.bytes bs, s1)
    | (.poisoned, s1) => (.poisoned, s1)
    | (.need, s1) => (fillAnswer cx (s1.overOwn none (sectorOf q.place)) q.place q.n, s1)

/-- An acquiring read at .sys: from the owner's home slice or host memory, with the package's own written bytes there
first (05 R105, 12 R249, R251). -/
def State.sysWordRead (s : State) (cx : Cx) (h : Hint) (q : Piece) : Got × State :=
  let sec := sectorOf q.place
  if isLocal q.place then s.devWordRead cx h q
  else if (Tab.get? cx.p.fills sec).isSome then (fillAnswer cx id q.place q.n, s)
  else
    let s1 := ((s.wbL1 cx.g.core.clus sec).wbL2 cx.ctx sec (storeWho cx [q] sec)).1
    if s1.ownDirty cx.g.core.clus sec || (s1.l2Sector sec).any (fun x => x.mask != 0) then (.wait, s1)
    else if isHost q.place then (.bytes (s1.hostRead (placeAddr q.place) q.n), s1)
    else (.need sec, s1)

/-- The sector pieces of an access (05 R109). -/
def splitAcc (rs : List Region) (a : LaneAcc) : List Piece :=
  (pieces (a.n + 1) a.off (List.replicate a.n 0)).map (fun x =>
    let o := x.1 % 2 ^ 64
    { lane := a.lane, scratch := a.seg == 0xFE, seg := a.seg, off := o, place := placeIn rs a.seg o
      n := x.2.length, ret := retIn rs a.seg o })

/-- Reads the pieces in order with one kind of read. -/
def State.readPieces (s : State) (cx : Cx) (rd : State → Piece → Got × State) (ps : List Piece) :
    List (Piece × Got) × State :=
  ps.foldl (fun acc q =>
    if q.scratch then (acc.1 ++ [(q, .bytes (acc.2.scratchRead (tidOf cx.gid) q.off q.n))], acc.2)
    else
      let r := rd acc.2 q
      (acc.1 ++ [(q, r.1)], r.2)) ([], s)

/-- The peer sectors that must be read first. -/
def neededSectors (xs : List (Piece × Got)) : List Nat :=
  (xs.filterMap (fun x => match x.2 with
    | .need sec => some sec
    | _ => none)).dedup

/-- A word with such reads does not issue yet. -/
def mustWait (xs : List (Piece × Got)) : Bool := !(neededSectors xs).isEmpty || xs.any (fun x => x.2 == .wait)

/-- The bytes of one lane, or none where a read of it failed. -/
def laneBytes (xs : List (Piece × Got)) (l : Nat) : Option (List Byte) :=
  (xs.filter (fun x => x.1.lane == l)).foldl (fun acc x =>
    match acc, x.2 with
    | some bs, .bytes b => some (bs ++ b)
    | _, _ => none) (some [])

/-- The first piece that met poison. The manual does not say which sector's address trap 0x12 carries where a word meets
several poisoned ones: the first of its lowest lane (DESIGN CHOICE, log entry 84). -/
def poisonedPiece (xs : List (Piece × Got)) : Option Piece :=
  (xs.find? (fun x => x.2 == .poisoned)).map Prod.fst

/-- The first piece whose read was never answered, with the DETAIL. -/
def failedPiece (xs : List (Piece × Got)) : Option (Piece × BitVec 16) :=
  xs.findSome? (fun x => match x.2 with
    | .failed d => some (x.1, d)
    | _ => none)

/-- Trap 0x12 for the sector of a piece (05 R103). -/
def Cx.poisonTrap (cx : Cx) (q : Piece) : TrapInfo := cx.imprecise 0x12 0 q.lane q.seg (q.off / 64 * 64) 0

/-- Trap 0x0D for a read that was never answered (14 R306, R308, R312): KIND 0. -/
def Cx.lostRead (cx : Cx) (q : Piece) (detail : BitVec 16) : TrapInfo :=
  cx.imprecise 0x0D detail q.lane q.seg q.off (BitVec.ofNat 64 (placeDev q.place * 2 ^ 32))

/-- The trap that a set of reads makes due with its reply (05 R103). -/
def readTraps (cx : Cx) (xs : List (Piece × Got)) : List TrapInfo := ((poisonedPiece xs).map cx.poisonTrap).toList

/-- The traps of reads that were never answered, one for each request, in the order in which that became known: the
lowest lane that names its sector (14 R306, R308). They are due at once. -/
def lostTraps (cx : Cx) (xs : List (Piece × Got)) : List TrapInfo :=
  cx.p.fills.filterMap (fun f => match f.2 with
    | .failed d => (xs.find? (fun x => !x.1.scratch && sectorOf x.1.place == f.1 && x.2 == .failed d)).map (fun x =>
        cx.lostRead x.1 d)
    | _ => none)

/-- Imprecise traps of the word's group become due, in order (07 R184). -/
def State.owe (s : State) (cx : Cx) (ts : List TrapInfo) : State := ts.foldl (fun s t => s.oweTrap cx.gid t) s

/-- Sends the reads a word waits for. -/
def State.waitFills (s : State) (cx : Cx) (secs : List Nat) : State := secs.foldl (fun s x => s.askFill cx x) s

/-! ### Writes -/

/-- Splits bytes along the pieces of their access. -/
def alongPieces : List Piece → List Byte → List (Piece × List Byte)
  | [], _ => []
  | q :: qs, bs => (q, bs.take q.n) :: alongPieces qs (bs.drop q.n)

/-- The default retention of the page of a sector, from the pieces that lie in it. -/
def pageHint (ps : List Piece) (sec : Nat) : Hint :=
  match ps.find? (fun q => !q.scratch && sectorOf q.place == sec) with
  | some q => q.ret
  | none => .dflt

/-- Writes pieces: scratch in order, memory sector by sector with the given write (05 R103, R105). -/
def State.putPieces (s : State) (cx : Cx) (wr : State → Nat → List Byte → Word → Hint → State)
    (ps : List (Piece × List Byte)) : State :=
  let s1 := (ps.filter (fun x => x.1.scratch)).foldl (fun s x => s.scratchWrite (tidOf cx.gid) x.1.off x.2) s
  (gather ((ps.filter (fun x => !x.1.scratch)).map (fun x => (x.1.place, x.2)))).foldl
    (fun s x => wr s x.1 x.2.1 x.2.2 (pageHint (ps.map Prod.fst) x.1)) s1

/-! ### Releases and acquires (12 R255) -/

def State.modCur (s : State) (cx : Cx) (f : Path → Path) : State :=
  s.modGroup cx.gid (fun g => g.modPath cx.slot f)

/-- Requests of the group whose outcome is open: its earlier accesses that are not yet performed (05 R123). -/
def State.opensOf (s : State) (gid : GroupId) : List Nat :=
  (s.remotes.filter (fun e => match e.2.purpose with
    | .writeback _ (some g) => g.1 == gid
    | .atomic g _ _ _ _ _ _ _ _ _ _ _ _ _ _ _ => g == gid
    | _ => false)).map Prod.fst

def State.openOf (s : State) (gid : GroupId) : Bool := !(s.opensOf gid).isEmpty

/-- A group of the team has accesses that are not yet performed (05 R123). -/
def State.openOfTeam (s : State) (tid : TeamId) : Bool :=
  s.groups.any (fun e => tidOf e.1 == tid && s.openOf e.1)

/-- A written L2 copy is not on its way to its owner. -/
def State.l2Unsent (s : State) : Bool := s.l2.any (fun e => e.2.mask != 0 && !s.wbOpen e.1)

/-- What a release does before its write: at .dev the cluster's dirty sectors reach their homes; at .sys peer and host
copies reach their owners too, in at most two rounds of requests whose outcomes it waits for (05 R123, 14 R315), the
group's own earlier requests among them. The flag says that it is complete. An acquiring load or atomic begins with the
same: it writes dirty sectors back first (12 R255; log entry 85). `who` says for each sector whose write-back it is (14
R308). -/
def State.releaseAt (s : State) (cx : Cx) (sc : Scope)
    (who : Nat → Option (GroupId × TrapInfo) := fun _ => cx.who) : Bool × State :=
  match sc with
  | .grp => (true, s)
  | .team => (true, s)
  | .dev =>
    let s1 := s.wbCluster cx.g.core.clus
    (!s.openOf cx.gid && !s1.l1Dirty cx.g.core.clus, s1)
  | .sys =>
    if cx.p.waits.any s.isOpen then (false, s)
    else if 2 ≤ cx.p.released then (true, s)
    else
      let s1 := s.wbCluster cx.g.core.clus
      let old := s1.openWbs
      let (s2, new) := s1.wbAllL2 cx.ctx who
      let ws := if cx.p.released = 0 then (old ++ s1.opensOf cx.gid ++ new).dedup else new
      if ws.isEmpty && !s.openOf cx.gid && !s1.l1Dirty cx.g.core.clus && !s2.l2Unsent then (true, s2)
      else (false, s2.modCur cx (fun p => { p with
        released := if s2.l2Unsent || s1.l1Dirty cx.g.core.clus then p.released else p.released + 1, waits := ws }))

/-- What an acquire does after its read (12 R255); `who` says for each sector whose write-back it is (14 R308). -/
def State.acquireAt (s : State) (clus ctx : Nat) (who : Nat → Option (GroupId × TrapInfo)) (sc : Scope) : State :=
  match sc with
  | .grp => s
  | .team => s
  | .dev => s.dropCluster clus
  | .sys => ((s.dropCluster clus).wbAllL2 ctx who).1.dropL2

end Sys2Proof.Machine
end

