-- ==== Sys2Proof/Machine/Float.lean ====
section
/-! DEFINITION. The floating-point and format-slot instructions (04 R84 to R97). -/

namespace Sys2Proof.Machine

/-! ### Sub-elements and trees -/

/-- Decode of sub-element j (04 R74, R75). -/
def decElem (f : Fmt) (v : Word) (j : Nat) : Tallied Num := f.decode (subElem v f.w j)

/-- A register value of the k sub-elements an exact operation gives, each rounded once (04 R86). -/
def elemWise (f : Fmt) (key : Nat → Key) (x : Nat → Tallied Num) : Tallied Word :=
  let rs := Tallied.all ((List.range f.k).map (fun j => (x j).bind (fun q => round f (key j) q)))
  { val := packElems f.w rs.val, cnt := rs.cnt }

/-- Levels of the tree over n leaves: P = 2^levels is the least power of two ≥ n (04 R92). -/
def treeLevels (n : Nat) : Nat := Nat.log2 (2 * n - 1)

/-- Node h of the tree of 04 R92, `n` levels above its leaves; heap number p + i is leaf i. An absent child passes
the other unrounded. -/
def treeNode (leaf : Nat → Option (Tallied Num)) (node : Nat → Num → Num → Tallied Num) (p : Nat) :
    Nat → Nat → Option (Tallied Num)
  | 0, h => leaf (h - p)
  | n + 1, h =>
    match treeNode leaf node p n (2 * h), treeNode leaf node p n (2 * h + 1) with
    | some x, some y =>
      let z := node h x.val y.val
      some { val := z.val, cnt := (x.cnt.add y.cnt).add z.cnt }
    | some x, none => some x
    | none, y => y

/-- The root of the tree over n leaves. -/
def treeSum (leaf : Nat → Tallied Num) (node : Nat → Num → Num → Tallied Num) (n : Nat) : Tallied Num :=
  let p := 2 ^ treeLevels n
  (treeNode (fun i => if i < n then some (leaf i) else none) node p (treeLevels n) 1).getD (.pure (.zero false))

/-- A node that adds and rounds once (04 R92). -/
def addNode (f : Fmt) (key : Nat → Key) (h : Nat) (x y : Num) : Tallied Num :=
  (Tallied.ofOp (Num.add f.down x y)).bind (fun q => roundNode f (key h) q)

/-! ### Exact operations -/

/-- The lesser, or the greater, of two values: one NaN gives the other (04 R86). -/
def chooseNum (greater : Bool) (x y : Num) : Num :=
  match x, y with
  | .nan, y => y
  | x, .nan => x
  | x, y => if (if greater then Num.lt true x y else Num.lt true y x) then y else x

/-- a × b + c, exact: the product is judged first (04 R79, R86). -/
def fusedNum (down : Bool) (x y z : Num) : Tallied Num :=
  (Tallied.ofOp (Num.mul x y)).bind (fun p => Tallied.ofOp (Num.add down p z))

/-- frnd: to an integral value (04 R86). -/
def integralNum (f : Fmt) (key : Key) (x : Num) : Num :=
  match x with
  | .rat q =>
    let n := roundToGrid f key (.rat q) 1
    if n = 0 then .zero (decide (q < 0)) else .rat n
  | x => x

/-- x × 2^b (04 R89). -/
def scaleNum (x : Num) (b : Int) : Num :=
  match x with
  | .rat q => .rat (q * pow2 (clampExp b))
  | x => x

/-! ### Results -/

/-- The value of a floating-point result and its events: computed once where every source is uniform and no slot it
rounds into is stochastic (04 R81, R85). -/
def floatResult (cx : Cx) (srcs : List Src) (sto : Bool) (f : Nat → Tallied Word) : Tallied RegVal :=
  if srcs.all (fun x => (cx.src x).isUniform) && !sto then
    let r := f 0
    { val := .uniform r.val, cnt := r.cnt.times (laneCount cx.eff) }
  else
    let rs := Tallied.all ((List.range cx.w).map (fun l => if laneIn cx.eff l then f l else .pure 0))
    { val := .general rs.val, cnt := rs.cnt }

/-- A floating-point word: its result and counts, then DRAW (04 R80). -/
def floatWord (g : Guard) (slots : List (BitVec 4 × BitVec 16)) (srcs : List Src) (d : RegIx) (dest : BitVec 4)
    (f : Cx → Nat → Tallied Word) : State → Host.Outcome State Fault Refusal :=
  issueMasked g ((usesOf srcs [d]).withSlots slots) (fun s cx =>
    let sto := (cx.fmt dest).sto
    let r := floatResult cx srcs sto (f cx)
    let s1 := s.putResult cx d.toNat r.val r.cnt
    .done (if sto then s1.modGroup cx.gid (fun x => x.advanceDraw cx.eff) else s1))

/-- An element-wise word of one slot (04 R86). -/
def elemWord (g : Guard) (fs : BitVec 4) (srcs : List Src) (d : RegIx)
    (op : Fmt → Key → (Src → Nat → Tallied Num) → Nat → Nat → Tallied Num) : State → Host.Outcome State Fault Refusal :=
  floatWord g (fsSlot fs) srcs d fs (fun cx l =>
    let f := cx.fmt fs
    elemWise f (cx.key fs l) (fun j => op f (cx.key fs l j) (fun x j => decElem f ((cx.src x).lane l) j) l j))

def elem1 (g : Guard) (fs : BitVec 4) (d : RegIx) (a : Src) (op : Fmt → Key → Num → Tallied Num) :
    State → Host.Outcome State Fault Refusal :=
  elemWord g fs [a] d (fun f k v _ j => (v a j).bind (op f k))

def elem2 (g : Guard) (fs : BitVec 4) (d : RegIx) (a b : Src) (op : Fmt → Num → Num → Tallied Num) :
    State → Host.Outcome State Fault Refusal :=
  elemWord g fs [a, b] d (fun f _ v _ j => (v a j).bind (fun x => (v b j).bind (op f x)))

def execFadd (g : Guard) (fs : BitVec 4) (d : RegIx) (a b : Src) : State → Host.Outcome State Fault Refusal :=
  elem2 g fs d a b (fun f x y => .ofOp (Num.add f.down x y))

def execFsub (g : Guard) (fs : BitVec 4) (d : RegIx) (a b : Src) : State → Host.Outcome State Fault Refusal :=
  elem2 g fs d a b (fun f x y => .ofOp (Num.add f.down x y.negate))

def execFmul (g : Guard) (fs : BitVec 4) (d : RegIx) (a b : Src) : State → Host.Outcome State Fault Refusal :=
  elem2 g fs d a b (fun _ x y => .ofOp (Num.mul x y))

def execFfma (g : Guard) (fs : BitVec 4) (d : RegIx) (a b c : Src) : State → Host.Outcome State Fault Refusal :=
  elemWord g fs [a, b, c] d (fun f _ v _ j =>
    (v a j).bind (fun x => (v b j).bind (fun y => (v c j).bind (fusedNum f.down x y))))

def execFmin (g : Guard) (fs : BitVec 4) (d : RegIx) (a b : Src) : State → Host.Outcome State Fault Refusal :=
  elem2 g fs d a b (fun _ x y => .pure (chooseNum false x y))

def execFmax (g : Guard) (fs : BitVec 4) (d : RegIx) (a b : Src) : State → Host.Outcome State Fault Refusal :=
  elem2 g fs d a b (fun _ x y => .pure (chooseNum true x y))

def execFdiv (g : Guard) (fs : BitVec 4) (d : RegIx) (a b : Src) : State → Host.Outcome State Fault Refusal :=
  elem2 g fs d a b (fun _ x y => .ofOp (Num.div x y))

def execFsqrt (g : Guard) (fs : BitVec 4) (d : RegIx) (a : Src) : State → Host.Outcome State Fault Refusal :=
  elem1 g fs d a (fun _ _ x => .ofOp x.root)

def execFrcp (g : Guard) (fs : BitVec 4) (d : RegIx) (a : Src) : State → Host.Outcome State Fault Refusal :=
  elem1 g fs d a (fun _ _ x => .ofOp (Num.div (.rat 1) x))

def execFrsq (g : Guard) (fs : BitVec 4) (d : RegIx) (a : Src) : State → Host.Outcome State Fault Refusal :=
  elem1 g fs d a (fun _ _ x => .ofOp x.rroot)

def execFex2 (g : Guard) (fs : BitVec 4) (d : RegIx) (a : Src) : State → Host.Outcome State Fault Refusal :=
  elem1 g fs d a (fun _ _ x => .ofOp x.power)

def execFlg2 (g : Guard) (fs : BitVec 4) (d : RegIx) (a : Src) : State → Host.Outcome State Fault Refusal :=
  elem1 g fs d a (fun _ _ x => .ofOp x.logarithm)

def execFrnd (g : Guard) (fs : BitVec 4) (d : RegIx) (a : Src) : State → Host.Outcome State Fault Refusal :=
  elem1 g fs d a (fun f k x => .pure (integralNum f k x))

/-- fscl: one exponent for every sub-element of the lane (04 R89). -/
def execFscl (g : Guard) (fs : BitVec 4) (d : RegIx) (a b : Src) : State → Host.Outcome State Fault Refusal :=
  floatWord g (fsSlot fs) [a, b] d fs (fun cx l =>
    let f := cx.fmt fs
    elemWise f (cx.key fs l) (fun j =>
      (decElem f ((cx.src a).lane l) j).bind (fun x => .pure (scaleNum x ((cx.src b).lane l).toInt))))

/-! ### Comparison and classification (04 R87, R88) -/

/-- The condition of fcmp; −0 equals +0 (04 R87). -/
def fcondHolds (cc : FCond) (x y : Num) : Bool :=
  let un := x == .nan || y == .nan
  let lt := Num.lt false x y
  let gt := Num.lt false y x
  match cc with
  | .eq => !un && !lt && !gt
  | .ne => un || lt || gt
  | .lt => !un && lt
  | .le => !un && !gt
  | .gt => !un && gt
  | .ge => !un && !lt
  | .un => un

/-- Whether the condition holds for every sub-element of a lane, with the flushes counted. -/
def fcmpLane (f : Fmt) (cc : FCond) (a b : Word) : Tallied Bool :=
  let rs := Tallied.all ((List.range f.k).map (fun j =>
    (decElem f a j).bind (fun x => (decElem f b j).bind (fun y => .pure (fcondHolds cc x y)))))
  { val := rs.val.all id, cnt := rs.cnt }

def execFcmp (g : Guard) (cc : FCond) (fs : BitVec 4) (d : PredIx) (a b : Src) :
    State → Host.Outcome State Fault Refusal :=
  issueMasked g ((usesOf [a, b] []).withSlots (fsSlot fs)) (fun s cx =>
    let rs := (lanes cx.eff).map (fun l =>
      (l, fcmpLane (cx.fmt fs) cc ((cx.src a).lane l) ((cx.src b).lane l)))
    let m := maskOf ((rs.filter (fun x => x.2.val)).map Prod.fst)
    .done (s.modGroup cx.gid (fun x =>
      (x.setPred d cx.eff m).addCounts (Counts.sum (rs.map (fun x => x.2.cnt))))))

/-- The class mask of a raw code (04 R88): decoded without flushing. -/
def classOf (f : Fmt) (c : Nat) : Nat :=
  let x := ({ f with sub := 0 }.decode c).val
  if f.isInt then 512 + (if x.ltRat 0 then 2 else if x.gtRat 0 then 64 else 16)
  else
    match x with
    | .nan => 256
    | .inf n => if n then 1 else 128
    | .zero n => if n then 8 else 16
    | x =>
      if x.absLt f.minNormal then (if x.neg then 4 else 32) else (if x.neg then 2 else 64)

def execFclass (g : Guard) (fs : BitVec 4) (d : RegIx) (a b : Src) : State → Host.Outcome State Fault Refusal :=
  issueMasked g ((usesOf [a, b] [d]).withSlots (fsSlot fs)) (fun s cx =>
    let f := cx.fmt fs
    let r := floatResult cx [a, b] false (fun l =>
      let i := (((cx.src b).lane l).extractLsb' 0 6).toNat
      .pure (if f.k ≤ i then 0 else BitVec.ofNat 64 (classOf f (subElem ((cx.src a).lane l) f.w i))))
    .done (s.putResult cx d.toNat r.val Counts.zero))

/-! ### Conversions (04 R90, R91) -/

/-- fcvt in one lane. -/
def cvtLane (fx fy : Fmt) (key : Nat → Key) (a b c : Word) : Tallied Word :=
  let o := (b.extractLsb' 0 6).toNat
  let p := (b.extractLsb' 8 6).toNat
  (List.range (min (fx.k - o) (fy.k - p))).foldl (fun (r : Tallied Word) i =>
    let y := (decElem fx a (o + i)).bind (fun x => round fy (key (p + i)) x)
    { val := setElem r.val fy.w (p + i) y.val, cnt := r.cnt.add y.cnt }) (.pure c)

def execFcvt (g : Guard) (fs sc : BitVec 4) (d : RegIx) (a b c : Src) : State → Host.Outcome State Fault Refusal :=
  floatWord g [(fs, 1), (sc, 3)] [a, b, c] d sc (fun cx l =>
    cvtLane (cx.fmt fs) (cx.fmt sc) (cx.key sc l) ((cx.src a).lane l) ((cx.src b).lane l) ((cx.src c).lane l))

/-- The integer of a value: range checks are made on the rounded value (04 R91). -/
def toIntLane (f : Fmt) (key : Key) (w32 u : Bool) (a : Word) : Tallied Word :=
  let lo : Int := if u then 0 else -(2 ^ (intBits w32 - 1))
  let hi : Int := if u then 2 ^ intBits w32 - 1 else 2 ^ (intBits w32 - 1) - 1
  (decElem f a 0).bind (fun x =>
    match x with
    | .nan => { val := 0, cnt := Counts.oneNanl }
    | .inf n => { val := intOut w32 u (if n then lo else hi), cnt := Counts.oneSat }
    | .zero _ => .pure 0
    | x =>
      let r := roundToGrid f key x 1
      if hi < r then { val := intOut w32 u hi, cnt := Counts.oneSat }
      else if r < lo then { val := intOut w32 u lo, cnt := Counts.oneSat }
      else .pure (intOut w32 u r))
where
  intBits (w32 : Bool) : Nat := if w32 then 32 else 64
  intOut (w32 u : Bool) (v : Int) : Word :=
    let x := BitVec.ofInt 64 v
    if w32 then (if u then (x.extractLsb' 0 32).setWidth 64 else (x.extractLsb' 0 32).signExtend 64) else x

/-- f2i rounds by the slot's RND: a stochastic slot gives a value per lane and advances DRAW (04 R80, R85, R91; log
entry 16). -/
def execF2i (g : Guard) (fs : BitVec 4) (w u : Bool) (d : RegIx) (a : Src) : State → Host.Outcome State Fault Refusal :=
  floatWord g (fsSlot fs) [a] d fs (fun cx l => toIntLane (cx.fmt fs) (cx.key fs l 0) w u ((cx.src a).lane l))

/-- The integer a word reads (04 R91). -/
def intIn (w32 u : Bool) (x : Word) : Int :=
  match w32, u with
  | false, false => x.toInt
  | false, true => x.toNat
  | true, false => (x.extractLsb' 0 32).toInt
  | true, true => (x.extractLsb' 0 32).toNat

def execI2f (g : Guard) (fs : BitVec 4) (w u : Bool) (d : RegIx) (a : Src) : State → Host.Outcome State Fault Refusal :=
  floatWord g (fsSlot fs) [a] d fs (fun cx l =>
    let f := cx.fmt fs
    let r := round f (cx.key fs l 0) (Num.ofRat (intIn w u ((cx.src a).lane l)))
    { val := packElems f.w [r.val], cnt := r.cnt })

/-! ### Sums over sub-elements (04 R92, R93) -/

/-- fdot in one lane. -/
def dotLane (fx fy fz : Fmt) (key : Nat → Key) (a b c : Word) : Tallied Word :=
  let leaf (i : Nat) : Tallied Num :=
    (decElem fx a i).bind (fun x => (decElem fy b i).bind (fun y => .ofOp (Num.mul x y)))
  let s := treeSum leaf (addNode fz key) (min fx.k fy.k)
  (s.bind (fun x => (decElem fz c 0).bind (fun y => .ofOp (Num.add fz.down x y)))).bind (fun x =>
    let r := round fz (key 0) x
    { val := setElem c fz.w 0 r.val, cnt := r.cnt })

def execFdot (g : Guard) (fs sb sc : BitVec 4) (d : RegIx) (a b c : Src) : State → Host.Outcome State Fault Refusal :=
  floatWord g [(fs, 1), (sb, 2), (sc, 3)] [a, b, c] d sc (fun cx l =>
    dotLane (cx.fmt fs) (cx.fmt sb) (cx.fmt sc) (cx.key sc l)
      ((cx.src a).lane l) ((cx.src b).lane l) ((cx.src c).lane l))

/-- fsum in one lane: the root is rounded once more (04 R93). -/
def sumLane (f : Fmt) (key : Nat → Key) (a : Word) : Tallied Word :=
  (treeSum (decElem f a) (addNode f key) f.k).bind (fun x =>
    let r := round f (key 0) x
    { val := packElems f.w [r.val], cnt := r.cnt })

def execFsum (g : Guard) (fs : BitVec 4) (d : RegIx) (a : Src) : State → Host.Outcome State Fault Refusal :=
  floatWord g (fsSlot fs) [a] d fs (fun cx l => sumLane (cx.fmt fs) (cx.key fs l) ((cx.src a).lane l))

/-! ### Slot management (04 R94 to R97) -/

/-- The value of a source that every lane not exited executes with and holds alike; none otherwise (04 R94). -/
def convergedValue (cx : Cx) (a : Src) : Option Word :=
  if cx.eff = cx.g.live ∧ (cx.src a).equalIn cx.eff = true then some ((cx.src a).firstIn cx.eff) else none

def execFmtdef (g : Guard) (fs : BitVec 4) (a : Src) : State → Host.Outcome State Fault Refusal :=
  issueWord g (usesOf [a] []) (fun s cx =>
    match convergedValue cx a with
    | none => .trap s (cause 0x04 0)
    | some v =>
      match Fmt.invalid v with
      | some d => .trap s { cause 0x03 (d.setWidth 16) with info := v }
      | none => .done (s.modGroup cx.gid (fun x => { x with slots := Sparse.put 0 x.slots fs.toNat v })))

def execFmtrd (g : Guard) (fs : BitVec 4) (d : RegIx) : State → Host.Outcome State Fault Refusal :=
  aluWord g [] d (fun cx => .uniform (cx.g.slotDef fs.toNat))

def execFseed (g : Guard) (fs : BitVec 4) (a : Src) : State → Host.Outcome State Fault Refusal :=
  issueWord g ((usesOf [a] []).withSlots (fsSlot fs)) (fun s cx =>
    match convergedValue cx a with
    | none => .trap s (cause 0x04 0)
    | some v => .done (s.modGroup cx.gid (fun x => { x with
        soff := Sparse.put 0 x.soff fs.toNat (v.extractLsb' 0 32), draw := [] })))

def execFstat (g : Guard) (clr : Bool) (d : RegIx) : State → Host.Outcome State Fault Refusal :=
  issueMasked g (usesOf [] [d]) (fun s cx =>
    let s1 := s.putResult cx d.toNat (.uniform cx.g.counts.word) Counts.zero
    .done (if clr then s1.modGroup cx.gid (fun x => { x with counts := Counts.zero }) else s1))

end Sys2Proof.Machine
end

