-- ==== Sys2Proof/Machine/CrossLane.lean ====
section
/-! DEFINITION. The cross-lane, predicate, shape and context instructions (03 R62 to R69). -/

namespace Sys2Proof.Machine

/-- Lanes of a segment (01 R24, 03 R62). -/
def spanOf (span : BitVec 3) : Nat := 2 ^ (span.toNat + 1)

/-- First lane of the segment of lane l. -/
def segStart (s l : Nat) : Nat := l - l % s

/-- The active lanes of the segment of lane l. -/
def segLanes (cx : Cx) (s l : Nat) : List Nat := (lanes cx.eff).filter (fun k => segStart s k == segStart s l)

/-- A value equal across the segment is uniform when the segment is the group and the mask is full (03 R62). -/
def segUniform (cx : Cx) (s : Nat) : Bool := s == cx.w && cx.full

/-! ### vote (03 R63) -/

/-- The lanes of the segment of l that are active with p true. -/
def votes (cx : Cx) (s : Nat) (p : PredIx) (l : Nat) : List Nat := (segLanes cx s l).filter (laneIn (cx.g.pred p))

/-- A predicate that a test of each active lane's segment gives. -/
def votePred (g : Guard) (srcs : List Src) (d : PredIx) (test : Cx → Nat → Bool) :
    State → Host.Outcome State Fault Refusal :=
  predWord g srcs d (fun cx => maskOf ((lanes cx.eff).filter (test cx)))

/-- A register result, one value a segment. -/
def voteReg (g : Guard) (s : Nat) (d : RegIx) (f : Cx → Nat → Word) : State → Host.Outcome State Fault Refusal :=
  aluWord g [] d (fun cx => if segUniform cx s then .uniform (f cx 0) else generalVal cx.w (f cx))

def execVote (g : Guard) (span : BitVec 3) (f : VoteForm) : State → Host.Outcome State Fault Refusal :=
  let s := spanOf span
  match f with
  | .every d a => votePred g [] d (fun cx l => (votes cx s a l).length == (segLanes cx s l).length)
  | .some d a => votePred g [] d (fun cx l => !(votes cx s a l).isEmpty)
  | .mask d a => voteReg g s d (fun cx l => maskOf ((votes cx s a l).map (fun k => k - segStart s k)))
  | .same d a => votePred g [a] d (fun cx l => (cx.src a).equalIn (maskOf (segLanes cx s l)))
  | .count d a => voteReg g s d (fun cx l => BitVec.ofNat 64 (votes cx s a l).length)

/-! ### shfl (03 R64) -/

/-- The value shfl writes in lane l. -/
def shflLane (cx : Cx) (s : Nat) (f : ShflForm) (l : Nat) : Word :=
  let t := segStart s l
  let q := l % s
  match f with
  | .get a b => (cx.src a).lane (t + ((cx.src b).lane l).toNat % s)
  | .rot a n => (cx.src a).lane (t + (q + n.toNat) % s)
  | .slup a n c => if n.toNat ≤ q then (cx.src a).lane (l - n.toNat) else (cx.src c).lane l
  | .sldn a n c => if q + n.toNat < s then (cx.src a).lane (l + n.toNat) else (cx.src c).lane l
  | .xor a n => (cx.src a).lane (t + (q ^^^ n.toNat))

/-- A slide gives a uniform result where it can only move one value (03 R64). -/
def slideUniform (cx : Cx) (a c : Src) (n : BitVec 8) : Bool :=
  (cx.src a).isUniform && (n == 0 || ((cx.src c).isUniform && (cx.src a).lane 0 == (cx.src c).lane 0))

def shflUniform (cx : Cx) (f : ShflForm) : Bool :=
  match f with
  | .get a _ => (cx.src a).isUniform
  | .rot a _ => (cx.src a).isUniform
  | .slup a n c => slideUniform cx a c n
  | .sldn a n c => slideUniform cx a c n
  | .xor a _ => (cx.src a).isUniform

def shflSrcs : ShflForm → List Src
  | .get a b => [a, b]
  | .rot a _ => [a]
  | .slup a _ c => [a, .spec .zero, c]
  | .sldn a _ c => [a, .spec .zero, c]
  | .xor a _ => [a]

def execShfl (g : Guard) (span : BitVec 3) (d : RegIx) (f : ShflForm) : State → Host.Outcome State Fault Refusal :=
  aluWord g (shflSrcs f) d (fun cx =>
    if shflUniform cx f then .uniform ((cx.src (match f with
        | .get a _ => a
        | .rot a _ => a
        | .slup a _ _ => a
        | .sldn a _ _ => a
        | .xor a _ => a)).lane 0)
    else generalVal cx.w (shflLane cx (spanOf span) f))

/-! ### scan and redl (03 R65, R66) -/

/-- A present value with its lowest lane, and the nodes combined so far, each named by its range of lanes. -/
structure Combined where
  val : Option (Word × Nat)
  nodes : List ((Nat × Nat) × Counts)
  deriving DecidableEq, Repr

/-- One combination: value and events, from the lowest lane of the node. -/
abbrev CombineFn : Type := Nat → Word → Word → Tallied Word

/-- Combine over the range from lo to hi (03 R66). -/
def Combined.join (f : CombineFn) (lo hi : Nat) (x y : Combined) : Combined :=
  match x.val, y.val with
  | some a, some b =>
    let r := f a.2 a.1 b.1
    { val := some (r.val, a.2), nodes := x.nodes ++ y.nodes ++ [((lo, hi), r.cnt)] }
  | some a, none => { val := some a, nodes := x.nodes }
  | none, b => { val := b, nodes := y.nodes }

/-- Block(lo, 2^n) on lanes (03 R66). -/
def scanBlock (leaf : Nat → Option Word) (f : CombineFn) : Nat → Nat → Combined
  | 0, lo => { val := (leaf lo).map (fun v => (v, lo)), nodes := [] }
  | n + 1, lo =>
    Combined.join f lo (lo + 2 ^ (n + 1)) (scanBlock leaf f n lo) (scanBlock leaf f n (lo + 2 ^ n))

/-- The first `cnt` positions from lane t, by the bits of cnt from bit n − 1 down (03 R66). -/
def scanPrefix (leaf : Nat → Option Word) (f : CombineFn) (t cnt : Nat) : Nat → Nat → Combined → Combined
  | 0, _, acc => acc
  | n + 1, lo, acc =>
    if cnt.testBit n then
      scanPrefix leaf f t cnt n (lo + 2 ^ n) (Combined.join f t (lo + 2 ^ n) acc (scanBlock leaf f n lo))
    else scanPrefix leaf f t cnt n lo acc

/-- The integer operations of OPX 0 to 7. -/
def scanInt (op : ScanOp) (x y : Word) : Word :=
  match op with
  | .add => x + y
  | .and => x &&& y
  | .or => x ||| y
  | .xor => x ^^^ y
  | .min => if x.toInt ≤ y.toInt then x else y
  | .max => if x.toInt ≤ y.toInt then y else x
  | .umin => if x.toNat ≤ y.toNat then x else y
  | .umax => if x.toNat ≤ y.toNat then y else x
  | .fadd => x
  | .fmin => x
  | .fmax => x

/-- The exact result of a floating combination (03 R66). -/
def scanNum (op : ScanOp) (f : Fmt) (x y : Num) : Tallied Num :=
  match op with
  | .fmin => .pure (chooseNum false x y)
  | .fmax => .pure (chooseNum true x y)
  | _ => .ofOp (Num.add f.down x y)

def isFloatOp (op : ScanOp) : Bool := op == .fadd || op == .fmin || op == .fmax

/-- One combination of a scan under a slot. -/
def scanCombine (op : ScanOp) (cx : Cx) (fs : BitVec 4) : CombineFn := fun l x y =>
  if isFloatOp op then
    let f := cx.fmt fs
    elemWise f (cx.key fs l) (fun j =>
      (decElem f x j).bind (fun a => (decElem f y j).bind (fun b => scanNum op f a b)))
  else .pure (scanInt op x y)

/-- The largest value's code for fmin, the least value's for fmax (03 R65). -/
def extremeCode (f : Fmt) (neg : Bool) : Nat :=
  if neg && f.s == 0 then 0
  else if f.inf = 1 then f.encodeInf neg
  else f.encodeMax neg

/-- What an exclusive scan writes in the first active lane (03 R65). A format without zero has code 0 there (DESIGN
CHOICE, log entry 81). -/
def scanFirst (op : ScanOp) (f : Fmt) : Word :=
  match op with
  | .add => 0
  | .and => 0xFFFFFFFFFFFFFFFF
  | .or => 0
  | .xor => 0
  | .min => 0x7FFFFFFFFFFFFFFF
  | .max => 0x8000000000000000
  | .umin => 0xFFFFFFFFFFFFFFFF
  | .umax => 0
  | .fadd => packElems f.w (List.replicate f.k (f.encodeRat 0 false))
  | .fmin => packElems f.w (List.replicate f.k (extremeCode f false))
  | .fmax => packElems f.w (List.replicate f.k (extremeCode f true))

/-- The events of the distinct nodes, each once (03 R66). -/
def distinctCounts (nodes : List ((Nat × Nat) × Counts)) : Counts :=
  Counts.sum ((nodes.foldl (fun (acc : List ((Nat × Nat) × Counts)) x =>
    if acc.any (fun y => y.1 == x.1) then acc else x :: acc) []).map Prod.snd)

/-- What the active lanes get: of each lane its value, and the events of all nodes. -/
def scanLanes (cx : Cx) (s : Nat) (op : ScanOp) (fs : BitVec 4) (a : Src) (count : Nat → Nat) :
    List (Nat × Word) × Counts :=
  let leaf (l : Nat) : Option Word := if laneIn cx.eff l then some ((cx.src a).lane l) else none
  let rs := (lanes cx.eff).map (fun l =>
    let t := segStart s l
    (l, scanPrefix leaf (scanCombine op cx fs) t (count l) 7 t { val := none, nodes := [] }))
  (rs.map (fun r => (r.1, match r.2.val with
    | some v => v.1
    | none => scanFirst op (cx.fmt fs))), distinctCounts (rs.flatMap (fun r => r.2.nodes)))

def pickLane (xs : List (Nat × Word)) (l : Nat) : Word := (Tab.get? xs l).getD 0

/-- The word of scan and redl. -/
def scanWord (g : Guard) (span : BitVec 3) (op : ScanOp) (fs : BitVec 4) (d : RegIx) (a : Src)
    (count : Nat → Nat) (equal : Bool) : State → Host.Outcome State Fault Refusal :=
  let s := spanOf span
  issueMasked g ((usesOf [a] [d]).withSlots (if isFloatOp op then fsSlot fs else [])) (fun st cx =>
    let r := scanLanes cx s op fs a count
    let v : RegVal := if equal && segUniform cx s then .uniform (pickLane r.1 0) else generalVal cx.w (pickLane r.1)
    let s1 := st.putResult cx d.toNat v r.2
    .done (if isFloatOp op && (cx.fmt fs).sto then s1.modGroup cx.gid (fun x => x.advanceDraw cx.eff) else s1))

def execScan (g : Guard) (span : BitVec 3) (op : ScanOp) (fs : BitVec 4) (excl : Bool) (d : RegIx) (a : Src) :
    State → Host.Outcome State Fault Refusal :=
  scanWord g span op fs d a (fun l => l % spanOf span + if excl then 0 else 1) false

def execRedl (g : Guard) (span : BitVec 3) (op : ScanOp) (fs : BitVec 4) (d : RegIx) (a : Src) :
    State → Host.Outcome State Fault Refusal :=
  scanWord g span op fs d a (fun _ => spanOf span) true

/-! ### Predicates, shape and context (03 R67 to R69) -/

/-- pmov: shaped as sel is (03 R49, R67). -/
def execPmov (g : Guard) (d : RegIx) (a : PredIx) : State → Host.Outcome State Fault Refusal :=
  aluWord g [] d (fun cx =>
    let m := cx.g.pred a &&& cx.g.full
    if m = 0 then .uniform 0
    else if m = cx.g.full then .uniform 1
    else generalVal cx.w (fun l => if laneIn m l then 1 else 0))

def execPset (g : Guard) (op : PsetOp) (d a b : PredIx) : State → Host.Outcome State Fault Refusal :=
  predWord g [] d (fun cx =>
    let x := cx.g.pred a
    let y := cx.g.pred b
    match op with
    | .and => x &&& y
    | .or => x ||| y
    | .xor => x ^^^ y
    | .andn => x &&& ~~~y)

/-- shape: the tag of the register as it stands; a special operand has the tag of its shape (01 R20, 03 R68). -/
def execShape (g : Guard) (d : RegIx) (a : Src) : State → Host.Outcome State Fault Refusal :=
  aluWord g [a] d (fun cx => .uniform (BitVec.ofNat 64 (cx.src a).tag))

def execMatz (g : Guard) (d : RegIx) : State → Host.Outcome State Fault Refusal :=
  issueMasked g (usesOf [] [d]) (fun s cx => .done (s.modGroup cx.gid (fun x => x.materialise cx.named false d.toNat)))

def execGetx (g : Guard) (k : GetxKind) (d : RegIx) : State → Host.Outcome State Fault Refusal :=
  aluWord g [] d (fun cx => .uniform (match k with
    | .mask => cx.p.mask
    | .path => BitVec.ofNat 64 cx.slot
    | .depth => BitVec.ofNat 64 cx.g.depth))

end Sys2Proof.Machine
end

