-- ==== Sys2Proof/Machine/Scaled.lean ====
section
/-! DEFINITION. Scaled sectors and the scaled-block instructions (06 R140 to R149). -/

namespace Sys2Proof.Machine

/-! ### The scaled sector (06 R140, R141) -/

/-- B of a block-size code. -/
def blockLen : BlockSize → Nat
  | .bk8 => 8
  | .bk16 => 16
  | .bk32 => 32

def blockCode : BlockSize → Nat
  | .bk8 => 0
  | .bk16 => 1
  | .bk32 => 2

/-- Blocks of B elements of w bits in a sector. -/
def sectorBlocks (b w : Nat) : Nat := 504 / (b * w + 10)

/-- The fields of a header byte. -/
def headerEls (h : Nat) : Nat := h % 16
def headerBsz (h : Nat) : Nat := h / 16 % 4
def headerBad (h : Nat) : Bool := h / 64 != 0 || headerBsz h == 3
def headerBlock (h : Nat) : Nat := 8 * 2 ^ headerBsz h

/-- Scale b and element e of a sector as a 512-bit number. -/
def sectorScale (n b : Nat) : Nat := bits n (8 + 10 * b) 10
def sectorElem (n nb w e : Nat) : Nat := bits n (8 + 10 * nb + e * w) w

/-- A sector of a header, scales and codes. -/
def mkSector (els bsz w : Nat) (scales codes : List Nat) : Nat :=
  (bsz * 16 + els)
    + scales.foldr (fun c acc => c % 1024 + acc * 1024) 0 * 2 ^ 8
    + codes.foldr (fun c acc => c % 2 ^ w + acc * 2 ^ w) 0 * 2 ^ (8 + 10 * scales.length)

/-! ### Sectors in registers (06 R143) -/

/-- Sector s of a register. -/
def regSector (v : RegVal) (s : Nat) : Nat :=
  (List.range 8).foldr (fun i acc => (v.lane (8 * s + i)).toNat + acc * 2 ^ 64) 0

/-- A register of sectors. -/
def sectorsVal (w : Nat) (secs : List Nat) : RegVal :=
  generalVal w (fun l => BitVec.ofNat 64 (bits (secs.getD (l / 8) 0) (64 * (l % 8)) 64))

/-- Element e of sector s of a run whose slot has k sub-elements of width w: register, lane, sub-element. -/
def elemPlace (k s e : Nat) : Nat × Nat × Nat := (e / (8 * k), 8 * s + e % (8 * k) / k, e % k)

/-- The code of element e of sector s of a run. -/
def runElem (reg : Nat → RegVal) (f : Fmt) (s e : Nat) : Nat :=
  let p := elemPlace f.k s e
  subElem ((reg p.1).lane p.2.1) f.w p.2.2

/-- Register r of a run laid out by R143 from the code of each element of each sector. -/
def layoutReg (w r k width : Nat) (code : Nat → Nat → Nat) : RegVal :=
  generalVal w (fun l => packElems width ((List.range k).map (fun q => code (l / 8) (r * (8 * k) + l % 8 * k + q))))

/-- Scale b of sector s in a scale register. -/
def regScale (v : RegVal) (s b : Nat) : Nat := bits ((v.lane (8 * s + b / 6)).toNat) (10 * (b % 6)) 10

/-- A scale register from the scale of each block of each sector. -/
def scalesVal (w : Nat) (scale : Nat → Nat → Nat) : RegVal :=
  generalVal w (fun l => packElems 10 ((List.range 6).map (fun i => scale (l / 8) (l % 8 * 6 + i))))

/-- Registers of a run that holds n elements a sector. -/
def sectorRun (n k : Nat) : Nat := (n + 8 * k - 1) / (8 * k)

/-! ### Checks (06 R144, R145) -/

/-- The value of C in all lanes not exited, where they hold one. -/
def equalC (cx : Cx) (c : Src) : Option Word :=
  if (cx.src c).equalIn cx.g.live then some ((cx.src c).firstIn cx.g.live) else none

/-- A run reaches `.regs`, or is longer than it may be: trap 0x01 detail 0x0B (01 R354, 06 R144). -/
def runBad (cx : Cx) (base n most : Nat) : Bool := decide (most < n) || decide (cx.g.nr < base + n)

/-- Run-time operand invalid (06 R144). -/
def badOperand : Cause := cause 0x01 0x0B

/-- The key of the element at a place of a run (06 R146). -/
def elemKey (cx : Cx) (slot : BitVec 4) (k : Nat) (p : Nat × Nat × Nat) : Key :=
  cx.key slot p.2.1 ((p.1 * k + p.2.2) % 256)

/-! ### scq (06 R146): it writes every lane of its sectors, those that have exited too (log entry 64) -/

/-- The largest magnitude among values that are no NaN, or 0. -/
def largestAbs (xs : List Num) : Num :=
  xs.foldl (fun t x =>
    match t, x with
    | .inf _, _ => .inf false
    | t, .nan => t
    | _, .inf _ => .inf false
    | t, x => if t.toRat < |x.toRat| then .rat |x.toRat| else t) (.zero false)

/-- The code of the least positive value of a slot that is at least q. -/
def leastCode (f : Fmt) (q : Rat) : Nat :=
  ((List.range (2 ^ f.w)).foldl (fun (best : Option (Rat × Nat)) c =>
    match (f.decode c).val with
    | .rat v =>
      if v ≤ 0 ∨ v < q then best
      else match best with
        | some b => if v < b.1 then some (v, c) else best
        | none => some (v, c)
    | _ => best) none).elim 0 Prod.snd

/-- ScaleUp. -/
def scaleUp (f : Fmt) (t : Num) : Tallied Nat :=
  match t with
  | .inf _ => { val := f.encodeMax false, cnt := Counts.oneSat }
  | t => if f.maxVal < t.toRat then { val := f.encodeMax false, cnt := Counts.oneSat } else .pure (leastCode f t.toRat)

/-- t / MAXF. -/
def overMax (f : Fmt) (t : Num) : Num :=
  match t with
  | .rat q => .rat (q / f.maxVal)
  | t => t

/-- One element of a block: its code and residual. -/
def quantElem (fx fe : Fmt) (sc : Num) (x : Num) (ke kx : Key) (res : Bool) : Tallied (Nat × Nat) :=
  ((Tallied.ofOp (Num.div x sc)).bind (fun q => round fe ke q)).bind (fun c =>
    if res then
      (((fe.decode c).bind (fun y => Tallied.ofOp (Num.mul y sc))).bind (fun p =>
        (Tallied.ofOp (Num.add fx.down x p.negate)).bind (fun d => round fx kx d))).bind (fun r => .pure (c, r))
    else .pure (c, 0))

/-- One block: its scale, codes and residuals; `live` says which of its elements stand in lanes of the effective mask. -/
def quantBlock (fx fe fs : Fmt) (xs : List (Tallied Num)) (keys : Nat → Key × Key) (res : Bool)
    (live : Nat → Bool) : Tallied (Nat × List (Nat × Nat)) :=
  (Tallied.all xs).bind (fun vs =>
    (scaleUp fs (overMax fe (largestAbs vs))).bind (fun sc =>
      (Tallied.all ((List.range vs.length).map (fun i =>
        (quantElem fx fe (fs.decode sc).val (vs.getD i .nan) (keys i).1 (keys i).2 res).inLane (live i)))).bind (fun es => .pure (sc, es))))

/-- Sector s of scq: scales, and codes with residuals. An element's events count where its source lane is in the
effective mask (04 R81); the scale of a block is of no lane. -/
def quantSector (cx : Cx) (fs sb sc : BitVec 4) (b : Nat) (a : RegIx) (res : Bool) (s : Nat) :
    Tallied (List Nat × List (Nat × Nat)) :=
  let fx := cx.fmt fs
  let fe := cx.fmt sb
  let nb := sectorBlocks b fe.w
  let place (n i : Nat) := elemPlace fx.k s (n * b + i)
  let live (n i : Nat) : Bool := laneIn cx.eff (place n i).2.1
  let blocks := Tallied.all ((List.range nb).map (fun n =>
    quantBlock fx fe (cx.fmt sc)
      ((List.range b).map (fun i =>
        (fx.decode (runElem (fun r => cx.g.val (a.toNat + r)) fx s (n * b + i))).inLane (live n i)))
      (fun i => (elemKey cx sb fx.k (place n i), elemKey cx fs fx.k (place n i))) res (live n)))
  { val := (blocks.val.map Prod.fst, blocks.val.flatMap Prod.snd), cnt := blocks.cnt }

/-- DRAW advances in the lanes of the mask where a slot rounded into is stochastic (04 R80). -/
def State.drawIf (s : State) (cx : Cx) (sto : Bool) : State :=
  if sto then s.modGroup cx.gid (fun g => g.advanceDraw cx.eff) else s

/-- What a word that writes registers names, with its runs and its source fields (01 R29, R31, 08 R196). -/
def runUses (fields : List (List Nat)) (writes runs : List Nat) (slots : List (BitVec 4 × BitVec 16)) : Uses :=
  { reads := fields.flatten, writes := writes, runs := runs, slots := slots, fields := fields }

/-- The residual run touches the register of D, or runs across part of the run of A (09 R216). -/
def residBad (d : Nat) (src resid : List Nat) : Bool := resid.contains d || (resid != src && resid.any src.contains)

/-- Registers of the runs of scq. -/
def scqRun (cx : Cx) (fs sb : BitVec 4) (bs : BlockSize) : Nat :=
  sectorRun (sectorBlocks (blockLen bs) (cx.fmt sb).w * blockLen bs) (cx.fmt fs).k

/-- The runs of scq: A, and the residuals. -/
def scqMembers (fs sb : BitVec 4) (bs : BlockSize) (res : Option RegIx) (a : RegIx) (cx : Cx) : Members where
  reads := runOf a.toNat (scqRun cx fs sb bs)
  writes := match res with
    | some r => runOf r.toNat (scqRun cx fs sb bs)
    | none => []

/-- D in every lane, the exited ones too, after a write that was not full (06 R146; log entry 64). -/
def State.wholeSectors (s : State) (cx : Cx) (d : Nat) (out : RegVal) : State :=
  if cx.eff = cx.g.full then s else s.modGroup cx.gid (fun g => g.setVal d out)

/-- Quantises: RES is written in the effective mask; D too, and then in every lane, since its sectors are whole (06
R146). Once a lane has exited neither write is full (08 R192, R193). -/
def scqBody (fs sb sc : BitVec 4) (bs : BlockSize) (res : Option RegIx) (d a : RegIx) (s : State) (cx : Cx) : Ans :=
  let fx := cx.fmt fs
  let fe := cx.fmt sb
  let b := blockLen bs
  let nb := sectorBlocks b fe.w
  let g := scqRun cx fs sb bs
  let ms := scqMembers fs sb bs res a cx
  if cx.eff ≠ cx.g.live then .trap s (cause 0x04 0)
  else if nb = 0 ∨ runBad cx a.toNat g 32 = true ∨ (match res with
      | some r => runBad cx r.toNat g 32
      | none => false) = true ∨ residBad d.toNat ms.reads ms.writes = true then .trap s badOperand
  else
    let secs := Tallied.all ((List.range (cx.w / 8)).map (quantSector cx fs sb sc b a res.isSome))
    let out := sectorsVal cx.w (secs.val.map (fun x =>
      mkSector sb.toNat (blockCode bs) fe.w x.1 (x.2.map Prod.fst)))
    let resid (s' e : Nat) : Nat :=
      match ((secs.val.getD s' ([], [])).2)[e]? with
      | some x => x.2
      | none => fx.encodeRat 0 false
    let rw : List (Nat × RegVal) := match res with
      | some r => (List.range g).map (fun i => (r.toNat + i, layoutReg cx.w i fx.k fx.w resid))
      | none => []
    .done (((s.putRun cx cx.eff [d.toNat] ((d.toNat, out) :: rw) secs.cnt).wholeSectors cx d.toNat out).drawIf cx
      (fe.sto || fx.sto))

def execScq (g : Guard) (fs sb sc : BitVec 4) (bs : BlockSize) (res : Option RegIx) (d a : RegIx) :
    State → Host.Outcome State Fault Refusal :=
  let r := match res with
    | some x => [x.toNat]
    | none => []
  issueRuns g (runUses [[a.toNat]] (d.toNat :: r) (a.toNat :: r) [(fs, 1), (sb, 2), (sc, 3), (sc, 4)])
    (scqMembers fs sb bs res a) (scqBody fs sb sc bs res d a)

/-! ### scdq (06 R147) -/

/-- The slot that a sector's header names takes no block of its block length (06 R144, step 5). -/
def sectorEmpty (cx : Cx) (n : Nat) : Bool :=
  let h := n % 256
  let els := cx.g.slotDef (headerEls h)
  !headerBad h && els != 0 && sectorBlocks (headerBlock h) (Fmt.ofWord els).w == 0

/-- What is wrong with the header of a sector read from a register, for a run that takes `room` elements (06 R144, step
6). An ELS whose slot holds no valid definition ranks after the header's bits here (log entry 17). -/
def sectorFault (cx : Cx) (room : Fmt → Nat) (n : Nat) : Option Cause :=
  let h := n % 256
  let els := cx.g.slotDef (headerEls h)
  let f := Fmt.ofWord els
  if headerBad h then some (cause 0x02 5)
  else if els = 0 then some (cause 0x02 4)
  else if room f < sectorBlocks (headerBlock h) f.w * headerBlock h then some (cause 0x02 5)
  else none

/-- The sectors of a register with their elements' format, block count and block length. -/
def sectorShape (cx : Cx) (n : Nat) : Fmt × Nat × Nat :=
  let h := n % 256
  let f := Fmt.ofWord (cx.g.slotDef (headerEls h))
  (f, sectorBlocks (headerBlock h) f.w, headerBlock h)

/-- Element e of a sector, dequantised; +0 past its elements, which the format without zero encodes as log entry 81
says. -/
def dequantElem (cx : Cx) (fs sc : BitVec 4) (n : Nat) (key : Key) (e : Nat) : Tallied Nat :=
  let (f, nb, b) := sectorShape cx n
  let fy := cx.fmt sc
  if e < nb * b then
    ((f.decode (sectorElem n nb f.w e)).bind (fun x =>
      ((cx.fmt fs).decode (sectorScale n (e / b) % 2 ^ (cx.fmt fs).w)).bind (fun y => Tallied.ofOp (Num.mul x y)))).bind
      (fun p => round fy key p)
  else .pure (fy.encodeRat 0 false)

/-- Lane l of register r of the run that scdq writes. -/
def dequantLane (cx : Cx) (fs sc : BitVec 4) (v : RegVal) (r l : Nat) : Tallied Word :=
  let fy := cx.fmt sc
  let xs := Tallied.all ((List.range fy.k).map (fun q =>
    dequantElem cx fs sc (regSector v (l / 8)) (elemKey cx sc fy.k (r, l, q)) (r * (8 * fy.k) + l % 8 * fy.k + q)))
  { val := packElems fy.w xs.val, cnt := xs.cnt }

/-- A register of the run that scdq writes, with the events of the effective mask (04 R81). -/
def dequantReg (cx : Cx) (fs sc : BitVec 4) (v : RegVal) (r : Nat) : Tallied RegVal :=
  let xs := Tallied.all ((List.range cx.w).map (fun l => (dequantLane cx fs sc v r l).inLane (laneIn cx.eff l)))
  { val := .general xs.val, cnt := xs.cnt }

/-- The run that scdq and scup write, as long as C says where it says it alike in every lane. -/
def unpackMembers (d : RegIx) (c : Src) (cx : Cx) : Members where
  reads := []
  writes := match equalC cx c with
    | some x => runOf d.toNat (x.extractLsb' 0 6).toNat
    | none => []

/-- The checks that scdq and scup share, in the order of 06 R144; `room` is what the run holds of a sector's elements. -/
def unpackBody (d : RegIx) (a c : Src) (room : Cx → Nat → Fmt → Nat)
    (act : State → Cx → Nat → Ans) (s : State) (cx : Cx) : Ans :=
  if cx.eff ≠ cx.g.live then .trap s (cause 0x04 0)
  else
    match equalC cx c with
    | none => .trap s (cause 0x04 0)
    | some x =>
      let g := (x.extractLsb' 0 6).toNat
      let secs := (List.range (cx.w / 8)).map (regSector (cx.src a))
      if g = 0 ∨ runBad cx d.toNat g 32 = true ∨ secs.any (sectorEmpty cx) = true then .trap s badOperand
      else
        match secs.findSome? (sectorFault cx (room cx g)) with
        | some f => .trap s f
        | none => act s cx g

def execScdq (g : Guard) (fs sc : BitVec 4) (d : RegIx) (a c : Src) : State → Host.Outcome State Fault Refusal :=
  issueRuns g (runUses [srcReg a, [], srcReg c] [d.toNat] [d.toNat] [(fs, 1), (fs, 4), (sc, 3)]) (unpackMembers d c)
    (unpackBody d a c (fun cx n _ => 8 * (cx.fmt sc).k * n) (fun s cx n =>
      let rs := Tallied.all ((List.range n).map (dequantReg cx fs sc (cx.src a)))
      .done ((s.putRun cx cx.eff [] ((List.range n).map (fun i => (d.toNat + i, rs.val.getD i (.uniform 0))))
        rs.cnt).drawIf cx (cx.fmt sc).sto)))

/-! ### scpk and scup (06 R148) -/

/-- The run of codes that scpk reads. -/
def scpkMembers (fs : BitVec 4) (bs : BlockSize) (a : RegIx) (cx : Cx) : Members where
  reads := runOf a.toNat (scqRun cx fs fs bs)
  writes := []

def scpkBody (fs sb : BitVec 4) (bs : BlockSize) (d a : RegIx) (b : Src) (s : State) (cx : Cx) : Ans :=
  let f := cx.fmt fs
  let bl := blockLen bs
  let nb := sectorBlocks bl f.w
  if cx.eff ≠ cx.g.live then .trap s (cause 0x04 0)
  else if nb = 0 ∨ runBad cx a.toNat (scqRun cx fs fs bs) 32 = true then .trap s badOperand
  else
    .done (s.putRun cx cx.eff [d.toNat] [(d.toNat, sectorsVal cx.w ((List.range (cx.w / 8)).map (fun i =>
      mkSector fs.toNat (blockCode bs) f.w
        ((List.range nb).map (fun n => regScale (cx.src b) i n % 2 ^ (cx.fmt sb).w))
        ((List.range (nb * bl)).map (runElem (fun r => cx.g.val (a.toNat + r)) f i)))))] Counts.zero)

def execScpk (g : Guard) (fs sb : BitVec 4) (bs : BlockSize) (d a : RegIx) (b : Src) :
    State → Host.Outcome State Fault Refusal :=
  issueRuns g (runUses [[a.toNat], srcReg b] [d.toNat] [a.toNat] [(fs, 1), (sb, 2), (sb, 4)]) (scpkMembers fs bs a)
    (scpkBody fs sb bs d a b)

/-- Lane l of register r of the codes scup writes: laid out by the width of the lane's own sector. -/
def unpackLane (cx : Cx) (v : RegVal) (r l : Nat) : Word :=
  let n := regSector v (l / 8)
  let (f, nb, b) := sectorShape cx n
  packElems f.w ((List.range f.k).map (fun q =>
    let e := r * (8 * f.k) + l % 8 * f.k + q
    if e < nb * b then sectorElem n nb f.w e else 0))

/-- A lane of a register that scup names twice: a free value that the same words of corresponding runs share (11 R233;
log entry 61). -/
def twiceLane (cx : Cx) (v : RegVal) (l : Nat) : Word :=
  BitVec.ofNat 64 (Config.rawTwice
    (cx.gid.team :: cx.gid.grp :: cx.p.pc.toNat :: (v.lanes cx.w).map BitVec.toNat) l)

def execScup (g : Guard) (fs : BitVec 4) (res : RegIx) (d : RegIx) (a c : Src) :
    State → Host.Outcome State Fault Refusal :=
  issueRuns g (runUses [srcReg a, [], srcReg c] [d.toNat, res.toNat] [d.toNat] [(fs, 1), (fs, 4)]) (unpackMembers d c)
    (unpackBody d a c (fun _ n f => 8 * f.k * n) (fun s cx n =>
      let v := cx.src a
      let codes := (List.range n).map (fun r => (d.toNat + r, generalVal cx.w (unpackLane cx v r)))
      let scales :=
        if (runOf d.toNat n).contains res.toNat then generalVal cx.w (twiceLane cx v)
        else scalesVal cx.w (fun i b =>
          let x := regSector v i
          if b < (sectorShape cx x).2.1 then sectorScale x b % 2 ^ (cx.fmt fs).w else 0)
      .done (s.putRun cx cx.eff [res.toNat] (codes ++ [(res.toNat, scales)]) Counts.zero)))

/-! ### bscl (06 R149) -/

/-- An exact product as one operation: a NaN among the factors makes it NaN and no event; R79 speaks of two factors
(log entry 71). -/
def mulNums (xs : List Num) : Num × Bool :=
  if xs.contains .nan then (.nan, false)
  else
    match xs with
    | [] => (.rat 1, false)
    | x :: ys => ys.foldl (fun acc y =>
      let r := Num.mul acc.1 y
      (r.1, acc.2 || r.2)) (x, false)

/-- bscl in one lane: a product of three factors. -/
def bandLane (fx fb fy : Fmt) (key : Nat → Key) (a b : Word) : Tallied Word :=
  let xs := Tallied.all ((List.range (min fx.k fy.k)).map (fun j =>
    (decElem fx a j).bind (fun x => (decElem fb b 0).bind (fun y => (decElem fb b 1).bind (fun z =>
      (Tallied.ofOp (mulNums [x, y, z])).bind (fun p => round fy (key j) p))))))
  { val := packElems fy.w xs.val, cnt := xs.cnt }

def execBscl (g : Guard) (fs sb sc : BitVec 4) (d : RegIx) (a b : Src) : State → Host.Outcome State Fault Refusal :=
  issueWord g ((usesOf [a, b] [d]).withSlots [(fs, 1), (sb, 2), (sc, 3)]) (fun s cx =>
    if cx.eff ≠ cx.g.live then .trap s (cause 0x04 0)
    else if 32 < (cx.fmt sb).w then .trap s badOperand
    else
      let fy := cx.fmt sc
      let rs := Tallied.all ((List.range cx.w).map (fun l =>
        if laneIn cx.eff l then
          bandLane (cx.fmt fs) (cx.fmt sb) fy (cx.key sc l) ((cx.src a).lane l) ((cx.src b).lane l)
        else .pure 0))
      .done ((s.putResult cx d.toNat (.general rs.val) rs.cnt).drawIf cx fy.sto))

end Sys2Proof.Machine
end

