-- ==== Sys2Proof/Machine/Memory.lean ====
section
/-! DEFINITION. Loads, stores, packed and split-phase accesses, cache maintenance, strands, zero-mask forms, fragment
loads and stores, and fences (05 R99 to R124, 06 R153 to R155). -/

namespace Sys2Proof.Machine

/-- What a word with an address in field A and the sources of B and C names; an empty field is `.spec .zero`. -/
def memUses (m : Addr) (b c : Src) (dests : List Nat) : Uses :=
  { Uses.none with
    reads := addrRegs m ++ srcReg b ++ srcReg c, writes := dests, fields := [srcReg m.base, srcReg b, srcReg c] }

/-- Bytes of a width code (02 R33). -/
def widthBytes : Width → Nat
  | .b8 => 1
  | .b16 => 2
  | .b32 => 4
  | .b64 => 8
  | .b128 => 16
  | .x8 => 1
  | .x16 => 2
  | .x32 => 4

/-- A loaded value: zero-extended, or sign-extended by .x8 to .x32 (05 R105). -/
def extendLoad (wd : Width) (bs : List Byte) : Word :=
  match wd with
  | .x8 => ((wordOf bs).extractLsb' 0 8).signExtend 64
  | .x16 => ((wordOf bs).extractLsb' 0 16).signExtend 64
  | .x32 => ((wordOf bs).extractLsb' 0 32).signExtend 64
  | _ => wordOf (bs.take 8)

/-- ORD includes an acquire, a release. -/
def acquires (o : Order) : Bool := o == .acq || o == .ar
def releases (o : Order) : Bool := o == .rel || o == .ar

/-! ### Results that come with a reply -/

/-- A result in flight with the registers it writes and the traps due with it (05 R103, R105). -/
def State.flyReply (s : State) (cx : Cx) (kind : FlightKind) (dests : List Nat) (ws : List RegWrite)
    (due : List TrapInfo) (stamps : List (Nat × BitVec 32)) : State :=
  let (n, s1) := s.take
  s1.modGroup cx.gid (fun g => g.fly
    { serial := n, slot := cx.slot, kind := kind, covered := false, dests := dests, writes := ws, counts := Counts.zero
      due := due, waits := [], job := none, stamps := stamps })

/-- The stamps of the places read (12 R273). -/
def State.stampsOf (s : State) (xs : List (Piece × Got)) : List (Nat × BitVec 32) :=
  ((xs.filter (fun x => !x.1.scratch)).flatMap (fun x => s.stampOf x.1.place)).dedup

/-- Lanes whose bytes arrived. -/
def gotLanes (xs : List (Piece × Got)) (ls : List Nat) : Word := maskOf (ls.filter (fun l => (laneBytes xs l).isSome))

/-- Where nothing was poisoned, the lanes that arrived are written; otherwise none (05 R103). -/
def writtenLanes (xs : List (Piece × Got)) (ls : List Nat) : Word :=
  if (poisonedPiece xs).isSome then 0 else gotLanes xs ls

/-! ### ld and ldi (05 R105 to R107, R111) -/

/-- The read an order and a scope call for (12 R249). -/
def readerOf (cx : Cx) (o : Order) (sc : Scope) (h : Hint) : State → Piece → Got × State :=
  fun s q =>
    if acquires o then
      match sc with
      | .dev => s.devWordRead cx h q
      | .sys => s.sysWordRead cx h q
      | _ => s.wordRead cx h q
    else s.wordRead cx h q

/-- The register writes of a load: one value for a uniform address under a full mask, else one a lane. -/
def loadWrites (cx : Cx) (wd : Width) (d : RegIx) (one : Bool) (xs : List (Piece × Got)) (ls : List Nat) :
    List RegWrite :=
  let bytes (l : Nat) : List Byte := (laneBytes xs l).getD []
  let val (f : List Byte → Word) : RegVal :=
    if one then .uniform (f (bytes (ls.headD 0))) else generalVal cx.w (fun l => f (bytes l))
  let m := if one then (if writtenLanes xs ls = 0 then 0 else cx.eff) else writtenLanes xs ls
  if m = 0 then []
  else if wd = .b128 then
    [{ reg := d.toNat, mask := m, val := val (fun b => wordOf (b.take 8)), run := false },
     { reg := d.toNat + 1, mask := m, val := val (fun b => wordOf (b.drop 8)), run := false }]
  else [{ reg := d.toNat, mask := m, val := val (extendLoad wd), run := false }]

def loadDests (wd : Width) (d : RegIx) : List Nat := if wd = .b128 then [d.toNat, d.toNat + 1] else [d.toNat]

/-- A load: the checks of 05 R102, the probe, the reads, and a result in flight. An `ldi` takes its value here too, at
issue, which is a moment that 12 R266 allows (DESIGN CHOICE, log entry 86). -/
def loadBody (wd : Width) (o : Order) (sc : Scope) (h : Hint) (kind : FlightKind) (shapes : Bool) (d : RegIx) (m : Addr)
    (s : State) (cx : Cx) : Ans :=
  let n := widthBytes wd
  let accs := byteAccs cx m n
  match earlyFault cx n accs with
  | some c => .trap s c
  | none =>
    match s.probe cx .read accs with
    | .stop a => a
    | .ok rs s1 =>
      let one := shapes && cx.full && uniformAddr cx m
      let accs1 := if one then accs.take 1 else accs
      let ps := accs1.flatMap (splitAcc rs)
      let at_ := accScope accs sc
      let (ready, t) := if acquires o then s1.releaseAt cx at_ (storeWho cx ps) else (true, s1)
      let (xs, s2) := t.readPieces cx (readerOf cx o sc h) ps
      if !ready then .wait t
      else if mustWait xs then .wait (s2.waitFills cx (neededSectors xs))
      else
        let s3 := if acquires o then s2.acquireAt cx.g.core.clus cx.ctx (storeWho cx ps) at_ else s2
        .done ((s3.flyReply cx kind (loadDests wd d) (loadWrites cx wd d one xs (accs1.map (·.lane)))
          (readTraps cx xs) (s2.stampsOf xs)).owe cx (lostTraps cx xs))

def execLd (g : Guard) (wd : Width) (o : Order) (sc : Scope) (h : Hint) (d : RegIx) (m : Addr) :
    State → Host.Outcome State Fault Refusal :=
  issueMasked g (memUses m (.spec .zero) (.spec .zero) (loadDests wd d)) (loadBody wd o sc h .load true d m)

/-- ldi: at most 63 loads are out on a counter; the result is always general (05 R111). -/
def ldiBody (wd : Width) (ac : BitVec 4) (h : Hint) (d : RegIx) (m : Addr) (s : State) (cx : Cx) : Ans :=
  if 63 ≤ cx.g.ac ac.toNat then .wait s
  else
    match loadBody wd .plain .grp h (.ldi ac) false d m s cx with
    | .done s1 => .done (s1.modGroup cx.gid (fun g => g.setAc ac.toNat (g.ac ac.toNat + 1)))
    | a => a

def execLdi (g : Guard) (wd : Width) (ac : BitVec 4) (h : Hint) (d : RegIx) (m : Addr) :
    State → Host.Outcome State Fault Refusal :=
  issueMasked g (memUses m (.spec .zero) (.spec .zero) [d.toNat]) (ldiBody wd ac h d m)

/-- waitac waits before issue (05 R112). -/
def execWaitac (g : Guard) (n : BitVec 4) (t : BitVec 6) : State → Host.Outcome State Fault Refusal :=
  issueWord g Uses.none (fun s cx => if t.toNat < cx.g.ac n.toNat then .wait s else .done s)

/-! ### Writing sectors -/

/-- A plain store of a sector's masked bytes, counted as L1 hit or miss; `whole` says of which sectors it writes every
bit (05 R103). -/
def storePlain (cx : Cx) (h : Hint) (s : State) (sec : Nat) (bs : List Byte) (m : Word) (ret : Hint)
    (whole : Nat → Bool := fun _ => m == fullMask 64) : State :=
  (s.countL1 cx sec m).plainWrite cx.g.core.clus sec bs m h (l2Hint h ret) (whole sec)

/-- A releasing store: at the point of coherence of .dev, or at the owner (12 R249). -/
def storeRelease (cx : Cx) (sc : Scope) (h : Hint) (ps : List Piece) (s : State) (sec : Nat) (bs : List Byte) (m : Word)
    (ret : Hint) : State :=
  let through := (s.writeThrough cx.g.core.clus sec bs m (some (l2Hint h ret))).noteLine cx.g.core.clus sec h
  match sc with
  | .dev => through
  | .sys => (through.wbL2 cx.ctx sec (storeWho cx ps sec)).1
  | _ => storePlain cx h s sec bs m ret

/-- A write below L1 into a peer sector that takes none now waits, and so does a request beyond the window (14 R300,
R315). -/
def writeBlocked (s : State) (cx : Cx) (below sys : Bool) (places : List Nat) : Bool :=
  let secs := ((places.filter isPeer).map sectorOf).dedup
  let direct (sec : Nat) : Bool := below || (s.storeRoom cx.g.core.clus sec .dflt).isNone
  secs.any (fun sec => direct sec && !s.takesWrite sec ((secs.map (fun x => x / 8)).dedup))
    || (sys && secs.any (fun sec => !s.canSend cx.ctx (placeDev (sectorBase sec)) secs.length))

/-! ### Copy starts (07 R169, R170) -/

/-- A copy start: the lane, its aperture offset, and the two words stored. -/
structure CopyStart where
  lane : Nat
  off : Nat
  lo : Word
  hi : Word
  deriving DecidableEq, Repr

/-- Element width of a template (07 R166). -/
def tmplWc (t : List Word) : Nat := ((t.getD 1 0).extractLsb' 49 7).toNat
def tmplW (t : List Word) : Nat := if tmplWc t = 127 then 512 else tmplWc t + 1
def tmplNdim (t : List Word) : Nat := ((t.getD 1 0).extractLsb' 46 3).toNat
def tmplXform (t : List Word) : Nat := ((t.getD 1 0).extractLsb' 43 3).toNat
def tmplToStrand (t : List Word) : Bool := (t.getD 1 0).getLsbD 35
def tmplStrand (t : List Word) : Nat := ((t.getD 1 0).extractLsb' 30 5).toNat

/-- Box extent of dimension d. -/
def tmplBox (t : List Word) (d : Nat) : Nat :=
  if d = 4 then ((t.getD 1 0).extractLsb' 22 8).toNat else ((t.getD 7 0).extractLsb' (8 * d) 8).toNat

/-- Extent of dimension d. -/
def tmplExt (t : List Word) (d : Nat) : Nat :=
  ((t.getD (3 + d / 2) 0).extractLsb' (32 * (d % 2)) 32).toNat

/-- Stride of dimension d; 1 for dimension 0. -/
def tmplStr (t : List Word) (d : Nat) : Nat :=
  if d = 0 then 1
  else if d = 4 then ((t.getD 7 0).extractLsb' 32 32).toNat
  else ((t.getD (5 + d / 2) 0).extractLsb' (32 * (d % 2)) 32).toNat

/-- P: elements of the box. -/
def tmplCount (t : List Word) : Nat := (List.range (tmplNdim t)).foldl (fun p d => p * tmplBox t d) 1

def ceilDiv (a b : Nat) : Nat := (a + b - 1) / b

/-- TB before and after rounding (07 R167). -/
def tmplRaw (t : List Word) : Nat :=
  let p := tmplCount t
  match tmplXform t with
  | 1 => p
  | 2 => 2 * p
  | 7 => 16 + 16 * ceilDiv p 128 + 16 * ceilDiv (p * tmplW t) 128
  | _ => ceilDiv (p * tmplW t) 8

def tmplBytes (t : List Word) : Nat := 16 * ceilDiv (tmplRaw t) 16

/-- A bank is a strand of the context that takes pushes (10 R221, R223). -/
def State.strandOpen (s : State) (clus bank ctx : Nat) : Bool :=
  (s.bank clus bank).mode == .strand && (s.bank clus bank).ownedBy ctx

/-- What is wrong with a copy start (07 R170); the checks in order of their detail. -/
def copyFault (s : State) (cx : Cx) (t : Team) (c : CopyStart) : Option (BitVec 16) :=
  let rec' := Tab.get? t.tmpls (c.lo.extractLsb' 0 6).toNat
  let doff := (c.lo.extractLsb' 16 20).toNat
  if c.off % 256 ≠ 0 ∨ 2048 ≤ c.off then some 2
  else
    match rec' with
    | none => some 3
    | some r =>
      if c.lo.extractLsb' 36 12 ≠ 0 ∨ c.lo.extractLsb' 6 10 ≠ 0 then some 4
      else if tmplToStrand r = false then
        (if doff % 16 ≠ 0 ∨ cx.scratchSize < doff + tmplBytes r then some 5 else none)
      else if doff ≠ 0 ∨ s.strandOpen cx.g.core.clus (tmplStrand r) cx.ctx = false then some 6
      else none

/-- The copy of a start. -/
def copyOf (cx : Cx) (t : Team) (c : CopyStart) (n : Nat) (late : Bool) : Copy where
  serial := n
  gid := cx.gid
  tidx := (c.lo.extractLsb' 0 6).toNat
  words := (Tab.get? t.tmpls (c.lo.extractLsb' 0 6).toNat).getD []
  coords := [(c.hi.extractLsb' 0 16).toNat, (c.hi.extractLsb' 16 16).toNat, (c.hi.extractLsb' 32 16).toNat,
    (c.hi.extractLsb' 48 16).toNat, (c.lo.extractLsb' 48 16).toNat]
  doff := (c.lo.extractLsb' 16 20).toNat
  got := []
  wrote := 0
  reserved := false
  faulted := false
  abortNext := false
  late := late
  due := cx.imprecise 0x13 0 0xFFFF 0 0 0

/-- Posts a copy; one accepted while its strand drains is marked (10 R223). -/
def State.postCopy (s : State) (cx : Cx) (c : CopyStart) : State :=
  match s.team? (tidOf cx.gid) with
  | none => s
  | some t =>
    let (n, s1) := s.take
    let x := copyOf cx t c n false
    let late := tmplToStrand x.words && (s.bank cx.g.core.clus (tmplStrand x.words)).target.isSome
    s1.modTeam (tidOf cx.gid) (fun t =>
      let q := c.off / 256
      t.setQueue q { t.queue q with pending := (t.queue q).pending ++ [{ x with late := late }] })

/-- Whether a queue would hold more pending copies than it can (07 R170). -/
def copiesWait (t : Team) (cs : List CopyStart) : Bool :=
  (List.range 8).any (fun q =>
    let k := (cs.filter (fun c => c.off / 256 == q)).length
    k != 0 && Config.copyQueueOver ((t.queue q).pending.length + k))

/-! ### st (05 R105, R106) -/

/-- The bytes a lane stores. -/
def storeBytes (cx : Cx) (wd : Width) (b : Src) (l : Nat) : List Byte :=
  match wd, b with
  | .b128, .reg i => toBytes 8 ((cx.g.val i.toNat).lane l).toNat ++ toBytes 8 ((cx.g.val (i.toNat + 1)).lane l).toNat
  | _, _ => toBytes (widthBytes wd) ((cx.src b).lane l).toNat

def storeSrcs (wd : Width) (b : Src) : List Nat :=
  match wd, b with
  | .b128, .reg i => [i.toNat, i.toNat + 1]
  | _, b => srcReg b

/-- Segment protection of st: 0xFD takes .b128 alone (05 R100). The width of a copy start, which 07 R170 lists among the
checks of step 5 of R102, is aperture misuse, of step 2 (DEDUCED, log entry 87). -/
def storeSegFault (wd : Width) (accs : List LaneAcc) : Option Cause :=
  (accs.find? (fun a => a.seg == 0xFC || a.seg == 0xFF || (a.seg == 0xFD && wd != .b128))).map (fun a =>
    if a.seg = 0xFD then causeAt 0x08 1 a else causeAt 0x09 0 a)

/-- The copy starts among the lanes. -/
def startsOf (cx : Cx) (wd : Width) (b : Src) (accs : List LaneAcc) : List CopyStart :=
  (accs.filter (fun a => a.seg == 0xFD)).map (fun a =>
    let bs := storeBytes cx wd b a.lane
    { lane := a.lane, off := a.off, lo := wordOf (bs.take 8), hi := wordOf (bs.drop 8) })

/-- Check 5 of a store: its copy starts (07 R170). -/
def startsFault (s : State) (cx : Cx) (cs : List CopyStart) : Option Cause :=
  match s.team? (tidOf cx.gid) with
  | none => none
  | some t =>
    (cs.find? (fun c => (copyFault s cx t c).isSome)).map (fun c =>
      { cause 0x08 ((copyFault s cx t c).getD 0) with
        lane := BitVec.ofNat 16 c.lane, addr := BitVec.ofNat 64 c.off, aseg := 0xFD })

/-- Pieces of a store with their bytes. -/
def storePieces (cx : Cx) (wd : Width) (b : Src) (rs : List Region) (accs : List LaneAcc) :
    List (Piece × List Byte) :=
  (accs.filter (fun a => a.seg != 0xFD)).flatMap (fun a => alongPieces (splitAcc rs a) (storeBytes cx wd b a.lane))

def stBody (wd : Width) (o : Order) (sc : Scope) (h : Hint) (m : Addr) (b : Src) (s : State) (cx : Cx) : Ans :=
  let n := widthBytes wd
  let accs := byteAccs cx m n
  match ((storeSegFault wd accs).or (alignFault n accs)).or (scratchFault cx.scratchSize accs) with
  | some c => .trap s c
  | none =>
    let cs := startsOf cx wd b accs
    match startsFault s cx cs with
    | some c => .trap s c
    | none =>
      match s.probe cx .write accs with
      | .stop a => a
      | .ok rs s1 =>
        let ps := storePieces cx wd b rs accs
        let places := (ps.filter (fun x => !x.1.scratch)).map (fun x => x.1.place)
        let sc := accScope accs sc
        let rel := releases o && (sc == .dev || sc == .sys)
        let need : Scope := if rel then sc else if cs.isEmpty then .grp else .dev
        let (ready, s2) := s1.releaseAt cx need (storeWho cx (ps.map Prod.fst))
        if !ready || writeBlocked s2 cx (rel || h == .byp) (rel && sc == .sys) places
            || (match s2.team? (tidOf cx.gid) with
              | some t => copiesWait t cs
              | none => false) then .wait s2
        else
          let s3 := s2.putPieces cx (if releases o then storeRelease cx sc h (ps.map Prod.fst) else storePlain cx h) ps
          .done (cs.foldl (fun s c => s.postCopy cx c) s3)

def execSt (g : Guard) (wd : Width) (o : Order) (sc : Scope) (h : Hint) (m : Addr) (b : Src) :
    State → Host.Outcome State Fault Refusal :=
  issueMasked g { Uses.none with
    reads := addrRegs m ++ storeSrcs wd b, fields := [srcReg m.base, srcReg b] } (stBody wd o sc h m b)

/-! ### Packed accesses (05 R108 to R110) -/

/-- Elements of a lane: at most k. -/
def packCount (pw : BitVec 6) (c : Word) : Nat := min (c.extractLsb' 0 7).toNat (64 / (pw.toNat + 1))

/-- The byte access of a field of `len` bits from bit address b. It goes on past bit address 2^64 − 1, at byte 2^61 (DESIGN
CHOICE, log entry 82). -/
def bitAcc (l : Nat) (seg : BitVec 8) (b len : Nat) : LaneAcc :=
  { lane := l, seg := seg, off := b / 8, n := if len = 0 then 0 else (b % 8 + len + 7) / 8 }

/-- The packed accesses of the lanes: byte access, first bit, length in bits. A lane with n = 0 has none, so no check of
an address concerns it (DEDUCED, log entry 83). -/
def packAccs (cx : Cx) (pw : BitVec 6) (m : Addr) (c : Src) : List (LaneAcc × Nat × Nat) :=
  (lanes cx.eff).filterMap (fun l =>
    let a := laneAddr cx m l
    let len := packCount pw ((cx.src c).lane l) * (pw.toNat + 1)
    if len = 0 then none else some (bitAcc l a.1 a.2.toNat len, a.2.toNat % 8, len))

/-- The field of a lane, extended. -/
def packField (x : Bool) (bs : List Byte) (bit len : Nat) : Word :=
  let v := bits (ofBytes bs) bit len
  if x && v.testBit (len - 1) then BitVec.ofNat 64 (v + (2 ^ 64 - 2 ^ len)) else BitVec.ofNat 64 v

def ldpBody (x : Bool) (pw : BitVec 6) (h : Hint) (d : RegIx) (m : Addr) (c : Src) (s : State) (cx : Cx) : Ans :=
  let fs := packAccs cx pw m c
  let accs := fs.map (·.1)
  match earlyFault cx 1 accs with
  | some c => .trap s c
  | none =>
    match s.probe cx .read accs with
    | .stop a => a
    | .ok rs s1 =>
      let one := cx.full && uniformAddr cx m && (cx.src c).isUniform
      let accs1 := if one then accs.take 1 else accs
      let (xs, s2) := s1.readPieces cx (fun s q => s.wordRead cx h q) (accs1.flatMap (splitAcc rs))
      if mustWait xs then .wait (s2.waitFills cx (neededSectors xs))
      else
        let val (l : Nat) : Word :=
          match fs.find? (fun f => f.1.lane == l) with
          | some f => packField x ((laneBytes xs l).getD []) f.2.1 f.2.2
          | none => 0
        let bad := (failedPiece xs).isSome || (poisonedPiece xs).isSome
        let m := if one then (if bad then 0 else cx.eff)
          else if (poisonedPiece xs).isSome then 0
          else maskOf ((lanes cx.eff).filter (fun l => (laneBytes xs l).isSome))
        let w : RegWrite := { reg := d.toNat, mask := m
                              val := if one then .uniform (val 0) else generalVal cx.w val, run := false }
        .done ((s2.flyReply cx .load [d.toNat] (if m = 0 then [] else [w]) (readTraps cx xs) (s2.stampsOf xs)).owe cx
          (lostTraps cx xs))

def execLdp (g : Guard) (x : Bool) (pw : BitVec 6) (h : Hint) (d : RegIx) (m : Addr) (c : Src) :
    State → Host.Outcome State Fault Refusal :=
  issueMasked g (memUses m (.spec .zero) c [d.toNat]) (ldpBody x pw h d m c)

/-! ### Writing bits -/

/-- A byte to be merged: where it lies, the value and the bits written. -/
structure BitByte where
  lane : Nat
  scratch : Bool
  seg : BitVec 8
  off : Nat
  place : Nat
  ret : Hint
  val : Byte
  mask : Byte
  deriving DecidableEq, Repr

/-- The bytes of one lane's field. -/
def fieldBytes (rs : List Region) (a : LaneAcc) (bit len v : Nat) : List BitByte :=
  let n := v % 2 ^ len * 2 ^ bit
  let m := (2 ^ len - 1) * 2 ^ bit
  (List.range a.n).map (fun i =>
    let o := (a.off + i) % 2 ^ 64
    { lane := a.lane, scratch := a.seg == 0xFE, seg := a.seg, off := o, place := placeIn rs a.seg o, ret := retIn rs a.seg o
      val := BitVec.ofNat 8 (bits n (8 * i) 8), mask := BitVec.ofNat 8 (bits m (8 * i) 8) })

def BitByte.key (b : BitByte) : Bool × Nat := (b.scratch, if b.scratch then b.off else b.place)

/-- Bytes of several lanes: the highest lane's bits lie over those of lower lanes (05 R108). -/
def mergeBits (xs : List BitByte) : List ((Bool × Nat) × BitByte) :=
  xs.foldl (fun acc x =>
    match Tab.get? acc x.key with
    | some y => Tab.put acc x.key { y with val := (y.val &&& ~~~x.mask) ||| (x.val &&& x.mask), mask := y.mask ||| x.mask }
    | none => Tab.put acc x.key x) []

/-- The stored byte, poisoned or not (05 R103), as the cluster finds it; with `.byp`, as the level beneath its L1 holds it
but for what the cluster itself has written (05 R109, R114). None where its owner must be read first. -/
def State.storedByte (s : State) (cx : Cx) (h : Hint) (b : BitByte) : Option Byte :=
  if b.scratch then (s.scratchRead (tidOf cx.gid) b.off 1).head?
  else
    let sec := sectorOf b.place
    let o := b.place % 64
    let low : Option Byte :=
      if isLocal b.place then some (s.homeByte b.place)
      else
        match s.l2Sector sec with
        | some x => if laneIn x.valid o then x.bytes[o]? else none
        | none => none
    let far : Option Byte :=
      if isHost b.place then (s.hostRead (placeAddr b.place) 1).head?
      else match Tab.get? cx.p.fills sec with
        | some (.bytes bs) => bs[o]?
        | some (.poisoned bs) => bs[o]?
        | some (.failed _) => none
        | none => none
    match s.l1Sector cx.g.core.clus sec with
    | some x => if laneIn (if h = .byp then x.mask else x.valid) o then x.bytes[o]? else low.or far
    | none => low.or far

/-- The read that a merge needs had no answer: its DETAIL (14 R306). -/
def BitByte.lost (cx : Cx) (b : BitByte) : Option (BitVec 16) :=
  match b.scratch, Tab.get? cx.p.fills (sectorOf b.place) with
  | false, some (.failed d) => some d
  | _, _ => none

def BitByte.piece (b : BitByte) : Piece where
  lane := b.lane
  scratch := b.scratch
  seg := b.seg
  off := b.off
  place := b.place
  n := 1
  ret := b.ret

/-- Merges bits into memory: the answer of stp and stfr (05 R109). The bytes of a sector whose stored bits had to be
read and did not arrive are not written, and trap 0x0D is due (14 R306; log entry 69). -/
def writeBits (s : State) (cx : Cx) (h : Hint) (xs : List BitByte) : Ans :=
  let ms := (mergeBits xs).map Prod.snd
  let open_ := ms.filter (fun b => b.mask != 0xFF && (s.storedByte cx h b).isNone)
  let need := ((open_.filter (fun b => (b.lost cx).isNone)).map (fun b => sectorOf b.place)).dedup
  let gone := open_.filter (fun b => (b.lost cx).isSome)
  let rest := ms.filter (fun b => b.scratch || !(gone.map (fun g => sectorOf g.place)).contains (sectorOf b.place))
  if !need.isEmpty then .wait (s.waitFills cx need)
  else if writeBlocked s cx (h == .byp) false ((rest.filter (fun b => !b.scratch)).map (·.place)) then .wait s
  else
    let whole (sec : Nat) : Bool :=
      (rest.filter (fun b => !b.scratch && sectorOf b.place == sec && b.mask == 0xFF)).length == 64
    let s1 := s.putPieces cx (fun s sec bs m ret => storePlain cx h s sec bs m ret whole) (rest.map (fun b =>
      (b.piece, [(((s.storedByte cx h b).getD 0) &&& ~~~b.mask) ||| (b.val &&& b.mask)])))
    .done (s1.owe cx (lostTraps cx (gone.map (fun b => (b.piece, .failed ((b.lost cx).getD 0))))))

def stpBody (pw : BitVec 6) (h : Hint) (m : Addr) (b c : Src) (s : State) (cx : Cx) : Ans :=
  let fs := packAccs cx pw m c
  let accs := fs.map (·.1)
  match earlyFault cx 1 accs with
  | some c => .trap s c
  | none =>
    match s.probe cx .write accs with
    | .stop a => a
    | .ok rs s1 =>
      writeBits s1 cx h (fs.flatMap (fun f =>
        fieldBytes rs f.1 f.2.1 f.2.2 ((cx.src b).lane f.1.lane).toNat))

def execStp (g : Guard) (pw : BitVec 6) (h : Hint) (m : Addr) (b c : Src) : State → Host.Outcome State Fault Refusal :=
  issueMasked g (memUses m b c []) (stpBody pw h m b c)

/-! ### Cache maintenance (05 R115, R116) -/

/-- Lines of the lanes outside scratch, each once: as accesses of one byte. -/
def lineAccs (cx : Cx) (m : Addr) : List LaneAcc :=
  ((lanes cx.eff).map (fun l =>
    let a := laneAddr cx m l
    ({ lane := l, seg := a.1, off := a.2.toNat / 512 * 512, n := 1 } : LaneAcc))).filter (fun a => a.seg != 0xFE)

/-- The sectors of the lines. -/
def lineSectors (rs : List Region) (accs : List LaneAcc) : List Nat :=
  ((accs.map (fun a => sectorOf (placeIn rs a.seg a.off))).dedup).flatMap (fun s => (List.range 8).map (fun i => s + i))

/-- The sectors of the lines with the default retention of their page. -/
def linePieces (rs : List Region) (accs : List LaneAcc) : List Piece :=
  accs.map (fun a => { lane := a.lane, scratch := false, seg := a.seg, off := a.off, place := placeIn rs a.seg a.off
                       n := 512, ret := retIn rs a.seg a.off })

/-- A line is brought in, sector by sector: into the cluster L1 (.team), or into the L2 (.dev). A peer's sector is asked
for, and the word does not wait for it (05 R115). -/
def State.prefetch (s : State) (cx : Cx) (sc : Scope) (h h2 : Hint) (sec : Nat) : State :=
  let r := if sc = .team then s.plainRead cx.g.core.clus (sectorBase sec) 64 h h2 else s.below sec (some h2)
  let purpose : Purpose := .prefetch (if sc = .team then some cx.g.core.clus else none) sec h h2
  match r.1 with
  | .need => if r.2.remotes.any (fun e => e.2.purpose == purpose) then r.2 else r.2.askSector cx.ctx sec purpose
  | _ => r.2

/-- pref brings its lines in; where check 6 fails in a lane it is dropped in every lane (05 R102, R115). -/
def prefBody (sc : Scope) (h : Hint) (m : Addr) (s : State) (cx : Cx) : Ans :=
  let accs := lineAccs cx m
  match segFault accs with
  | some c => .trap s c
  | none =>
    let (rs, s1) := s.translateAll (.core cx.g.core) cx.ctx .probe (accRuns accs)
    if rs.any (fun r => (regionCause false r).isSome || r.res == .recoverable) then .done s1
    else .done ((lineSectors rs accs).foldl (fun s sec =>
      s.prefetch cx sc h (l2Hint h (pageHint (linePieces rs accs) (sec / 8 * 8))) sec) s1)

def execPref (g : Guard) (sc : Scope) (h : Hint) (m : Addr) : State → Host.Outcome State Fault Refusal :=
  issueMasked g (memUses m (.spec .zero) (.spec .zero) []) (prefBody sc h m)

/-- Writes a sector out of the levels of the scope (05 R116). -/
def State.maintain (s : State) (cx : Cx) (sc : Scope) (ps : List Piece) (sec : Nat) : State :=
  let s1 := s.wbL1 cx.g.core.clus sec
  if sc = .sys ∧ isLocal (sectorBase sec) = false then (s1.wbL2 cx.ctx sec (storeWho cx ps (sec / 8 * 8))).1 else s1

/-- Some of it is not written out yet: its write-back is on its way, or waits for an earlier one (14 R315). -/
def State.maintains (s : State) (cx : Cx) (sc : Scope) (sec : Nat) : Bool :=
  s.ownDirty cx.g.core.clus sec || (sc == .sys && !isLocal (sectorBase sec) &&
    (s.wbOpen sec || (s.l2Sector sec).any (fun x => x.mask != 0)))

/-- The line leaves the levels of the scope; a home slice fills it again when it is next wanted (05 R116). -/
def State.dropSector (s : State) (cx : Cx) (sc : Scope) (sec : Nat) : State :=
  let s1 := if (s.l1Sector cx.g.core.clus sec).isSome then s.setL1 cx.g.core.clus sec none else s
  if sc = .team then s1
  else if isLocal (sectorBase sec) then { s1 with l2lines := s1.l2lines.filter (fun e => e.1 != sec / 8) }
  else if sc = .sys then s1.setL2 sec none
  else s1

/-- cwb and cinv (05 R116): they complete when every write-back has its outcome (14 R315). -/
def maintainBody (sc : Scope) (inv : Bool) (m : Addr) (s : State) (cx : Cx) : Ans :=
  let accs := lineAccs cx m
  match segFault accs with
  | some c => .trap s c
  | none =>
    match s.probe cx .probe accs with
    | .stop a => a
    | .ok rs s1 =>
      let secs := lineSectors rs accs
      let s2 := secs.foldl (fun s sec => s.maintain cx sc (linePieces rs accs) sec) s1
      if secs.any (s2.maintains cx sc) then .wait s2
      else .done (if inv then secs.foldl (fun s sec => s.dropSector cx sc sec) s2 else s2)

def execCinv (g : Guard) (sc : Scope) (m : Addr) : State → Host.Outcome State Fault Refusal :=
  issueMasked g (memUses m (.spec .zero) (.spec .zero) []) (maintainBody sc true m)

def execCwb (g : Guard) (sc : Scope) (m : Addr) : State → Host.Outcome State Fault Refusal :=
  issueMasked g (memUses m (.spec .zero) (.spec .zero) []) (maintainBody sc false m)

/-! ### Zero-mask forms (05 R119 to R121) -/

/-- Bytes of a form's parts. -/
def formMask (len : Nat) : Nat := 16 * ceilDiv len 128
def formVals (nnz w : Nat) : Nat := 16 * ceilDiv (nnz * w) 128

/-- The bytes of a form of the elements (05 R119). -/
def formBytes (w : Nat) (xs : List Nat) : List Byte :=
  let kept := xs.filter (fun x => x != 0)
  let m := xs.foldr (fun x acc => (if x = 0 then 0 else 1) + 2 * acc) 0
  let v := kept.foldr (fun x acc => x % 2 ^ w + acc * 2 ^ w) 0
  toBytes 8 (kept.length * 2 ^ 32 + (w - 1) * 2 ^ 16 + xs.length) ++ toBytes 8 0
    ++ toBytes (formMask xs.length) m ++ toBytes (formVals kept.length w) v

/-- What the header and mask of a form say: its count of stored elements; none for a form that breaks its rules. -/
def formHeader (w len : Nat) (bs : List Byte) : Option Nat :=
  let h := ofBytes (bs.take 16)
  if bits h 16 6 = w - 1 ∧ bits h 0 16 = len then some (bits h 32 32) else none

/-- Set bits of the mask. -/
def maskCount (len : Nat) (bs : List Byte) : Nat :=
  let m := ofBytes ((bs.drop 16).take (formMask len))
  ((List.range (8 * formMask len)).filter (fun i => m.testBit i)).length

/-- The elements of a form. -/
def formElems (w len : Nat) (bs : List Byte) : List Nat :=
  let m := ofBytes ((bs.drop 16).take (formMask len))
  let v := ofBytes (bs.drop (16 + formMask len))
  ((List.range len).foldl (fun (acc : List Nat × Nat) i =>
    if m.testBit i then (acc.1 ++ [bits v (acc.2 * w) w], acc.2 + 1) else (acc.1 ++ [0], acc.2)) ([], 0)).1

/-- Registers of a vector (05 R120). -/
def formRun (cx : Cx) (f : Fmt) (len : Nat) : Nat := ceilDiv len (cx.w * f.k)

/-- The one address of both instructions, or none where the lanes or the operands differ (05 R120). -/
def formAddr (cx : Cx) (m : Addr) (c : Src) : Option (BitVec 8 × Nat × Word) :=
  match lanes cx.eff with
  | [] => none
  | l :: ls =>
    let a := laneAddr cx m l
    if cx.eff = cx.g.live ∧ (ls.all (fun k => laneAddr cx m k == a)) = true ∧ (cx.src c).equalIn cx.eff = true then
      some (a.1, a.2.toNat, (cx.src c).lane l)
    else none

/-- The lowest lane of the mask. -/
def lowLane (cx : Cx) : Nat := (lanes cx.eff).headD 0

/-- What both instructions check before their form's own size: step 5 (05 R120, R121; log entry 18). A vector that
reaches `.regs` gives detail 6 (01 R354). -/
def formFault (cx : Cx) (base g len cap : Nat) : Option Cause :=
  if len = 0 ∨ 32 < g ∨ cap % 16 ≠ 0 then some (cause 0x0C 4)
  else if cx.g.nr < base + g then some (cause 0x01 6)
  else none

def stzBody (fs : BitVec 4) (h : Hint) (m : Addr) (b : RegIx) (c : Src) (s : State) (cx : Cx) : Ans :=
  match formAddr cx m c with
  | none => .trap s (cause 0x04 0)
  | some (seg, off, cv) =>
    let f := cx.fmt fs
    let len := (cv.extractLsb' 0 16).toNat
    let cap := (cv.extractLsb' 32 32).toNat
    let g := formRun cx f len
    let code (i : Nat) : Nat :=
      subElem ((cx.g.val (b.toNat + i / (cx.w * f.k))).lane (i % (cx.w * f.k) / f.k)) f.w (i % f.k)
    let bs := formBytes f.w ((List.range len).map code)
    let at_ (c : Cause) : Cause :=
      { c with lane := BitVec.ofNat 16 (lowLane cx), addr := BitVec.ofNat 64 off, aseg := seg }
    let acc : LaneAcc := { lane := lowLane cx, seg := seg, off := off, n := bs.length }
    match earlyFault cx 16 [acc] with
    | some c => .trap s c
    | none =>
      match formFault cx b.toNat g len cap with
      | some c => .trap s (at_ c)
      | none =>
        if cap < bs.length then .trap s (at_ (cause 0x0C 1))
        else
          match s.probe cx .write [acc] with
          | .stop a => a
          | .ok rg s1 =>
            let ps := alongPieces (splitAcc rg acc) bs
            let places := (ps.filter (fun x => !x.1.scratch)).map (fun x => x.1.place)
            if writeBlocked s1 cx (h == .byp) false places then .wait s1
            else .done (s1.putPieces cx (storePlain cx h) ps)

/-- The uses of a word with an address, a run in B or D, and C. -/
def runMemUses (m : Addr) (b : List Nat) (c : Src) (writes runs : List Nat) (fs : BitVec 4) : Uses where
  reads := addrRegs m ++ b ++ srcReg c
  writes := writes
  runs := runs
  slots := fsSlot fs
  fields := [srcReg m.base, b, srcReg c]

/-- The value of C equal in the active lanes; none where there are none. -/
def knownC (cx : Cx) (c : Src) : Option Word :=
  if cx.eff ≠ 0 ∧ (cx.src c).equalIn cx.eff = true then some ((cx.src c).firstIn cx.eff) else none

/-- The registers of a form's vector, where C gives its length (01 R29, 05 R120): whatever else the word is refused for,
it is held for them first (02 R39). -/
def formMembers (fs : BitVec 4) (base : RegIx) (c : Src) (cx : Cx) : List Nat :=
  match knownC cx c with
  | some cv => runOf base.toNat (formRun cx (cx.fmt fs) (cv.extractLsb' 0 16).toNat)
  | none => []

/-- stz needs every live lane, so an empty mask traps too (05 R120, log entry 21). -/
def execStz (g : Guard) (fs : BitVec 4) (h : Hint) (m : Addr) (b : RegIx) (c : Src) :
    State → Host.Outcome State Fault Refusal :=
  issueRuns g (runMemUses m [b.toNat] c [] [b.toNat] fs)
    (fun cx => { reads := formMembers fs b c cx, writes := [] }) (stzBody fs h m b c)

/-- Register r of a vector read from a form. -/
def formReg (cx : Cx) (f : Fmt) (es : List Nat) (r : Nat) : RegVal :=
  generalVal cx.w (fun l =>
    packElems f.w ((List.range f.k).map (fun q => es.getD (r * (cx.w * f.k) + l * f.k + q) 0)))

def wordReader (cx : Cx) (h : Hint) : State → Piece → Got × State := fun s q => s.wordRead cx h q

/-- Reads the bytes of one access: the pieces and the state, or an answer where its owner must be read or a piece did
not arrive. -/
def readAccess (s : State) (cx : Cx) (h : Hint) (rs : List Region) (accs : List LaneAcc) :
    (List (Piece × Got) × State) ⊕ Ans :=
  let (xs, s1) := s.readPieces cx (wordReader cx h) (accs.flatMap (splitAcc rs))
  if mustWait xs then .inr (.wait (s1.waitFills cx (neededSectors xs))) else .inl (xs, s1)

/-- A load whose read met poison or got no answer: nothing is written, the trap is due (05 R103, 14 R306). -/
def lostLoad (s : State) (cx : Cx) (dests : List Nat) (xs : List (Piece × Got)) : Ans :=
  .done ((s.flyReply cx .load dests [] (readTraps cx xs) (s.stampsOf xs)).owe cx (lostTraps cx xs))

def ldzBody (fs : BitVec 4) (h : Hint) (d : RegIx) (m : Addr) (c : Src) (s : State) (cx : Cx) : Ans :=
  match formAddr cx m c with
  | none => .trap s (cause 0x04 0)
  | some (seg, off, cv) =>
    let f := cx.fmt fs
    let len := (cv.extractLsb' 0 16).toNat
    let cap := (cv.extractLsb' 32 32).toNat
    let g := formRun cx f len
    let ws := runOf d.toNat g
    let lane := lowLane cx
    let at_ (c : Cause) : Cause := { c with lane := BitVec.ofNat 16 lane, addr := BitVec.ofNat 64 off, aseg := seg }
    let acc (n : Nat) : LaneAcc := { lane := lane, seg := seg, off := off, n := n }
    match earlyFault cx 16 [acc (16 + formMask len)] with
    | some c => .trap s c
    | none =>
      match formFault cx d.toNat g len cap with
      | some c => .trap s (at_ c)
      | none =>
        match s.probe cx .read [acc (16 + formMask len)] with
        | .stop a => a
        | .ok rg s1 =>
          match readAccess s1 cx h rg [acc (16 + formMask len)] with
          | .inr a => a
          | .inl (xs, s2) =>
            match laneBytes xs lane with
            | none => lostLoad s2 cx ws xs
            | some hd =>
              match formHeader f.w len hd with
              | none => .trap s2 (at_ (cause 0x0C 2))
              | some nnz =>
                let size := 16 + formMask len + formVals nnz f.w
                if nnz ≠ maskCount len hd ∨ cap < size then .trap s2 (at_ (cause 0x0C 3))
                else
                  match scratchFault cx.scratchSize [acc size] with
                  | some c => .trap s2 c
                  | none =>
                    match s2.probe cx .read [acc size] with
                    | .stop a => a
                    | .ok rg2 s3 =>
                      match readAccess s3 cx h rg2 [acc size] with
                      | .inr a => a
                      | .inl (ys, s4) =>
                        match laneBytes ys lane with
                        | none => lostLoad s4 cx ws ys
                        | some bs =>
                          let es := formElems f.w len bs
                          .done (s4.flyReply cx .load ws ((List.range g).map (fun r =>
                            { reg := d.toNat + r, mask := cx.eff, val := formReg cx f es r, run := true })) []
                            (s4.stampsOf ys))

def execLdz (g : Guard) (fs : BitVec 4) (h : Hint) (d : RegIx) (m : Addr) (c : Src) :
    State → Host.Outcome State Fault Refusal :=
  issueRuns g (runMemUses m [] c [d.toNat] [d.toNat] fs)
    (fun cx => { reads := [], writes := formMembers fs d c cx }) (ldzBody fs h d m c)

/-! ### Fragments (06 R153 to R155) -/

/-- The value of C equal in the active lanes. -/
def equalActive (cx : Cx) (c : Src) : Option Word :=
  if (cx.src c).equalIn cx.eff then some ((cx.src c).firstIn cx.eff) else none

/-- Accesses of n bytes a lane at the lanes' own addresses. -/
def rowAccs (cx : Cx) (m : Addr) (n : Nat) : List LaneAcc := byteAccs cx m n

/-- Register r of a row's codes: k sub-elements of width w from the element codes. -/
def fragReg (cx : Cx) (f : Fmt) (r : Nat) (code : Nat → Nat → Nat) : RegVal :=
  generalVal cx.w (fun l => packElems f.w ((List.range f.k).map (fun q => code l (r * f.k + q))))

/-- ldfr with SEC = 0: n elements packed tightly (06 R153). -/
def ldfrTight (fs : BitVec 4) (h : Hint) (d : RegIx) (m : Addr) (n : Nat) (s : State) (cx : Cx) : Ans :=
  let f := cx.fmt fs
  let g := ceilDiv n f.k
  let accs := rowAccs cx m (ceilDiv (n * f.w) 8)
  match earlyFault cx 1 accs with
  | some c => .trap s c
  | none =>
    if n = 0 ∨ 32 * f.k < n ∨ cx.g.nr < d.toNat + g then .trap s badOperand
    else
      match s.probe cx .read accs with
      | .stop a => a
      | .ok rs s1 =>
        match readAccess s1 cx h rs accs with
        | .inr a => a
        | .inl (xs, s2) =>
          let mk := writtenLanes xs (lanes cx.eff)
          let code (l e : Nat) : Nat :=
            if e < n ∧ laneIn mk l = true then bits (ofBytes ((laneBytes xs l).getD [])) (e * f.w) f.w else 0
          .done ((s2.flyReply cx .load (runOf d.toNat g) (if mk = 0 then [] else (List.range g).map (fun r =>
            { reg := d.toNat + r, mask := mk, val := fragReg cx f r code, run := true }))
            (readTraps cx xs) (s2.stampsOf xs)).owe cx (lostTraps cx xs))

/-- A header of a row that ldfr may read: slot, reserved bits and block size (06 R154). -/
def rowHeaderOk (fs : BitVec 4) (bsz : Nat) (h : Nat) : Bool :=
  h / 64 == 0 && headerEls h == fs.toNat && headerBsz h == bsz

/-- Registers of a row with its scales, for blocks of bl elements (06 R154). -/
def rowRegs (f : Fmt) (n bl : Nat) : Nat := ceilDiv n f.k + ceilDiv (ceilDiv n bl) 6

/-- The registers of a run that were not known when the word's hazards were checked: the word is held for them as for
the others (01 R29, 06 R161). -/
def State.holdRest (s : State) (cx : Cx) (ws : List Nat) : Option Ans :=
  match cx.g.hazard ws with
  | some _ => some (.whole (s.holdFor cx ws))
  | none => if ws.any (s.capturing cx.gid cx.g) then some (.wait (s.holdCapture cx)) else none

/-- ldfr with SEC = 1: ceil(n / E) sectors a lane. The first sector of the lowest lane gives the block size, which says
how long the run is; what no block size allows is refused before anything is translated (06 R144, R153, R154). What the
block size itself refuses is found after that first read, and before the scratch range and the translation of the other
sectors (DEDUCED, log entry 88). -/
def ldfrSectors (fs : BitVec 4) (h : Hint) (d : RegIx) (m : Addr) (n : Nat) (s : State) (cx : Cx) : Ans :=
  let f := cx.fmt fs
  let g := ceilDiv n f.k
  let firsts := rowAccs cx m (if n = 0 then 0 else 64)
  match earlyFault cx 64 firsts with
  | some c => .trap s c
  | none =>
    if n = 0 ∨ 32 * f.k < n ∨ runBad cx d.toNat (rowRegs f n 32) 32 = true ∨ sectorBlocks 8 f.w = 0 then
      .trap s badOperand
    else
      match s.probe cx .read firsts with
      | .stop a => a
      | .ok rs0 s0 =>
        match readAccess s0 cx h rs0 (firsts.take 1) with
        | .inr a => a
        | .inl (ys, s1) =>
          match laneBytes ys (lowLane cx) with
          | none => lostLoad s1 cx [d.toNat] ys
          | some hb =>
            let bsz := headerBsz (hb.getD 0 0).toNat
            let bl := headerBlock (hb.getD 0 0).toNat
            let nb := sectorBlocks bl f.w
            let ws := runOf d.toNat (rowRegs f n bl)
            if bsz = 3 then .trap s1 (cause 0x02 5)
            else
              match s1.holdRest cx ws with
              | some a => a
              | none =>
                if nb = 0 ∨ runBad cx d.toNat (rowRegs f n bl) 32 = true then .trap s1 badOperand
                else
                let e := nb * bl
                let k := ceilDiv n e
                let accs := rowAccs cx m (64 * k)
                match scratchFault cx.scratchSize accs with
                | some c => .trap s1 c
                | none =>
                  match s1.probe cx .read accs with
                  | .stop a => a
                  | .ok rs s2 =>
                    match readAccess s2 cx h rs accs with
                    | .inr a => a
                    | .inl (xs, s3) =>
                      let mk := writtenLanes xs (lanes cx.eff)
                      let sector (l i : Nat) : Nat := ofBytes ((((laneBytes xs l).getD []).drop (64 * i)).take 64)
                      if (lanes mk).any (fun l => (List.range k).any (fun i =>
                          !rowHeaderOk fs bsz (sector l i % 256))) then .trap s3 (cause 0x02 5)
                      else
                        let code (l x : Nat) : Nat :=
                          if x < n ∧ laneIn mk l = true then sectorElem (sector l (x / e)) nb f.w (x % e) else 0
                        let scale (l b : Nat) : Nat :=
                          if b < ceilDiv n bl ∧ laneIn mk l = true then sectorScale (sector l (b / nb)) (b % nb) else 0
                        let codes := (List.range g).map (fun r => (d.toNat + r, fragReg cx f r code))
                        let scales := (List.range (ceilDiv (ceilDiv n bl) 6)).map (fun r => (d.toNat + g + r,
                          generalVal cx.w (fun l => packElems 10 ((List.range 6).map (fun i => scale l (6 * r + i))))))
                        .done (((s3.flyReply cx .load ws (if mk = 0 then [] else (codes ++ scales).map (fun x =>
                          { reg := x.1, mask := mk, val := x.2, run := true })) (readTraps cx xs)
                          (s3.stampsOf xs)).modGroup cx.gid (fun g => g.useAlso ws)).owe cx (lostTraps cx xs))

def ldfrBody (fs : BitVec 4) (h : Hint) (d : RegIx) (m : Addr) (c : Src) (s : State) (cx : Cx) : Ans :=
  match equalActive cx c with
  | none => .trap s (cause 0x04 0)
  | some v =>
    let n := (v.extractLsb' 0 16).toNat
    if v.getLsbD 31 then ldfrSectors fs h d m n s cx else ldfrTight fs h d m n s cx

/-- The registers that a fragment word certainly names (01 R29): with SEC = 1, those of the largest block size. -/
def fragMembers (fs : BitVec 4) (base : RegIx) (c : Src) (cx : Cx) : List Nat :=
  match equalActive cx c with
  | none => []
  | some v =>
    let n := (v.extractLsb' 0 16).toNat
    runOf base.toNat (if v.getLsbD 31 then rowRegs (cx.fmt fs) n 32 else ceilDiv n (cx.fmt fs).k)

def execLdfr (g : Guard) (fs : BitVec 4) (h : Hint) (d : RegIx) (m : Addr) (c : Src) :
    State → Host.Outcome State Fault Refusal :=
  issueRuns g (runMemUses m [] c [d.toNat] [d.toNat] fs)
    (fun cx => { reads := [], writes := if cx.eff = 0 then [] else fragMembers fs d c cx })
    (fun s cx => if cx.eff = 0 then .done s else ldfrBody fs h d m c s cx)

def stfrBody (fs : BitVec 4) (h : Hint) (m : Addr) (b : RegIx) (c : Src) (s : State) (cx : Cx) : Ans :=
  match equalActive cx c with
  | none => .trap s (cause 0x04 0)
  | some v =>
    let f := cx.fmt fs
    let n := (v.extractLsb' 0 16).toNat
    let g := ceilDiv n f.k
    let accs := rowAccs cx m (ceilDiv (n * f.w) 8)
    match earlyFault cx 1 accs with
    | some c => .trap s c
    | none =>
      if v.getLsbD 31 = true ∨ n = 0 ∨ 32 * f.k < n ∨ cx.g.nr < b.toNat + g then .trap s badOperand
      else
        match s.probe cx .write accs with
        | .stop a => a
        | .ok rg s1 =>
          let row (l : Nat) : Nat := (List.range n).foldr (fun e acc =>
            subElem ((cx.g.val (b.toNat + e / f.k)).lane l) f.w (e % f.k) + acc * 2 ^ f.w) 0
          writeBits s1 cx h (accs.flatMap (fun a => fieldBytes rg a 0 (n * f.w) (row a.lane)))

def execStfr (g : Guard) (fs : BitVec 4) (h : Hint) (m : Addr) (b : RegIx) (c : Src) :
    State → Host.Outcome State Fault Refusal :=
  issueRuns g (runMemUses m [b.toNat] c [] [b.toNat] fs)
    (fun cx => { reads := if cx.eff = 0 then [] else fragMembers fs b c cx, writes := [] })
    (fun s cx => if cx.eff = 0 then .done s else stfrBody fs h m b c s cx)

/-! ### Strands (05 R117, 10 R226, R227) -/

/-- The bank a strand word names, or the trap it takes. -/
def strandOf (s : State) (cx : Cx) (a : Src) (off : BitVec 32) (push : Bool) : Nat ⊕ Cause :=
  let x := (cx.src a).firstIn cx.eff + off.signExtend 64
  if !(cx.src a).equalIn cx.eff then .inr (cause 0x04 0)
  else if x.toNat < 32 ∧ s.strandOpen cx.g.core.clus x.toNat cx.ctx = true ∧
      (push = false ∨ (s.bank cx.g.core.clus x.toNat).target = none) then .inl x.toNat
  else .inr { cause 0x09 3 with lane := BitVec.ofNat 16 (lowLane cx) }

/-- The position of a lane among the active lanes. -/
def activeIndex (cx : Cx) (l : Nat) : Nat := (lanes cx.eff).findIdx (fun k => k == l)

/-- The first n entries of a strand, if all are filled. -/
def filledHead : Nat → List StrandEntry → Option (List Byte)
  | 0, _ => some []
  | _ + 1, [] => none
  | n + 1, e :: es =>
    match e.data, filledHead n es with
    | some bs, some more => some (bs ++ more)
    | _, _ => none

def ldqBody (wd : Width) (d : RegIx) (a : Src) (off : BitVec 32) (s : State) (cx : Cx) : Ans :=
  match strandOf s cx a off false with
  | .inr c => .trap s c
  | .inl b =>
    let z := widthBytes wd
    let e := ceilDiv (laneCount cx.eff * z) 64
    match filledHead e (s.bank cx.g.core.clus b).strand with
    | none => .wait s
    | some bs =>
      let s1 := s.modBank cx.g.core.clus b (fun k => { k with strand := k.strand.drop e })
      let val : RegVal := generalVal cx.w (fun l =>
        if laneIn cx.eff l then extendLoad wd ((bs.drop (activeIndex cx l * z)).take z) else 0)
      .done (s1.flyReply cx .load [d.toNat] [{ reg := d.toNat, mask := cx.eff, val := val, run := false }] [] [])

def execLdq (g : Guard) (wd : Width) (d : RegIx) (a : Src) (off : BitVec 32) :
    State → Host.Outcome State Fault Refusal :=
  issueMasked g (usesOf [a] [d]) (ldqBody wd d a off)

/-- Splits bytes into entries of 64, the last padded with zeros. -/
def entriesOf (owner : Nat) (bs : List Byte) : List StrandEntry :=
  (List.range (ceilDiv bs.length 64)).map (fun i =>
    let x := (bs.drop (64 * i)).take 64
    { owner := owner, data := some (x ++ List.replicate (64 - x.length) 0) })

def stqBody (wd : Width) (a : Src) (off : BitVec 32) (b : Src) (s : State) (cx : Cx) : Ans :=
  match strandOf s cx a off true with
  | .inr c => .trap s c
  | .inl k =>
    let z := widthBytes wd
    let bs := (lanes cx.eff).flatMap (fun l => toBytes z ((cx.src b).lane l).toNat)
    let es := entriesOf 0 bs
    if 1024 < (s.bank cx.g.core.clus k).strand.length + es.length then .wait s
    else .done (s.modBank cx.g.core.clus k (fun x => { x with strand := x.strand ++ es }))

def execStq (g : Guard) (wd : Width) (a : Src) (off : BitVec 32) (b : Src) :
    State → Host.Outcome State Fault Refusal :=
  issueMasked g (usesOf [a, b] []) (stqBody wd a off b)

/-! ### Fences (05 R123, R124) -/

/-- A fence that releases waits for the earlier accesses of its lanes; one that only acquires waits for nothing: dirty
sectors are written back before the lines are invalidated, and what is still on its way stays (12 R255). -/
def fenceBody (o : Order) (sc : Scope) (s : State) (cx : Cx) : Ans :=
  let (ready, s1) := if releases o then s.releaseAt cx sc else (true, s)
  if !ready || (releases o && s.openOf cx.gid) then .wait s1
  else .done (if acquires o then s1.acquireAt cx.g.core.clus cx.ctx (fun _ => cx.who) sc else s1)

def execFence (g : Guard) (o : Order) (sc : Scope) : State → Host.Outcome State Fault Refusal :=
  issueMasked g Uses.none (fenceBody o sc)

/-- qfence: every copy accepted into the named queues has completed (05 R124). -/
def execQfence (g : Guard) (q : BitVec 8) : State → Host.Outcome State Fault Refusal :=
  issueWord g Uses.none (fun s cx =>
    match s.team? (tidOf cx.gid) with
    | some t =>
      if (List.range 8).any (fun i => q.getLsbD i && !(t.queue i).pending.isEmpty) then .wait s else .done s
    | none => .done s)

end Sys2Proof.Machine
end

