-- ==== Sys2Proof/Machine/Atomics.lean ====
section
/-! DEFINITION. Atomics, contributions under DET, and the bead (05 R125 to R132, 11 R240, 12 R263 to R265, 14 R296). -/

namespace Sys2Proof.Machine

/-! ### Operations on a memory word (05 R125, R126) -/

/-- Operation codes of 02 R33. -/
def atomCode : AtomOp → Nat
  | .add => 0
  | .and => 1
  | .or => 2
  | .xor => 3
  | .min => 4
  | .max => 5
  | .umin => 6
  | .umax => 7
  | .exch => 8
  | .fadd => 9
  | .fmin => 10
  | .fmax => 11

def isFloatAtom (op : AtomOp) : Bool := op == .fadd || op == .fmin || op == .fmax

/-- Bytes of the access. -/
def atomBytes (b64 : Bool) : Nat := if b64 then 8 else 4

/-- The low bytes of a value that the access takes. -/
def atomNarrow (b64 : Bool) (x : Word) : Word := if b64 then x else (x.extractLsb' 0 32).setWidth 64

/-- The value as a signed number of the access size. -/
def atomNarrowInt (b64 : Bool) (x : Word) : Int := if b64 then x.toInt else (x.extractLsb' 0 32).toInt

/-- The exact result of a floating operation on sub-elements (05 R125). -/
def atomNum (op : AtomOp) (f : Fmt) (x y : Num) : Tallied Num :=
  match op with
  | .fmin => .pure (chooseNum false x y)
  | .fmax => .pure (chooseNum true x y)
  | _ => .ofOp (Num.add f.down x y)

/-- A floating operation: k sub-elements, each rounded once; the bits above are zero (05 R125). -/
def atomFloat (op : AtomOp) (b64 : Bool) (f : Fmt) (key : Nat → Key) (x y : Word) : Tallied Word :=
  let rs := Tallied.all ((List.range (8 * atomBytes b64 / f.w)).map (fun j =>
    ((decElem f x j).bind (fun a => (decElem f y j).bind (fun b => atomNum op f a b))).bind (fun q =>
      round f (key j) q)))
  { val := packElems f.w rs.val, cnt := rs.cnt }

/-- Op(x, y) at the access size (05 R125, R126). -/
def atomOp (op : AtomOp) (b64 : Bool) (f : Fmt) (key : Nat → Key) (x y : Word) : Tallied Word :=
  match op with
  | .add => .pure (atomNarrow b64 (x + y))
  | .and => .pure (atomNarrow b64 (x &&& y))
  | .or => .pure (atomNarrow b64 (x ||| y))
  | .xor => .pure (atomNarrow b64 (x ^^^ y))
  | .min => .pure (atomNarrow b64 (if atomNarrowInt b64 x ≤ atomNarrowInt b64 y then x else y))
  | .max => .pure (atomNarrow b64 (if atomNarrowInt b64 x ≤ atomNarrowInt b64 y then y else x))
  | .umin => .pure (if (atomNarrow b64 x).toNat ≤ (atomNarrow b64 y).toNat then atomNarrow b64 x else atomNarrow b64 y)
  | .umax => .pure (if (atomNarrow b64 x).toNat ≤ (atomNarrow b64 y).toNat then atomNarrow b64 y else atomNarrow b64 x)
  | .exch => .pure (atomNarrow b64 y)
  | .fadd => atomFloat op b64 f key x y
  | .fmin => atomFloat op b64 f key x y
  | .fmax => atomFloat op b64 f key x y

/-- The noise keys of a lane of a group (05 R126). -/
def atomKey (seed : Word) (team lanet : Nat) (draw soff : BitVec 32) (j : Nat) : Key where
  seed := seed
  team := team
  lanet := lanet
  j := j
  draw := draw
  soff := soff

/-! ### Performing at a point of coherence (05 R125, 12 R263 to R265) -/

/-- What performing one operation comes to. -/
inductive Perf
  /-- performed: the old value, and the events of the final Op -/
  | done (old : Word) (cnt : Counts)
  /-- sent to its owner -/
  | sent (n : Nat)
  /-- a peer sector must be read first -/
  | need (sec : Nat)
  /-- a write-back of the sector is on its way, or the window is full -/
  | busy
  | poisoned
  | lost (detail : BitVec 16)
  deriving DecidableEq, Repr

/-- The new value of a word from its old one. -/
abbrev Rmw : Type := Word → Tallied Word

/-- Bytes of a word within a sector's 64. -/
def cutWord (bs : List Byte) (p nb : Nat) : Word := wordOf ((bs.drop (p % 64)).take nb)

/-- In the cluster L1, or below it where the cluster has no CACHE bank. -/
def State.atomL1 (s : State) (clus p nb : Nat) (fills : List (Nat × FillRes)) (ret : Hint) (f : Rmw) : Perf × State :=
  let sec := sectorOf p
  let direct := (s.storeRoom clus sec .dflt).isNone
  let put (s : State) (old : Word) : Perf × State :=
    let r := f old
    (.done old r.cnt, s.plainWrite clus sec (place64 (p % 64) (toBytes nb r.val.toNat)) (byteMask (p % 64) nb) .dflt ret)
  if direct && !s.takesWrite sec then (.busy, (s.roomL2 (sec / 8)).2)
  else
    match s.plainRead clus p nb .dflt ret with
    | (.bytes bs, s1) => put s1 (wordOf bs)
    | (.poisoned, s1) => (.poisoned, s1)
    | (.need, s1) =>
      match Tab.get? fills sec with
      | none => (.need sec, s1)
      | some (.failed d) => (.lost d, s1)
      | some (.poisoned _) => (.poisoned, s1)
      | some (.bytes bs) =>
        match (s1.installL2 sec bs).plainRead clus p nb .dflt ret with
        | (.bytes b2, s2) => put s2 (wordOf b2)
        | (_, s2) => (.need sec, s2)

/-- The cluster's own copy of a sector leaves its L1 (12 R264). -/
def State.recall (s : State) (clus sec : Nat) : State :=
  let s1 := s.wbL1 clus sec
  match s1.l1Sector clus sec with
  | some x => s1.setL1 clus sec x.invalidate
  | none => s1

/-- At the home slice, or on the package's L2 copy of a peer or host sector: never in a cluster L1 with ownership, which
12 R264 leaves to a predictor (DESIGN CHOICE, log entry 90). -/
def State.atomDev (s : State) (clus p nb : Nat) (fills : List (Nat × FillRes)) (f : Rmw) (ret : Option Hint := none) :
    Perf × State :=
  let sec := sectorOf p
  if isLocal p then
    let s1 := (if ret.isSome then s.noteL2 sec ret else s).recall clus sec
    if s1.isPoisoned sec then (.poisoned, s1)
    else
      let old := wordOf (s1.homeRead p nb)
      let r := f old
      (.done old r.cnt, s1.homeWriteAt p (toBytes nb r.val.toNat))
  else if !s.takesWrite sec then (.busy, (s.roomL2 (sec / 8)).2)
  else
    let s1 := s.recall clus sec
    let put (s : State) (bs : List Byte) : Perf × State :=
      let old := cutWord bs p nb
      let r := f old
      (.done old r.cnt, s.l2Merge sec (place64 (p % 64) (toBytes nb r.val.toNat)) (byteMask (p % 64) nb))
    match s1.below sec ret with
    | (.bytes bs, s2) => put s2 bs
    | (.poisoned, s2) => (.poisoned, s2)
    | (.need, s2) =>
      match Tab.get? fills sec with
      | none => (.need sec, s2)
      | some (.failed d) => (.lost d, s2)
      | some (.poisoned _) => (.poisoned, s2)
      | some (.bytes bs) =>
        match (s2.installL2 sec bs).below sec ret with
        | (.bytes b2, s3) => put s3 b2
        | (_, s3) => (.need sec, s3)

/-- In host memory: the device's own bytes reach it first. -/
def State.atomHost (s : State) (ctx clus p nb : Nat) (f : Rmw) : Perf × State :=
  let sec := sectorOf p
  let s1 := ((s.recall clus sec).wbL2 ctx sec none).1
  let s2 := match s1.l2Sector sec with
    | some x => s1.setL2 sec x.invalidate
    | none => s1
  let old := wordOf (s2.hostRead (placeAddr p) nb)
  let r := f old
  (.done old r.cnt, s2.hostWriteN (placeAddr p) (toBytes nb r.val.toNat))

/-- Before an atomic at .sys on a peer sector, the device's own written bytes reach the owner (12 R251). -/
def State.clearPeer (s : State) (cx : Cx) (ps : List Piece) (sec : Nat) : State :=
  ((s.recall cx.g.core.clus sec).wbL2 cx.ctx sec (storeWho cx ps sec)).1

/-- Written bytes of a peer sector are still here or on their way. -/
def State.peerHeld (s : State) (clus sec : Nat) : Bool :=
  s.wbOpen sec
    || (match s.l1Sector clus sec with
      | some x => x.mask != 0
      | none => false)
    || (match s.l2Sector sec with
      | some x => x.mask != 0
      | none => false)

/-! ### The operations of one instruction (05 R126, R127) -/

/-- One operation: the lanes it combines, its address, its operand, the swap value of acas, the events of its nodes,
and what each lane fetches. -/
structure AtomJob where
  lanes : List Nat
  seg : BitVec 8
  off : Nat
  total : Word
  swap : Option Word
  nodes : Counts
  fetch : List FetchLane
  deriving DecidableEq, Repr

/-- The lanes that one address names, grouped. The operations of one instruction are performed in the order of their lowest
lanes, which 05 R126 leaves to the implementation (DESIGN CHOICE, log entry 89). -/
def addrSets (accs : List LaneAcc) : List (List LaneAcc) :=
  (accs.map (fun a => (a.seg, a.off))).dedup.map (fun k => accs.filter (fun a => (a.seg, a.off) == k))

def fetchLane (cx : Cx) (l : Nat) (pre : Option Word) : FetchLane where
  lane := l
  pre := pre
  lanet := cx.lanet l
  draw := cx.g.drawOf l

/-- The combined operation of a set of lanes (05 R126). -/
def jobOf (cx : Cx) (op : AtomOp) (b64 fetches : Bool) (fs : BitVec 4) (b : Src) (set : List LaneAcc) : AtomJob :=
  let ls := set.map (·.lane)
  let leaf (q : Nat) : Option Word := if ls.contains q then some (atomNarrow b64 ((cx.src b).lane q)) else none
  let comb : CombineFn := fun l x y => atomOp op b64 (cx.fmt fs) (cx.key fs l) x y
  let block := scanBlock leaf comb (Nat.log2 cx.w) 0
  let pres := if fetches then ls.map (fun l => (l, scanPrefix leaf comb 0 l 7 0 { val := none, nodes := [] })) else []
  let a := set.headD { lane := 0, seg := 0, off := 0, n := 0 }
  { lanes := ls
    seg := a.seg
    off := a.off
    total := (block.val.getD (0, 0)).1
    swap := none
    nodes := distinctCounts (block.nodes ++ pres.flatMap (fun x => x.2.nodes))
    fetch := pres.map (fun x => fetchLane cx x.1 (x.2.val.map Prod.fst)) }

/-- An operation of one lane, never combined (05 R127). -/
def jobOne (cx : Cx) (b64 fetches : Bool) (b : Src) (c : Option Src) (a : LaneAcc) : AtomJob where
  lanes := [a.lane]
  seg := a.seg
  off := a.off
  total := atomNarrow b64 ((cx.src b).lane a.lane)
  swap := c.map (fun x => atomNarrow b64 ((cx.src x).lane a.lane))
  nodes := Counts.zero
  fetch := if fetches then [fetchLane cx a.lane none] else []

/-- The new memory value of an operation: its final Op, keyed by its lowest lane. -/
def AtomJob.rmw (j : AtomJob) (cx : Cx) (op : AtomOp) (b64 : Bool) (fs : BitVec 4) : Rmw := fun old =>
  match j.swap with
  | some c => .pure (if old = j.total then c else old)
  | none => atomOp op b64 (cx.fmt fs) (cx.key fs (j.lanes.headD 0)) old j.total

/-- What a lane fetches (05 R126). -/
def fetched (op : AtomOp) (b64 : Bool) (f : Fmt) (seed : Word) (team : Nat) (soff : BitVec 32) (old : Word)
    (x : FetchLane) : Tallied Word :=
  match x.pre with
  | none => .pure old
  | some p => atomOp op b64 f (atomKey seed team x.lanet x.draw soff) old p

/-- The values of the lanes of an operation, and their events. -/
def fetchAll (op : AtomOp) (b64 : Bool) (f : Fmt) (seed : Word) (team : Nat) (soff : BitVec 32) (old : Word)
    (xs : List FetchLane) : List (Nat × Word) × Counts :=
  let rs := xs.map (fun x => (x.lane, fetched op b64 f seed team soff old x))
  (rs.map (fun r => (r.1, r.2.val)), Counts.sum (rs.map (fun r => r.2.cnt)))

/-- The word's parameters. -/
structure AtomWord where
  op : AtomOp
  b64 : Bool
  fs : BitVec 4
  fetches : Bool
  sc : Scope
  reg : Option Nat
  serial : Nat
  deriving DecidableEq, Repr

/-- The request for an operation on a peer's memory (14 R294, R297). -/
def atomRequest (s : State) (cx : Cx) (w : AtomWord) (j : AtomJob) (p : Nat) : RemoteReq :=
  let nb := atomBytes w.b64
  let code := if j.swap.isSome then 16 else atomCode w.op
  { reqPlain s cx.ctx 2 (placeAddr p) with
    lanes := BitVec.ofNat 6 (j.lanes.length - 1)
    rslot := BitVec.ofNat 12 (code + if w.b64 then 64 else 0)
    data := toBytes nb j.total.toNat ++ (match j.swap with
      | some c => toBytes nb c.toNat
      | none => [])
    fdef := if isFloatAtom w.op then cx.g.slotDef w.fs.toNat else 0 }

/-- Sends an operation to its owner. -/
def State.sendAtom (s : State) (cx : Cx) (w : AtomWord) (j : AtomJob) (p : Nat) : Perf × State :=
  let purpose : Purpose := .atomic cx.gid w.serial w.reg w.op w.b64 (cx.g.slotDef w.fs.toNat) (cx.g.soffOf w.fs.toNat)
    j.fetch j.nodes cx.p.pc (cx.p.pc + 16) (BitVec.ofNat 64 j.off) j.seg cx.eff cx.slot (j.lanes.headD 0)
  let r := s.sendRemote cx.ctx (placeDev p) (sectorOf p) (atomRequest s cx w j p) purpose
  (.sent r.1, r.2)

/-- Performs one operation where its scope and its memory place it (05 R125, 12 R265). -/
def State.perform (s : State) (cx : Cx) (w : AtomWord) (rs : List Region) (j : AtomJob) : Perf × State :=
  let nb := atomBytes w.b64
  let f := j.rmw cx w.op w.b64 w.fs
  let clus := cx.g.core.clus
  if j.seg = 0xFE then
    let old := wordOf (s.scratchRead (tidOf cx.gid) j.off nb)
    let r := f old
    (.done old r.cnt, s.scratchWrite (tidOf cx.gid) j.off (toBytes nb r.val.toNat))
  else
    let p := placeIn rs j.seg j.off
    let ret := retIn rs j.seg j.off
    match w.sc with
    | .grp => (s.countL1 cx (sectorOf p) (byteMask (p % 64) nb)).atomL1 clus p nb cx.p.fills ret f
    | .team => (s.countL1 cx (sectorOf p) (byteMask (p % 64) nb)).atomL1 clus p nb cx.p.fills ret f
    | .dev => s.atomDev clus p nb cx.p.fills f (some ret)
    | .sys =>
      if isLocal p then s.atomDev clus p nb cx.p.fills f (some ret)
      else if isHost p then s.atomHost cx.ctx clus p nb f
      else if s.peerHeld clus (sectorOf p) then (.busy, s)
      else
        let s1 := match s.l2Sector (sectorOf p) with
          | some x => s.setL2 (sectorOf p) x.invalidate
          | none => s
        s1.sendAtom cx w j p

/-- Performs operations in order. -/
def State.performAll (s : State) (cx : Cx) (w : AtomWord) (rs : List Region) (js : List AtomJob) :
    List (AtomJob × Perf) × State :=
  js.foldl (fun acc j =>
    let r := acc.2.perform cx w rs j
    (acc.1 ++ [(j, r.1)], r.2)) ([], s)

/-- Sectors that must be read before the operations can be performed. -/
def perfNeeds (xs : List (AtomJob × Perf)) : List Nat :=
  (xs.filterMap (fun x => match x.2 with
    | .need sec => some sec
    | _ => none)).dedup

/-! ### Results -/

/-- The trap of an operation on a poisoned sector (05 R103). -/
def jobTrap (cx : Cx) (j : AtomJob) : Perf → Option TrapInfo
  | .poisoned => some (cx.imprecise 0x12 0 (j.lanes.headD 0) j.seg (j.off / 64 * 64) 0)
  | _ => none

/-- What an operation has read of a sector that only its owner can give. -/
def Perf.got : Perf → Got
  | .lost d => .failed d
  | .poisoned => .poisoned
  | _ => .bytes []

/-- The places of operations outside scratch, with their lowest lanes (14 R308). -/
def jobPiece (w : AtomWord) (rs : List Region) (j : AtomJob) : Piece where
  lane := j.lanes.headD 0
  scratch := j.seg == 0xFE
  seg := j.seg
  off := j.off
  place := placeIn rs j.seg j.off
  n := atomBytes w.b64
  ret := retIn rs j.seg j.off

def jobPieces (w : AtomWord) (rs : List Region) (js : List AtomJob) : List Piece :=
  (js.filter (fun j => j.seg != 0xFE)).map (jobPiece w rs)

/-- The values of the operations performed here, with all events. -/
def localResults (cx : Cx) (w : AtomWord) (xs : List (AtomJob × Perf)) : List (Nat × Word) × Counts :=
  xs.foldl (fun acc x =>
    match x.2 with
    | .done old cnt =>
      let r := fetchAll w.op w.b64 (cx.fmt w.fs) cx.l.seed cx.gid.team (cx.g.soffOf w.fs.toNat) old x.1.fetch
      (acc.1 ++ r.1, ((acc.2.add x.1.nodes).add cnt).add r.2)
    | _ => acc) ([], Counts.zero)

/-- The register write of some lanes' values. -/
def laneWrites (w : Nat) (reg : Nat) (xs : List (Nat × Word)) : List RegWrite :=
  if xs.isEmpty then []
  else [{ reg := reg, mask := maskOf (xs.map Prod.fst), val := generalVal w (pickLane xs), run := false }]

/-- The result in flight of atom and acas; red makes its traps due at once, and so does a read that was never answered.
Where an operation meets poison no lane is written (05 R103). Events of the operations performed here count as they are
performed (05 R126), not when D is written (04 R81; DEDUCED, log entry 91). -/
def State.atomResult (s : State) (cx : Cx) (w : AtomWord) (rs : List Region) (xs : List (AtomJob × Perf)) : State :=
  let due := xs.filterMap (fun x => jobTrap cx x.1 x.2)
  let lost := lostTraps cx (xs.map (fun x => (jobPiece w rs x.1, x.2.got)))
  let waits := xs.filterMap (fun x => match x.2 with
    | .sent n => some n
    | _ => none)
  let r := localResults cx w xs
  let s1 := (s.modGroup cx.gid (fun g => g.addCounts r.2)).owe cx lost
  match w.reg with
  | some d =>
    s1.modGroup cx.gid (fun g => g.fly
      { serial := w.serial, slot := cx.slot, kind := .atom, covered := false, dests := [d]
        writes := if due.isEmpty then laneWrites cx.w d r.1 else [], counts := Counts.zero, due := due, waits := waits, job := none, stamps := [] })
  | none => s1.owe cx due

/-! ### Contributions under DET (05 R130, R131) -/

/-- The team holds the bead. -/
def State.holdsBead (s : State) (tid : TeamId) : Bool :=
  match s.launch? tid.launch with
  | some l => l.bead == tid.team
  | none => false

/-- The final Op of a buffered contribution. -/
def Contrib.rmw (c : Contrib) (seed : Word) : Rmw := fun old =>
  atomOp .fadd c.b64 (Fmt.ofWord c.fdef) (atomKey seed c.gid.team c.lanet c.draw c.soff) old c.total

/-- Performs one buffered contribution at .dev; its events count now (05 R126). -/
def State.drainOne (s : State) (tid : TeamId) (clus : Nat) (seed : Word) (c : Contrib) : Perf × State :=
  let nb := atomBytes c.b64
  let r : Perf × State :=
    if c.scratch then
      let old := wordOf (s.scratchRead tid c.ga nb)
      let x := c.rmw seed old
      (.done old x.cnt, s.scratchWrite tid c.ga (toBytes nb x.val.toNat))
    else s.atomDev clus c.ga nb [] (c.rmw seed)
  match r with
  | (.done old cnt, s1) => (.done old cnt, s1.modGroup c.gid (fun g => g.lateCounts (c.nodes.add cnt)))
  | (.poisoned, s1) => (.poisoned, s1.oweTrap c.gid { c.due with addr := c.due.addr / 64 * 64 })
  | x => x

/-- The order of a drain: group index, then program order (05 R131). -/
def drainOrder (a b : Contrib) : Bool :=
  decide (a.gid.grp < b.gid.grp) || (a.gid.grp == b.gid.grp && decide (a.seq ≤ b.seq))

/-- A .dev release by a whole team: the cluster's written bytes are at their homes, and no request of its groups is open
(05 R131, 11 R240, 12 R256). -/
def State.teamRelease (s : State) (tid : TeamId) (clus : Nat) : Bool × State :=
  let r := s.drainL1 clus
  (r.1 && !s.openOfTeam tid, r.2)

/-- Drains a team's buffer and makes a .dev release; false where it waits for peer sectors or for the release. -/
def State.drainBuffer (s : State) (tid : TeamId) : Bool × State :=
  match s.team? tid, s.launch? tid.launch with
  | some t, some l =>
    let r := (sortBy drainOrder t.contrib).foldl (fun (acc : List Perf × State) c =>
      let x := acc.2.drainOne tid t.clus l.lrec.seed c
      (acc.1 ++ [x.1], x.2)) ([], s)
    let needs := (r.1.filterMap (fun x => match x with
      | .need sec => some sec
      | _ => none)).dedup
    if !needs.isEmpty then
      (false, needs.foldl (fun s sec =>
        if s.remotes.any (fun e => e.2.purpose == .drainRead tid sec) then s
        else s.askSector l.ctx sec (.drainRead tid sec)) s)
    else if r.1.contains .busy then (false, s)
    else (r.2.modTeam tid (fun t => { t with contrib := [] })).teamRelease tid t.clus
  | _, _ => (true, s)

/-- The contribution of an operation of red.fadd, on memory or on scratch. -/
def contribOf (s : State) (cx : Cx) (b64 : Bool) (fs : BitVec 4) (rs : List Region) (seq : Nat) (j : AtomJob) :
    Contrib where
  gid := cx.gid
  seq := seq
  scratch := j.seg == 0xFE
  ga := if j.seg = 0xFE then j.off else placeIn rs j.seg j.off
  stamps := if j.seg = 0xFE then [] else s.stampOf (placeIn rs j.seg j.off)
  b64 := b64
  fdef := cx.g.slotDef fs.toNat
  total := j.total
  lanet := cx.lanet (j.lanes.headD 0)
  draw := cx.g.drawOf (j.lanes.headD 0)
  soff := cx.g.soffOf fs.toNat
  nodes := j.nodes
  due := cx.imprecise 0x12 0 (j.lanes.headD 0) j.seg j.off 0

/-- Appends the combined operations in lane order (05 R130). -/
def State.contribute (s : State) (cx : Cx) (w : AtomWord) (rs : List Region) (js : List AtomJob) : State :=
  js.foldl (fun s j =>
    let (n, s1) := s.take
    s1.modTeam (tidOf cx.gid) (fun t =>
      { t with contrib := t.contrib ++ [contribOf s cx w.b64 w.fs rs n j] })) s

/-! ### The words -/

/-- A peer without the extension, addressed by an operation it cannot take (14 R296). -/
def plainPeer (s : State) (rs : List Region) (accs : List LaneAcc) : Option Cause :=
  (accs.find? (fun a => a.seg != 0xFE && isPeer (placeIn rs a.seg a.off)
    && !s.isPeerx (placeDev (placeIn rs a.seg a.off)))).map (causeAt 0x09 7)

/-- Peer sectors that the operations reach at their owner. -/
def sysSectors (w : AtomWord) (rs : List Region) (js : List AtomJob) : List Nat :=
  if w.sc = .sys then
    ((js.filter (fun j => j.seg != 0xFE && isPeer (placeIn rs j.seg j.off))).map (fun j =>
      sectorOf (placeIn rs j.seg j.off))).dedup
  else []

/-- Room for every request of the word (14 R300). -/
def windowFull (s : State) (cx : Cx) (w : AtomWord) (rs : List Region) (js : List AtomJob) : Bool :=
  (sysSectors w rs js).any (fun sec => !s.canSend cx.ctx (placeDev (sectorBase sec)) js.length)

/-- After the bead's receipt: the buffer is drained and the team acquires at .dev (05 R130, R132, 11 R240). False where
the team does not hold the bead, or the drain waits. -/
def State.takeBead (s : State) (cx : Cx) (drains : Bool) : Bool × State :=
  if !s.holdsBead (tidOf cx.gid) then (false, s.modCur cx (fun p => { p with onBead := true }))
  else
    let r := if drains then s.drainBuffer (tidOf cx.gid) else (true, s)
    let q := r.2.drainL1 cx.g.core.clus
    if r.1 && q.1 then (true, q.2.acquireAt cx.g.core.clus cx.ctx (fun _ => cx.who) .dev) else (false, q.2)

/-- An operation went to its owner. -/
def Perf.isSent : Perf → Bool
  | .sent _ => true
  | _ => false

/-- Performs the operations of a word, in the order release, operations, acquire (05 R128, 12 R255). The acquire of
operations that went to a peer follows their reading halves. -/
def atomRun (o : Order) (w : AtomWord) (rs : List Region) (js : List AtomJob) (s : State) (cx : Cx) : Ans :=
  let ps := jobPieces w rs js
  let (ready, s1) := if releases o || acquires o then s.releaseAt cx w.sc (storeWho cx ps) else (true, s)
  let s2 := (sysSectors w rs js).foldl (fun s sec => s.clearPeer cx ps sec) s1
  if !ready || windowFull s2 cx w rs js then .wait s2
  else
    let (xs, s3) := s2.performAll cx w rs js
    if !(perfNeeds xs).isEmpty then .wait (s2.waitFills cx (perfNeeds xs))
    else if xs.any (fun x => x.2 == .busy) then .wait s2
    else
      let later := acquires o && xs.any (fun x => x.2.isSent)
      let s4 := if later then s3.modCur cx (fun p => { p with acquiring := some w.serial })
        else if acquires o then s3.acquireAt cx.g.core.clus cx.ctx (storeWho cx ps) w.sc else s3
      .done (s4.atomResult cx w rs xs)

/-- DRAW advances once an instruction that rounds into a stochastic slot (04 R80). -/
def drawAfter (cx : Cx) (op : AtomOp) (fs : BitVec 4) : Ans → Ans
  | .done s => .done (if isFloatAtom op && (cx.fmt fs).sto then s.modGroup cx.gid (fun g => g.advanceDraw cx.eff) else s)
  | a => a

/-- The body of atom, red and acas; `c` is the swap operand of acas. A slot wider than the access traps before the
checks of 05 R102, as the other checks of a format slot do (log entry 70). -/
def atomBody (op : AtomOp) (b64 : Bool) (fs : BitVec 4) (o : Order) (sc : Scope) (d : Option RegIx) (m : Addr) (b : Src)
    (c : Option Src) (s : State) (cx : Cx) : Ans :=
  let nb := atomBytes b64
  let accs := byteAccs cx m nb
  if isFloatAtom op && decide (8 * nb < (cx.fmt fs).w) then .trap s (cause 0x02 1)
  else
    match earlyFault cx nb accs with
    | some x => .trap s x
    | none =>
      match s.probe cx .atomic accs with
      | .stop a => a
      | .ok rs s1 =>
        match (if isFloatAtom op || c.isSome then plainPeer s1 rs accs else none) with
        | some x => .trap s1 x
        | none =>
          let (n, s2) := s1.take
          let sc := accScope accs sc
          let w : AtomWord := { op := op, b64 := b64, fs := fs, fetches := d.isSome, sc := sc
                                reg := d.map (·.toNat), serial := n }
          let js := if c.isSome || op == .exch then accs.map (jobOne cx b64 d.isSome b c)
            else (addrSets accs).map (jobOf cx op b64 d.isSome fs b)
          if cx.l.det && op == .fadd then
            match d with
            | some _ =>
              let (ok, s3) := s2.takeBead cx true
              if ok then drawAfter cx op fs (atomRun o w rs js s3 cx) else .wait s3
            | none =>
              let used := match s2.team? (tidOf cx.gid) with
                | some t => t.contrib.length
                | none => 0
              let full := Config.contribFull (used + js.length - 1)
              let (ok, s3) := if full && used != 0 then s2.takeBead cx true else (true, s2)
              if ok then
                let (ready, s4) := if releases o then s3.releaseAt cx sc (storeWho cx (jobPieces w rs js)) else (true, s3)
                if ready then drawAfter cx op fs (.done (s4.contribute cx w rs js)) else .wait s4
              else .wait s3
          else drawAfter cx op fs (atomRun o w rs js s2 cx)

def atomSlots (op : AtomOp) (fs : BitVec 4) : List (BitVec 4 × BitVec 16) := if isFloatAtom op then fsSlot fs else []

def execAtom (g : Guard) (op : AtomOp) (b64 : Bool) (fs : BitVec 4) (o : Order) (sc : Scope) (d : RegIx) (m : Addr)
    (b : Src) : State → Host.Outcome State Fault Refusal :=
  issueMasked g ((memUses m b (.spec .zero) [d.toNat]).withSlots (atomSlots op fs)) (atomBody op b64 fs o sc (some d) m b none)

def execRed (g : Guard) (op : AtomOp) (b64 : Bool) (fs : BitVec 4) (o : Order) (sc : Scope) (m : Addr) (b : Src) :
    State → Host.Outcome State Fault Refusal :=
  issueMasked g ((memUses m b (.spec .zero) []).withSlots (atomSlots op fs)) (atomBody op b64 fs o sc none m b none)

def execAcas (g : Guard) (b64 : Bool) (o : Order) (sc : Scope) (d : RegIx) (m : Addr) (b c : Src) :
    State → Host.Outcome State Fault Refusal :=
  issueMasked g (memUses m b c [d.toNat]) (atomBody .exch b64 0 o sc (some d) m b (some c))

/-- bead.wait and bead.drain (05 R132); without DET they do nothing. -/
def execBead (g : Guard) (drain : Bool) : State → Host.Outcome State Fault Refusal :=
  issueMasked g Uses.none (fun s cx =>
    if cx.l.det then
      let (ok, s1) := s.takeBead cx drain
      if ok then .done s1 else .wait s1
    else .done s)

end Sys2Proof.Machine
end

