-- ==== Sys2Proof/Machine/Clasps.lean ====
section
/-! DEFINITION. Clasps: arrivals, completion and waits (05 R133 to R139). -/

namespace Sys2Proof.Machine

/-- Complete (05 R135). -/
def Clasp.complete (c : Clasp) : Clasp :=
  { c with
    ovr := decide (c.expb.toNat < c.bytes.toNat)
    phase := !c.phase
    arrived := 0
    bytes := 0
    expb := 0
    gen := c.gen + 1
    count := if c.pers then c.count else 0 }

/-- Check (05 R135). -/
def Clasp.check (c : Clasp) : Clasp :=
  if c.count ≠ 0 ∧ c.arrived = c.count ∧ c.expb.toNat ≤ c.bytes.toNat then c.complete else c

/-- Arrive (05 R135); none is a conflict. -/
def Clasp.arrive (x : Clasp) (c : BitVec 16) (b : BitVec 32) (ofGroup : Bool) : Option Clasp :=
  if c ≠ 0 ∧ x.count ≠ 0 ∧ c ≠ x.count then none
  else if c ≠ 0 ∧ x.count = 0 ∧ c.toNat ≤ x.arrived.toNat then none
  else if x.count ≠ 0 ∧ x.arrived = x.count then
    if ofGroup then none else some ({ x with bytes := x.bytes + b }.check)
  else if x.arrived = 65535 then none
  else
    some ({ x with
      count := if c ≠ 0 ∧ x.count = 0 then c else x.count
      arrived := x.arrived + 1
      bytes := x.bytes + b }.check)

/-- clexp (05 R134). -/
def Clasp.expect (x : Clasp) (b : BitVec 32) : Clasp := { x with expb := x.expb + b }.check

/-- clinit; none where arrivals have been made (05 R134). -/
def Clasp.init (x : Clasp) (c : BitVec 16) : Option Clasp :=
  if x.arrived ≠ 0 then none
  else some { ovr := false, pers := c != 0, phase := false, count := c, arrived := 0, expb := 0, bytes := 0
              gen := x.gen + 2 }

/-- The words of clrd (05 R133). -/
def Clasp.word0 (x : Clasp) : Word :=
  (0 : BitVec 29) ++ BitVec.ofBool x.ovr ++ BitVec.ofBool x.pers ++ BitVec.ofBool x.phase ++ x.count ++ x.arrived

def Clasp.word1 (x : Clasp) : Word := x.expb ++ x.bytes

/-- What checking a wait comes to. -/
inductive Waited
  | over_
  | ends
  | goesOn
  deriving DecidableEq, Repr

/-- The phase that a wait for `ph` concerns, by its count: the open one, or the one completed last. -/
def Clasp.awaited (x : Clasp) (ph : Bool) : Nat := if x.phase = ph then x.gen else x.gen - 1

/-- A wait for the phase `ph` (05 R136); a phase whose overflow has been seen is not checked again (05 R139; log entry
20). -/
def Clasp.waited (x : Clasp) (ph : Bool) (seen : Option Nat) : Waited :=
  let again := seen = some (x.awaited ph)
  if x.phase ≠ ph then (if x.ovr = true ∧ ¬ again then .over_ else .ends)
  else if x.expb.toNat < x.bytes.toNat ∧ ¬ again then .over_ else .goesOn

/-- The phase of clasp n whose overflow the path has seen. -/
def Path.seen (p : Path) (n : BitVec 4) : Option Nat := (p.seenOver.filter (fun x => x.1 == n)).map Prod.snd

/-- The team's clasp. -/
def State.claspOf (s : State) (cx : Cx) (n : BitVec 4) : Clasp :=
  match s.team? (tidOf cx.gid) with
  | some t => t.clasp n.toNat
  | none => Clasp.reset

def State.setClaspOf (s : State) (cx : Cx) (n : BitVec 4) (c : Clasp) : State :=
  s.modTeam (tidOf cx.gid) (fun t => t.setClasp n.toNat c)

/-- Trap 0x06 (07 R183). -/
def claspOver (n : BitVec 4) (x : Clasp) : Cause := { cause 0x06 (n.setWidth 16) with info := x.expb ++ x.bytes }

/-- A wait traps with 0x06: the path notes the phase that raised it. -/
def overTrap (s : State) (cx : Cx) (n : BitVec 4) (x : Clasp) (ph : Bool) : Ans :=
  .trap (s.modCur cx (fun p => { p with seenOver := some (n, x.awaited ph) })) (claspOver n x)

/-- Trap 0x05 (07 R183). -/
def claspConflict (n : BitVec 4) (c : BitVec 16) : Cause := { cause 0x05 (n.setWidth 16) with info := c.setWidth 64 }

/-- The value of A equal in the active lanes, or the trap (05 R134). -/
def claspWord (g : Guard) (a : Src) (dests : List RegIx) (body : State → Cx → Word → Ans) :
    State → Host.Outcome State Fault Refusal :=
  issueMasked g (usesOf [a] dests) (fun s cx =>
    match equalActive cx a with
    | none => .trap s (cause 0x04 0)
    | some v => body s cx v)

def execClinit (g : Guard) (n : BitVec 4) (a : Src) : State → Host.Outcome State Fault Refusal :=
  claspWord g a [] (fun s cx v =>
    match (s.claspOf cx n).init (v.extractLsb' 0 16) with
    | some c => .done (s.setClaspOf cx n c)
    | none => .trap s (claspConflict n (v.extractLsb' 0 16)))

def execClarr (g : Guard) (d : RegIx) (n : BitVec 4) (a : Src) : State → Host.Outcome State Fault Refusal :=
  claspWord g a [d] (fun s cx v =>
    let x := s.claspOf cx n
    match x.arrive (v.extractLsb' 0 16) 0 true with
    | some c =>
      .done ((s.setClaspOf cx n c).putResult cx d.toNat (.uniform (if x.phase then 1 else 0)) Counts.zero)
    | none => .trap s (claspConflict n (v.extractLsb' 0 16)))

/-- Forgets that OVER was checked, once a wait has ended. -/
def endWait (p : Path) : Path := { p with cwait := none }

def execClwait (g : Guard) (n : BitVec 4) (a : Src) : State → Host.Outcome State Fault Refusal :=
  claspWord g a [] (fun s cx v =>
    let x := s.claspOf cx n
    match x.waited (v.getLsbD 0) (cx.p.seen n) with
    | .over_ => overTrap s cx n x (v.getLsbD 0)
    | .ends => .done s
    | .goesOn => .wait s)

/-- The wait half of clsync on the clasp and phase its path keeps (05 R139). -/
def clsyncWait (s : State) (cx : Cx) (c : ClsyncWait) : Ans :=
  let x := s.claspOf cx c.clasp
  match x.waited c.phase (cx.p.seen c.clasp) with
  | .over_ => overTrap s cx c.clasp x c.phase
  | .ends => .done (s.modCur cx endWait)
  | .goesOn => .wait s

def clsyncBody (n : BitVec 4) (s : State) (cx : Cx) (v : Word) : Ans :=
  let x := s.claspOf cx n
  match x.arrive (v.extractLsb' 0 16) 0 true with
  | some c =>
    let w : ClsyncWait := { clasp := n, phase := x.phase }
    clsyncWait ((s.setClaspOf cx n c).modCur cx (fun p => { p with cwait := some w })) cx w
  | none => .trap s (claspConflict n (v.extractLsb' 0 16))

/-- clsync: its arrival, then its wait; a path in the wait half performs the wait only (05 R134, R139). -/
def execClsync (g : Guard) (n : BitVec 4) (a : Src) : State → Host.Outcome State Fault Refusal :=
  issueMasked g (usesOf [a] []) (fun s cx =>
    match cx.p.cwait with
    | some c => clsyncWait s cx c
    | none =>
      match equalActive cx a with
      | none => .trap s (cause 0x04 0)
      | some v => clsyncBody n s cx v)

def execClexp (g : Guard) (n : BitVec 4) (a : Src) : State → Host.Outcome State Fault Refusal :=
  claspWord g a [] (fun s cx v =>
    .done (s.setClaspOf cx n ((s.claspOf cx n).expect (v.extractLsb' 0 32))))

def execClrd (g : Guard) (d : RegIx) (n : BitVec 4) (word : Bool) : State → Host.Outcome State Fault Refusal :=
  issueMasked g (usesOf [] [d]) (fun s cx =>
    let x := s.claspOf cx n
    .done (s.putResult cx d.toNat (.uniform (if word then x.word1 else x.word0)) Counts.zero))

end Sys2Proof.Machine
end

