-- ==== Sys2Proof/Machine/Engine.lean ====
section
/-! DEFINITION. The engine words: templates, collectives, launches, banks and engine status (07 R165 to R179). -/

namespace Sys2Proof.Machine

/-! ### Records (07 R165, 10 R220) -/

/-- The access of the one record a word reads, as its lowest active lane's. -/
def recordAcc (cx : Cx) (seg : BitVec 8) (off : Word) (n : Nat) : LaneAcc :=
  { lane := lowLane cx, seg := seg, off := off.toNat, n := n }

/-- Segments 0xFC to 0xFF hold no record (07 R165). -/
def recordSegFault (a : LaneAcc) : Option Cause := if 0xFC ≤ a.seg.toNat then some (causeAt 0x09 0 a) else none

/-- Reads a record through the group's own cluster, after the checks of 05 R102; a read that met poison or got no
answer makes its trap due and has no other effect. -/
def recordWord (seg : BitVec 8) (a : Src) (n : Nat) (step5 : State → Cx → Option Cause)
    (k : State → Cx → List Byte → Ans) (s : State) (cx : Cx) : Ans :=
  match equalActive cx a with
  | none => .trap s (cause 0x04 0)
  | some off =>
    let acc := recordAcc cx seg off n
    match ((recordSegFault acc).or (alignFault 64 [acc])).or (step5 s cx) with
    | some c => .trap s c
    | none =>
      match s.probe cx .read [acc] with
      | .stop x => x
      | .ok rs s1 =>
        match readAccess s1 cx .dflt rs [acc] with
        | .inr x => x
        | .inl (xs, s2) =>
          match laneBytes xs acc.lane with
          | none => .done (s2.owe cx (lostTraps cx xs ++ readTraps cx xs))
          | some bs => k s2 cx bs

def noCheck (_ : State) (_ : Cx) : Option Cause := none

/-- The little-endian words of a record. -/
def recordWords (bs : List Byte) : List Word :=
  (List.range (bs.length / 8)).map (fun i => wordOf ((bs.drop (8 * i)).take 8))

/-! ### tmpl (07 R166 to R168) -/

def tmplBaseSeg (t : List Word) : BitVec 8 := (t.getD 1 0).extractLsb' 56 8
/-- HINT, coded as in 01 R22. -/
def tmplHint (t : List Word) : Hint :=
  match ((t.getD 1 0).extractLsb' 41 2).toNat with
  | 0 => .dflt
  | 1 => .strm
  | 2 => .stky
  | _ => .byp
def tmplClasp (t : List Word) : BitVec 4 := (t.getD 1 0).extractLsb' 37 4
def tmplClen (t : List Word) : Bool := (t.getD 1 0).getLsbD 36

/-- The condition of the transform (07 R167). -/
def xformOk (t : List Word) : Bool :=
  let w := tmplW t
  if w = 512 then tmplXform t == 0
  else
    match tmplXform t with
    | 0 => !tmplToStrand t || tmplBytes t % 64 == 0
    | 1 => decide (w ≤ 8)
    | 2 => decide (w ≤ 16)
    | 3 => decide (w ≤ 8)
    | 4 => decide (w ≤ 16)
    | 5 => decide (2 ≤ tmplNdim t)
    | _ => tmplNdim t == 1

/-- Dimensions from n to 4. -/
def unusedDims (n : Nat) : List Nat := (List.range 5).filter (fun d => n ≤ d)
def usedDims (n : Nat) : List Nat := (List.range 5).filter (fun d => d < n)

/-- The reasons for which a template is refused, in order (07 R168). -/
def tmplChecks (t : List Word) (clasps : Nat) : List (Bool × BitVec 16) :=
  let n := tmplNdim t
  let w := tmplW t
  [((t.getD 1 0).extractLsb' 0 22 != 0
      || (unusedDims n).any (fun d => tmplExt t d != 0 || tmplBox t d != 0 || (d != 0 && tmplStr t d != 0)), 0x01),
   (decide (64 ≤ tmplWc t) && decide (tmplWc t ≤ 126), 0x02),
   (n == 0 || decide (5 < n), 0x03),
   ((usedDims n).any (fun d => tmplExt t d == 0), 0x04),
   ((usedDims n).any (fun d => tmplBox t d == 0), 0x05),
   ((usedDims n).any (fun d => d != 0 && decide (tmplStr t d < tmplExt t (d - 1) * tmplStr t (d - 1))), 0x06),
   ((w == 8 || w == 16 || w == 32 || w == 64 || w == 512) && (t.getD 0 0).toNat % (w / 8) != 0, 0x07),
   (decide (0xFC ≤ (tmplBaseSeg t).toNat), 0x08),
   (!xformOk t, 0x09),
   (tmplClen t && decide (clasps ≤ (tmplClasp t).toNat), 0x0A),
   (decide (w < 64) && decide (2 ^ w ≤ (t.getD 2 0).toNat), 0x0B),
   (decide (65536 < tmplBytes t), 0x0C)]

/-- The lowest reason. -/
def tmplBad (t : List Word) (clasps : Nat) : Option (BitVec 16) :=
  ((tmplChecks t clasps).find? (fun x => x.1)).map Prod.snd

def execTmpl (g : Guard) (t : BitVec 6) (seg : BitVec 8) (a : Src) : State → Host.Outcome State Fault Refusal :=
  issueMasked g (usesOf [a] []) (recordWord seg a 64 noCheck (fun s cx bs =>
    let r := recordWords bs
    let set (f : List (Nat × List Word) → List (Nat × List Word)) : State :=
      s.modTeam (tidOf cx.gid) (fun x => { x with tmpls := f x.tmpls })
    match tmplBad r cx.l.clasps with
    | some d => .trap (set (fun m => Tab.erase m t.toNat)) { cause 0x07 d with info := t.setWidth 64 }
    | none => .done (set (fun m => Tab.put m t.toNat r))))

/-! ### coll (07 R173, R175) -/

/-- Unfinished collectives of a context. -/
def State.collCount (s : State) (ctx : Nat) : Nat := (s.colls.filter (fun e => e.2.ctx == ctx)).length

/-- A collective as posted. -/
def newColl (ctx : Nat) (gid : GroupId) (op : CollOp) (arr : Bool) (desc : List Word) : CollJob where
  ctx := ctx
  gid := gid
  op := op
  arr := arr
  desc := desc
  phase := .posted
  faulted := false
  abortNext := false
  got := []
  todo := []
  stamps := []
  waits := []
  status := 0
  recv := 0
  result := 0
  count := 0
  lost := false
  inc := none

def execColl (g : Guard) (op : CollOp) (arr : Bool) (seg : BitVec 8) (a : Src) :
    State → Host.Outcome State Fault Refusal :=
  issueMasked g (usesOf [a] []) (recordWord seg a 64 noCheck (fun s cx bs =>
    if Config.collsFull (s.collCount cx.ctx) then .wait s
    else
      let (ready, s1) := s.releaseAt cx .sys
      if ready then
        let (n, s2) := s1.take
        .done { s2 with colls := s2.colls ++ [(n, newColl cx.ctx cx.gid op arr (recordWords bs))] }
      else .wait s1))

/-! ### launch (07 R178) -/

/-- Device launches of a queue that the front end has not taken. -/
def Queue.buffered (q : Queue) : Nat :=
  (q.visible.filter (fun c => match c with
    | .device _ _ => true
    | .ring _ => false)).length

/-- A queue that is not the context's, or not enabled. -/
def queueFault (q : BitVec 8) (s : State) (cx : Cx) : Option Cause :=
  let x := s.queue q.toNat
  if x.ctx.toNat ≠ cx.ctx ∨ x.en = false then some (cause 0x09 6) else none

def execLaunch (g : Guard) (seg q : BitVec 8) (a : Src) : State → Host.Outcome State Fault Refusal :=
  issueMasked g (usesOf [a] []) (recordWord seg a 256 (queueFault q) (fun s cx bs =>
    if Config.launchBufferFull (s.queue q.toNat).buffered then .wait s
    else
      let (ready, s1) := s.releaseAt cx .dev
      if ready then .done (s1.modQueue q.toNat (fun x => { x with visible := x.visible ++ [.device cx.ctx bs] }))
      else .wait s1))

/-! ### Banks and engine status (07 R179) -/

def bankCode : BankMode → Nat
  | .off => 0
  | .cache => 1
  | .scratch => 2
  | .strand => 3

/-- The status word of a bank. -/
def Bank.status (b : Bank) : Word :=
  let filled := (b.strand.filter (fun e => e.data.isSome)).length
  let free := if b.mode = .strand then 1024 - b.strand.length else 0
  BitVec.ofNat 64 (bankCode b.mode + (match b.target with
    | some m => 4 * bankCode m + 16
    | none => 0) + filled * 2 ^ 16 + free * 2 ^ 32)

def execBankm (g : Guard) (mode : BankMode) (d : RegIx) (b : BitVec 5) : State → Host.Outcome State Fault Refusal :=
  issueMasked g (usesOf [] [d]) (fun s cx =>
    let x := s.bank cx.g.core.clus b.toNat
    if x.ownedBy cx.ctx = false then .trap s (cause 0x09 3)
    else if x.target.isSome then .wait s
    else
      let s1 := if x.mode = mode then s
        else (s.modBank cx.g.core.clus b.toNat (fun y => { y with target := some mode }))
      .done (s1.putResult cx d.toNat (.uniform x.status) Counts.zero))

/-- The values of engst. -/
def engstValue (s : State) (cx : Cx) (sel : Nat) : Word :=
  match s.team? (tidOf cx.gid) with
  | none => 0
  | some t =>
    if sel < 8 then
      let q := t.queue sel
      BitVec.ofNat 64 (q.pending.length % 2 ^ 16 + q.done.toNat * 2 ^ 16)
    else if sel = 0x40 then BitVec.ofNat 64 (s.collCount cx.ctx)
    else if sel = 0x41 then t.discarded.setWidth 64
    else (s.bank cx.g.core.clus (sel - 0x20)).status

def execEngst (g : Guard) (d : RegIx) (sel : BitVec 16) : State → Host.Outcome State Fault Refusal :=
  issueMasked g (usesOf [] [d]) (fun s cx =>
    .done (s.putResult cx d.toNat (.uniform (engstValue s cx sel.toNat)) Counts.zero))

end Sys2Proof.Machine
end

