-- ==== Sys2Proof/Machine/Copies.lean ====
section
/-! DEFINITION. The copy engine of a cluster: source reads, transforms, destination writes, strand pushes, arrivals,
discards, and the change of a bank's mode (07 R166 to R172, R179, 09 R213, R214, 10 R219, R223 to R231, 15 R328). -/

namespace Sys2Proof.Machine

/-! ### Elements of a tile (07 R166, R167, R171) -/

/-- Width with which the source is addressed: the container of an unpad (09 R214). -/
def copySrcWidth (t : List Word) : Nat :=
  match tmplXform t with
  | 3 => 8
  | 4 => 16
  | _ => tmplW t

/-- Width of an element in the destination. -/
def copyDstWidth (t : List Word) : Nat :=
  match tmplXform t with
  | 1 => 8
  | 2 => 16
  | _ => tmplW t

/-- Coordinates of element i of a box, the dimensions of `order` from the fastest on: dimension and coordinate. -/
def boxCoords (t : List Word) : List Nat → Nat → List (Nat × Nat)
  | [], _ => []
  | d :: ds, i => (d, i % tmplBox t d) :: boxCoords t ds (i / tmplBox t d)

/-- The dimensions from the fastest on: a transpose has dimension 1 before 0. -/
def copyOrder (t : List Word) : List Nat :=
  if tmplXform t = 5 then 1 :: 0 :: (List.range (tmplNdim t)).drop 2 else List.range (tmplNdim t)

/-- Coordinates in the tensor of element i of the tile, in tile order. -/
def Copy.coordsOf (c : Copy) (i : Nat) : List (Nat × Nat) :=
  (boxCoords c.words (copyOrder c.words) i).map (fun x => (x.1, c.coords.getD x.1 0 * tmplBox c.words x.1 + x.2))

def insideTensor (t : List Word) (xs : List (Nat × Nat)) : Bool := xs.all (fun x => decide (x.2 < tmplExt t x.1))

/-- Bit address of an element, modulo 2^67 (07 R166). -/
def elemBit (t : List Word) (xs : List (Nat × Nat)) : Nat :=
  ((t.getD 0 0).toNat * 8 + copySrcWidth t * (xs.map (fun x => x.2 * tmplStr t x.1)).sum) % 2 ^ 67

/-- Byte offsets of the sectors that n bits from a bit address touch. -/
def bitSectors (b n : Nat) : List Nat :=
  if n = 0 then []
  else (List.range ((b % 512 + n + 511) / 512)).map (fun i => (b / 512 * 64 + 64 * i) % 2 ^ 64)

/-- n bits from a bit address, out of the sectors read. -/
def bitsFrom (got : List (Nat × List Byte)) (b n : Nat) : Nat :=
  let secs := bitSectors b n
  let all := secs.flatMap (fun s => (Tab.get? got s).getD (List.replicate 64 0))
  bits (ofBytes all) (b % 512) n

/-- Elements of the tile with their bit addresses, none outside the tensor. -/
def Copy.elems (c : Copy) : List (Option Nat) :=
  (List.range (tmplCount c.words)).map (fun i =>
    let xs := c.coordsOf i
    if insideTensor c.words xs then some (elemBit c.words xs) else none)

/-! ### The zero-mask source (07 R167, 05 R119) -/

def Copy.formBit (c : Copy) : Nat := (c.words.getD 0 0).toNat * 8
def Copy.formLen (c : Copy) : Nat := tmplExt c.words 0

/-- Header and mask of the source form. -/
def Copy.formHead (c : Copy) : List Byte :=
  toBytes (16 + formMask c.formLen) (bitsFrom c.got c.formBit (8 * (16 + formMask c.formLen)))

/-- Set bits of the mask below i. -/
def maskRank (len : Nat) (head : List Byte) (i : Nat) : Nat :=
  let m := ofBytes ((head.drop 16).take (formMask len))
  ((List.range i).filter (fun k => m.testBit k)).length

/-- The header obeys 05 R119. -/
def Copy.formOk (c : Copy) : Bool :=
  match formHeader (tmplW c.words) c.formLen c.formHead with
  | some nnz => nnz == maskCount c.formLen c.formHead
  | none => false

/-- Element i of the source form: the bit address of its stored code, if it is stored. -/
def Copy.formElem (c : Copy) (i : Nat) : Option Nat :=
  let m := ofBytes ((c.formHead.drop 16).take (formMask c.formLen))
  if m.testBit i then
    some ((c.formBit + 8 * (16 + formMask c.formLen) + maskRank c.formLen c.formHead i * tmplW c.words) % 2 ^ 67)
  else none

/-! ### What a copy reads and writes -/

/-- Indices in the tensor of the elements of a one-dimensional tile. -/
def Copy.indices (c : Copy) : List (Option Nat) :=
  (List.range (tmplCount c.words)).map (fun i =>
    let x := c.coords.getD 0 0 * tmplBox c.words 0 + i
    if x < c.formLen then some x else none)

/-- The source sectors known to be needed: a zero-mask source is known in two steps. -/
def Copy.needs (c : Copy) : List Nat :=
  let head := bitSectors c.formBit (8 * (16 + formMask c.formLen))
  let xs :=
    if tmplXform c.words = 6 then
      if c.indices.all (·.isNone) then []
      else if head.any (fun s => (Tab.get? c.got s).isNone) then head
      else head ++ (if c.formOk then c.indices.flatMap (fun i => match i with
        | some i => (match c.formElem i with
          | some b => bitSectors b (tmplW c.words)
          | none => [])
        | none => []) else [])
    else c.elems.flatMap (fun e => match e with
      | some b => bitSectors b (copySrcWidth c.words)
      | none => [])
  (sortNats xs).dedup

/-- Sectors still to be read. -/
def Copy.unread (c : Copy) : List Nat := c.needs.filter (fun s => (Tab.get? c.got s).isNone)

/-- FILL in the element's width; a whole sector has it in bytes 0 to 7 (10 R219). -/
def copyFill (t : List Word) : Nat := (t.getD 2 0).toNat % 2 ^ (min 64 (tmplW t))

/-- The codes of the tile in tile order. -/
def Copy.codes (c : Copy) : List Nat :=
  let w := tmplW c.words
  if tmplXform c.words = 6 then
    c.indices.map (fun i => match i with
      | some i => (match c.formElem i with
        | some b => bitsFrom c.got b w
        | none => 0)
      | none => copyFill c.words)
  else c.elems.map (fun e => match e with
    | some b => bitsFrom c.got b (copySrcWidth c.words) % 2 ^ w
    | none => copyFill c.words)

/-- The TB bytes of the tile: its transform, then zeros (07 R167). -/
def Copy.bytes (c : Copy) : List Byte :=
  let w := copyDstWidth c.words
  let body := if tmplXform c.words = 7 then formBytes w c.codes
    else toBytes ((tmplCount c.words * w + 7) / 8) (c.codes.foldr (fun x acc => x + acc * 2 ^ w) 0)
  (body ++ List.replicate (tmplBytes c.words - body.length) 0).take (tmplBytes c.words)

/-! ### Queues of a cluster -/

/-- Teams whose queues the cluster's engine serves: resident, or saved in place (08 R207). -/
def Team.served (t : Team) (clus : Nat) : Bool :=
  t.clus == clus && (t.phase == .resident || t.phase == .saved || t.phase == .exited || t.phase == .halted)

/-- The queues of a cluster in round robin order, after the one served last (10 R228). -/
def State.copyQueues (s : State) (clus : Nat) : List (TeamId × Nat) :=
  let all := (s.teams.filter (fun e => e.2.served clus)).flatMap (fun e => (List.range 8).map (fun q => (e.1, q)))
  match (s.cluster clus).rr with
  | none => all
  | some x =>
    let i := all.findIdx (fun y => y == x) + 1
    all.drop i ++ all.take i

/-- The head copy of a queue. -/
def State.headCopy (s : State) (x : TeamId × Nat) : Option Copy :=
  match s.team? x.1 with
  | some t => (t.queue x.2).pending.head?
  | none => none

/-- A read of a peer sector for the queue's head is out. -/
def State.copyWaits (s : State) (x : TeamId × Nat) : Bool :=
  s.remotes.any (fun e => match e.2.purpose with
    | .copyRead tid q _ => tid == x.1 && q == x.2
    | _ => false)

/-- The head copy has something the engine can move. The source reads of a later copy of the queue could begin earlier:
here only the head copy reads (DESIGN CHOICE, log entry 92). -/
def State.canMove (s : State) (x : TeamId × Nat) : Bool :=
  match s.headCopy x with
  | none => false
  | some c =>
    !c.faulted && !s.copyWaits x &&
      (!c.unread.isEmpty || ((!tmplToStrand c.words || c.reserved) && decide (c.wrote < tmplBytes c.words)))

def State.modHead (s : State) (x : TeamId × Nat) (f : Copy → Copy) : State :=
  s.modTeam x.1 (fun t =>
    let q := t.queue x.2
    t.setQueue x.2 { q with pending := match q.pending with
      | c :: cs => f c :: cs
      | [] => [] })

/-- Engine fault (07 R172): imprecise, in the group that posted the copy. -/
def State.copyTrap (s : State) (x : TeamId × Nat) (c : Copy) (reason off : Nat) : State :=
  let src := reason != 5 && reason != 6
  s.oweTrap c.gid { c.due with
    info := BitVec.ofNat 64 (c.tidx + x.2 * 2 ^ 8 + reason * 2 ^ 16)
    addr := if src then BitVec.ofNat 64 off else 0
    aseg := if src then tmplBaseSeg c.words else 0 }

/-- Takes the head copy out of its queue. -/
def State.popCopy (s : State) (x : TeamId × Nat) (done : Bool) : State :=
  s.modTeam x.1 (fun t =>
    let q := t.queue x.2
    { t.setQueue x.2 { pending := q.pending.drop 1, done := if done then q.done + 1 else q.done } with
      discarded := if done then t.discarded else t.discarded + 1 })

/-- Discards the head copy (07 R172). -/
def State.discardCopy (s : State) (x : TeamId × Nat) (c : Copy) (reason off : Nat) : State :=
  (s.popCopy x false).copyTrap x c reason off

/-- The record of a copy's recoverable fault (15 R328, R330). -/
def State.copyFaultRec (s : State) (clus : Nat) (x : TeamId × Nat) (c : Copy) (off : Nat) : FaultRec :=
  { s.groupRec c.gid clus with
    src := 1
    addr := BitVec.ofNat 64 (off / 65536 * 65536)
    seg := tmplBaseSeg c.words
    info := c.tidx + x.2 * 2 ^ 8 }

/-- Reads one source sector at .dev with the template's HINT (07 R171, 12 R267). -/
def State.readCopySector (s : State) (clus : Nat) (x : TeamId × Nat) (c : Copy) (off : Nat) : State :=
  let ctx := s.ctxOf x.1.launch
  let seg := tmplBaseSeg c.words
  match s.translate (.engine clus) ctx seg off .read with
  | (.ok p ret, s1) =>
    match s1.devRead p 64 (some (l2Hint (tmplHint c.words) ret)) with
    | (.bytes bs, s2) => s2.modHead x (fun c => { c with got := c.got ++ [(off, bs)] })
    | (.poisoned, s2) => s2.discardCopy x c 3 off
    | (.need, s2) => s2.askSector ctx (sectorOf p) (.copyRead x.1 x.2 off)
  | (.bad _, s1) => s1.discardCopy x c 1 off
  | (.forbidden, s1) => s1.discardCopy x c 2 off
  | (.recoverable, s1) =>
    if c.abortNext || !(s1.ctx ctx).fbEn then s1.discardCopy x c 1 off
    else (s1.post ctx (dieOf clus) (s1.copyFaultRec clus x c off)).modHead x (fun c => { c with faulted := true })

/-- Reads up to eight sectors while the same copy stands at the head and can move. -/
def State.readCopy (s : State) (clus : Nat) (x : TeamId × Nat) (serial : Nat) : Nat → State
  | 0 => s
  | n + 1 =>
    match s.headCopy x with
    | some c =>
      if c.serial = serial ∧ c.faulted = false ∧ s.copyWaits x = false then
        match c.unread with
        | off :: _ => (s.readCopySector clus x c off).readCopy clus x serial n
        | [] => s
      else s
    | none => s

/-- A form that breaks its rules discards the copy (07 R172, reason 4). -/
def State.checkForm (s : State) (x : TeamId × Nat) : State :=
  match s.headCopy x with
  | some c =>
    if tmplXform c.words = 6 ∧ c.unread = [] ∧ c.indices.any (·.isSome) = true ∧ c.formOk = false then
      s.discardCopy x c 4 (c.words.getD 0 0).toNat
    else s
  | none => s

/-- Writes the next 512 bytes of the tile; those of a strand stand in the copy until it is complete. -/
def State.writeCopy (s : State) (x : TeamId × Nat) (c : Copy) : State :=
  let bs := (c.bytes.drop c.wrote).take 512
  let s1 := if tmplToStrand c.words then s else s.modTeam x.1 (fun t =>
    { t with scratch := Memory.writeN t.scratch (c.doff + c.wrote) bs })
  s1.modHead x (fun c => { c with wrote := c.wrote + bs.length })

/-- The copy engine moves a granule of the head copy of the next queue that can move. -/
def execCopyGranule (clus : Nat) (s : State) : Host.Outcome State Fault Refusal :=
  match (s.copyQueues clus).find? s.canMove with
  | none => .next s
  | some x =>
    let s1 := s.modCluster clus (fun k => { k with rr := some x })
    match s1.headCopy x with
    | none => .next s1
    | some c =>
      if c.unread.isEmpty then .next (s1.writeCopy x c)
      else .next ((s1.readCopy clus x c.serial 8).checkForm x)

/-- Entries a tile takes in a strand. -/
def strandEntries (t : List Word) : Nat := ceilDiv (tmplBytes t) 64

/-- A copy reserves its entries at the strand's tail, or is discarded where the strand refuses it (10 R223, R226). A copy
accepted before the `bankm` whose bank is a STRAND no more when it would push is discarded too (DESIGN CHOICE, log entry
93). -/
def execCopyStrandPush (tid : TeamId) (q : Nat) (s : State) : Host.Outcome State Fault Refusal :=
  let x := (tid, q)
  match s.headCopy x, s.team? tid with
  | some c, some t =>
    let b := tmplStrand c.words
    let n := strandEntries c.words
    if tmplToStrand c.words = false ∨ c.reserved = true ∨ c.unread ≠ [] ∨ c.faulted = true then .next s
    else if c.late = true ∨ s.strandOpen t.clus b (s.ctxOf tid.launch) = false then .next (s.discardCopy x c 5 0)
    else if 1024 < (s.bank t.clus b).strand.length + n then .next s
    else
      .next ((s.modBank t.clus b (fun k => { k with
        strand := k.strand ++ List.replicate n { owner := c.serial + 1, data := none } })).modHead x (fun c =>
          { c with reserved := true }))
  | _, _ => .next s

/-- Fills the entries a copy reserved, in order. -/
def fillEntries (owner : Nat) : List StrandEntry → List (List Byte) → List StrandEntry
  | [], _ => []
  | e :: es, bs =>
    if e.owner = owner ∧ e.data = none then
      match bs with
      | b :: more => { owner := 0, data := some b } :: fillEntries owner es more
      | [] => e :: fillEntries owner es []
    else e :: fillEntries owner es bs

/-- The tile in entries of 64 bytes. -/
def tileEntries (bs : List Byte) : List (List Byte) := (entriesOf 0 bs).filterMap (·.data)

/-- The arrival of a finished copy; one that conflicts makes none (07 R171, R172). -/
def State.copyArrives (s : State) (x : TeamId × Nat) (c : Copy) : State :=
  if tmplClen c.words then
    match s.team? x.1 with
    | none => s
    | some t =>
      let n := (tmplClasp c.words).toNat
      match (t.clasp n).arrive 0 (BitVec.ofNat 32 (tmplBytes c.words)) false with
      | some k => s.setTeam x.1 (t.setClasp n k)
      | none => s.copyTrap x c 6 0
  else s

/-- A copy whose tile is written fills its entries, leaves its queue and arrives (07 R171). -/
def execCopyComplete (tid : TeamId) (q : Nat) (s : State) : Host.Outcome State Fault Refusal :=
  let x := (tid, q)
  match s.headCopy x, s.team? tid with
  | some c, some t =>
    if c.unread.isEmpty && decide (tmplBytes c.words ≤ c.wrote) then
      let s1 := if tmplToStrand c.words then
          s.modBank t.clus (tmplStrand c.words) (fun k => { k with
            strand := fillEntries (c.serial + 1) k.strand (tileEntries c.bytes) })
        else s
      .next ((s1.popCopy x true).copyArrives x c)
    else .next s
  | _, _ => .next s

/-! ### Changes of mode (07 R179, 10 R223) -/

/-- The partitions that lie in a cluster, each with its units (10 R222). -/
def State.partitions (s : State) (clus : Nat) : List (List (Nat × Nat × Nat)) :=
  (s.teams.filter (fun e => e.2.part && e.2.clus == clus)).map (fun e => e.2.units)

/-- The SCRATCH banks of a context in a cluster, in ascending number: 256 units each (10 R222). -/
def State.scratchBanks (s : State) (clus ctx : Nat) : List Nat :=
  (List.range 32).filter (fun b => (s.bank clus b).mode == .scratch && (s.bank clus b).ownedBy ctx)

/-- Units from `a` on, counted through some banks, as runs of bank, first unit, count. -/
def unitsAt (banks : List Nat) (a n : Nat) : List (Nat × Nat × Nat) :=
  (List.range banks.length).filterMap (fun i =>
    let lo := max a (256 * i)
    let hi := min (a + n) (256 * i + 256)
    if lo < hi then some (banks.getD i 0, lo - 256 * i, hi - lo) else none)

/-- Units of some banks that take no new partition, as runs: those of partitions, and those of a bank that drains
(10 R223). -/
def State.takenUnits (s : State) (clus : Nat) (banks : List Nat) : List (Nat × Nat) :=
  (banks.filter (fun b => (s.bank clus b).target.isSome)).map (fun b => (256 * banks.idxOf b, 256))
    ++ ((s.partitions clus).flatten.filter (fun u => banks.contains u.1)).map (fun u =>
      (256 * banks.idxOf u.1 + u.2.1, u.2.2))

/-- n units from a on span at most 16 banks (10 R222). -/
def spanOk (a n : Nat) : Bool := decide ((a + n - 1) / 256 - a / 256 < 16)

/-- The first run of n consecutive free units of a context in a cluster: where a partition lies is the implementation's
choice (10 R222; log entry 73). -/
def State.freeRun (s : State) (clus ctx n : Nat) : Option (List (Nat × Nat × Nat)) :=
  let banks := s.scratchBanks clus ctx
  let taken := s.takenUnits clus banks
  let free (a : Nat) : Bool := decide (a + n ≤ 256 * banks.length) && spanOk a n
    && taken.all (fun x => decide (x.1 + x.2 ≤ a) || decide (a + n ≤ x.1))
  if n = 0 then some []
  else ((sortNats ((List.range banks.length).map (fun i => 256 * i) ++ taken.map (fun x => x.1 + x.2))).find? free).map
    (fun a => unitsAt banks a n)

/-- A draining bank is empty: no line of a CACHE bank remains, no partition has a unit in a SCRATCH bank, no entry of a
strand is filled or reserved (10 R223). -/
def State.drained (s : State) (clus b : Nat) : Bool :=
  let x := s.bank clus b
  match x.mode with
  | .off => true
  | .cache => !(s.cluster clus).lines.any (fun e => e.bank == b)
  | .strand => x.strand.isEmpty
  | .scratch => !(s.partitions clus).flatten.any (fun u => u.1 == b)

/-- The new mode of a drained bank takes effect, and the sticky cap follows c (10 R223, R225). -/
def execBankModeChange (clus bank : Nat) (s : State) : Host.Outcome State Fault Refusal :=
  match (s.bank clus bank).target with
  | none => .next s
  | some m =>
    if s.drained clus bank = true then
      .next ((s.modBank clus bank (fun x => { x with mode := m, target := none, strand := [] })).recap clus)
    else .next s

end Sys2Proof.Machine
end

