-- ==== Sys2Proof/Machine/Matrix.lean ====
section
/-! DEFINITION. The matrix instructions: checks, capture, chaining, the reservation table, and the product (06 R144,
R150 to R164, 10 R232, 13 R289). -/

namespace Sys2Proof.Machine

/-! ### The product (06 R157 to R160) -/

/-- An exact sum as one operation: a NaN makes it NaN, infinities of both signs make it invalid (04 R79). -/
def sumNums (down : Bool) (xs : List Num) : Num × Bool :=
  if xs.contains .nan then (.nan, false)
  else
    match xs with
    | [] => (.zero false, false)
    | x :: ys => ys.foldl (fun acc y =>
      let r := Num.add down acc.1 y
      (r.1, acc.2 || r.2)) (x, false)

/-- Element i of a run in a lane, and scale b of a run in a lane (06 R150). -/
def runCode (regs : List RegVal) (f : Fmt) (base l i : Nat) : Nat :=
  subElem ((regs.getD (base + i / f.k) .unwritten).lane l) f.w (i % f.k)

def runScale (regs : List RegVal) (f : Fmt) (base l b : Nat) : Nat :=
  bits ((regs.getD (base + b / 6) .unwritten).lane l).toNat (10 * (b % 6)) f.w

namespace MatrixJob

def fmtA (j : MatrixJob) : Fmt := Fmt.ofWord j.fa
def fmtB (j : MatrixJob) : Fmt := Fmt.ofWord j.fb
def fmtC (j : MatrixJob) : Fmt := Fmt.ofWord j.fc
def fmtS (j : MatrixJob) : Fmt := Fmt.ofWord j.fs

/-- ga and gb, and the registers of a scale run (06 R150). -/
def ga (j : MatrixJob) : Nat := (j.k + j.fmtA.k - 1) / j.fmtA.k
def gb (j : MatrixJob) : Nat := (j.k + j.fmtB.k - 1) / j.fmtB.k
def scaleRegs (j : MatrixJob) : Nat := if j.block = 0 then 0 else ((j.k + j.block - 1) / j.block + 5) / 6

/-- The factors of the product at k of row m and column n (06 R157, R159). -/
def factors (j : MatrixJob) (m n k : Nat) : List (Tallied Num) :=
  let col := n / j.w * (j.gb + j.scaleRegs)
  let l := n % j.w
  let a := j.fmtA.decode (runCode j.a j.fmtA 0 m k)
  let b := j.fmtB.decode (runCode j.b j.fmtB col l k)
  if j.block = 0 then [a, b]
  else
    [a, j.fmtS.decode (runScale j.a j.fmtS j.ga m (k / j.block)),
      b, j.fmtS.decode (runScale j.b j.fmtS (col + j.gb) l (k / j.block))]

/-- One product, exact, with its events. -/
def product (j : MatrixJob) (m n k : Nat) : Tallied Num :=
  (Tallied.all (j.factors m n k)).bind (fun xs => Tallied.ofOp (mulNums xs))

/-- c of an element: +0 without a C run. -/
def addend (j : MatrixJob) (m n : Nat) : Tallied Num :=
  match j.c with
  | .regs xs => j.fmtC.decode (runCode xs j.fmtC 0 m n)
  | _ => .pure (.zero false)

/-- key(m, n, h) (06 R160). -/
def key (j : MatrixJob) (m n h : Nat) : Key where
  seed := j.seed
  team := j.gid.team
  lanet := j.gid.grp * j.w + m
  j := n
  draw := j.draw.getD m 0 + BitVec.ofNat 32 (h * 2 ^ 20)
  soff := j.soff

/-- A sum of products and c with one rounding (06 R157). -/
def narrowElem (j : MatrixJob) (m n : Nat) : Tallied Nat :=
  (Tallied.all ((List.range j.k).map (j.product m n))).bind (fun ps =>
    (j.addend m n).bind (fun c =>
      (Tallied.ofOp (sumNums j.fmtC.down (ps ++ [c]))).bind (fun x => round j.fmtC (j.key m n 0) x)))

/-- Group i of eight products, rounded once (06 R158). -/
def groupSum (j : MatrixJob) (m n p i : Nat) : Tallied Num :=
  (Tallied.all ((List.range (min 8 (j.k - 8 * i))).map (fun q => j.product m n (8 * i + q)))).bind (fun ps =>
    (Tallied.ofOp (sumNums j.fmtC.down ps)).bind (fun x => roundNode j.fmtC (j.key m n (p + i)) x))

/-- The sum in groups, and c last (06 R158). -/
def wideElem (j : MatrixJob) (m n : Nat) : Tallied Nat :=
  let g := (j.k + 7) / 8
  let p := 2 ^ treeLevels g
  (treeSum (j.groupSum m n p) (addNode j.fmtC (j.key m n)) g).bind (fun s =>
    (j.addend m n).bind (fun c =>
      (Tallied.ofOp (Num.add j.fmtC.down s c)).bind (fun x => round j.fmtC (j.key m n 0) x)))

/-- D(m, n) (06 R157 to R159). -/
def elem (j : MatrixJob) (m n : Nat) : Tallied Nat :=
  if 16 < max j.fmtA.w j.fmtB.w then j.wideElem m n else j.narrowElem m n

/-- Register r of D in lane m, over what it holds: elements at n ≥ N stay, the bits above kC·wC are zero. -/
def laneOf (j : MatrixJob) (old : Word) (r m : Nat) : Tallied Word :=
  let f := j.fmtC
  let keep := old &&& fullMask (f.k * f.w)
  (List.range (min f.k (j.n - r * f.k))).foldl (fun (acc : Tallied Word) q =>
    let e := j.elem m (r * f.k + q)
    { val := setElem acc.val f.w q e.val, cnt := acc.cnt.add e.cnt }) (.pure keep)

/-- Register r of D: lanes at m ≥ M keep their values (06 R157). -/
def regOf (j : MatrixJob) (old : RegVal) (r : Nat) : Tallied RegVal :=
  let rs := Tallied.all ((List.range j.w).map (fun l => if l < j.m then j.laneOf (old.lane l) r l else .pure (old.lane l)))
  { val := .general rs.val, cnt := rs.cnt }

end MatrixJob

/-! ### Checks (06 R144, R152, R156) -/

/-- The shape MK names. -/
structure Shape where
  m : Nat
  n : Nat
  k : Nat
  scs : BitVec 4
  deriving DecidableEq, Repr

def shapeOf (v : Word) : Shape where
  m := (v.extractLsb' 0 7).toNat
  n := (v.extractLsb' 8 7).toNat
  k := (v.extractLsb' 16 12).toNat
  scs := v.extractLsb' 28 4

/-- The limits of 06 R151 and R152. -/
def shapeOk (v : Word) (w ka kb : Nat) (scaled : Bool) : Bool :=
  let x := shapeOf v
  v.extractLsb' 32 32 == 0 && !v.getLsbD 15 && !v.getLsbD 7 && (scaled || x.scs == 0)
    && decide (1 ≤ x.m) && decide (x.m ≤ w) && decide (1 ≤ x.n) && decide (x.n ≤ 64)
    && decide (1 ≤ x.k) && decide (x.k ≤ 32 * min ka kb)

/-- The word of a matrix instruction: B of its block size, 0 without scales; C, absent for mmaz. -/
structure MatrixWord where
  fs : BitVec 4
  sb : BitVec 4
  sc : BitVec 4
  block : Nat
  d : Nat
  a : Nat
  b : Nat
  c : Option Nat
  kreg : Nat
  deriving DecidableEq, Repr

/-- The runs of a matrix instruction: code and scale run of A, those of each column block of B, of C and of D. -/
structure MatrixRuns where
  ga : Nat
  gb : Nat
  ss : Nat
  nc : Nat
  gd : Nat
  deriving DecidableEq, Repr

def runsOf (cx : Cx) (w : MatrixWord) (x : Shape) : MatrixRuns :=
  let ka := (cx.fmt w.fs).k
  let kb := (cx.fmt w.sb).k
  let kc := (cx.fmt w.sc).k
  { ga := (x.k + ka - 1) / ka
    gb := (x.k + kb - 1) / kb
    ss := if w.block = 0 then 0 else ((x.k + w.block - 1) / w.block + 5) / 6
    nc := (x.n + cx.w - 1) / cx.w
    gd := (x.n + kc - 1) / kc }

def MatrixRuns.aRun (r : MatrixRuns) (w : MatrixWord) : List Nat := runOf w.a (r.ga + r.ss)
def MatrixRuns.bRun (r : MatrixRuns) (w : MatrixWord) : List Nat := runOf w.b (r.nc * (r.gb + r.ss))
def MatrixRuns.cRun (r : MatrixRuns) (w : MatrixWord) : List Nat := match w.c with
  | some c => runOf c r.gd
  | none => []
def MatrixRuns.dRun (r : MatrixRuns) (w : MatrixWord) : List Nat := runOf w.d r.gd

/-- A run is too long or reaches `.regs`, or the D run overlaps what it may not: trap 0x01 detail 0x0B (01 R354, 06
R144, R156). -/
def runsBad (cx : Cx) (w : MatrixWord) (r : MatrixRuns) : Bool :=
  let dr := r.dRun w
  decide (32 < r.ga) || decide (32 < r.gb) || decide (32 < r.ss) || decide (64 < r.gd)
    || (r.aRun w ++ r.bRun w ++ r.cRun w ++ dr).any (fun x => decide (cx.g.nr ≤ x))
    || (r.cRun w != dr && dr.any (r.cRun w).contains)
    || dr.any (r.aRun w ++ r.bRun w ++ [w.kreg]).contains

/-- The shape that the MK value names, where it is the same in the lanes that read it (06 R152): whatever else the word
is refused for, its mask among it, it is held for its runs first (02 R39). -/
def shape? (cx : Cx) (w : MatrixWord) : Option Shape :=
  let m := if cx.eff = 0 then cx.g.full else cx.eff
  let v := (cx.g.val w.kreg).firstIn m
  if (cx.g.val w.kreg).equalIn m = true ∧ shapeOk v cx.w (cx.fmt w.fs).k (cx.fmt w.sb).k (w.block != 0) = true then some (shapeOf v) else none

/-- The earlier matrix instruction in flight whose D run C is exactly, with the same SC definition (06 R162). -/
def chainedTo (cx : Cx) (w : MatrixWord) : Option InFlight :=
  match w.c, shape? cx w with
  | some c, some x =>
    (cx.g.flight.filter (fun f =>
      match f.job with
      | some j => j.d == c && j.gd == (runsOf cx w x).gd && j.fc == cx.g.slotDef w.sc.toNat
      | none => false)).getLast?
  | _, _ => none

/-- The registers of the runs: a chained C run is not waited for, nor a D run that coincides with it (01 R29, 06 R161,
R162). Without a shape only the first register of each run is known. -/
def matrixMembers (w : MatrixWord) (cx : Cx) : Members :=
  match shape? cx w with
  | none => { reads := [w.a, w.b] ++ w.c.toList, writes := [w.d] }
  | some x =>
    let r := runsOf cx w x
    let chained := (chainedTo cx w).isSome
    let same := chained && w.c == some w.d
    { reads := r.aRun w ++ r.bRun w ++ (if chained then [] else r.cRun w)
      writes := if same then [] else r.dRun w
      chained := if chained then r.cRun w else [] }

/-! ### The reservation table (10 R232, 13 R289) -/

/-- A waiter whose path still stands at its word. -/
def State.waits (s : State) (x : MatrixWaiter) : Bool :=
  match s.group? x.gid with
  | some g => g.phase == .running && (match g.path x.slot with
    | some p => p.pc == x.pc
    | none => false)
  | none => false

/-- Drops waiters that no longer wait. -/
def State.tidyWaiters (s : State) (c : CoreId) : State :=
  s.modCore c (fun x => { x with mwait := x.mwait.filter s.waits })

/-- Entries neither held nor given to a waiter. -/
def Core.freeEntries (c : Core) : Nat := 16 - c.resv.length - (c.mwait.filter (·.granted)).length

/-- PRIO of the queue of a group's launch. -/
def State.prioOf (s : State) (gid : GroupId) : Nat :=
  match s.launch? gid.launch with
  | some l => (s.queue l.queue).prio.toNat
  | none => 0

/-- Effective priority: raised to 3 after 4096 arithmetic cycles (13 R289). -/
def State.effPrio (s : State) (x : MatrixWaiter) : Nat := if x.raised then 3 else s.prioOf x.gid

/-- Whether the arbiter prefers x to b: priority, then the longest wait, then the lowest group slot (13 R289). -/
def State.prefers (s : State) (x b : MatrixWaiter) : Bool :=
  let slot (y : MatrixWaiter) : Nat := match s.group? y.gid with
    | some g => g.gslot
    | none => 0
  decide (s.effPrio b < s.effPrio x) || (s.effPrio b == s.effPrio x && (decide (x.since.toNat < b.since.toNat)
    || (x.since == b.since && decide (slot x < slot b))))

/-- The waiter the arbiter chooses. -/
def State.bestWaiter (s : State) (c : CoreId) : Option MatrixWaiter :=
  ((s.core c).mwait.filter (fun x => !x.granted)).foldl (fun best x =>
    match best with
    | none => some x
    | some b => if s.prefers x b then some x else best) none

/-- Gives a freed entry to the chosen waiter. -/
def State.grantEntry (s : State) (c : CoreId) : State :=
  let s1 := s.tidyWaiters c
  if (s1.core c).freeEntries = 0 then s1
  else
    match s1.bestWaiter c with
    | none => s1
    | some b => s1.modCore c (fun x => { x with mwait := x.mwait.map (fun y => if y = b then { y with granted := true } else y) })

/-- Takes an entry for the word, or makes it wait for one. -/
def State.reserve (s : State) (cx : Cx) : Bool × State :=
  let s1 := s.tidyWaiters cx.g.core
  let mine (x : MatrixWaiter) : Bool := x.gid == cx.gid && x.slot == cx.slot && x.pc == cx.p.pc
  let c := s1.core cx.g.core
  if c.mwait.any (fun x => mine x && x.granted) || decide (0 < c.freeEntries) then
    (true, s1.modCore cx.g.core (fun x => { x with mwait := x.mwait.filter (fun y => !mine y) }))
  else if c.mwait.any mine then (false, s1)
  else (false, s1.modCore cx.g.core (fun x => { x with
    mwait := x.mwait ++ [{
      gid := cx.gid
      slot := cx.slot
      pc := cx.p.pc
      since := (s.core cx.g.core).cyc
      raised := false
      granted := false }] }))

/-! ### Issue -/

/-- What the instruction captures (06 R161). -/
def jobFor (cx : Cx) (w : MatrixWord) (x : Shape) (r : MatrixRuns) : MatrixJob where
  fa := cx.g.slotDef w.fs.toNat
  fb := cx.g.slotDef w.sb.toNat
  fc := cx.g.slotDef w.sc.toNat
  fs := if w.block = 0 then 0 else cx.g.slotDef x.scs.toNat
  block := w.block
  m := x.m
  n := x.n
  k := x.k
  w := cx.w
  a := (r.aRun w).map cx.g.val
  b := (r.bRun w).map cx.g.val
  c := match w.c, chainedTo cx w with
    | none, _ => .absent
    | some _, some f => .awaits f.serial
    | some _, none => .regs ((r.cRun w).map cx.g.val)
  d := w.d
  gd := r.gd
  seed := cx.l.seed
  gid := cx.gid
  draw := (List.range cx.w).map cx.g.drawOf
  soff := cx.g.soffOf w.sc.toNat

/-- Puts the instruction in flight: its entry, its result, and DRAW (06 R160, R161, R163). -/
def State.startMatrix (s : State) (cx : Cx) (w : MatrixWord) (x : Shape) (r : MatrixRuns) : State :=
  let (n, s1) := s.take
  let s2 := s1.modGroup cx.gid (fun g =>
    let g1 := g.fly { serial := n, slot := cx.slot, kind := .matrix, covered := false, dests := r.dRun w, writes := []
                      counts := Counts.zero, due := [], waits := [], job := some (jobFor cx w x r), stamps := [] }
    if (cx.fmt w.sc).sto then g1.advanceDraw cx.g.full else g1)
  s2.modCore cx.g.core (fun c => { c with
    resv := c.resv ++ [{ gid := cx.gid, serial := n
                         capture := (r.aRun w ++ r.bRun w ++ r.cRun w ++ [w.kreg]).dedup, captured := false }] })

/-- The checks of 06 R144 in order, then the entry. -/
def matrixBody (w : MatrixWord) (s : State) (cx : Cx) : Ans :=
  let v := (cx.g.val w.kreg).firstIn cx.g.full
  let x := shapeOf v
  if cx.eff ≠ cx.g.full then .trap s (cause 0x04 0)
  else if !(cx.g.val w.kreg).equalIn cx.g.full then .trap s (cause 0x04 0)
  else if !shapeOk v cx.w (cx.fmt w.fs).k (cx.fmt w.sb).k (w.block != 0) then .trap s badOperand
  else if w.block ≠ 0 ∧ badScale (cx.g.slotDef x.scs.toNat) = true then .trap s (cause 0x02 4)
  else
    let r := runsOf cx w x
    if runsBad cx w r then .trap s badOperand
    else
      let (ok, s1) := s.reserve cx
      if ok then .done (s1.startMatrix cx w x r) else .wait s1

/-- The word of a matrix instruction; every lane of the group must be active, so an empty mask is no exception. -/
def matrixWord (g : Guard) (w : MatrixWord) : State → Host.Outcome State Fault Refusal :=
  issueRuns g
    { reads := [w.kreg], writes := [], runs := [], slots := [(w.fs, 1), (w.sb, 2), (w.sc, 3)]
      fields := [[w.a], [w.b], w.c.toList] }
    (matrixMembers w) (matrixBody w)

def execMma (g : Guard) (fs sb sc : BitVec 4) (d a b c mk : RegIx) : State → Host.Outcome State Fault Refusal :=
  matrixWord g { fs := fs, sb := sb, sc := sc, block := 0, d := d.toNat, a := a.toNat, b := b.toNat
                 c := some c.toNat, kreg := mk.toNat }

def execMmas (g : Guard) (fs sb sc : BitVec 4) (bs : BlockSize) (d a b c mk : RegIx) :
    State → Host.Outcome State Fault Refusal :=
  matrixWord g { fs := fs, sb := sb, sc := sc, block := blockLen bs, d := d.toNat, a := a.toNat, b := b.toNat
                 c := some c.toNat, kreg := mk.toNat }

def execMmaz (g : Guard) (fs sb sc : BitVec 4) (d a b mk : RegIx) : State → Host.Outcome State Fault Refusal :=
  matrixWord g { fs := fs, sb := sb, sc := sc, block := 0, d := d.toNat, a := a.toNat, b := b.toNat
                 c := none, kreg := mk.toNat }

/-! ### Events of the engine -/

/-- The first instruction in issue order that is not captured yet ends its capture (10 R232). -/
def captureFirst : List MatrixEntry → List MatrixEntry
  | [] => []
  | e :: es => if e.captured then e :: captureFirst es else { e with capture := [], captured := true } :: es

def execCaptureEnd (c : CoreId) (s : State) : Host.Outcome State Fault Refusal :=
  .next (if (s.core c).resv.all (·.captured) then s else s.modCore c (fun x => { x with resv := captureFirst x.resv }))

/-- The D run as a completed instruction leaves it. -/
def matrixWrites (g : Group) (j : MatrixJob) : List (Nat × Tallied RegVal) :=
  (List.range j.gd).map (fun r => (j.d + r, j.regOf (g.val (j.d + r)) r))

/-- A later instruction chained to this one takes its D as C (06 R162). -/
def chainValue (serial : Nat) (vals : List RegVal) (f : InFlight) : InFlight :=
  match f.job with
  | some j => if j.c = .awaits serial then { f with job := some { j with c := .regs vals } } else f
  | none => f

/-- Writes the D run, with every count at once (06 R160, R164). -/
def Group.completeMatrix (g : Group) (serial : Nat) : Group :=
  match g.findFlight serial with
  | none => g
  | some f =>
    match f.job with
    | none => g
    | some j =>
      let ws := matrixWrites g j
      let g1 := ws.foldl (fun (x : Group) w => (x.writeResult [] true w.1 x.full w.2.val).forget w.1) g
      let g2 := (g1.addCounts (Counts.sum (ws.map (fun w => w.2.cnt)))).land serial
      { g2 with flight := g2.flight.map (chainValue serial (ws.map (fun w => w.2.val))) }

/-- Matrix engine busy cycles: how many an instruction takes is a free value (07 R181, log entry 5). -/
def State.engineBusy (s : State) (c : CoreId) : State :=
  let s1 := s.modCore c (fun x => { x with
    perf := Sparse.put 0 x.perf 0x100 (Sparse.get 0 x.perf 0x100 + 1 + BitVec.ofNat 32 (Config.extraCycles s.fresh)) })
  { s1 with fresh := s1.fresh + 1 }

/-- The oldest instruction of a core completes once it is captured: its D run is written and its entry freed. -/
def execMatrixComplete (c : CoreId) (s : State) : Host.Outcome State Fault Refusal :=
  match (s.core c).resv with
  | [] => .next s
  | e :: es =>
    if e.captured then
      let s1 := match s.group? e.gid with
        | some g => (s.setGroup e.gid (g.completeMatrix e.serial)).storeSpills e.gid g
        | none => s
      .next (((s1.modCore c (fun x => { x with resv := es })).engineBusy c).grantEntry c)
    else .next s

/-- A waiting matrix instruction reaches 4096 arithmetic cycles: its priority is 3 (13 R289). -/
def execMatrixPriorityRaise (gid : GroupId) (slot : Nat) (s : State) : Host.Outcome State Fault Refusal :=
  .next { s with cores := s.cores.map (fun e => (e.1, { e.2 with
    mwait := e.2.mwait.map (fun x => if x.gid = gid ∧ x.slot = slot then { x with raised := true } else x) })) }

end Sys2Proof.Machine
end

