-- ==== Sys2Proof/Machine/Groups.lean ====
section
/-! DEFINITION. What happens to a group beside its words: replies, traps, retirement and saving (01 R30, 05 R105, R111,
07 R182 to R185, 08 R188, R203 to R207). -/

namespace Sys2Proof.Machine

/-! ### Replies -/

/-- The writes of a result, in order. -/
def Group.applyWrites (g : Group) (ws : List RegWrite) : Group := ws.foldl (fun g w => g.applyWrite [] w) g

/-- What a result writes: where an operation of its word met poison, no lane (05 R103). -/
def InFlight.landing (f : InFlight) : List RegWrite := if f.due.any (fun t => t.code == 0x12) then [] else f.writes

/-- Writes a returned result: its lanes, its events, and the traps that become due with it (05 R103, R105). -/
def State.arrive (s : State) (gid : GroupId) (g : Group) (f : InFlight) : State :=
  let g1 := ((g.applyWrites f.landing).addCounts f.counts).land f.serial
  f.due.foldl (fun s t => s.oweTrap gid t) ((s.setGroup gid g1).storeSpills gid g)

/-- The reply of a load or fetching atomic, once no request of it is open. -/
def execLoadReply (gid : GroupId) (n : Nat) (s : State) : Host.Outcome State Fault Refusal :=
  match s.group? gid with
  | none => .next s
  | some g =>
    match g.findFlight n with
    | some f =>
      if (f.kind = .load ∨ f.kind = .atom) ∧ f.waits = [] then .next (s.arrive gid g f) else .next s
    | none => .next s

/-- A load of the trapped program returns while its handler runs: its lanes wait for `rte` (01 R30). -/
def Group.arriveLate (g : Group) (f : InFlight) (ac : BitVec 4) : Group :=
  { g.setAc ac.toNat (g.ac ac.toNat - 1) with
    preTrap := g.preTrap.filter (fun x => x.serial != f.serial)
    late := g.late ++ f.landing
    laterTraps := g.laterTraps ++ f.due }

/-- The last lane of a split-phase load is written and its counter falls (05 R111). -/
def execLdiArrival (gid : GroupId) (n : Nat) (s : State) : Host.Outcome State Fault Refusal :=
  match s.group? gid with
  | none => .next s
  | some g =>
    match g.findFlight n, g.preTrap.find? (fun f => f.serial == n) with
    | some f, _ =>
      match f.kind with
      | .ldi ac => .next (s.arrive gid (g.setAc ac.toNat (g.ac ac.toNat - 1)) f)
      | _ => .next s
    | none, some f =>
      match f.kind with
      | .ldi ac => .next (s.setGroup gid (g.arriveLate f ac))
      | _ => .next s
    | none, none => .next s

/-! ### Traps -/

/-- The slot and first unissued word with which an imprecise trap is taken (07 R183): those of its own slot, or of the
other one where that slot is empty. -/
def Group.imprecisePlace (g : Group) (t : TrapInfo) : Option TrapInfo :=
  match g.path t.slot, g.path (1 - t.slot) with
  | some p, _ => some { t with rpc := p.pc }
  | none, some p => some { t with slot := 1 - t.slot, rpc := p.pc }
  | none, none => none

/-- A pending trap is taken once every short-latency result is written: the precise one first, then imprecise ones in
order of arrival (01 R30, 07 R184). -/
def execTrapTaken (gid : GroupId) (s : State) : Host.Outcome State Fault Refusal :=
  match s.group? gid with
  | none => .next s
  | some g =>
    if g.phase ≠ .running ∨ g.settled = false then .next s
    else
      match g.trap, g.imprecise with
      | some t, _ => s.takeTrap gid { g with trap := none } t
      | none, t :: ts =>
        match g.imprecisePlace t with
        | some t' => s.takeTrap gid { g with imprecise := ts } t'
        | none => .next s
      | none, [] => .next s

/-! ### Retirement (08 R188) -/

/-- Every lane has exited. -/
def Group.isGone (g : Group) : Bool := g.p0.isNone && g.p1.isNone && g.stack.isEmpty

/-- The group releases its slot and storage. -/
def Group.released (g : Group) : Group :=
  { g with phase := .retired, regs := [], resident := [], preds := [] }

/-- Retirement: a trap that is due halts the group instead, the first in order of arrival. -/
def execGroupRetire (gid : GroupId) (s : State) : Host.Outcome State Fault Refusal :=
  match s.group? gid with
  | none => .next s
  | some g =>
    if g.phase = .running ∧ g.isGone = true ∧ g.trap = none ∧ s.quiet gid g = true then
      match g.laterTraps ++ g.imprecise with
      | t :: _ =>
        match s.writeFrame gid g { t with rpc := 0 } with
        | some s1 => .next (s1.haltGroup gid t.code t.detail t.addr t.aseg)
        | none => .fault .contextAreaOutsideMemory
      | [] =>
        if s.copiesOf gid then .next s else .next ((s.setGroup gid g.released).settleTeam (tidOf gid))
    else .next s

/-! ### Saving (08 R203 to R207) -/

/-- The request becomes visible to a group (08 R203). -/
def execPreemptionRequestVisible (gid : GroupId) (s : State) : Host.Outcome State Fault Refusal :=
  match s.group? gid with
  | some g =>
    if (s.ctx (s.ctxOf gid.launch)).preq = true ∧ g.phase = .running then
      .next (s.setGroup gid { g with preqVisible := true })
    else .next s
  | none => .next s

/-- The grace limit expires: a full save follows (08 R205). -/
def execGraceLimitExpiry (gid : GroupId) (s : State) : Host.Outcome State Fault Refusal :=
  match s.group? gid with
  | some g =>
    if g.preqVisible = true ∧ g.phase = .running then .next (s.setGroup gid { g with graceOver := true }) else .next s
  | none => .next s

def atPmark (p : Option Path) : Bool :=
  match p with
  | some p => p.pmark.isSome
  | none => true

/-- Each slot is empty or parked at a pmark (08 R204). -/
def Group.pmarkReady (g : Group) : Bool :=
  atPmark g.p0 && atPmark g.p1 && (g.p0.isSome || g.p1.isSome)

def pmarkMap (p : Option Path) : Word :=
  match p with
  | some p => match p.pmark with
    | some m => m.1
    | none => 0
  | none => 0

def pmarkRange (p : Option Path) : BitVec 32 :=
  match p with
  | some p => match p.pmark with
    | some m => m.2
    | none => 0
  | none => 0

/-- The smallest range that covers both; one without units is empty (08 R202). -/
def coverRange (a b : BitVec 32) : BitVec 32 :=
  let lo (x : BitVec 32) : Nat := (x.extractLsb' 0 16).toNat
  let n (x : BitVec 32) : Nat := (x.extractLsb' 16 16).toNat
  if n a = 0 then (if n b = 0 then 0 else b)
  else if n b = 0 then a
  else
    let l := min (lo a) (lo b)
    let h := max (lo a + n a) (lo b + n b)
    BitVec.ofNat 32 (l + (h - l) * 2 ^ 16)

/-- The image of a save: a `pmark` save keeps the blocks of the bitmaps (08 R202). -/
def saveImage (g : Group) (pm : Bool) : List Byte :=
  let pc (p : Option Path) : Word := match p with
    | some p => p.pc
    | none => 0
  if pm then
    imageOf g (pc g.p0) (pc g.p1) true (coverRange (pmarkRange g.p0) (pmarkRange g.p1))
      (fun r => (pmarkMap g.p0 ||| pmarkMap g.p1).getLsbD (r / 8))
  else imageOf g (pc g.p0) (pc g.p1) false 0 (fun _ => true)

/-- Where the group's save image lies (08 R198). -/
def imageAddr (c : Context) (gid : GroupId) (g : Group) : Nat :=
  (c.gcaBase + c.gcaStr * BitVec.ofNat 64 (32 * gid.team + gid.grp)).toNat + 64 * ((g.divdepth + 1) / 2)
    + 8 * g.width * g.nr

/-- A group may be saved: nothing of it is on its way and no trap is due (08 R206, 01 R30). -/
def State.canSave (s : State) (gid : GroupId) (g : Group) : Bool :=
  g.phase == .running && g.preqVisible && !g.isGone && (g.pmarkReady || g.graceOver) && s.quiet gid g
    && g.trap.isNone && g.imprecise.isEmpty && g.acquiring.isNone

/-- A path that waits before issue, or for the bead (05 R139, 11 R242). -/
def Path.stuck (p : Path) : Bool := (p.onBead || p.waiting) && !p.onFault

/-- Nothing of the group is on its way, and every path of it waits. -/
def Group.stuck (g : Group) : Bool :=
  !g.isGone && g.flight.isEmpty && g.trap.isNone && g.imprecise.isEmpty && g.p0.all Path.stuck && g.p1.all Path.stuck

/-- The group waits, was saved in such a wait, or is gone. -/
def Group.stopped (g : Group) : Bool :=
  match g.phase with
  | .running => g.stuck
  | .saved _ => g.beadSave
  | _ => true

/-- The group waits for the bead in one of its paths, or was saved in a wait (11 R242). -/
def Group.wantsBead (g : Group) : Bool :=
  match g.phase with
  | .running => g.p0.any (·.onBead) || g.p1.any (·.onBead)
  | .saved _ => g.beadSave
  | _ => false

/-- The save engine writes the image and releases the group's slot and storage; a save that has not begun when the grace
limit expires is a full one (08 R205). -/
def execGroupSave (gid : GroupId) (s : State) : Host.Outcome State Fault Refusal :=
  match s.group? gid with
  | none => .next s
  | some g =>
    if s.canSave gid g then
      let pm := g.pmarkReady && !g.graceOver
      let img := saveImage g pm
      let a := imageAddr (s.ctx (s.ctxOf gid.launch)) gid g
      if s.areaOk a img.length then
        .next (((s.areaWrite a img).setGroup gid { g.released with
          phase := .saved pm, p0 := none, p1 := none, left := [], stack := [], image := img, preqVisible := false
          overSeen := if g.inHandler then g.overSeen else g.seenPair
          graceOver := false, lateSave := Counts.zero, beadSave := g.stuck }).settleTeam (tidOf gid))
      else .fault .contextAreaOutsideMemory
    else .next s

end Sys2Proof.Machine
end

