-- ==== Sys2Proof/Machine/Hub.lean ====
section
/-! DEFINITION. Accesses of the hub: the front end and the collective engine read and write memory through the hub's
walker (12 R269, R270, 15 R328, R332). -/

namespace Sys2Proof.Machine

/-- Sends a message-signalled interrupt (15 R333, 16 R340). There are 2048 vectors (00 R3); a register that names one
beyond them sends none (log entry 74). -/
def State.interrupt (s : State) (vec : Nat) : State := if vec < 2048 then { s with msix := s.msix ++ [vec] } else s

/-- A range of offsets cut at sector boundaries: offset and length of each piece, modulo 2^64. -/
def spans (off n : Nat) : List (Nat × Nat) :=
  (List.range ((off % 64 + n + 63) / 64)).map (fun i =>
    let lo := if i = 0 then off else (off / 64 + i) * 64
    let hi := min (off + n) ((off / 64 + i + 1) * 64)
    (lo % 2 ^ 64, hi - lo))

/-- What the hub's translation of some regions comes to. -/
inductive HubXlat
  | ok (rs : List Region)
  /-- offered to Post; it waits for REPLAY-ALL -/
  | parked
  /-- unrecoverable, or aborted (15 R328) -/
  | bad
  | forbidden
  deriving DecidableEq, Repr

/-- A region that stops the hub: a bus page that the host refuses is an unrecoverable fault too (16 R340). -/
def Region.stops (y : Region) : Bool :=
  match y.res with
  | .bad _ => true
  | .forbidden => true
  | _ => !y.refused.isEmpty

/-- Translates some runs for the hub; `r` holds what the fault records say beside the page. -/
def State.hubTranslate (s : State) (ctx : Nat) (k : Kind) (runs : List Run) (r : FaultRec) (abort : Bool) :
    HubXlat × State :=
  let x := s.translateAll .hub ctx k runs
  let stops := x.1.filter Region.stops
  match stops with
  | y :: _ => (if y.res = .forbidden then .forbidden else .bad, x.2)
  | [] =>
    match x.1.filter (fun y => y.res == .recoverable) with
    | [] => (.ok x.1, x.2)
    | ys =>
      if abort || !(x.2.ctx ctx).fbEn then (.bad, x.2)
      else
        (.parked, ys.foldl (fun s y => s.post ctx 4 { r with
          kind := 0, acc := k.acc, addr := BitVec.ofNat 64 (y.page * 65536), seg := y.seg }) x.2)

/-- What a read by the hub comes to. -/
inductive HubRead
  | ok (bs : List Byte)
  | parked
  | bad
  | forbidden
  /-- peer sectors have been asked for -/
  | waits
  /-- a poisoned sector -/
  | poisoned
  deriving DecidableEq, Repr

/-- Reads one piece and joins it to what was read. -/
def hubPiece (ctx : Nat) (seg : BitVec 8) (rs : List Region) (purpose : Nat → Purpose) (acc : HubRead × State)
    (x : Nat × Nat) : HubRead × State :=
  let p := placeIn rs seg x.1
  match acc.2.devRead p x.2 with
  | (.bytes bs, s) =>
    (match acc.1 with
      | .ok got => .ok (got ++ bs)
      | r => r, s)
  | (.poisoned, s) => (.poisoned, s)
  | (.need, s) =>
    let s1 := if s.remotes.any (fun e => e.2.purpose == purpose (sectorOf p)) then s
      else s.askSector ctx (sectorOf p) (purpose (sectorOf p))
    (if acc.1 = .poisoned then .poisoned else .waits, s1)

/-- Reads n bytes at .dev. -/
def State.hubRead (s : State) (ctx : Nat) (seg : BitVec 8) (off n : Nat) (r : FaultRec) (abort : Bool)
    (purpose : Nat → Purpose) : HubRead × State :=
  match s.hubTranslate ctx .read [(seg, off, n)] r abort with
  | (.ok rs, s1) => (spans off n).foldl (hubPiece ctx seg rs purpose) (.ok [], s1)
  | (.parked, s1) => (.parked, s1)
  | (.bad, s1) => (.bad, s1)
  | (.forbidden, s1) => (.forbidden, s1)

/-- A .sys release by the hub: written peer and host lines go to their owners (12 R255, R256). The list holds the
requests it waits for. -/
def State.hubRelease (s : State) (ctx : Nat) : State × List Nat :=
  let s1 := (s.wbAllL2 ctx (fun _ => none)).1
  (s1, s1.openWbs)

/-- A fault record of KIND 6 (15 R330): a completion record that is not written. -/
def unwrittenRec (src queue : Nat) (status detail : BitVec 8) (why : Nat) (addr : Word) (seg : BitVec 8) : FaultRec :=
  { FaultRec.blank with
    kind := 6
    acc := if why = 1 then 0 else if why = 4 ∨ why = 5 then 1 else 3
    src := src
    detail := status.toNat
    info := detail.toNat * 256 + why
    addr := addr
    seg := seg
    queue := queue }

end Sys2Proof.Machine
end

