-- ==== Sys2Proof/Machine/Records.lean ====
section
/-! DEFINITION. Launch records, task tables, and where a team fits (07 R176 to R178, 08 R187, 10 R222, 11 R236, 13
R285, 16 R349). -/

namespace Sys2Proof.Machine

/-! ### Launch records (07 R176) -/

/-- Bits lo to lo + n − 1 of word i. -/
def fieldOf (ws : List Word) (i lo n : Nat) : Nat := bits (ws.getD i 0).toNat lo n
def flagOf (ws : List Word) (i b : Nat) : Bool := (ws.getD i 0).getLsbD b

/-- The fields of the 32 words of a launch record. -/
def LaunchRec.ofWords (ws : List Word) : LaunchRec where
  kentry := ws.getD 0 0
  kseg := BitVec.ofNat 8 (fieldOf ws 1 56 8)
  dseg := BitVec.ofNat 8 (fieldOf ws 1 48 8)
  slotv := BitVec.ofNat 16 (fieldOf ws 1 32 16)
  depc := flagOf ws 1 10
  paired := flagOf ws 1 9
  pers := flagOf ws 1 8
  coop := flagOf ws 1 7
  quant := flagOf ws 1 6
  det := flagOf ws 1 5
  data := ws.getD 2 0
  teams := fieldOf ws 3 32 32 + 1
  vx := fieldOf ws 4 32 32 + 1
  vy := fieldOf ws 4 0 32 + 1
  seed := ws.getD 5 0
  nr := fieldOf ws 6 46 9 + 1
  budget := fieldOf ws 6 37 9 + 1
  divdepth := fieldOf ws 6 29 8 + 1
  groups := fieldOf ws 6 24 5 + 1
  width := 8 * 2 ^ fieldOf ws 6 22 2
  clasps := fieldOf ws 6 17 5
  scru := fieldOf ws 6 4 13
  qlen := BitVec.ofNat 32 (fieldOf ws 7 0 32)
  task := ws.getD 8 0
  tseg := BitVec.ofNat 8 (fieldOf ws 9 56 8)
  cpl := ws.getD 10 0
  cseg := BitVec.ofNat 8 (fieldOf ws 11 56 8)
  fmts := (List.range 16).map (fun i => ws.getD (16 + i) 0)

/-- Register segments of a group (08 R187). -/
def LaunchRec.segs (l : LaunchRec) : Nat := (l.budget + 4) * (l.width / 8)

/-- Groups of the launch that fit on a core with so many slots, store entries and segments left. -/
def LaunchRec.fitCount (l : LaunchRec) (slots uni aff segs : Nat) : Nat :=
  min (min slots (uni / l.nr)) (min (aff / l.nr) (segs / l.segs))

/-- Groups that fit on an empty core (00 R1). -/
def LaunchRec.perCore (l : LaunchRec) : Nat := l.fitCount 32 4096 2048 16384

/-- A field breaks the limits of 01 R16, or a segment lies in 0xFC to 0xFF. -/
def LaunchRec.limitsBad (l : LaunchRec) : Bool :=
  (if l.paired then l.groups < 2 else 16 < l.groups) || decide (16 < l.clasps) || decide (4096 < l.scru)
    || decide (l.nr < l.budget) || decide (0xFC ≤ l.kseg.toNat) || decide (0xFC ≤ l.dseg.toNat)
    || decide (0xFC ≤ l.cseg.toNat) || (l.depc && decide (0xFC ≤ l.tseg.toNat))

/-- The reasons that refuse a record, but for 0x06 (07 R178). -/
def launchChecks (ws : List Word) (l : LaunchRec) : List (Bool × BitVec 8) :=
  [(fieldOf ws 1 11 21 != 0 || fieldOf ws 1 0 5 != 0 || fieldOf ws 3 0 32 != 0 || fieldOf ws 6 55 9 != 0
      || fieldOf ws 6 0 4 != 0 || fieldOf ws 7 32 32 != 0 || fieldOf ws 9 0 56 != 0 || fieldOf ws 11 0 56 != 0
      || [12, 13, 14, 15].any (fun i => ws.getD i 0 != 0), 1),
   ((List.range 16).any (fun i => l.slotv.getLsbD i && (Fmt.invalid (l.fmts.getD i 0)).isSome), 2),
   (l.limitsBad, 3),
   ((l.coop && l.quant) || (l.depc && (l.quant || l.coop)) || (l.quant && decide (l.qlen.toNat < 4096)), 4),
   (l.teams % (l.vx * l.vy) != 0, 5),
   (l.depc && decide (2 ^ 24 < l.teams), 6),
   ((if l.paired then 2 else 1) * l.perCore < l.groups, 7),
   (l.kentry.toNat % 16 != 0 || (l.depc && l.task.toNat % 16 != 0) || l.cpl.toNat % 32 != 0, 8)]

/-- The lowest DETAIL that refuses a record. -/
def launchBad (ws : List Word) (l : LaunchRec) : Option (BitVec 8) :=
  ((launchChecks ws l).find? (fun x => x.1)).map Prod.snd

/-! ### Task tables (07 R177) -/

/-- An entry: NPRED, NSUCC, SOFF. -/
structure TaskEntry where
  npred : Nat
  nsucc : Nat
  soff : Nat
  reserved : Bool
  deriving DecidableEq, Repr

def taskEntries (bs : List Byte) : List TaskEntry :=
  (List.range (bs.length / 16)).map (fun t =>
    let v := ofBytes ((bs.drop (16 * t)).take 16)
    { npred := bits v 0 16, nsucc := bits v 16 16, soff := bits v 32 32, reserved := decide (2 ^ 64 ≤ v) })

/-- LL. -/
def listLength (es : List TaskEntry) : Nat :=
  (es.map (fun e => if e.nsucc = 0 then 0 else e.soff + e.nsucc)).foldl max 0

/-- The successors of each team, from the list. -/
def successors (es : List TaskEntry) (bs : List Byte) : List (List Nat) :=
  es.map (fun e => (List.range e.nsucc).map (fun i => ofBytes ((bs.drop (4 * (e.soff + i))).take 4)))

/-- What refuses a table before its list is read. -/
def tableBad (es : List TaskEntry) : Option (BitVec 8) :=
  if es.any (·.reserved) then some 1
  else if es.any (fun e => decide (2 ^ 32 < e.soff + e.nsucc)) then some 6 else none

/-- What refuses the lists: an index of T or more, or a count that does not agree. -/
def listBad (es : List TaskEntry) (succs : List (List Nat)) : Option (BitVec 8) :=
  let all := succs.flatten
  if all.any (fun x => decide (es.length ≤ x)) then some 6
  else if (List.range es.length).any (fun t => (es.map (·.npred)).getD t 0 != all.count t) then some 6 else none

/-! ### Room (08 R187, 10 R222, 11 R236) -/

/-- Groups that hold a slot of a core, with their reservations: store entries and segments. -/
def State.held (s : State) (c : CoreId) : List (Nat × Nat × Nat) :=
  (s.groups.filter (fun e => e.2.core == c && s.holds e.1 e.2)).map (fun e =>
    (e.2.gslot, e.2.nr, (e.2.budget + 4) * (e.2.width / 8)))

/-- The island of a core (16 R349). -/
def islandOf (c : CoreId) : Nat := 2 * c.clus + c.core

/-- The clock of a core runs: its island is ON. An IDLE core keeps its groups, which issue again when it is ON (16 R349;
log entry 63). -/
def State.clockOn (s : State) (c : CoreId) : Bool := (s.island (islandOf c)).cur == 0

/-- Groups of a launch that fit on a core now; a fenced core or one whose island is not ON takes none. -/
def State.room (s : State) (c : CoreId) (l : LaunchRec) : Nat :=
  if (s.core c).fenced || (s.island (islandOf c)).cur != 0 then 0
  else
    let hs := s.held c
    let regs := (hs.map (fun h => h.2.1)).sum
    l.fitCount (32 - hs.length) (4096 - regs) (2048 - regs) (16384 - (hs.map (fun h => h.2.2)).sum)

/-- The list L: logical clusters available to the context, ascending (11 R236, 16 R344). -/
def Context.clusters (c : Context) : List Nat :=
  (List.range 96).filter (fun k => if k < 64 then c.clmask0.getLsbD k else c.clmask1.getLsbD (k - 64))

/-- Draw (11 R236). -/
def draw (seed : Word) (t : Nat) : BitVec 32 :=
  let x0 : BitVec 32 := BitVec.ofNat 32 t + (seed.extractLsb' 32 32 ^^^ seed.extractLsb' 0 32)
  let x1 := (x0 ^^^ (x0 >>> 16)) * 0x2C1B#32
  x1 ^^^ (x1 >>> 13)

/-- Where a team is placed: its cluster, the core of each of its groups, and its scratch units. -/
structure Spot where
  clus : Nat
  cores : List Nat
  units : List (Nat × Nat × Nat)
  deriving DecidableEq, Repr

/-- How many groups of a paired team take core 0: half of them, the odd one on the core with more room, and more or
fewer where the room of one core does not allow it (log entry 33). -/
def pairedShare (groups n0 n1 : Nat) : Nat :=
  min n0 (max (if n1 ≤ n0 then (groups + 1) / 2 else groups / 2) (groups - n1))

/-- The cores of the groups of a paired team. -/
def pairedCores (groups n0 n1 : Nat) : List Nat :=
  let k := pairedShare groups n0 n1
  List.replicate k 0 ++ List.replicate (groups - k) 1

/-- Paired teams that can be placed one after another with that much room on the two cores. -/
def pairedTeams (groups : Nat) : Nat → Nat → Nat → Nat
  | 0, _, _ => 0
  | k + 1, n0, n1 =>
    if n0 = 0 ∨ n1 = 0 ∨ n0 + n1 < groups then 0
    else
      let x := pairedShare groups n0 n1
      1 + pairedTeams groups k (n0 - x) (n1 - (groups - x))

/-- Where a team fits in a cluster, the drawn core first, with a run of `needs` scratch units. -/
def State.fitIn (s : State) (ctx : Nat) (l : LaunchRec) (k clus needs : Nat) : Option Spot :=
  match s.freeRun clus ctx needs with
  | none => none
  | some us =>
    let room (i : Nat) : Nat := s.room { clus := clus, core := i } l
    let spot (cores : List Nat) : Option Spot := some { clus := clus, cores := cores, units := us }
    if l.paired then
      if l.groups ≤ room 0 + room 1 ∧ room 0 ≠ 0 ∧ room 1 ≠ 0 then spot (pairedCores l.groups (room 0) (room 1)) else none
    else if l.groups ≤ room k then spot (List.replicate l.groups k)
    else if l.groups ≤ room (1 - k) then spot (List.replicate l.groups (1 - k))
    else none

/-- The list from position i on, around. -/
def rotated (xs : List Nat) (i : Nat) : List Nat := xs.drop i ++ xs.take i

/-- Place (11 R236) over the clusters of `cs`, but for those of `blocked`. -/
def State.placeIn (s : State) (ctx : Nat) (l : LaunchRec) (t : Nat) (cs blocked : List Nat) (needs : Nat) : Option Spot :=
  let x := draw l.seed t
  let order := rotated cs (if cs.length = 0 then 0 else x.toNat % cs.length)
  (order.filter (fun c => !blocked.contains c)).findSome? (fun c => s.fitIn ctx l (x.toNat % 2) c needs)

/-- Lengths of the runs of consecutive SCRATCH banks of a context that take partitions (10 R222, R223). -/
def State.openRuns (s : State) (clus ctx : Nat) : List Nat :=
  (s.scratchBanks clus ctx).foldl (fun acc b =>
    if (s.bank clus b).target.isSome then 0 :: acc
    else match acc with
      | n :: ns => (n + 1) :: ns
      | [] => [1]) []

/-- How many partitions of n units a run of `len` units takes from unit a on, each over at most 16 banks (10 R222). -/
def packRun (n len : Nat) : Nat → Nat → Nat
  | 0, _ => 0
  | k + 1, a =>
    let b := if spanOk a n then a else (a / 256 + 1) * 256
    if b + n ≤ len then packRun n len k (b + n) + 1 else 0

/-- Teams of a launch that would fit at once if the clusters of its list were empty (13 R285). -/
def State.coopRoom (s : State) (ctx : Nat) (l : LaunchRec) : Nat :=
  (((s.ctx ctx).clusters).map (fun c =>
    let n (i : Nat) : Nat :=
      if (s.core { clus := c, core := i }).fenced || (s.island (islandOf { clus := c, core := i })).cur != 0 then 0
      else l.perCore
    let byCore := if l.paired then pairedTeams l.groups 32 (n 0) (n 1) else n 0 / l.groups + n 1 / l.groups
    if l.scru = 0 then byCore
    else min byCore ((s.openRuns c ctx).map (fun k => packRun l.scru (256 * k) (256 * k) 0)).sum)).sum

end Sys2Proof.Machine
end

