-- ==== Sys2Proof/Machine/FrontEnd.lean ====
section
/-! DEFINITION. The command front end: commands, acceptance, the end of a launch, its completion record, and the queue
watchdog (07 R176 to R178, 13 R277 to R282, R290 to R292, 15 R328, R330). -/

namespace Sys2Proof.Machine

/-! ### Queues -/

def State.setActive (s : State) (q id : Nat) (c : ActiveCmd) : State :=
  s.modQueue q (fun x => { x with active := Tab.put x.active id c })

/-- A command completes. -/
def State.completeCmd (s : State) (q id : Nat) : State :=
  s.modQueue q (fun x => { x with active := Tab.erase x.active id })

/-- HALT, and the host is notified (13 R281, 16 R343). -/
def State.haltQueue (s : State) (q : Nat) : State :=
  (s.modQueue q (fun x => { x with halt := true })).interrupt s.qhv.toNat

/-- Entries of the ring (13 R279). -/
def Queue.entries (x : Queue) : Nat := 2 ^ (min x.log2n.toNat 12 + 4)

/-- Bus address of the pointer block. -/
def Queue.block (x : Queue) : Nat := x.ptrs.toNat * 64

/-- The record of a front-end fault. -/
def frontRec (q : Nat) : FaultRec := { FaultRec.blank with kind := 0, src := 3, queue := q }

/-! ### Writes of the front end (07 R178, 13 R281) -/

/-- A write that is not performed: a completion record is reported as KIND 6; a SIGNAL halts its queue and may be tried
again (log entry 31). -/
def State.writeFails (s : State) (q id : Nat) (w : FrontWrite) (why : Nat) : State :=
  match w.record with
  | some (st, d) => (s.post w.ctx 4 (unwrittenRec 3 q st d why w.addr w.seg)).completeCmd q id
  | none => (s.setActive q id (.write w .stopped)).haltQueue q

/-- Performs the write once its release is done. -/
def State.performWrite (s : State) (q id : Nat) (w : FrontWrite) (abort : Bool) : State :=
  match s.hubTranslate w.ctx .write [(w.seg, w.addr.toNat, w.data.length)] (frontRec q) abort with
  | (.ok rs, s1) =>
    let r := s1.sysWrite w.ctx (Machine.placeIn rs w.seg w.addr.toNat) w.data (.store q)
    if r.2.isEmpty then r.1.completeCmd q id else r.1.setActive q id (.write w (.sent r.2))
  | (.parked, s1) => s1.setActive q id (.write w .parked)
  | (.bad, s1) => s1.writeFails q id w 4
  | (.forbidden, s1) => s1.writeFails q id w 5

/-- Starts a write: its address, then its release. -/
def State.startWrite (s : State) (q id : Nat) (w : FrontWrite) : State :=
  if w.addr.toNat % (if w.record.isSome then 32 else 8) ≠ 0 then s.writeFails q id w 2
  else if 0xFC ≤ w.seg.toNat then s.writeFails q id w 3
  else
    let r := s.hubRelease w.ctx
    if r.2.isEmpty && !r.1.l2Unsent then r.1.performWrite q id w false
    else r.1.setActive q id (.write w (.releasing r.2))

/-- Goes on where the requests a write waited for have ended. -/
def State.resumeWrite (s : State) (q id : Nat) (w : FrontWrite) : FrontStage → State
  | .releasing ws =>
    if ws.any s.isOpen then s
    else if s.l2Unsent then
      let r := s.hubRelease w.ctx
      if r.2.isEmpty && !r.1.l2Unsent then r.1.performWrite q id w false
      else r.1.setActive q id (.write w (.releasing r.2))
    else s.performWrite q id w false
  | .stopped => s
  | .parked => s
  | .sent ws => if ws.any s.isOpen then s else s.completeCmd q id

/-- The completion record of a launch (07 R178). -/
def completionWrite (ctx : Nat) (l : LaunchRec) (status detail : BitVec 8) (retired : Nat) : FrontWrite where
  ctx := ctx
  addr := l.cpl
  seg := l.cseg
  data := toBytes 32 (status.toNat + detail.toNat * 256 + retired % 2 ^ 32 * 2 ^ 32)
  record := some (status, detail)

/-! ### The end of a launch -/

/-- The launches and teams of a launch stop: groups still running stop where they stand, copies not ended and
contributions not drained are discarded (11 R242, 13 R292). -/
def stopGroup (n : Nat) (e : GroupId × Group) : GroupId × Group :=
  if e.1.launch = n then
    match e.2.phase with
    | .running => (e.1, { e.2 with phase := .halted, trap := none, imprecise := [], laterTraps := [] })
    | .saved _ => (e.1, e.2.released)
    | _ => e
  else e

/-- Serial numbers of the copies of a launch. -/
def State.copySerials (s : State) (n : Nat) : List Nat :=
  (s.teams.filter (fun e => e.1.launch == n)).flatMap (fun e =>
    e.2.queues.flatMap (fun q => q.2.pending.map (fun c => c.serial + 1)))

/-- Entries that discarded copies had reserved leave their strands. -/
def freeReserved (owners : List Nat) (c : Cluster) : Cluster :=
  { c with banks := c.banks.map (fun b => (b.1, { b.2 with
      strand := b.2.strand.filter (fun e => !(e.data.isNone && owners.contains e.owner)) })) }

def stopTeam (n : Nat) (e : TeamId × Team) : TeamId × Team :=
  if e.1.launch = n then
    (e.1, { e.2 with
      phase := if e.2.phase = .retired then .retired else .halted
      part := false
      units := []
      queues := []
      contrib := [] })
  else e

/-- A launch ends: its completion record is written (07 R178). -/
def State.endLaunch (s : State) (n : Nat) (status : BitVec 8) : State :=
  match s.launch? n with
  | none => s
  | some l =>
    let owners := s.copySerials n
    let s1 := (s.setLaunch n { l with status := some status })
    let s2 := { s1 with
      groups := s1.groups.map (stopGroup n)
      teams := s1.teams.map (stopTeam n)
      clusters := s1.clusters.map (fun (c : Nat × Cluster) => (c.1, freeReserved owners c.2)) }
    match (s2.queue l.queue).active.find? (fun (e : Nat × ActiveCmd) => e.2 == ActiveCmd.launch n) with
    | some e => s2.startWrite l.queue e.1 (completionWrite l.ctx l.lrec status 0 l.retiredCount)
    | none => s2

/-- A group of the team has halted: the team never retires (07 R184). -/
def State.teamHalted (s : State) (tid : TeamId) : Bool := (s.teamGroups tid).any (fun g => g.2.phase == .halted)

/-- Every group of the team waits for a bead that the team does not hold, resident or saved (11 R242). -/
def State.teamOnBead (s : State) (l : Launch) (tid : TeamId) : Bool :=
  l.lrec.det && tid.team != l.bead && (s.teamGroups tid).all (fun g => g.2.stopped)
    && (s.teamGroups tid).any (fun g => g.2.wantsBead)
    && !(s.team? tid).any (fun t => t.queues.any (fun q => !q.2.pending.isEmpty))
    && !s.remotes.any (fun e => match e.2.purpose with
      | .fill gid _ _ => tidOf gid == tid
      | _ => false) && !s.openOfTeam tid

/-- A team that may still run: not retired, without a halted group, and not waiting for the bead (07 R184, 11 R242). -/
def State.teamRuns (s : State) (l : Launch) (e : TeamId × Team) : Bool :=
  match e.2.phase with
  | .waiting => false
  | .resident => !s.teamHalted e.1 && !s.teamOnBead l e.1
  | .saved => !s.teamHalted e.1 && !s.teamOnBead l e.1
  | .evicted => !s.teamHalted e.1 && !s.teamOnBead l e.1
  | .exited => l.lrec.det && e.1.team == l.bead
  | .retired => false
  | .halted => false

/-- A team that the dependence stall counts as resident: a saved one too (07 R177, 13 R278). -/
def Team.isResident (t : Team) : Bool := t.phase == .resident || t.phase == .saved || t.phase == .evicted

/-- Teams of a launch that have been placed. -/
def State.placed (s : State) (n : Nat) : List (TeamId × Team) :=
  s.teams.filter (fun e => e.1.launch == n && e.2.phase != .waiting)

def State.isPlaced (s : State) (n t : Nat) : Bool := (s.placed n).any (fun e => e.1.team == t)

/-- A team of the launch that has not been placed may be: any one, or with DEPC one whose count is zero. -/
def State.moreTeams (s : State) (n : Nat) (l : Launch) : Bool :=
  if l.lrec.depc then (List.range l.lrec.teams).any (fun t => l.npred.getD t 0 == 0 && !s.isPlaced n t)
  else decide ((s.placed n).length < l.lrec.teams)

/-- Ends a launch whose teams have all retired, or none of whose teams can run any more (07 R177, R178, R184). -/
def State.endCheck (s : State) (n : Nat) : State :=
  match s.launch? n with
  | none => s
  | some l =>
    if l.status.isSome then s
    else if l.retiredCount = l.lrec.teams then s.endLaunch n 1
    else if s.moreTeams n l || (s.placed n).any (s.teamRuns l) then s
    else if (s.placed n).any (fun e => s.teamHalted e.1) then s.endLaunch n 6
    else if (s.placed n).any (fun e => e.2.isResident) then s
    else s.endLaunch n 5

/-! ### Acceptance (07 R177, R178, 13 R285) -/

/-- A record that is refused, or whose teams cannot be co-resident: no team runs. -/
def State.refuseLaunch (s : State) (q id ctx : Nat) (l : LaunchRec) (status detail : BitVec 8) : State :=
  s.startWrite q id (completionWrite ctx l status detail 0)

/-- The launch as accepted. -/
def State.newLaunch (s : State) (q id ctx : Nat) (l : LaunchRec) (npred : List Nat) (succs : List (List Nat)) : State :=
  if l.coop = true ∧ s.coopRoom ctx l < l.teams then s.refuseLaunch q id ctx l 2 0
  else
    let (n, s1) := s.take
    ((s1.setLaunch n {
      ctx := ctx
      queue := q
      lrec := l
      npred := npred
      succs := succs
      retiredCount := 0
      bead := 0
      runq := if l.quant then List.range l.teams else []
      status := none
      killed := false }).setActive q id (.launch n)).endCheck n

/-- What stops a read at acceptance: it parks, waits for peer sectors, or has failed. -/
def State.readStops (s : State) (q id ctx : Nat) (src : RecordSource) (lost : Bool) (r : HubRead)
    (fail : State → State) : State :=
  match r with
  | .parked => s.setActive q id (.accepting ctx src true)
  | .waits => if lost then fail s else s.setActive q id (.accepting ctx src false)
  | _ => fail s

/-- Reads and checks the task table. -/
def State.acceptTable (s : State) (q id ctx : Nat) (src : RecordSource) (l : LaunchRec) (other : Option (BitVec 8))
    (abort lost : Bool) : State :=
  let fail (s : State) : State := s.refuseLaunch q id ctx l 7 0
  let refuse (s : State) (d : BitVec 8) : State := s.refuseLaunch q id ctx l 3 d
  match s.hubRead ctx l.tseg l.task.toNat (16 * l.teams) (frontRec q) abort (.frontRead q) with
  | (.ok bs, s1) =>
    let es := taskEntries bs
    match tableBad es with
    | some d => refuse s1 d
    | none =>
      let n := 4 * listLength es
      match (if n = 0 then (.ok [], s1) else
          s1.hubRead ctx l.tseg ((l.task.toNat + 16 * l.teams) % 2 ^ 64) n (frontRec q) abort (.frontRead q)) with
      | (.ok xs, s2) =>
        match (listBad es (successors es xs)).or other with
        | some d => refuse s2 d
        | none => s2.newLaunch q id ctx l (es.map (·.npred)) (successors es xs)
      | (r, s2) => s2.readStops q id ctx src lost r fail
  | (r, s1) => s1.readStops q id ctx src lost r fail

/-- Checks a record that has been read. Its table is read unless a lower DETAIL, or a misaligned TASK, refuses it. -/
def State.acceptRecord (s : State) (q id ctx : Nat) (src : RecordSource) (bs : List Byte) (abort lost : Bool) : State :=
  let ws := recordWords bs
  let l := LaunchRec.ofWords ws
  let bad := launchBad ws l
  let early := match bad with
    | some d => decide (d.toNat ≤ 6) || l.task.toNat % 16 != 0
    | none => false
  if l.depc && !early then s.acceptTable q id ctx src l bad abort lost
  else
    match bad with
    | some d => s.refuseLaunch q id ctx l 3 d
    | none => s.newLaunch q id ctx l [] []

/-- Accepts the launch of a command, or parks or waits on its reads. -/
def State.tryAccept (s : State) (q id : Nat) (abort lost : Bool) : State :=
  match Tab.get? (s.queue q).active id with
  | some (.accepting ctx src _) =>
    match src with
    | .copied bs => s.acceptRecord q id ctx src bs abort lost
    | .at_ addr seg =>
      match s.hubRead ctx seg addr.toNat 256 (frontRec q) abort (.frontRead q) with
      | (.ok bs, s1) => s1.acceptRecord q id ctx src bs abort lost
      | (r, s1) => s1.readStops q id ctx src lost r (fun s =>
          (s.post ctx 4 (unwrittenRec 3 q 7 0 1 0 0)).completeCmd q id)
  | _ => s

/-! ### Waits (13 R281) -/

/-- A .sys acquire of the front end: what it reads next of host and peer lines is no older (12 R255, 13 R280, R281). -/
def State.hubAcquire (s : State) (ctx : Nat) : State := ((s.wbAllL2 ctx (fun _ => none)).1).dropL2

/-- The value a WAIT read. -/
def State.waitValue (s : State) (q id ctx : Nat) (value : Word) (bs : List Byte) : State :=
  let s1 := s.hubAcquire ctx
  if value.toNat ≤ ofBytes bs then s1.completeCmd q id else s1

/-- A read of a WAIT cannot be made: the queue halts, and the host is told once (log entry 31). -/
def State.waitFails (s : State) (q : Nat) : State := if (s.queue q).halt then s else s.haltQueue q

/-- Reads the word of a WAIT at its owner. A read that cannot be made halts the queue; the WAIT stays (log entry 31). -/
def State.pollWait (s : State) (q id : Nat) (abort : Bool) : State :=
  match Tab.get? (s.queue q).active id with
  | some (.wait ctx addr seg value _) =>
    if addr.toNat % 8 ≠ 0 then s.waitFails q
    else
      match s.hubTranslate ctx .read [(seg, addr.toNat, 8)] (frontRec q) abort with
      | (.ok rs, s1) =>
        let p := Machine.placeIn rs seg addr.toNat
        let s2 := s1.setActive q id (.wait ctx addr seg value false)
        if isPeer p then
          if s2.remotes.any (fun e => e.2.purpose == .waitRead q id) then s2
          else s2.askSector ctx (sectorOf p) (.waitRead q id)
        else if isHost p then s2.waitValue q id ctx value (s2.hostRead (placeAddr p) 8)
        else if s2.isPoisoned (sectorOf p) then s2.waitFails q
        else s2.waitValue q id ctx value (s2.homeRead p 8)
      | (.parked, s1) => s1.setActive q id (.wait ctx addr seg value true)
      | (_, s1) => s1.waitFails q
  | _ => s

/-! ### Commands (13 R280 to R282) -/

/-- A command of the ring. -/
structure RingCmd where
  opc : Nat
  ovl : Bool
  addr : Word
  seg : BitVec 8
  value : Word
  deriving DecidableEq, Repr

/-- The 64 bytes of a command; none where it is malformed. OVL outside LAUNCH and VALUE in LAUNCH count as reserved
bits (log entry 34). -/
def parseCmd (bs : List Byte) : Option RingCmd :=
  let ws := recordWords bs
  let opc := fieldOf ws 0 0 8
  let ovl := flagOf ws 0 8
  let seg := fieldOf ws 2 0 8
  if (opc = 1 ∨ opc = 2 ∨ opc = 3) ∧ fieldOf ws 0 9 55 = 0 ∧ fieldOf ws 2 8 56 = 0 ∧ seg < 0xFC
      ∧ [4, 5, 6, 7].all (fun i => ws.getD i 0 == 0) = true ∧ (ovl = true → opc = 1) ∧ (opc = 1 → ws.getD 3 0 = 0) then
    some { opc := opc, ovl := ovl, addr := ws.getD 1 0, seg := BitVec.ofNat 8 seg, value := ws.getD 3 0 }
  else none

/-- A queue's next command, if it may start now. -/
inductive NextCmd
  | nothing
  | refused
  | device (ctx : Nat) (bytes : List Byte)
  | ring (c : RingCmd)
  deriving DecidableEq, Repr

/-- The command before the next one has completed (13 R282). -/
def Queue.lastDone (x : Queue) : Bool := !x.last.any (fun id => x.active.any (fun e => e.1 == id))

def State.nextCmd (s : State) (q : Nat) : NextCmd :=
  let x := s.queue q
  if x.en = false ∨ x.halt = true then .nothing
  else
    match x.visible with
    | [] => .nothing
    | .device ctx bs :: _ => if x.lastDone then .device ctx bs else .nothing
    | .ring i :: _ =>
      let a := x.ring.toNat * 4096 + 64 * (i.toNat % x.entries)
      if s.busRefused a then .refused
      else
        match parseCmd (s.hostRead a 64) with
        | none => if x.lastDone then .refused else .nothing
        | some c => if x.lastDone || (c.opc == 1 && c.ovl) then .ring c else .nothing

/-- Takes the next command; for one of the ring HEAD advances and is written (13 R280). -/
def State.takeCmd (s : State) (q : Nat) (ofRing : Bool) : State :=
  let s1 := s.modQueue q (fun x => { x with
    visible := x.visible.drop 1
    head := if ofRing then x.head + 1 else x.head })
  if ofRing then
    let x := s1.queue q
    if s1.busRefused x.block then s1.haltQueue q else s1.hostWriteN (x.block + 8) (toBytes 4 x.head.toNat)
  else s1

/-- Takes a command of the ring with the .sys release that the write of HEAD is: while write-backs are on their way, it
waits, and no command is taken (13 R280). -/
def State.takeRing (s : State) (q : Nat) (f : State → State) : State :=
  let r := s.hubRelease (s.queue q).ctx.toNat
  if r.2.isEmpty && !r.1.l2Unsent then f (r.1.takeCmd q true) else r.1

/-- A command starts: its entry among the active ones. -/
def State.startCmd (s : State) (q : Nat) (c : ActiveCmd) : Nat × State :=
  let (id, s1) := s.take
  (id, (s1.setActive q id c).modQueue q (fun x => { x with last := some id }))

def State.startAccept (s : State) (q ctx : Nat) (src : RecordSource) : State :=
  let (id, s1) := s.startCmd q (.accepting ctx src false)
  s1.tryAccept q id false false

/-- The front end takes a LAUNCH, or refuses a malformed command. -/
def execLaunchCommand (q : Nat) (s : State) : Host.Outcome State Fault Refusal :=
  match s.nextCmd q with
  | .refused => .next (s.haltQueue q)
  | .device ctx bs => .next ((s.takeCmd q false).startAccept q ctx (.copied bs))
  | .ring c =>
    if c.opc = 1 then
      .next (s.takeRing q (fun s1 => s1.startAccept q (s.queue q).ctx.toNat (.at_ c.addr c.seg)))
    else .next s
  | .nothing => .next s

/-- The front end takes a WAIT, which reads its word for the first time. -/
def execWait (q : Nat) (s : State) : Host.Outcome State Fault Refusal :=
  match s.nextCmd q with
  | .refused => .next (s.haltQueue q)
  | .ring c =>
    if c.opc = 2 then
      .next (s.takeRing q (fun s1 =>
        let r := s1.startCmd q (.wait (s.queue q).ctx.toNat c.addr c.seg c.value false)
        r.2.pollWait q r.1 false))
    else .next s
  | _ => .next s

/-- A WAIT that is not parked on a fault. -/
def ActiveCmd.polls : ActiveCmd → Bool
  | .wait _ _ _ _ false => true
  | _ => false

/-- A WAIT reads again; HALT stops only the taking of commands (13 R279). -/
def execWaitPoll (q : Nat) (s : State) : Host.Outcome State Fault Refusal :=
  .next ((((s.queue q).active.filter (fun e => e.2.polls)).map Prod.fst).foldl (fun s id => s.pollWait q id false) s)

/-- The write of a SIGNAL. -/
def signalWrite (ctx : Nat) (c : RingCmd) : FrontWrite where
  ctx := ctx
  addr := c.addr
  seg := c.seg
  data := toBytes 8 c.value.toNat
  record := none

/-- The front end takes a SIGNAL, or tries again the one that halted the queue. -/
def execSignal (q : Nat) (s : State) : Host.Outcome State Fault Refusal :=
  match s.nextCmd q with
  | .refused => .next (s.haltQueue q)
  | .ring c =>
    if c.opc = 3 then
      let w := signalWrite (s.queue q).ctx.toNat c
      .next (s.takeRing q (fun s1 =>
        let r := s1.startCmd q (.write w .stopped)
        r.2.startWrite q r.1 w))
    else .next s
  | _ => .next (if (s.queue q).halt then s else
      (s.queue q).active.foldl (fun s e => match e.2 with
        | .write w .stopped => s.startWrite q e.1 w
        | _ => s) s)

/-- Ring commands that a TAIL covers, in order: those already visible stay where they are. -/
def coveredCmds (x : Queue) (tail : BitVec 32) : List PendingCmd :=
  let kept := x.visible.filter (fun c => match c with
    | .ring i => decide ((i - x.head).toNat < (tail - x.head).toNat)
    | .device _ _ => true)
  kept ++ (((List.range (tail - x.head).toNat).map (fun i => PendingCmd.ring (x.head + BitVec.ofNat 32 i))).filter
    (fun c => !kept.contains c))

/-- The front end reads TAIL with a .sys acquire (13 R280). -/
def State.readTail (s : State) (q : Nat) : State :=
  let x := s.queue q
  if x.en = false ∨ x.halt = true then s
  else if s.busRefused x.block then s.haltQueue q
  else
    let tail : BitVec 32 := BitVec.ofNat 32 (ofBytes (s.hostRead x.block 4))
    let s1 := s.hubAcquire x.ctx.toNat
    if x.entries < (tail - x.head).toNat then s1.haltQueue q
    else s1.modQueue q (fun y => { y with tail := tail, visible := coveredCmds y tail })

def execQueueNotify (q : Nat) (s : State) : Host.Outcome State Fault Refusal := .next (s.readTail q)

def execTailPoll (q : Nat) (s : State) : Host.Outcome State Fault Refusal := .next (s.readTail q)

/-! ### What wakes the front end -/

/-- Goes on with a command whose requests may have ended. -/
def State.resumeCmd (s : State) (q : Nat) (e : Nat × ActiveCmd) : State :=
  match e.2 with
  | .write w st => s.resumeWrite q e.1 w st
  | .accepting _ _ false =>
    if s.remotes.any (fun r => match r.2.purpose with
        | .frontRead k _ => k == q
        | _ => false) then s
    else s.tryAccept q e.1 false false
  | _ => s

/-- After outcomes of remote requests: every command goes on that can. -/
def State.wakeFront (s : State) : State :=
  s.queues.foldl (fun s x => x.2.active.foldl (fun s e => s.resumeCmd x.1 e) s) s

/-- REPLAY-ALL and FAULT-ABORT release the commands of a context that are parked on a fault (15 R335). -/
def State.replayCmd (s : State) (ctx q : Nat) (abort : Bool) (e : Nat × ActiveCmd) : State :=
  match e.2 with
  | .accepting c _ true => if c = ctx then s.tryAccept q e.1 abort false else s
  | .wait c _ _ _ true => if c = ctx then s.pollWait q e.1 abort else s
  | .write w .parked => if w.ctx = ctx then s.performWrite q e.1 w abort else s
  | _ => s

def State.replayFront (s : State) (ctx : Nat) (abort : Bool) : State :=
  s.queues.foldl (fun s x => x.2.active.foldl (fun s e => s.replayCmd ctx x.1 abort e) s) s

/-- The answer to the read of a WAIT in a peer page. -/
def State.waitAnswer (s : State) (q id : Nat) (bs : List Byte) : State :=
  match Tab.get? (s.queue q).active id with
  | some (.wait ctx addr _ value _) => s.waitValue q id ctx value ((bs.drop (addr.toNat % 64)).take 8)
  | _ => s

/-- A read of a peer sector for an acceptance got no answer or met poison. -/
def State.frontLost (s : State) (q : Nat) : State :=
  (s.queue q).active.foldl (fun s e =>
    match e.2 with
    | .accepting _ _ false => s.tryAccept q e.1 false true
    | _ => s) s

/-! ### The watchdog and kills (13 R291, R292) -/

/-- Launches of a queue with a placed, unretired team. -/
def State.busyLaunches (s : State) (q : Nat) : List Nat :=
  (s.launches.filter (fun e => e.2.queue == q && e.2.status.isNone && (s.placed e.1).any (fun t =>
    t.2.phase != .retired))).map Prod.fst

/-- Makes a pre-emption request (08 R203). -/
def State.requestPreempt (s : State) (ctx : Nat) : State :=
  if s.preempting ctx = true ∨ s.anyResident ctx = false then s else s.modCtx ctx (fun c => { c with preq := true })

/-- The run queue of a launch of a context whose quantum request the launch `n` has caused: the teams of `n` that run
now go to its tail in index order; another QUANTUM launch restores its saved teams before new ones (13 R286). -/
def State.rotated (s : State) (ctx n : Nat) (e : Nat × Launch) : Nat × Launch :=
  if e.2.ctx = ctx ∧ e.2.lrec.quant = true then
    let back (t : Nat) : Bool := if e.1 = n then
        (s.placed n).any (fun x => x.1.team == t && x.2.phase == .resident)
      else !s.isPlaced e.1 t
    let away := e.2.runq.filter back
    (e.1, { e.2 with runq := e.2.runq.filter (fun t => !back t) ++ (if e.1 = n then sortNats away else away) })
  else e

/-- The request of an expired quantum of launch n. -/
def State.quantumPreempt (s : State) (ctx n : Nat) : State :=
  if s.preempting ctx = true ∨ s.anyResident ctx = false then s
  else { s.requestPreempt ctx with launches := s.launches.map (s.rotated ctx n) }

/-- Collectives of a launch that have not contributed yet are discarded. -/
def State.dropColls (s : State) (n : Nat) : State :=
  { s with colls := s.colls.filter (fun e => !(e.2.gid.launch == n && (e.2.phase == .posted || e.2.phase == .reading))) }

/-- Kills a launch: STATUS 0x04, and a record of KIND 3. -/
def State.killLaunch (s : State) (n : Nat) : State :=
  match s.launch? n with
  | none => s
  | some l =>
    (((s.setLaunch n { l with killed := true }).endLaunch n 4).dropColls n).post l.ctx 4
      { FaultRec.blank with kind := 3, code := 0x10, info := 2, queue := l.queue }

/-- Stage 2: every launch of the queue with a placed, unretired team is killed. Stage 3 counts from the first kill that
still waits for group slots. -/
def State.killQueue (s : State) (q : Nat) : State :=
  let late := (s.queue q).stage = 2 ∧ s.lateCores q ≠ []
  (s.busyLaunches q).foldl (fun s n => s.killLaunch n) (s.modQueue q (fun x => { x with
    stage := 2, killedAt := if late then x.killedAt else x.w }))

/-- The host writes KILL. -/
def execKill (q : Nat) (s : State) : Host.Outcome State Fault Refusal := s.hostStep (s.killQueue q)

/-- W counts: a launch of the queue has work, and the host does not hold its context (13 R291). -/
def State.counts (s : State) (q : Nat) : Bool :=
  s.launches.any (fun e => (s.busyLaunches q).contains e.1 && !(s.ctx e.2.ctx).held)

/-- The watchdog counts a unit; at a limit its stage comes first (13 R291, R292). -/
def State.watchdogUnit (s : State) (q : Nat) : State :=
  let x := s.queue q
  let limit := match x.stage with
    | 0 => if x.t1 = 0 then 2 ^ 32 else x.t1.toNat
    | 1 => if x.t2 = 0 then 2 ^ 32 else x.t1.toNat + x.t2.toNat
    | 2 => if x.t3 = 0 then 2 ^ 32 else x.killedAt.toNat + x.t3.toNat
    | _ => 2 ^ 32
  let runs := s.counts q || (x.stage == 2 && !(s.lateCores q).isEmpty)
  if runs = true ∧ x.w.toNat + 1 < min limit (2 ^ 32) then s.modQueue q (fun x => { x with w := x.w + 1 }) else s

def execWatchdogStage1 (q : Nat) (s : State) : Host.Outcome State Fault Refusal :=
  let x := s.queue q
  if x.t1 = 0 ∨ x.stage ≠ 0 ∨ s.counts q = false then .next s
  else .next ((s.modQueue q (fun x => { x with w := x.t1, stage := 1 })).requestPreempt x.ctx.toNat)

def execWatchdogStage2 (q : Nat) (s : State) : Host.Outcome State Fault Refusal :=
  let x := s.queue q
  if x.t1 = 0 ∨ x.t2 = 0 ∨ x.stage ≠ 1 ∨ s.counts q = false then .next s
  else .next ((s.modQueue q (fun x => { x with w := x.t1 + x.t2 })).killQueue q)

/-- What a fenced core still held is lost. -/
def cutGroup (c : CoreId) (e : GroupId × Group) : GroupId × Group :=
  if e.2.core = c then (e.1, { e.2 with flight := [], preTrap := [] }) else e

/-- Fences a core: it is reported, and every group it holds is halted. -/
def State.fence (s : State) (q : Nat) (c : CoreId) : State :=
  let live := (s.groups.filter (fun e => e.2.core == c && e.2.phase == .running)).map Prod.fst
  let s1 := live.foldl (fun s gid => s.haltGroup gid 0x10 3 0 0) s
  let s2 := { s1 with groups := s1.groups.map (cutGroup c) }
  let s3 := s2.modCore c (fun x => { x with fenced := true, resv := [], mwait := [] })
  s3.post (s.queue q).ctx.toNat (dieOf c.clus) { FaultRec.blank with
    kind := 4, code := 0x10, detail := c.core, info := 3, clus := c.clus, queue := q }

def execWatchdogStage3 (q : Nat) (s : State) : Host.Outcome State Fault Refusal :=
  let x := s.queue q
  if x.t3 = 0 ∨ x.stage ≠ 2 then .next s
  else
    match s.lateCores q with
    | [] => .next s
    | cs => .next ((cs.foldl (fun s c => s.fence q c) s).modQueue q (fun x => { x with
        w := x.killedAt + x.t3, stage := 3 }))

end Sys2Proof.Machine
end

