-- ==== Sys2Proof/Machine/Teams.lean ====
section
/-! DEFINITION. Teams: placement, restoring, eviction, completion, retirement and the bead (07 R177, 08 R187, R207 to
R209, 11 R236 to R242, 13 R277, R278, R283 to R286). -/

namespace Sys2Proof.Machine

/-! ### Completion and retirement (11 R239, 13 R277) -/

/-- Every group of a resident team has retired. -/
def State.hasExited (s : State) (tid : TeamId) : Bool :=
  match s.team? tid with
  | some t => t.phase == .resident && !(s.teamGroups tid).isEmpty
      && (s.teamGroups tid).all (fun e => e.2.phase == .retired)
  | none => false

/-- The working counts after a team has completed (07 R177). -/
def countDown (succs : List Nat) (counts : List Nat) : List Nat :=
  succs.foldl (fun c t => c.set t (c.getD t 0 - 1)) counts

/-- A team completes once its .dev release is done: its successors count down, its storage and partition are released
(11 R239, 12 R256, 13 R277). -/
def State.completeTeam (s : State) (tid : TeamId) : State :=
  match s.team? tid, s.launch? tid.launch with
  | some t, some l =>
    let r := s.teamRelease tid t.clus
    if r.1 then
      let s1 := r.2.setTeam tid { t with phase := .exited, part := false, units := [], completed := true }
      let s2 := s1.setLaunch tid.launch { l with
        npred := countDown (l.succs.getD tid.team []) l.npred
        runq := l.runq.filter (fun x => x != tid.team) }
      if l.lrec.pers then s2 else s2.progress l.queue
    else r.2
  | _, _ => s

/-- A team retires; under DET it passes the bead (11 R239). -/
def State.retireTeam (s : State) (tid : TeamId) : State :=
  (s.modTeam tid (fun t => { t with phase := .retired })).modLaunch tid.launch (fun l => { l with
    retiredCount := l.retiredCount + 1, bead := if l.lrec.det then l.bead + 1 else l.bead })

/-- Retires an exited team if it may: under DET once it holds the bead and its buffer is drained. -/
def State.tryRetire (s : State) (tid : TeamId) : State :=
  match s.team? tid, s.launch? tid.launch with
  | some t, some l =>
    if t.phase ≠ .exited then s
    else if l.lrec.det then
      if s.holdsBead tid then
        let r := s.drainBuffer tid
        if r.1 then r.2.retireTeam tid else r.2
      else s
    else s.retireTeam tid
  | _, _ => s

/-- The launch has not ended. -/
def State.isLive (s : State) (n : Nat) : Bool :=
  match s.launch? n with
  | some l => l.status.isNone
  | none => false

/-- A team completes when every one of its groups has exited; without DET it retires with that (13 R277). -/
def execTeamComplete (tid : TeamId) (s : State) : Host.Outcome State Fault Refusal :=
  if s.isLive tid.launch && s.hasExited tid then
    let s1 := s.completeTeam tid
    match s1.launch? tid.launch with
    | some l => .next (if l.lrec.det then s1 else (s1.tryRetire tid).endCheck tid.launch)
    | none => .next s1
  else .next s

/-- A team retires, and its launch ends if that was all, or if none of its teams can run any more (07 R178). -/
def execTeamRetire (tid : TeamId) (s : State) : Host.Outcome State Fault Refusal :=
  if s.isLive tid.launch then
    let s1 := if s.hasExited tid then s.completeTeam tid else s
    .next ((s1.tryRetire tid).endCheck tid.launch)
  else .next s

/-! ### The order of placement (11 R238, 13 R278, R283, R286) -/

/-- Teams of the launch may be placed: it has not ended, its context is not held and is not being saved. -/
def State.mayPlace (s : State) (l : Launch) : Bool :=
  l.status.isNone && !(s.ctx l.ctx).held && !s.preempting l.ctx

def Team.isSaved (t : Team) : Bool := t.phase == .saved || t.phase == .evicted

/-- The team of the launch that is placed or restored next: saved ones before new ones; under QUANTUM the first of the
run queue that is not resident. -/
def State.nextTeam (s : State) (n : Nat) (l : Launch) : Option Nat :=
  let ps := s.placed n
  if l.lrec.quant then
    l.runq.find? (fun t => !ps.any (fun e => e.1.team == t && !e.2.isSaved))
  else
    match ((ps.filter (fun e => e.2.isSaved)).map (fun e => e.1.team)).min? with
    | some t => some t
    | none =>
      if l.lrec.depc then (List.range l.lrec.teams).find? (fun t => l.npred.getD t 0 == 0 && !s.isPlaced n t)
      else if ps.length < l.lrec.teams then some ps.length else none

def State.launchPrio (s : State) (l : Launch) : Nat := (s.queue l.queue).prio.toNat

/-- Clusters kept for teams of older launches of equal or higher priority that have waited too long and wait still
(13 R283). -/
def State.blockedFor (s : State) (n : Nat) (l : Launch) : List Nat :=
  (s.launches.filter (fun e => decide (e.1 < n) && e.2.status.isNone && decide (s.launchPrio l ≤ s.launchPrio e.2)
    && s.teams.any (fun x => x.1.launch == e.1 && x.2.aged))).flatMap (fun e => (s.ctx e.2.ctx).clusters)

/-- Where the team would be placed now: a saved one in the cluster that holds its partition (08 R208). -/
def State.spotFor (s : State) (n : Nat) (l : Launch) (t : Nat) : Option Spot :=
  let blocked := s.blockedFor n l
  match s.team? { launch := n, team := t } with
  | some x =>
    if x.phase = .saved ∧ x.part = true then s.placeIn l.ctx l.lrec t [x.clus] blocked 0
    else s.placeIn l.ctx l.lrec t (s.ctx l.ctx).clusters blocked l.lrec.scru
  | none => s.placeIn l.ctx l.lrec t (s.ctx l.ctx).clusters blocked l.lrec.scru

/-! ### Becoming resident (08 R187, R192, R208) -/

/-- The lowest free group slot of a core. -/
def State.freeSlot (s : State) (c : CoreId) : Nat :=
  ((List.range 32).find? (fun i => !(s.held c).any (fun h => h.1 == i))).getD 0

/-- A group as it starts. -/
def newGroup (l : LaunchRec) (c : CoreId) (slot : Nat) : Group where
  phase := .running
  core := c
  gslot := slot
  width := l.width
  nr := l.nr
  budget := l.budget
  divdepth := l.divdepth
  regs := []
  resident := []
  used := []
  useNo := 0
  preds := []
  exited := 0
  p0 := some (Path.start l.kentry (fullMask l.width) none)
  p1 := none
  lastSlot := 1
  left := []
  stack := []
  nextId := 0
  slots := sparseOf 0 16 (fun i => if l.slotv.getLsbD i then l.fmts.getD i 0 else 0)
  soff := []
  draw := []
  counts := Counts.zero
  lateTrap := Counts.zero
  lateSave := Counts.zero
  acs := []
  perf := []
  flight := []
  trap := none
  imprecise := []
  inHandler := false
  tframe := 0
  overSeen := (none, none)
  frame := none
  preTrap := []
  late := []
  laterTraps := []
  preqVisible := false
  graceOver := false
  beadSave := false
  image := []

/-- A team as it is first placed: its partition reads zero, its clasps are reset, no template is valid (05 R133, 07
R168, 10 R222). -/
def newTeam (spot : Spot) : Team where
  phase := .resident
  clus := spot.clus
  core := spot.cores.headD 0
  part := true
  units := spot.units
  scratch := []
  clasps := []
  tmpls := []
  queues := []
  contrib := []
  discarded := 0
  aged := false
  completed := false

/-- The core of group g at a spot. -/
def Spot.coreOf (p : Spot) (g : Nat) : CoreId := { clus := p.clus, core := p.cores.getD g 0 }

/-- A new team becomes resident, with a .sys acquire (12 R256). -/
def State.installNew (s : State) (n : Nat) (l : Launch) (t : Nat) (spot : Spot) : State :=
  let tid : TeamId := { launch := n, team := t }
  let s1 := s.setTeam tid (newTeam spot)
  let s2 := (List.range l.lrec.groups).foldl (fun s g =>
    s.setGroup (groupOf tid g) (newGroup l.lrec (spot.coreOf g) (s.freeSlot (spot.coreOf g)))) s1
  (s2.acquireAt spot.clus l.ctx (fun _ => none) .sys).modCtx l.ctx (fun c => { c with preq := false })

/-- The group's image as it now stands passes its check (08 R209; log entry 72). -/
def State.restorable (s : State) (gid : GroupId) (g : Group) : Bool :=
  let a := imageAddr (s.ctx (s.ctxOf gid.launch)) gid g
  imageOk g.image (s.areaRead a g.image.length) && !s.areaPoisoned a g.image.length

/-- A saved group takes a group slot and the state of its image, and the events performed since its save (04 R81, 08
R208). -/
def State.restoreGroup (s : State) (gid : GroupId) (c : CoreId) (g : Group) : State :=
  let g1 := { g with phase := .running, core := c, gslot := s.freeSlot c, beadSave := false }
  if s.restorable gid g then
    let g2 := loadImage g1 (s.areaRead (imageAddr (s.ctx (s.ctxOf gid.launch)) gid g) g.image.length)
    let g3 := if g.inHandler then g2 else { g2.putSeen g.overSeen with overSeen := (none, none) }
    s.installGroup gid { g3 with image := [], counts := g2.counts.add g.lateSave }
  else s.setGroup gid g1

/-- The group's image can be read. -/
def State.imageReadable (s : State) (gid : GroupId) (g : Group) : Bool :=
  !g.isSaved || s.areaOk (imageAddr (s.ctx (s.ctxOf gid.launch)) gid g) g.image.length

/-- Where the scratch image of a team lies (08 R198). -/
def scratchAddr (c : Context) (t : Nat) : Nat := (c.tcaBase + c.tcaStr * BitVec.ofNat 64 t).toNat + 32768

/-- A saved team becomes resident again, with a .dev acquire; an evicted one takes its scratch image. Every group takes
its slot before those whose image fails its check halt (08 R207 to R209). -/
def State.installSaved (s : State) (n : Nat) (l : Launch) (t : Nat) (x : Team) (spot : Spot) : State :=
  let tid : TeamId := { launch := n, team := t }
  let scratch := if x.phase = .evicted then
      Memory.writeN [] 0 (s.areaRead (scratchAddr (s.ctx l.ctx) t) (256 * l.lrec.scru))
    else x.scratch
  let s1 := s.setTeam tid { x with
    phase := .resident, clus := spot.clus, core := spot.cores.headD 0, part := true
    units := if x.part then x.units else spot.units, scratch := scratch, aged := false }
  let es := (s1.teamGroups tid).filter (fun e => e.2.isSaved)
  let s2 := es.foldl (fun s e => s.restoreGroup e.1 (spot.coreOf e.1.grp) e.2) s1
  let s3 := es.foldl (fun t e => if s1.restorable e.1 e.2 then t else t.haltGroup e.1 0x15 1 0 0) s2
  (s3.acquireAt spot.clus l.ctx (fun _ => none) .dev).modCtx l.ctx (fun c => { c with preq := false })

/-- Every context area that a restore reads can be read. -/
def State.canRestore (s : State) (n : Nat) (l : Launch) (t : Nat) (x : Team) : Bool :=
  (s.teamGroups { launch := n, team := t }).all (fun e => s.imageReadable e.1 e.2)
    && (x.phase != .evicted || s.areaOk (scratchAddr (s.ctx l.ctx) t) (256 * l.lrec.scru))

/-- Makes a team resident at a spot. -/
def State.install (s : State) (n : Nat) (l : Launch) (t : Nat) (spot : Spot) : Option State :=
  match s.team? { launch := n, team := t } with
  | some x =>
    if x.isSaved then (if s.canRestore n l t x then some (s.installSaved n l t x spot) else none)
    else some (s.installNew n l t spot)
  | none => some (s.installNew n l t spot)

/-! ### Placing (11 R236, 13 R283, R285) -/

/-- What a launch may do at its turn. -/
inductive Turn
  | passes
  /-- this team, at this spot -/
  | one (t : Nat) (spot : Spot)
  /-- every team of a cooperative launch in one step -/
  | all (s : State)

/-- Teams of a cooperative launch that must become resident together. -/
def State.coopTeams (s : State) (n : Nat) (l : Launch) : List Nat :=
  match (s.placed n).filter (fun e => e.2.isSaved) with
  | [] => if (s.placed n).isEmpty then List.range l.lrec.teams else []
  | es => sortNats (es.map (fun e => e.1.team))

/-- Places teams one after another; none where one of them does not fit. -/
def State.placeAll (s : State) (n : Nat) (l : Launch) : List Nat → Option State
  | [] => some s
  | t :: ts =>
    match s.spotFor n l t with
    | none => none
    | some p => (s.install n l t p).bind (fun s1 => s1.placeAll n l ts)

/-- The turn of a launch. -/
def State.turnOf (s : State) (n : Nat) (l : Launch) : Turn :=
  if l.lrec.coop then
    match s.coopTeams n l with
    | [] => .passes
    | ts => match s.placeAll n l ts with
      | some s1 => .all s1
      | none => .passes
  else
    match s.nextTeam n l with
    | none => .passes
    | some t => match s.spotFor n l t with
      | some p => .one t p
      | none => .passes

def Turn.acts : Turn → Bool
  | .passes => false
  | .one _ _ => true
  | .all _ => true

/-- Accepted launches in the order of 13 R283. -/
def State.inOrder (s : State) : List (Nat × Launch) :=
  sortBy (fun a b => decide (s.launchPrio b.2 ≤ s.launchPrio a.2)) (s.launches.filter (fun e => s.mayPlace e.2))

/-- The launch whose turn it is, and what it does. -/
def State.nextPlacement (s : State) : Option (Nat × Launch × Turn) :=
  (s.inOrder.map (fun e => (e.1, e.2, s.turnOf e.1 e.2))).find? (fun x => x.2.2.acts)

/-- Written bytes of a cluster reach the level beneath before a team becomes resident there (12 R255, R256); until then
the placement waits. -/
def State.drainFor (s : State) (clusters : List Nat) (f : State → Host.Outcome State Fault Refusal) :
    Host.Outcome State Fault Refusal :=
  let s1 := clusters.foldl (fun s c => s.wbCluster c) s
  if clusters.any s1.l1Dirty then .next s1 else f s1

/-- Carries out the placement whose turn it is, if it is that of the named team, saved or new. -/
def State.placeTurn (s : State) (tid : TeamId) (saved : Bool) : Host.Outcome State Fault Refusal :=
  let isSaved (t : Nat) : Bool := match s.team? { tid with team := t } with
    | some x => x.isSaved
    | none => false
  match s.nextPlacement with
  | none => .next s
  | some (n, l, turn) =>
    if n ≠ tid.launch then .next s
    else
      match turn with
      | .passes => .next s
      | .one t p =>
        if t ≠ tid.team ∨ isSaved t ≠ saved then .next s
        else
          s.drainFor [p.clus] (fun s0 =>
            match s0.install n l t p with
            | some s1 => .next s1
            | none => .fault .contextAreaOutsideMemory)
      | .all _ =>
        let ts := s.coopTeams n l
        if ts.contains tid.team ∧ isSaved tid.team = saved then
          s.drainFor (s.ctx l.ctx).clusters (fun s0 =>
            match s0.placeAll n l ts with
            | some s1 => .next s1
            | none => .next s0)
        else .next s

/-- The front end places a team. -/
def execTeamPlace (tid : TeamId) (s : State) : Host.Outcome State Fault Refusal := s.placeTurn tid false

/-- The front end resumes a saved team. -/
def execTeamRestore (tid : TeamId) (s : State) : Host.Outcome State Fault Refusal := s.placeTurn tid true

/-- A team has waited too long to be placed (13 R283). -/
def execPlacementAgeExpiry (tid : TeamId) (s : State) : Host.Outcome State Fault Refusal :=
  match s.launch? tid.launch with
  | none => .next s
  | some l =>
    if s.mayPlace l = true ∧ s.nextTeam tid.launch l = some tid.team then
      match s.team? tid with
      | some t => .next (s.setTeam tid { t with aged := true })
      | none => .next (s.setTeam tid { newTeam { clus := 0, cores := [], units := [] } with
          phase := .waiting, part := false, aged := true })
    else .next s

/-- The quantum of a resident team expires (13 R286). -/
def execQuantumExpiry (tid : TeamId) (s : State) : Host.Outcome State Fault Refusal :=
  match s.launch? tid.launch, s.team? tid with
  | some l, some t =>
    if l.lrec.quant = true ∧ l.status = none ∧ t.phase = .resident ∧ (s.nextTeam tid.launch l).isSome = true then
      .next (s.quantumPreempt l.ctx tid.launch)
    else .next s
  | _, _ => .next s

/-! ### Eviction (08 R207) -/

/-- Another team of the context would fit in the cluster but for scratch. -/
def State.scratchWanted (s : State) (clus ctx : Nat) : Bool :=
  s.launches.any (fun e => e.2.ctx == ctx && s.mayPlace e.2 && (s.ctx ctx).clusters.contains clus
    && (match s.nextTeam e.1 e.2 with
      | some t => (s.spotFor e.1 e.2 t).isNone && (s.placeIn ctx e.2.lrec t [clus] [] 0).isSome
          && (match s.team? { launch := e.1, team := t } with
            | some x => !(x.phase == .saved && x.part)
            | none => true)
      | none => false))

/-- The team record, whose layout is the implementation's: free bytes (log entry 4). -/
def freeBytes (fresh n : Nat) : List Byte := (List.range n).map (fun i => Config.freeByte (fresh + i))

/-- A saved team leaves its partition, once its queues are empty: for another team, or for SWITCH-OUT. Scratch bytes
outside every SLIVE are written as zero (08 R207). -/
def execTeamEvict (tid : TeamId) (s : State) : Host.Outcome State Fault Refusal :=
  match s.launch? tid.launch, s.team? tid with
  | some l, some t =>
    if t.phase = .saved ∧ l.status = none ∧ t.queues.all (fun q => q.2.pending.isEmpty) = true
        ∧ ((s.ctx l.ctx).cmd = 3 ∨ s.scratchWanted t.clus l.ctx = true) then
      let a := scratchAddr (s.ctx l.ctx) tid.team
      if s.areaOk (a - 32768) (32768 + 256 * l.lrec.scru) then
        s.drainFor [t.clus] (fun s0 =>
          let kept := t.scratch.filter (fun c => keepsByte (((s.teamGroups tid).map Prod.snd).filter Group.isSaved) c.1)
          let s1 := s0.areaWrite (a - 32768) (freeBytes s.fresh 32768 ++ Memory.readN kept 0 (256 * l.lrec.scru))
          .next ({ s1 with fresh := s1.fresh + 32768 }.setTeam tid { t with
            phase := .evicted, part := false, units := [], scratch := [] }))
      else .fault .contextAreaOutsideMemory
    else .next s
  | _, _ => .next s

end Sys2Proof.Machine
end

