-- ==== Sys2Proof/Machine/Collectives.lean ====
section
/-! DEFINITION. The collective engine: a participant's partition and contribution, the home's reduction slots, the data
of `.gath` and `.bcast`, and completion records (07 R173 to R175, 11 R244, R245, 12 R269, 14 R316 to R318). What a
request of KIND 3 or 4 carries beside R297 is this model's (log entry 36). -/

namespace Sys2Proof.Machine

/-! ### Descriptors (07 R173) -/

namespace CollJob

def src (c : CollJob) : Nat := (c.desc.getD 0 0).toNat
def dst (c : CollJob) : Nat := (c.desc.getD 1 0).toNat
def comp (c : CollJob) : Word := c.desc.getD 2 0
def sseg (c : CollJob) : BitVec 8 := BitVec.ofNat 8 (fieldOf c.desc 3 56 8)
def dseg (c : CollJob) : BitVec 8 := BitVec.ofNat 8 (fieldOf c.desc 3 48 8)
def cseg (c : CollJob) : BitVec 8 := BitVec.ofNat 8 (fieldOf c.desc 3 40 8)
def home (c : CollJob) : Nat := fieldOf c.desc 3 30 10
def npm1 (c : CollJob) : Nat := fieldOf c.desc 3 20 10
def pidx (c : CollJob) : Nat := fieldOf c.desc 3 10 10
def fmt (c : CollJob) : Fmt := Fmt.ofWord (c.desc.getD 4 0)
def gidx (c : CollJob) : Nat := (c.desc.getD 5 0).toNat
def tag (c : CollJob) : BitVec 32 := BitVec.ofNat 32 (fieldOf c.desc 6 32 32)
def tout (c : CollJob) : BitVec 32 := BitVec.ofNat 32 (fieldOf c.desc 6 0 32)
def opc (c : CollJob) : Nat := fieldOf c.desc 7 60 4
def nelem (c : CollJob) : Nat := fieldOf c.desc 7 32 28

/-- A descriptor that fails its own field checks (07 R173, R175). -/
def bad (c : CollJob) : Bool :=
  fieldOf c.desc 3 0 10 != 0 || fieldOf c.desc 7 0 32 != 0 || decide (0xFC ≤ c.sseg.toNat)
    || decide (0xFC ≤ c.dseg.toNat) || decide (0xFC ≤ c.cseg.toNat) || c.comp.toNat % 32 != 0
    || (Fmt.invalid (c.desc.getD 4 0)).isSome || c.fmt.sto || (if c.op = .red then decide (2 < c.opc) else c.opc != 0)
    || c.nelem == 0 || decide (c.npm1 < c.pidx)

/-- Bytes of the elements of a participant. -/
def byteCount (c : CollJob) : Nat := (c.nelem * c.fmt.w + 7) / 8

/-- What contributions must agree on. -/
def common (c : CollJob) : List Word :=
  [BitVec.ofNat 64 c.home, BitVec.ofNat 64 c.npm1, BitVec.ofNat 64 c.opc, c.desc.getD 4 0,
   BitVec.ofNat 64 ((match c.op with
     | .red => 0
     | .gath => 2
     | .bcast => 4) + if c.arr then 1 else 0)]

end CollJob

/-! ### Values (07 R174, 11 R244, R245) -/

/-- The key where stochastic rounding would apply; RND = 5 is refused. -/
def collKey : Key := { seed := 0, team := 0, lanet := 0, j := 0, draw := 0, soff := 0 }

/-- Two values combined and rounded once into FMT. -/
def collNode (f : Fmt) (opc : Nat) (x y : Num) : Num :=
  if opc = 0 then (addNode f (fun _ => collKey) 0 x y).val
  else (roundNode f collKey (chooseNum (opc == 2) x y)).val

/-- The code of a value. -/
def collCode (f : Fmt) (x : Num) : Word := BitVec.ofNat 64 (round f collKey x).val

/-- The code of a leaf that meets no node: its value decoded, and not rounded (04 R75, R92). -/
def leafCode (f : Fmt) (c : Nat) : Word :=
  match (f.decode c).val with
  | .nan => collCode f .nan
  | .zero neg => collCode f (.zero neg)
  | _ => BitVec.ofNat 64 c

/-- A partition's value: the tree of 04 R92 over its elements. Only a node with two children rounds, so a lone element
is its own value (07 R174). -/
def partitionValue (f : Fmt) (opc n v : Nat) : Word :=
  if n = 1 then leafCode f (bits v 0 f.w)
  else
    collCode f (treeSum (fun i => .pure (f.decode (bits v (i * f.w) f.w)).val)
      (fun _ x y => .pure (collNode f opc x y)) n).val

def isPow2 (n : Nat) : Bool := 2 ^ Nat.log2 n == n

/-- The partitions cover [0, total) without overlap. -/
def partsCover (ps : List CollPart) : Bool :=
  (sortBy (fun a b => decide (a.gidx ≤ b.gidx)) ps).foldl (fun acc p => match acc with
    | some e => if p.gidx = e then some (e + p.nelem) else none
    | none => none) (some 0) |>.isSome

def partsTotal (ps : List CollPart) : Nat := (ps.map (·.nelem)).sum

/-- The partitions are the power-of-two ranges of 11 R244. -/
def partsTree (ps : List CollPart) : Bool :=
  ps.all (fun p => isPow2 p.nelem && decide (p.nelem ≤ 2 ^ 27) && p.gidx % p.nelem == 0) && partsCover ps
    && isPow2 (partsTotal ps) && decide (partsTotal ps ≤ 2 ^ 37)

/-- The node over 2^n elements from lo: a partition's root, or the home's combination of two (11 R244). -/
def homeNode (f : Fmt) (opc : Nat) (ps : List CollPart) : Nat → Nat → Option Num
  | 0, lo => (ps.find? (fun p => p.gidx == lo && p.nelem == 1)).map (fun p => (f.decode p.value.toNat).val)
  | n + 1, lo =>
    match ps.find? (fun p => p.gidx == lo && p.nelem == 2 ^ (n + 1)) with
    | some p => some (f.decode p.value.toNat).val
    | none =>
      match homeNode f opc ps n lo, homeNode f opc ps n (lo + 2 ^ n) with
      | some x, some y => some (collNode f opc x y)
      | _, _ => none

/-- The result of a `.red`; none for a breach of the partitions. A lone partition's value passes unrounded (07 R174, 11
R245). -/
def homeValue (f : Fmt) (opc : Nat) (arr : Bool) (ps : List CollPart) : Option Word :=
  if (if arr then partsCover ps else partsTree ps) = false then none
  else if ps.length = 1 then (ps.map (fun p => leafCode f p.value.toNat)).head?
  else if arr then
    match ps.map (fun p => (f.decode p.value.toNat).val) with
    | x :: xs => some (collCode f (xs.foldl (collNode f opc) x))
    | [] => none
  else (homeNode f opc ps (Nat.log2 (partsTotal ps)) 0).map (collCode f)

/-! ### Writes of the engine -/

/-- Cuts bytes into the pieces of a list of spans. -/
def cutSpans : List (Nat × Nat) → List Byte → List (Nat × List Byte)
  | [], _ => []
  | (o, n) :: t, bs => (o, bs.take n) :: cutSpans t (bs.drop n)

/-- The byte offset and count that n bits from bit b of a segment touch. -/
def bitBytes (b n : Nat) : Nat × Nat := (b / 8 % 2 ^ 64, (b % 8 + n + 7) / 8)

/-- n bits of v written at bit b of a segment, as sector, bytes and masks; the other bits of the first and last byte
stay. -/
def bitPieces (rs : List Region) (seg : BitVec 8) (b n v : Nat) : List (Nat × List Byte × List Byte) :=
  if n = 0 then []
  else
    let r := bitBytes b n
    let ps := spans r.1 r.2
    let bs := cutSpans ps (toBytes r.2 (v % 2 ^ n * 2 ^ (b % 8)))
    let ms := cutSpans ps (toBytes r.2 ((2 ^ n - 1) * 2 ^ (b % 8)))
    (bs.zip ms).map (fun x =>
      let p := placeIn rs seg x.1.1
      (sectorOf p, place64 (p % 64) x.1.2, place64 (p % 64) x.2.2))

/-- Bits of v where the mask has them, those of `old` elsewhere. -/
def mixBits (old m v : Byte) : Byte := (old &&& ~~~m) ||| (v &&& m)

/-- The pieces of one sector become one (12 R250); a later one lies over an earlier one. -/
def joinPieces (xs : List (Nat × List Byte × List Byte)) : List (Nat × List Byte × List Byte) :=
  xs.foldl (fun acc x =>
    match Tab.get? acc x.1 with
    | some y => Tab.put acc x.1
        ((List.range 64).map (fun i => mixBits (y.1.getD i 0) (x.2.2.getD i 0) (x.2.1.getD i 0)),
          (List.range 64).map (fun i => y.2.getD i 0 ||| x.2.2.getD i 0))
    | none => Tab.put acc x.1 x.2) []

/-- The writes of some bit ranges, sector by sector: first bit, number, value of each range. -/
def bitWrites (rs : List Region) (seg : BitVec 8) (ws : List (Nat × Nat × Nat)) : List EngWrite :=
  (joinPieces (ws.flatMap (fun w => bitPieces rs seg w.1 w.2.1 w.2.2))).map (fun x => .sector x.1 x.2.1 x.2.2)

/-- The runs of bytes that some bit ranges touch. -/
def bitRuns (seg : BitVec 8) (ws : List (Nat × Nat × Nat)) : List Run :=
  (ws.filter (fun w => w.2.1 != 0)).map (fun w => (seg, bitBytes w.1 w.2.1))

/-- Stamps of translated places: quarantine and generation (12 R273). -/
def State.regionStamps (s : State) (rs : List Region) : List (Nat × BitVec 32) :=
  (rs.flatMap (fun r => match r.res with
    | .ok p _ => s.stampOf p
    | _ => [])).dedup

/-- A byte as the engine finds it; none where a peer's sector must be read first. -/
def State.byteBelow (s : State) (p : Nat) : Option Byte :=
  if isLocal p then some (s.homeByte p)
  else if isHost p then (s.hostRead (placeAddr p) 1).head?
  else
    match s.l2Sector (sectorOf p) with
    | some x => if laneIn x.valid (p % 64) then some (x.bytes.getD (p % 64) 0) else none
    | none => none

/-- A KIND 4 request of a collective; no other request shares its sector (log entry 36). -/
def State.sendColl (s : State) (ctx dst : Nat) (kind : BitVec 4) (coll : List Word) (bs : List Byte) (rslot : BitVec 12)
    (purpose : Purpose) : Nat × State :=
  s.sendRemote ctx dst (2 ^ 80 + s.serial) { reqPlain s ctx kind 0 with coll := coll, data := bs, rslot := rslot } purpose

/-- Makes one write: the requests it waits for; none where it cannot be made yet. -/
def State.engWrite (s : State) (ctx : Nat) (purpose : Purpose) (rd : Nat → Purpose) : EngWrite → State × Option (List Nat)
  | .store p bs =>
    if isPeer p = true ∧ s.canSend ctx (placeDev p) 1 = false then (s, none)
    else let r := s.sysWrite ctx p bs purpose; (r.1, some r.2)
  | .sector sec bs ms =>
    let p := sectorBase sec
    let old (i : Nat) : Option Byte := if ms.getD i 0 = 0 ∨ ms.getD i 0 = 0xFF then some 0 else s.byteBelow (p + i)
    match (List.range 64).mapM old with
    | none => (if s.remotes.any (fun e => e.2.purpose == rd sec) then s else s.askSector ctx sec (rd sec), none)
    | some os =>
      if isPeer p = true ∧ s.canSend ctx (placeDev p) 1 = false then (s, none)
      else
        let out := (List.range 64).map (fun i => mixBits (os.getD i 0) (ms.getD i 0) (bs.getD i 0))
        let r := s.sysWriteMasked ctx sec out (maskOf ((List.range 64).filter (fun i => ms.getD i 0 != 0))) purpose
        (r.1, some r.2)
  | .send dst coll bs =>
    if s.canSend ctx dst 1 then
      let r := s.sendColl ctx dst 4 coll bs 0 purpose
      (r.2, some [r.1])
    else (s, none)

/-- Makes writes in order, as far as they can be made: what is left, and the requests they wait for. -/
def State.engWrites (s : State) (ctx : Nat) (purpose : Purpose) (rd : Nat → Purpose) :
    List EngWrite → State × List EngWrite × List Nat
  | [] => (s, [], [])
  | w :: ws =>
    match s.engWrite ctx purpose rd w with
    | (s1, none) => (s1, w :: ws, [])
    | (s1, some ns) =>
      let r := s1.engWrites ctx purpose rd ws
      (r.1, r.2.1, ns ++ r.2.2)

/-! ### Collectives of this device -/

def State.coll? (s : State) (n : Nat) : Option CollJob := Tab.get? s.colls n
def State.setColl (s : State) (n : Nat) (c : CollJob) : State := { s with colls := Tab.put s.colls n c }
def State.modColl (s : State) (n : Nat) (f : CollJob → CollJob) : State :=
  match s.coll? n with
  | some c => s.setColl n (f c)
  | none => s
def State.dropColl (s : State) (n : Nat) : State := { s with colls := Tab.erase s.colls n }

/-- What the fault records of a collective say. -/
def State.collRec (s : State) (c : CollJob) : FaultRec :=
  { s.groupRec c.gid (match s.team? (tidOf c.gid) with
    | some t => t.clus
    | none => 65535) with src := 2 }

/-- The 32 bytes of a completion record (07 R175). -/
def collBytes (tag : BitVec 32) (recv : BitVec 16) (status : BitVec 8) (result : Word) : List Byte :=
  toBytes 8 (tag.toNat * 2 ^ 32 + recv.toNat * 2 ^ 16 + status.toNat) ++ toBytes 8 result.toNat ++ toBytes 16 0

/-- The record cannot be written: it is reported, and the collective ends. -/
def State.unwrittenColl (s : State) (n : Nat) (c : CollJob) (why : Nat) : State :=
  let r := s.collRec c
  (s.post c.ctx 4 { unwrittenRec 2 r.queue c.status 0 why c.comp c.cseg with
    team := r.team, grp := r.grp, clus := r.clus }).dropColl n

/-- Writes the completion record (07 R175). -/
def State.collRecord (s : State) (n : Nat) (abort : Bool) : State :=
  match s.coll? n with
  | none => s
  | some c =>
    match s.hubTranslate c.ctx .write [(c.cseg, c.comp.toNat, 32)] (s.collRec c) abort with
    | (.ok rs, s1) =>
      let r := s1.engWrites c.ctx (.dataWrite n) (.engineRead n)
        [.store (Machine.placeIn rs c.cseg c.comp.toNat) (collBytes c.tag c.recv c.status c.result)]
      if r.2.1.isEmpty && r.2.2.isEmpty then r.1.dropColl n
      else r.1.setColl n { c with
        phase := .recording, todo := r.2.1, stamps := s1.regionStamps rs, waits := r.2.2, faulted := false }
    | (.parked, s1) => s1.setColl n { c with phase := .recording, todo := [], waits := [], faulted := true }
    | (.bad, s1) => s1.unwrittenColl n c 4
    | (.forbidden, s1) => s1.unwrittenColl n c 5

/-- The release before the record. -/
def State.collRelease (s : State) (n : Nat) : State :=
  match s.coll? n with
  | none => s
  | some c =>
    if c.comp.toNat % 32 ≠ 0 then s.unwrittenColl n c 2
    else if 0xFC ≤ c.cseg.toNat then s.unwrittenColl n c 3
    else
      let r := s.hubRelease c.ctx
      if r.2.isEmpty && !r.1.l2Unsent then r.1.collRecord n false
      else r.1.setColl n { c with phase := .releasing, waits := r.2, faulted := false }

/-- The record of a collective ends with another status. -/
def State.collStatus (s : State) (n : Nat) (status : BitVec 8) : State :=
  (s.modColl n (fun c => { c with status := status, todo := [], stamps := [], waits := [], lost := false })).collRelease n

/-- Goes on with the writes at DST of a `.bcast`. -/
def State.collStoring (s : State) (n : Nat) (c : CollJob) (todo : List EngWrite) : State :=
  let r := s.engWrites c.ctx (.dataWrite n) (.engineRead n) todo
  let waits := c.waits.filter s.isOpen ++ r.2.2
  let s1 := r.1.setColl n { c with phase := .storing, todo := r.2.1, waits := waits, faulted := false }
  if r.2.1.isEmpty && waits.isEmpty then s1.collRelease n else s1

/-- Writes the data of a `.bcast` at DST (07 R174). -/
def State.collStore (s : State) (n : Nat) (abort : Bool) : State :=
  match s.coll? n with
  | none => s
  | some c =>
    let k := c.count * c.fmt.w
    let bs := (sortBy (fun a b => decide (a.1 ≤ b.1)) c.got).flatMap Prod.snd
    let ws := [(c.dst * 8, k, ofBytes bs)]
    match s.dropL2.hubTranslate c.ctx .write (bitRuns c.dseg ws) (s.collRec c) abort with
    | (.ok rs, s1) => s1.collStoring n { c with waits := [], stamps := s1.regionStamps rs } (bitWrites rs c.dseg ws)
    | (.parked, s1) => s1.setColl n { c with phase := .storing, todo := [], waits := [], faulted := true }
    | (_, s1) => s1.collStatus n 7

/-- A collective of this device has its outcome; `count` elements of a `.bcast` are to be written first. -/
def State.collEnds (s : State) (n : Nat) (status : BitVec 8) (recv : BitVec 16) (result : Word) (count : Nat) : State :=
  match s.coll? n with
  | none => s
  | some c =>
    let s1 := s.setColl n { c with
      status := status, recv := recv, result := result, count := count, phase := .releasing, todo := [], stamps := []
      waits := [], faulted := false, lost := false }
    if c.op = .bcast ∧ status = 1 then s1.collStore n false else s1.collRelease n

/-- A participant fails by itself: RECV and RESULT are 0. -/
def State.collFails (s : State) (n : Nat) (status : BitVec 8) : State := s.collEnds n status 0 0 0

/-! ### Reduction slots of the home (14 R316, R317) -/

def State.slot? (s : State) (i : Nat) : Option RedSlot := Tab.get? s.redSlots i
def State.setSlot (s : State) (i : Nat) (x : RedSlot) : State := { s with redSlots := Tab.put s.redSlots i x }

/-- The slot is freed, and the data held for its TAG with it. -/
def State.freeRedSlot (s : State) (i : Nat) (x : RedSlot) : State :=
  { s with redSlots := Tab.erase s.redSlots i, gathered := s.gathered.filter (fun p => p.tag != x.tag) }

/-- The home's own part. -/
def RedSlot.own (x : RedSlot) : Option (CollPart × Nat) :=
  x.got.findSome? (fun p => p.job.map (fun n => (p, n)))

/-- Goes on with the record writes; the slot is free once each has its outcome. -/
def State.slotRecords (s : State) (i : Nat) (x : RedSlot) : State :=
  let r := s.engWrites x.ctx (.recordWrite i) (.slotRead i) x.todo
  let waits := x.waits.filter s.isOpen ++ r.2.2
  if r.2.1.isEmpty && waits.isEmpty then r.1.freeRedSlot i x
  else r.1.setSlot i { x with todo := r.2.1, waits := waits }

/-- The message of a participant's record. -/
def recordMsg (tag : BitVec 32) (p : CollPart) (recv : Nat) (status : BitVec 8) (result : Word) (count : Nat) : EngWrite :=
  .send p.dev [tag.setWidth 64, 0, BitVec.ofNat 64 p.pidx, BitVec.ofNat 64 count]
    (collBytes tag (BitVec.ofNat 16 recv) status result)

/-- The collective ends at its home: every participant gets the same STATUS and RECV (07 R175). `also` is the
contribution that broke it. The home's own DST of a `.bcast` is written by then. -/
def State.slotEnds (s : State) (i : Nat) (x : RedSlot) (status : BitVec 8) (result : Word) (also : List CollPart) : State :=
  let ps := x.got ++ also
  let recv := x.got.length
  let count := match x.own with
    | some (p, _) => p.nelem
    | none => 0
  let y := { x with
    stage := .records, status := status, result := result, faulted := false, lost := false, stamps := [], waits := []
    todo := (ps.filter (fun p => p.job.isNone)).map (fun p => recordMsg x.tag p recv status result count) ++ x.extra
    extra := [] }
  let s1 := (s.setSlot i y).slotRecords i y
  let home := x.own.map Prod.snd
  (ps.filterMap (·.job)).foldl (fun s n =>
    s.collEnds n status (BitVec.ofNat 16 recv) result (if home = some n then 0 else count)) s1

/-- Goes on with the writes at DST; then the records. -/
def State.slotWriting (s : State) (i : Nat) (x : RedSlot) (todo : List EngWrite) : State :=
  if x.lost then s.slotEnds i x 6 0 []
  else
    let r := s.engWrites x.ctx (.slotWrite i) (.slotRead i) todo
    let waits := x.waits.filter s.isOpen ++ r.2.2
    let y := { x with todo := r.2.1, waits := waits, faulted := false }
    if r.2.1.isEmpty && waits.isEmpty then r.1.slotEnds i y 1 y.result [] else r.1.setSlot i y

/-- Pieces of 64 bytes with their offsets. -/
def pieces64 (bs : List Byte) : List (Nat × List Byte) :=
  (List.range ((bs.length + 63) / 64)).map (fun i => (64 * i, (bs.drop (64 * i)).take 64))

/-- The bytes of a participant's `.gath` data, if all are here. -/
def State.gathBytes (s : State) (tag : BitVec 32) (p : CollPart) (n : Nat) : Option (List Byte) :=
  let xs := sortBy (fun a b => decide (a.off ≤ b.off))
    (s.gathered.filter (fun x => x.tag == tag && x.dev == p.dev && x.pidx == p.pidx))
  if n ≤ (xs.flatMap (·.bytes)).length then some (xs.flatMap (·.bytes)) else none

/-- Bit ranges at the home's DST with their values: of a `.red` the result, of a `.bcast` its elements, of a `.gath` each
participant's elements. None where data is missing. -/
def State.dstWrites (s : State) (x : RedSlot) (c : CollJob) : Option (List (Nat × Nat × Nat)) :=
  match c.op with
  | .red => some [(c.dst * 8, c.fmt.w, x.result.toNat)]
  | .bcast => some [(c.dst * 8, c.nelem * c.fmt.w, ofBytes (c.got.flatMap Prod.snd))]
  | .gath =>
    x.got.mapM (fun p =>
      (s.gathBytes x.tag p ((p.nelem * c.fmt.w + 7) / 8)).map (fun bs =>
        ((c.dst * 8 + p.gidx * c.fmt.w) % 2 ^ 67, p.nelem * c.fmt.w, ofBytes bs)))

/-- What a `.bcast` sends to the participants on other devices. -/
def bcastSends (x : RedSlot) (bs : List Byte) : List EngWrite :=
  (x.got.filter (fun p => p.job.isNone)).flatMap (fun p => (pieces64 bs).map (fun q =>
    EngWrite.send p.dev [x.tag.setWidth 64, 2, BitVec.ofNat 64 p.pidx, BitVec.ofNat 64 q.1] q.2))

/-- The home writes its DST; a fault there ends the collective for every participant (07 R174, R175, 14 R317). -/
def State.slotStore (s : State) (i : Nat) (x : RedSlot) (n : Nat) (abort : Bool) : State :=
  match s.coll? n with
  | none => s
  | some c =>
    let y := { x with stage := .storing, todo := [], waits := [] }
    match s.dstWrites x c with
    | none => s.slotEnds i x 6 0 []
    | some ws =>
      match s.dropL2.hubTranslate c.ctx .write (bitRuns c.dseg ws) (s.collRec c) abort with
      | (.ok rs, s1) =>
        s1.slotWriting i { y with stamps := s1.regionStamps rs, writing := true } (bitWrites rs c.dseg ws)
      | (.parked, s1) => s1.setSlot i { y with faulted := true }
      | (_, s1) => s1.slotEnds i x 7 0 []

/-- Goes on with the data of a `.bcast`; the home writes its own DST once all of it is answered, so that a participant
that cannot be reached leaves DST untouched (07 R175). -/
def State.slotSending (s : State) (i : Nat) (x : RedSlot) (n : Nat) (todo : List EngWrite) : State :=
  if x.lost then s.slotEnds i x 6 0 []
  else
    let r := s.engWrites x.ctx (.slotWrite i) (.slotRead i) todo
    let waits := x.waits.filter s.isOpen ++ r.2.2
    let y := { x with stage := .storing, todo := r.2.1, waits := waits }
    if r.2.1.isEmpty && waits.isEmpty then r.1.slotStore i y n false else r.1.setSlot i y

/-- The data of a `.bcast` for the participants: those of this device take it from the home's read. -/
def State.slotBcast (s : State) (i : Nat) (x : RedSlot) (n : Nat) (c : CollJob) : State :=
  let bs := c.got.flatMap Prod.snd
  let s1 := (x.got.filterMap (·.job)).foldl (fun s k => s.modColl k (fun c => { c with got := [(0, bs)] })) s
  s1.slotSending i { x with result := 0, waits := [] } n (bcastSends x bs)

/-- All contributions have arrived: the home combines them (11 R244, R245). A home that issued no `coll` completes
nothing (07 R173). -/
def State.slotComplete (s : State) (i : Nat) (x : RedSlot) : State :=
  match x.own with
  | none => s
  | some (_, n) =>
    match s.coll? n with
    | none => s
    | some c =>
      match c.op with
      | .red =>
        match homeValue c.fmt c.opc c.arr x.got with
        | none => s.slotEnds i x 5 0 []
        | some v => s.slotStore i { x with result := v } n false
      | .gath => s.slotStore i { x with result := 0 } n false
      | .bcast => s.slotBcast i x n c

/-- The slot with the context of the home's own `coll`, where the contribution is the first of that device (07 R173). -/
def RedSlot.inCtx (x : RedSlot) (s : State) (p : CollPart) : RedSlot :=
  match x.own, p.job.bind s.coll? with
  | none, some c => { x with ctx := c.ctx }
  | _, _ => x

/-- A contribution that comes too late for the outcome: its participant gets a record with a status of its own. -/
def State.latePart (s : State) (i : Nat) (x : RedSlot) (p : CollPart) (status : BitVec 8) : State :=
  match p.job with
  | some n => (s.setSlot i x).collEnds n status (BitVec.ofNat 16 x.got.length) 0 0
  | none =>
    let m := recordMsg x.tag p x.got.length status 0 0
    match x.stage with
    | .records => s.slotRecords i { x with todo := x.todo ++ [m] }
    | _ => s.setSlot i { x with extra := x.extra ++ [m] }

/-- A contribution reaches the home; false where its slot is held by another TAG (14 R316, R317). Once all have arrived,
a further one is a second one of its PIDX: it ends the collective while nothing of DST is written; afterwards the outcome
stands, and it alone is answered with STATUS 0x03 (log entry 36). -/
def State.takePart (s : State) (tag : BitVec 32) (common : List Word) (tout : BitVec 32) (p : CollPart) : Bool × State :=
  let i := tag.toNat % 4096
  let go (x : RedSlot) (s : State) : State :=
    let y := { x with got := x.got ++ [p] }
    let s1 := s.setSlot i y
    if y.got.length = (common.getD 1 0).toNat + 1 then s1.slotComplete i y else s1
  match s.slot? i with
  | none =>
    (true, go (({ tag := tag, ctx := 0, common := common, tout := tout, got := [], stage := .gathering, status := 0
                  result := 0, faulted := false, abortNext := false, todo := [], stamps := [], waits := []
                  lost := false, writing := false, extra := [] } : RedSlot).inCtx s p) s)
  | some x0 =>
    let x := x0.inCtx s p
    let second := x.common != common || x.got.any (fun q => q.pidx == p.pidx)
    if x.tag ≠ tag then (false, s)
    else
      match x.stage with
      | .gathering => if second then (true, s.slotEnds i x 3 0 [p]) else (true, go x s)
      | .storing => if x.writing then (true, s.latePart i x p 3) else (true, s.slotEnds i x 3 0 [p])
      | .records => (true, s.latePart i x p (if second && x.status == 1 then 3 else x.status))

/-! ### A participant's contribution (07 R174, 14 R316) -/

/-- The part a participant contributes. -/
def CollJob.part (c : CollJob) (dev : Nat) (value : Word) (job : Option Nat) : CollPart where
  dev := dev
  pidx := c.pidx
  gidx := c.gidx
  nelem := c.nelem
  value := value
  job := job

/-- Contributes the value in `result`: to this device's own slot, or by a KIND 3 request. -/
def State.contribute3 (s : State) (n : Nat) : State :=
  match s.coll? n with
  | none => s
  | some c =>
    if c.home = s.devnum.toNat then
      let s1 := s.setColl n { c with phase := .answered, todo := [], waits := [] }
      match s1.takePart c.tag c.common c.tout (c.part c.home c.result (some n)) with
      | (true, s2) => s2
      | (false, s2) => s2.setColl n { c with phase := .sent, todo := [], waits := [] }
    else if s.canSend c.ctx c.home 1 then
      let words := [c.tag.setWidth 64, BitVec.ofNat 64 c.pidx, BitVec.ofNat 64 c.gidx, BitVec.ofNat 64 c.nelem,
        c.tout.setWidth 64, c.result] ++ c.common
      let r := s.sendColl c.ctx c.home 3 words [] (BitVec.ofNat 12 c.tag.toNat) (.contribution n)
      r.2.setColl n { c with phase := .sent, todo := [], waits := [r.1] }
    else s.setColl n { c with phase := .sent, todo := [], waits := [] }

/-- Goes on with the data of a `.gath`. -/
def State.collSending (s : State) (n : Nat) (c : CollJob) : State :=
  if c.lost then s.collFails n 6
  else
    let r := s.engWrites c.ctx (.dataWrite n) (.engineRead n) c.todo
    let waits := c.waits.filter s.isOpen ++ r.2.2
    let s1 := r.1.setColl n { c with phase := .sending, todo := r.2.1, waits := waits }
    if r.2.1.isEmpty && waits.isEmpty then s1.contribute3 n else s1

/-- SRC has been read. -/
def State.collGot (s : State) (n : Nat) (c : CollJob) (bs : List Byte) : State :=
  match c.op with
  | .red => (s.setColl n { c with result := partitionValue c.fmt c.opc c.nelem (ofBytes bs) }).contribute3 n
  | .bcast => (s.setColl n { c with got := [(0, bs)] }).contribute3 n
  | .gath =>
    if c.home = s.devnum.toNat then
      let x : GathPiece := { tag := c.tag, dev := c.home, pidx := c.pidx, off := 0, bytes := bs }
      { s with gathered := s.gathered ++ [x] }.contribute3 n
    else
      s.collSending n { c with todo := (pieces64 bs).map (fun q =>
        EngWrite.send c.home [c.tag.setWidth 64, 1, BitVec.ofNat 64 c.pidx, BitVec.ofNat 64 q.1] q.2) }

/-- Checks the descriptor, reads SRC at .sys, and contributes (12 R269). Only the home of a `.bcast` reads. -/
def State.tryCollect (s : State) (n : Nat) (abort lost : Bool) : State :=
  match s.coll? n with
  | none => s
  | some c =>
    if c.bad then s.collFails n 4
    else if c.op = .bcast ∧ c.home ≠ s.devnum.toNat then s.contribute3 n
    else
      let s0 := if c.phase = .posted then s.dropL2 else s
      let c1 := { c with phase := .reading, faulted := false }
      match (s0.setColl n c1).hubRead c.ctx c.sseg c.src c.byteCount (s.collRec c) abort (.engineRead n) with
      | (.ok bs, s1) => s1.collGot n c1 bs
      | (.parked, s1) => s1.setColl n { c1 with faulted := true }
      | (.bad, s1) => s1.collFails n 7
      | (.forbidden, s1) => s1.collFails n 7
      | (.poisoned, s1) => s1.collFails n 8
      | (.waits, s1) => if lost then s1.collFails n 6 else s1

/-- The engine has sectors of SRC on their way. -/
def State.collReads (s : State) (n : Nat) : Bool :=
  s.remotes.any (fun e => match e.2.purpose with
    | .engineRead k _ => k == n
    | _ => false)

/-- A participant's engine reads SRC, forms its partition and sends its contribution; it sends again a contribution
that could not leave. -/
def execCollSubtree (n : Nat) (s : State) : Host.Outcome State Fault Refusal :=
  match s.coll? n with
  | none => .next s
  | some c =>
    match c.phase with
    | .posted => if c.faulted then .next s else .next (s.tryCollect n false false)
    | .reading => if c.faulted || s.collReads n then .next s else .next (s.tryCollect n false false)
    | .sent => if c.waits.isEmpty then .next (s.contribute3 n) else .next s
    | _ => .next s

/-! ### Timeouts (14 R318) -/

/-- TOUT expires at the home before DST is written. -/
def execCollHomeTimeout (slot : Nat) (s : State) : Host.Outcome State Fault Refusal :=
  match s.slot? slot with
  | none => .next s
  | some x =>
    if x.stage = .gathering ∨ (x.stage = .storing ∧ x.writing = false) then .next (s.slotEnds slot x 2 0 [])
    else .next s

/-- No record has come within 2 × TOUT + RMAX × RTO of the answer. -/
def execCollParticipantTimeout (n : Nat) (s : State) : Host.Outcome State Fault Refusal :=
  match s.coll? n with
  | none => .next s
  | some c => if c.phase = .answered then .next (s.collFails n 2) else .next s

/-! ### What requests bring (14 R294, R316) -/

/-- A KIND 3 request reaches its home; false where the slot is held by another TAG. -/
def State.partIn (s : State) (q : RemoteReq) : Bool × State :=
  let w (i : Nat) : Nat := (q.coll.getD i 0).toNat
  s.takePart (BitVec.ofNat 32 (w 0)) (q.coll.drop 6) (BitVec.ofNat 32 (w 4))
    { dev := q.src, pidx := w 1, gidx := w 2, nelem := w 3, value := q.coll.getD 5 0, job := none }

/-- The slot a contribution names is held by another TAG. -/
def State.slotTaken (s : State) (q : RemoteReq) : Bool :=
  match s.slot? ((q.coll.getD 0 0).toNat % 4096) with
  | some x => x.tag.toNat != (q.coll.getD 0 0).toNat % 2 ^ 32
  | none => false

/-- The collective of this device that a message of the home is for. -/
def State.collFor (s : State) (src : Nat) (tag : BitVec 32) (pidx : Nat) : Option Nat :=
  (s.colls.find? (fun e => e.2.tag == tag && e.2.pidx == pidx && e.2.home == src
    && (e.2.phase == .sent || e.2.phase == .answered))).map Prod.fst

/-- A KIND 4 request of a collective: a record, a piece of `.gath` data, or a piece of `.bcast` data. -/
def State.collIn (s : State) (q : RemoteReq) : State :=
  let w (i : Nat) : Nat := (q.coll.getD i 0).toNat
  let tag : BitVec 32 := BitVec.ofNat 32 (w 0)
  match w 1 with
  | 1 =>
    let x : GathPiece := { tag := tag, dev := q.src, pidx := w 2, off := w 3, bytes := q.data }
    let rest := s.gathered.filter (fun y =>
      !(y.tag == x.tag && y.dev == x.dev && y.pidx == x.pidx && y.off == x.off))
    { s with gathered := rest ++ [x] }
  | k =>
    match s.collFor q.src tag (w 2) with
    | none => s
    | some n =>
      if k = 2 then s.modColl n (fun c => { c with got := c.got.filter (fun e => e.1 != w 3) ++ [(w 3, q.data)] })
      else
        let w0 : Nat := ofBytes (q.data.take 8)
        s.collEnds n (BitVec.ofNat 8 (bits w0 0 8)) (BitVec.ofNat 16 (bits w0 16 16)) (wordOf ((q.data.drop 8).take 8)) (w 3)

/-! ### What wakes the engine -/

/-- Goes on with a collective whose requests have ended. -/
def State.wakeColl (s : State) (n : Nat) : State :=
  match s.coll? n with
  | none => s
  | some c =>
    if c.faulted then s
    else
      match c.phase with
      | .reading => if s.collReads n then s else s.tryCollect n false false
      | .sending => s.collSending n c
      | .storing => if c.lost then s.collStatus n 6 else s.collStoring n c c.todo
      | .releasing => if c.waits.any s.isOpen then s else if s.l2Unsent then s.collRelease n else s.collRecord n false
      | .recording =>
        if c.waits.any s.isOpen then s
        else if c.todo.isEmpty then s.dropColl n
        else s.collRecord n false
      | _ => s

/-- Goes on with a slot whose requests have ended. -/
def State.wakeSlot (s : State) (i : Nat) : State :=
  match s.slot? i with
  | none => s
  | some x =>
    if x.faulted then s
    else
      match x.stage with
      | .gathering => s
      | .storing =>
        if x.writing then s.slotWriting i x x.todo
        else match x.own with
          | some (_, n) => s.slotSending i x n x.todo
          | none => s
      | .records => s.slotRecords i x

/-- After outcomes of remote requests: every collective and slot goes on that can. -/
def State.wakeColls (s : State) : State :=
  let s1 := (s.colls.map Prod.fst).foldl State.wakeColl s
  (s1.redSlots.map Prod.fst).foldl State.wakeSlot s1

/-- REPLAY-ALL and FAULT-ABORT release the accesses of the engine in a context (15 R335). -/
def State.replayColl (s : State) (ctx : Nat) (abort : Bool) (n : Nat) : State :=
  match s.coll? n with
  | none => s
  | some c =>
    if c.ctx = ctx ∧ c.faulted = true then
      match c.phase with
      | .posted => s.tryCollect n abort false
      | .reading => s.tryCollect n abort false
      | .storing => s.collStore n abort
      | .recording => s.collRecord n abort
      | _ => s
    else s

def State.replaySlot (s : State) (ctx : Nat) (abort : Bool) (i : Nat) : State :=
  match s.slot? i with
  | none => s
  | some x =>
    match x.own with
    | some (_, n) =>
      if x.ctx = ctx ∧ x.faulted = true then s.slotStore i { x with faulted := false } n abort else s
    | none => s

def State.replayColls (s : State) (ctx : Nat) (abort : Bool) : State :=
  let s1 := (s.colls.map Prod.fst).foldl (fun s n => s.replayColl ctx abort n) s
  (s1.redSlots.map Prod.fst).foldl (fun s i => s.replaySlot ctx abort i) s1

/-- A request of a collective has no answer: a contribution, data, or a sector (14 R318). -/
def State.collLost (s : State) (n : Nat) : State :=
  match s.coll? n with
  | none => s
  | some c =>
    match c.phase with
    | .sent => s.collFails n 6
    | .reading => s.tryCollect n false true
    | _ => s.setColl n { c with lost := true }

def State.slotLost (s : State) (i : Nat) : State :=
  match s.slot? i with
  | none => s
  | some x => s.setSlot i { x with lost := true }

/-- The contribution has been answered. -/
def State.partAnswered (s : State) (n : Nat) (inc : Option (BitVec 16)) : State :=
  s.modColl n (fun c => if c.phase = .sent then { c with phase := .answered, waits := [], inc := inc.or c.inc } else c)

/-- A piece of `.gath` data has been answered. -/
def State.dataAnswered (s : State) (n : Nat) (inc : Option (BitVec 16)) : State :=
  s.modColl n (fun c => if c.phase = .sending then { c with inc := inc.or c.inc } else c)

/-- Collectives that lose what they had at their home end with STATUS 0x06 (14 R318). -/
def State.loseColls (s : State) (lost : CollJob → Bool) : State :=
  ((s.colls.filter (fun e => lost e.2)).map Prod.fst).foldl (fun s n => s.collFails n 6) s

/-- A participant that waits for its record, or whose `.gath` data is on its way, has been answered by its home before
the home's restart. -/
def CollJob.before (c : CollJob) (owner : Nat) (inc : BitVec 16) : Bool :=
  c.home == owner && (c.phase == .answered || c.phase == .sending) && c.inc.any (fun i => i != inc)

/-- A home is learnt to have restarted. -/
def State.homeRestarted (s : State) (owner : Nat) (inc : BitVec 16) : State := s.loseColls (fun c => c.before owner inc)

end Sys2Proof.Machine
end

