-- ==== Sys2Proof/Machine/Requester.lean ====
section
/-! DEFINITION. The requester's side of the fabric: answers, retransmission, outcomes and where they are delivered,
RETIRE and CLOSE (14 R296, R301, R305 to R308, R312, R315). -/

namespace Sys2Proof.Machine

/-! ### Outcomes (14 R306, R308) -/

/-- The final outcome of a request. -/
inductive Outcome
  | final (data : List Byte)
  /-- RSTAT 7, or a read whose data is in error, with what came as data -/
  | poisoned (data : List Byte)
  /-- indeterminate, or a read that was never answered, with DETAIL -/
  | lost (detail : BitVec 16)
  deriving DecidableEq, Repr

/-- INFO of trap 0x0D (14 R308). -/
def Remote.info (r : Remote) : Word :=
  BitVec.ofNat 64 (r.req.hm.toNat + r.owner % 1024 * 2 ^ 32 + r.req.kind.toNat * 2 ^ 44)

/-- A record of KIND 2 (15 R330). -/
def State.lostRec (s : State) (r : Remote) (base : FaultRec) (detail : BitVec 16) (addr : Word) (seg : BitVec 8) : State :=
  s.post r.ctx 4 { base with
    kind := 2, acc := if r.req.kind = 0 then 0 else 1, code := 0x0D, detail := detail.toNat
    info := r.req.kind.toNat, addr := addr, seg := seg }

/-- A group takes traps: it is resident or saved. -/
def State.takesTraps (s : State) (gid : GroupId) : Bool :=
  match s.group? gid with
  | some g => g.phase == .running || g.isSaved
  | none => false

/-- An indeterminate outcome of a group's request: its trap, or a record of KIND 2 (14 R308). -/
def State.oweLost (s : State) (r : Remote) (gid : GroupId) (t : TrapInfo) (detail : BitVec 16) : State :=
  if s.takesTraps gid then s.oweTrap gid { t with code := 0x0D, detail := detail, info := r.info }
  else
    s.lostRec r (s.groupRec gid (match s.group? gid with
      | some g => g.core.clus
      | none => 65535)) detail t.addr t.aseg

/-- The mask of written bytes of a request. -/
def reqMask (q : RemoteReq) : Word := maskOf ((List.range 64).filter (fun i => q.mask.getD i false))

/-- Bytes that leave a cached sector; those written since stay. -/
def Sector.forget (x : Sector) (m : Word) : Option Sector :=
  let v := x.valid &&& ~~~(m &&& ~~~x.mask)
  if v = 0 then none else some { x with valid := v }

/-- The bytes of an indeterminate write-back are dropped from the caches (14 R315). -/
def State.dropBytes (s : State) (sec : Nat) (m : Word) : State :=
  let s1 := match s.l2Sector sec with
    | some x => s.setL2 sec ({ x with mask := x.mask &&& ~~~m }.forget m)
    | none => s
  { s1 with clusters := s1.clusters.map (fun c => (c.1, Cluster.prune { c.2 with
      l1 := c.2.l1.filterMap (fun e => if e.1 = sec then (e.2.forget m).map (fun x => (e.1, x)) else some e) })) }

/-- A write-back has its outcome. -/
def State.endWriteback (s : State) (r : Remote) (sec : Nat) (who : Option (GroupId × TrapInfo)) (o : Outcome) : State :=
  let m := reqMask r.req
  match o with
  | .lost d =>
    let s1 := s.dropBytes sec m
    match who with
    | some (gid, t) => s1.oweLost r gid t d
    | none => s1.lostRec r FaultRec.blank d (BitVec.ofNat 64 r.req.pa) 0
  | _ =>
    match s.l2Sector sec with
    | some x => s.setL2 sec (some { x with mask := x.mask &&& ~~~m })
    | none => s

/-- Teams whose save waits for a write-back are settled when one has ended (12 R271). -/
def State.settleTeams (s : State) : State :=
  ((s.teams.filter (fun e => e.2.phase == .resident)).map Prod.fst).foldl State.settleTeam s

/-- A reply to a fetching atomic in flight. -/
def Group.reply (g : Group) (serial n : Nat) (ws : List RegWrite) (c : Counts) (due : List TrapInfo) : Group :=
  { g with flight := g.flight.map (fun f =>
      if f.serial = serial then
        { f with writes := f.writes ++ ws, counts := f.counts.add c, due := f.due ++ due
                 waits := f.waits.filter (fun k => k != n) }
      else f) }

/-- What an atomic's request carries for its answer. -/
structure AtomAnswer where
  gid : GroupId
  serial : Nat
  reg : Option Nat
  op : AtomOp
  b64 : Bool
  fdef : Word
  soff : BitVec 32
  lanes : List FetchLane
  counts : Counts
  trap : TrapInfo
  deriving DecidableEq, Repr

/-- The seed of a launch. -/
def State.seedOf (s : State) (n : Nat) : Word :=
  match s.launch? n with
  | some l => l.lrec.seed
  | none => 0

/-- An atomic at its owner has its outcome (05 R126, 14 R306). The trap of an indeterminate one is due at once, before
the other requests of its word have ended (14 R308). -/
def State.endAtomic (s : State) (n : Nat) (r : Remote) (a : AtomAnswer) (o : Outcome) : State :=
  match o with
  | .final data =>
    let x := fetchAll a.op a.b64 (Fmt.ofWord a.fdef) (s.seedOf a.gid.launch) a.gid.team a.soff
      (wordOf (data.take (atomBytes a.b64))) a.lanes
    let cnt := a.counts.add x.2
    match a.reg with
    | some d => s.modGroup a.gid (fun g => g.reply a.serial n (laneWrites g.width d x.1) cnt [])
    | none => s.modGroup a.gid (fun g => g.lateCounts cnt)
  | .poisoned _ =>
    let t := { a.trap with code := 0x12, detail := 0 }
    match a.reg with
    | some _ => s.modGroup a.gid (fun g => g.reply a.serial n [] Counts.zero [t])
    | none => s.oweTrap a.gid t
  | .lost d =>
    let t := { a.trap with code := 0x0D, detail := d, info := r.info }
    match a.reg with
    | some _ => (s.oweLost r a.gid t d).modGroup a.gid (fun g => g.reply a.serial n [] Counts.zero [])
    | none => s.oweLost r a.gid t d

/-- An open request is an operation of the word with that serial. -/
def isAtomicOf (serial : Nat) (r : Remote) : Bool :=
  match r.purpose with
  | .atomic _ m _ _ _ _ _ _ _ _ _ _ _ _ _ _ => m == serial
  | _ => false

/-- The acquire of an atomic whose operations went to peers follows the last of their reading halves, and its path may
issue again (05 R128, 12 R255). Its write-backs belong to the group: `t` is their trap (14 R308; log entry 38). -/
def State.endAcquire (s : State) (gid : GroupId) (serial : Nat) (t : TrapInfo) : State :=
  match s.group? gid with
  | none => s
  | some g =>
    let waits (p : Option Path) : Bool := p.any (fun p => p.acquiring == some serial)
    let freed (p : Path) : Path := if p.acquiring = some serial then { p with acquiring := none } else p
    if (waits g.p0 || waits g.p1) && !s.remotes.any (fun r => isAtomicOf serial r.2) then
      (s.acquireAt g.core.clus (s.ctxOf gid.launch) (fun _ => some (gid, t)) .sys).modGroup gid (fun g => { g with
        p0 := g.p0.map freed, p1 := g.p1.map freed })
    else s

/-- A drain's read of a peer sector met poison or no answer: the contributions of the sector are not performed. -/
def State.drainFails (s : State) (r : Remote) (tid : TeamId) (sec : Nat) (o : Outcome) : State :=
  match s.team? tid with
  | none => s
  | some t =>
    let gone := t.contrib.filter (fun c => sectorOf c.ga == sec)
    let s1 := s.setTeam tid { t with contrib := t.contrib.filter (fun c => sectorOf c.ga != sec) }
    gone.foldl (fun s c => match o with
      | .lost d => s.oweLost r c.gid c.due d
      | _ => s.oweTrap c.gid { c.due with addr := c.due.addr / 64 * 64 }) s1

/-- A path's read of a peer sector has its outcome. -/
def State.endFill (s : State) (gid : GroupId) (slot sec : Nat) (res : FillRes) : State :=
  s.modGroup gid (fun g => g.modPath slot (fun p => { p with fills := Tab.put p.fills sec res }))

/-- A copy's read of a peer sector has failed (07 R172). -/
def State.copyReadFails (s : State) (tid : TeamId) (q off reason : Nat) : State :=
  match s.headCopy (tid, q) with
  | some c => s.discardCopy (tid, q) c reason off
  | none => s

/-- The stored data of a poisoned sector as its owner's answer gives it; bytes that the answer does not give are free
(05 R103; log entry 69). -/
def storedData (bs : List Byte) : List Byte := (List.range 64).map (fun i => bs.getD i (Config.freeByte i))

/-- INCARN of the owner, as the answer to a request with the extension has just given it. -/
def State.incAt (s : State) (r : Remote) : Option (BitVec 16) :=
  if r.req.ext then some (s.pair r.ctx r.owner).expinc else none

/-- Delivers an outcome to what the request was made for. -/
def State.deliver (s : State) (n : Nat) (r : Remote) (o : Outcome) : State :=
  match r.purpose, o with
  | .fill gid slot sec, .final bs => (s.installL2 sec bs).endFill gid slot sec (.bytes bs)
  | .fill gid slot sec, .poisoned bs => s.endFill gid slot sec (.poisoned (storedData bs))
  | .fill gid slot sec, .lost d => s.endFill gid slot sec (.failed d)
  | .copyRead _ _ _, .final bs => s.installL2 r.sec bs
  | .copyRead tid q off, .poisoned _ => s.copyReadFails tid q off 3
  | .copyRead tid q off, .lost _ => s.copyReadFails tid q off 7
  | .engineRead _ sec, .final bs => s.installL2 sec bs
  | .engineRead k _, .poisoned _ =>
    match s.coll? k with
    | some c => if c.phase = .reading then s.collFails k 8 else s.collLost k
    | none => s
  | .engineRead k _, .lost _ => s.collLost k
  | .slotRead _ sec, .final bs => s.installL2 sec bs
  | .slotRead i _, _ => s.slotLost i
  | .frontRead _ sec, .final bs => s.installL2 sec bs
  | .frontRead q _, _ => s.frontLost q
  | .waitRead q id, .final bs => s.waitAnswer q id bs
  | .waitRead q _, _ => s.waitFails q
  | .prefetch clus sec h h2, .final bs =>
    let s1 := s.installL2 sec bs
    match clus with
    | some c => (s1.plainRead c (sectorBase sec) 64 h h2).2
    | none => s1.noteL2 sec (some h2)
  | .prefetch _ _ _ _, _ => s
  | .drainRead _ sec, .final bs => s.installL2 sec bs
  | .drainRead tid sec, o => s.drainFails r tid sec o
  | .writeback sec who, o => (s.endWriteback r sec who o).settleTeams
  | .atomic gid serial reg op b64 fdef soff lanes counts pc rpc addr aseg mask slot lane, o =>
    let t : TrapInfo := {
      code := 0x0D, detail := 0, lane := BitVec.ofNat 16 lane, prec := false, pc := pc, rpc := rpc, addr := addr
      aseg := aseg, mask := mask, info := 0, slot := slot }
    (s.endAtomic n r {
      gid := gid, serial := serial, reg := reg, op := op, b64 := b64, fdef := fdef, soff := soff, lanes := lanes
      counts := counts, trap := t } o).endAcquire gid serial { t with lane := 0xFFFF, addr := 0, aseg := 0 }
  | .contribution k, .lost _ => s.collLost k
  | .contribution k, _ => s.partAnswered k (s.incAt r)
  | .recordWrite _, .lost d => s.lostRec r { FaultRec.blank with src := 2 } d (BitVec.ofNat 64 r.req.pa) 0
  | .recordWrite _, _ => s
  | .dataWrite k, .lost d =>
    match s.coll? k with
    | some c =>
      if c.phase = .recording then s.lostRec r (s.collRec c) d c.comp c.cseg else s.setColl k { c with lost := true }
    | none => s
  | .dataWrite k, _ => s.dataAnswered k (s.incAt r)
  | .slotWrite i, .lost _ => s.slotLost i
  | .slotWrite _, _ => s
  | .store q, .lost d => s.lostRec r { FaultRec.blank with src := 3, queue := q } d (BitVec.ofNat 64 r.req.pa) 0
  | .store _, _ => s
  | .retire, _ => s
  | .close, _ => s

/-- Whatever may go on after outcomes goes on. -/
def State.wakeEngines (s : State) : State := (s.wakeFront).wakeColls

/-- A request ends: it leaves the window, later requests leave, and its outcome is delivered. -/
def State.endRemote (s : State) (n : Nat) (o : Outcome) : State :=
  match Tab.get? s.remotes n with
  | none => s
  | some r => ((s.retireRemote n).deliver n r o).wakeEngines

/-! ### Answers (14 R305, R306) -/

/-- A response other than RSTAT 2 teaches the owner's incarnation (14 R306, R318). -/
def State.learnInc (s : State) (ctx owner : Nat) (inc : BitVec 16) : State :=
  let p := s.pair ctx owner
  if p.expinc = inc then s
  else
    let s1 := s.modPair ctx owner (fun p => { p with expinc := inc })
    { s1 with peerInc := Sparse.put 0 s1.peerInc owner inc }.homeRestarted owner inc

/-- ANN takes the retire-below that an answered request carried (14 R305). -/
def State.acked (s : State) (r : Remote) : State :=
  s.modPair r.ctx r.owner (fun p => { p with ann := r.req.rb })

/-- The request an answer belongs to: by its link-level transaction, its owner and its hallmark. -/
def State.answered (s : State) (m : RemoteResp) : Option Remote :=
  match Tab.get? s.remotes m.tag with
  | some r =>
    if r.owner = m.src ∧ r.sent ≠ [] ∧ r.req.ext = m.ext ∧ (m.ext = true → r.req.hm = m.hm) then some r else none
  | none => none

/-- The answer to a RETIRE or CLOSE: RSTAT 2 and 3 leave it to be sent again (14 R305). -/
def State.answerRetire (s : State) (n : Nat) (r : Remote) (rstat : BitVec 4) : State :=
  match rstat with
  | 0 => (if r.req.kind = 5 then s.acked r else s).endRemote n (.final [])
  | 2 => s
  | 3 => s
  | _ => s.endRemote n (.final [])

/-- The answer to a non-idempotent request that carries the extension (14 R306). -/
def State.answerExt (s : State) (n : Nat) (r : Remote) (m : RemoteResp) : State :=
  match m.rstat with
  | 0 => (s.acked r).endRemote n (.final m.data)
  | 1 => (s.acked r).endRemote n (.final m.data)
  | 2 => { s with remotes := Tab.put s.remotes n { r with backoff := true } }
  | 6 => { s with remotes := Tab.put s.remotes n { r with backoff := true } }
  | 3 =>
    let k := r.sent.count m.echo
    if k = 0 then s
    else if m.echo = 0 ∨ k = 1 then (if r.req.expinc = m.incarn then s else s.transmit n true true)
    else s.endRemote n (.lost 1)
  | 4 => (s.acked r).endRemote n (.lost 5)
  | 5 => s.endRemote n (.lost 5)
  | 7 => (s.acked r).endRemote n (.poisoned [])
  | _ => s

/-- A response arrives; one for a request already resolved is discarded. -/
def execRemoteResponse (m : RemoteResp) (s : State) : Host.Outcome State Fault Refusal :=
  match s.answered m with
  | none => .next s
  | some r =>
    if m.ext then
      let s1 := if m.rstat = 2 then s else s.learnInc r.ctx r.owner m.incarn
      match Tab.get? s1.remotes m.tag with
      | none => .next s1
      | some r1 =>
        if reqHasHm r.req then .next (s1.answerExt m.tag r1 m) else .next (s1.answerRetire m.tag r1 m.rstat)
    else .next (s.endRemote m.tag (if m.err then .poisoned m.data else .final m.data))

/-! ### Timers (14 R296, R305 to R307) -/

/-- RMAX, 0 being 8. -/
def State.maxRetries (s : State) : Nat := if s.rmax = 0 then 8 else s.rmax.toNat

/-- RTO expires: the request is sent again, or it ends without an answer. A RETIRE or CLOSE is then dropped. -/
def execRtoExpiry (n : Nat) (s : State) : Host.Outcome State Fault Refusal :=
  match Tab.get? s.remotes n with
  | none => .next s
  | some r =>
    if r.sent = [] ∨ r.backoff = true then .next s
    else if r.nonIdem = true ∧ r.req.ext = false then .next (s.endRemote n (.lost 4))
    else if r.retries < s.maxRetries then
      let s1 := { s with remotes := Tab.put s.remotes n { r with retries := r.retries + 1 } }
      .next (s1.transmit n true (r.nonIdem && !reqHasHm r.req))
    else .next (s.endRemote n (.lost 2))

/-- The backoff after RSTAT 2 or 6 ends. -/
def execBusyBackoffExpiry (n : Nat) (s : State) : Host.Outcome State Fault Refusal :=
  match Tab.get? s.remotes n with
  | none => .next s
  | some r => if r.backoff then .next (s.transmit n true false) else .next s

/-- The pair with an owner exists and has no request outstanding or waiting. -/
def State.pairIdle (s : State) (ctx owner : Nat) : Bool :=
  (Tab.get? (s.ctx ctx).pairs owner).isSome
    && !s.remotes.any (fun e => e.2.ctx == ctx && e.2.owner == owner && e.2.nonIdem)

/-- Sends RETIRE (kind 5) or CLOSE (kind 6). -/
def State.sendRetire (s : State) (ctx owner : Nat) (kind : BitVec 4) : State :=
  (s.sendRemote ctx owner (2 ^ 80 + s.serial) (reqPlain s ctx kind 0) (if kind = 5 then .retire else .close)).2

/-- After IDLERET the requester sends RETIRE. -/
def execIdleRetire (ctx owner : Nat) (s : State) : Host.Outcome State Fault Refusal :=
  let p := s.pair ctx owner
  if s.pairIdle ctx owner = true ∧ p.low ≠ p.ann ∧ s.isPeerx owner = true then .next (s.sendRetire ctx owner 5) else .next s

/-- After DRAIN without a request the requester sends CLOSE, once (14 R305). -/
def execDrainClose (ctx owner : Nat) (s : State) : Host.Outcome State Fault Refusal :=
  if s.pairIdle ctx owner = true ∧ s.isPeerx owner = true ∧ (s.pair ctx owner).closed = false then
    .next ((s.setPair ctx owner { s.pair ctx owner with closed := true }).sendRetire ctx owner 6)
  else .next s

/-- RLIM during a switch-out: what is unresolved is indeterminate with DETAIL 3 (14 R312). -/
def execRlimExpiry (ctx : Nat) (s : State) : Host.Outcome State Fault Refusal :=
  if (s.ctx ctx).cmd = 3 ∧ (s.ctx ctx).quiet = true then
    .next (((s.remotes.filter (fun e => e.2.ctx == ctx)).map Prod.fst).foldl (fun s n => s.endRemote n (.lost 3)) s)
  else .next s

end Sys2Proof.Machine
end

