-- ==== Sys2Proof/Machine/Owner.lean ====
section
/-! DEFINITION. The owner's side of the fabric: Receive with its floors and locket, a fabric reset, and the repair of a
port's lanes (14 R296 to R298, R303, R304, R309, R310, R313, R314). -/

namespace Sys2Proof.Machine

/-! ### Performing a request at the home slice (14 R297, R304) -/

/-- The slice that keeps the locket entries of a reduction slot. -/
def slotSlice (i : Nat) : Nat := Config.rawSlotSlice i % 64

/-- The slice of a request's locket entry: the home slice of the line it targets, or for KIND 3 that of its reduction
slot (14 R303). -/
def reqSlice (q : RemoteReq) : Nat :=
  if q.kind = 3 then slotSlice q.rslot.toNat
  else sliceOf q.pa

/-- The operation of a code. -/
def opOfCode (c : Nat) : Option AtomOp :=
  [AtomOp.add, .and, .or, .xor, .min, .max, .umin, .umax, .exch, .fadd, .fmin, .fmax][c]?

def reqOp (q : RemoteReq) : Nat := (q.rslot.extractLsb' 0 5).toNat
def reqB64 (q : RemoteReq) : Bool := q.rslot.getLsbD 6

/-- Whether a physical address names memory of this device (15 R320). -/
def State.ownsPa (s : State) (p : Nat) : Bool := decide (p < 2 ^ 57) && s.inTier (placeTier p) (placeAddr p) 1

/-- A malformed request (14 R297): its KIND, a bit that must be zero, an operation code, or a definition that no slot
can hold; a target outside this device's memory counts with them (log entry 37). -/
def State.malformed (s : State) (q : RemoteReq) : Bool :=
  q.kind == 0 || decide (7 ≤ q.kind.toNat) || q.rsvd
    || (q.kind != 2 && q.lanes != 0)
    || ((q.kind == 5 || q.kind == 6) && q.hm != 0)
    || (if q.kind = 2 then
          (decide (11 < reqOp q) && reqOp q != 16) || q.rslot.getLsbD 5 || q.rslot.extractLsb' 7 5 != 0
            || (decide (9 ≤ reqOp q) && decide (reqOp q ≤ 11) && (Fmt.invalid q.fdef).isSome)
        else q.kind != 3 && q.rslot != 0)
    || ((q.kind == 1 || q.kind == 2 || (q.kind == 4 && q.coll.isEmpty)) && !s.ownsPa q.pa)

/-- Writes the bytes a request names; those of one sector (14 R294). -/
def State.ownerWrite (s : State) (q : RemoteReq) : State :=
  let o := q.pa % 64
  let m := maskOf ((List.range 64).filter (fun i => decide (o ≤ i) && q.mask.getD (i - o) false))
  s.homeWrite (sectorOf q.pa) (place64 o (q.data.take (64 - o))) m

/-- The new value of a remote atomic. Where its definition rounds stochastically, the key is (0, j, 0) with seed, team
and SOFF 0 (14 R297). -/
def ownerRmw (q : RemoteReq) : Rmw := fun old =>
  let nb := atomBytes (reqB64 q)
  let x := wordOf (q.data.take nb)
  if reqOp q = 16 then .pure (if old = x then wordOf ((q.data.drop nb).take nb) else old)
  else
    match opOfCode (reqOp q) with
    | some op => atomOp op (reqB64 q) (Fmt.ofWord q.fdef) (atomKey 0 0 0 0 0) old x
    | none => .pure old

/-- Performs an atomic: the old value. Its lanes are counted (14 R297). -/
def State.ownerAtomic (s : State) (q : RemoteReq) : Word × State :=
  let nb := atomBytes (reqB64 q)
  let old := wordOf (s.homeRead q.pa nb)
  (old, { s.homeWriteAt q.pa (toBytes nb (ownerRmw q old).val.toNat) with
    remoteLanes := s.remoteLanes + BitVec.ofNat 64 (q.lanes.toNat + 1) })

/-- Performs a request that may be performed: its result. -/
def State.performReq (s : State) (q : RemoteReq) : Word × State :=
  match q.kind with
  | 2 => s.ownerAtomic q
  | 3 => (0, (s.partIn q).2)
  | 4 => (0, if q.coll.isEmpty then s.ownerWrite q else s.collIn q)
  | _ => (0, s.ownerWrite q)

/-! ### Floors and lockets (14 R303) -/

/-- The distance from a floor, as a signed number. -/
def signedGap (hm floor : BitVec 32) : Int := (hm - floor).toInt

/-- A locket entry that is in use: its RQID has a floor that it does not precede. -/
def entryLive (floors : List (BitVec 24 × BitVec 32)) (e : LocketEntry) : Bool :=
  match Tab.get? floors e.rqid with
  | some f => !precedes e.hm f
  | none => false

/-- Entries that have become free leave the table. -/
def State.sweepLocket (s : State) : State := { s with locket := s.locket.filter (entryLive s.floors) }

/-- Sends a response to a request. -/
def State.respond (s : State) (q : RemoteReq) (rstat : BitVec 4) (data : List Byte) (err : Bool) : State :=
  let m : RemoteResp := {
    ext := q.ext, src := s.devnum.toNat, tag := 0, echo := q.expinc, hm := q.hm, incarn := s.incarn, rstat := rstat
    data := data, err := err }
  s.putOut (.resp q.src m (respWire m))

def State.answerReq (s : State) (q : RemoteReq) (rstat : BitVec 4) : State := s.respond q rstat [] false

/-- The value of an atomic's answer. -/
def resultBytes (q : RemoteReq) (v : Word) : List Byte := if q.kind = 2 then toBytes (atomBytes (reqB64 q)) v.toNat else []

/-- A request without the extension: performed and answered once per arrival (14 R296); one of an unlisted kind is not
accepted (14 R293). One for an address outside this device's memory, of which the manual says nothing, is answered with
data in error and performs nothing (DESIGN CHOICE, log entry 94). -/
def State.receivePlain (s : State) (q : RemoteReq) : State :=
  if 5 ≤ q.kind.toNat then s
  else if q.kind = 3 then
    let r := s.partIn q
    r.2.answerReq q (if r.1 then 0 else 6)
  else if q.kind = 4 ∧ q.coll ≠ [] then (s.collIn q).answerReq q 0
  else if s.ownsPa q.pa = false then s.respond q 0 [] true
  else if q.kind = 0 then s.respond q 0 (s.homeRead (q.pa / 64 * 64) 64) (s.isPoisoned (sectorOf q.pa))
  else if q.kind = 2 then
    if s.isPoisoned (sectorOf q.pa) then s.respond q 0 [] true
    else
      let r := s.ownerAtomic q
      r.2.respond q 0 (resultBytes q r.1) false
  else (s.ownerWrite q).answerReq q 0

/-- An entry for a request. -/
def lockEntry (q : RemoteReq) (result : Word) (poisoned : Bool) : LocketEntry where
  rqid := q.rqid
  hm := q.hm
  kind := q.kind
  result := result
  poisoned := poisoned
  slice := reqSlice q

def State.record (s : State) (e : LocketEntry) : State := { s with locket := s.locket ++ [e] }

/-- The entry of a request takes its result. -/
def State.setResult (s : State) (q : RemoteReq) (v : Word) : State :=
  { s with locket := s.locket.map (fun (e : LocketEntry) =>
      if e.rqid = q.rqid ∧ e.hm = q.hm then { e with result := v } else e) }

/-- Receive once the floor `f` stands (14 R304). -/
def State.receiveAt (s : State) (q : RemoteReq) (f : BitVec 32) : State :=
  let d := signedGap q.hm f
  if d < 0 then s.answerReq q 4
  else if 65536 ≤ d then s.answerReq q 5
  else
    match s.locket.find? (fun e => e.rqid == q.rqid && e.hm == q.hm) with
    | some e => if e.poisoned then s.answerReq q 7 else s.respond q 1 (resultBytes q e.result) false
    | none =>
      if 4096 ≤ (s.locket.filter (fun e => e.slice == reqSlice q)).length then s.answerReq q 2
      else if q.kind = 3 ∧ s.slotTaken q = true then s.answerReq q 6
      else if q.kind = 2 ∧ s.isPoisoned (sectorOf q.pa) = true then (s.record (lockEntry q 0 true)).answerReq q 7
      else
        let r := (s.record (lockEntry q 0 false)).performReq q
        (r.2.setResult q r.1).respond q 0 (resultBytes q r.1) false

/-- Receive (14 R304). -/
def State.receive (s : State) (q : RemoteReq) : State :=
  if q.ext = false then s.receivePlain q
  else if s.rfen = false then s.answerReq q 2
  else if q.expinc ≠ s.incarn then s.answerReq q 3
  else if s.malformed q then s.answerReq q 5
  else
    match Tab.get? s.floors q.rqid with
    | none =>
      if Config.floorsFull s.floors.length then s.answerReq q 2
      else
        let s1 := { s with floors := s.floors ++ [(q.rqid, q.rb)] }
        if q.kind = 5 then s1.answerReq q 0
        else if q.kind = 6 then { s with floors := Tab.erase s.floors q.rqid }.sweepLocket.answerReq q 0
        else s1.receiveAt q q.rb
    | some f0 =>
      let f := if precedes f0 q.rb then q.rb else f0
      let s1 := { s with floors := Tab.put s.floors q.rqid f }.sweepLocket
      if q.kind = 5 then s1.answerReq q 0
      else if q.kind = 6 then { s1 with floors := Tab.erase s1.floors q.rqid }.sweepLocket.answerReq q 0
      else s1.receiveAt q f

/-- A request arrives. -/
def execReceive (m : RemoteReq) (s : State) : Host.Outcome State Fault Refusal := .next (s.receive m)

/-- RETIRE arrives. -/
def execRetire (m : RemoteReq) (s : State) : Host.Outcome State Fault Refusal :=
  if m.kind = 5 then .next (s.receive m) else .next s

/-- CLOSE arrives. -/
def execClose (m : RemoteReq) (s : State) : Host.Outcome State Fault Refusal :=
  if m.kind = 6 then .next (s.receive m) else .next s

/-! ### Fabric reset (14 R310) -/

/-- The next incarnation: 0 is skipped. -/
def nextInc (i : BitVec 16) : BitVec 16 := if i + 1 = 0 then 1 else i + 1

def isResp : FabMsg → Bool
  | .resp _ _ _ => true
  | .req _ _ _ _ => false

/-- Responses not yet sent are dropped: those that wait for their port (14 R310). -/
def State.dropResponses (s : State) : State := { s with heldOut := s.heldOut.filter (fun m => !isResp m.2) }

/-- A fabric reset; participants of this device that wait for their record from this home lose it (14 R318). -/
def State.fabricReset (s : State) : State :=
  { s with
    floors := []
    locket := []
    redSlots := []
    gathered := []
    incarn := nextInc s.incarn }.dropResponses.loseColls (fun c => c.home == s.devnum.toNat && c.phase == CollPhase.answered)

def execFrst (s : State) : Host.Outcome State Fault Refusal := s.hostStep s.fabricReset

/-! ### Lane repair (14 R313, R314) -/

/-- LANE and REQ are written; REQ = 1 commands a repair, which is refused without a fifth lane. While one runs, the
write changes the fields alone. -/
def Port.command (p : Port) (lane : BitVec 2) (req : Bool) : Port :=
  if req = true ∧ p.spok = true then
    { p with lane := lane, req := true, state := if p.state = 1 ∨ p.state = 2 then p.state else 1 }
  else { p with lane := lane, req := false }

def State.commandRepair (s : State) (port : Nat) (lane : BitVec 2) : State :=
  s.modPort port (fun p => p.command lane true)

def execLaneRepair (port : Nat) (lane : BitVec 2) (s : State) : Host.Outcome State Fault Refusal :=
  s.hostStep (s.commandRepair port lane)

/-- A port trains; from its partner it learns of a fifth lane (14 R313). A port under repair does not. -/
def State.portTrain (s : State) (port : Nat) (fifth : Bool) : State :=
  if (s.port port).state = 1 ∨ (s.port port).state = 2 then s
  else s.modPort port (fun p => { p with spok := fifth, crccnt := 0 })

/-- The partner acknowledges the flits of a port's replay buffer (14 R293). -/
def State.flitAck (s : State) (port : Nat) : State := { s with unacked := s.unacked.filter (fun m => m.1 != port) }

/-- Every unacknowledged flit of a port is discarded: its messages are lost (14 R314). -/
def State.discardFlits (s : State) (port : Nat) : State :=
  let gone := (s.unacked.filter (fun m => m.1 == port)).map Prod.snd
  { s with fabOut := s.fabOut.diff gone }.flitAck port

/-- A CRC error: the link replays the flit, and CRCCNT saturates; reaching NTHR raises the notice, reaching ABTHR abandons
a pending replay. -/
def execCrcError (port : Nat) (s : State) : Host.Outcome State Fault Refusal :=
  let p := s.port port
  let n : BitVec 16 := satAdd p.crccnt 1
  let gone := p.state == 1 && p.abthr != 0 && decide (p.abthr.toNat ≤ n.toNat)
  let s1 := s.modPort port (fun p => { p with
    crccnt := n, abnd := gone || p.abnd, state := if gone then 2 else p.state })
  let s2 := if gone then s1.discardFlits port else s1
  .next (if n = p.nthr ∧ n ≠ p.crccnt then s2.interrupt s.repv.toNat else s2)

/-- Once every flit of the replay buffer is acknowledged, the port retrains. -/
def execRepairRetrain (port : Nat) (s : State) : Host.Outcome State Fault Refusal :=
  if (s.port port).state = 1 ∧ s.unacked.any (fun m => m.1 == port) = false then
    .next (s.modPort port (fun p => { p with state := 2 }))
  else .next s

/-- The port has trained with the spare lane: it carries what has waited for it. -/
def execRetrainComplete (port : Nat) (s : State) : Host.Outcome State Fault Refusal :=
  if (s.port port).state = 2 then
    let s1 := s.modPort port (fun p => { p with state := 3, req := false, crccnt := 0 })
    let held := s.heldOut.filter (fun m => m.1 == port)
    .next { s1 with
      heldOut := s.heldOut.filter (fun m => m.1 != port)
      fabOut := s1.fabOut ++ held.map Prod.snd
      unacked := s1.unacked ++ held }
  else .next s

end Sys2Proof.Machine
end

