-- ==== Sys2Proof/Machine/Commands.lean ====
section
/-! DEFINITION. Host translation commands, migration, the freed-frame quarantine, and the notice of fault records (12
R273 to R275, 15 R333 to R338). -/

namespace Sys2Proof.Machine

/-! ### Arguments (15 R334) -/

/-- The command takes TCA0 to TCA3 as they stand at its write. -/
def State.latch (s : State) : State := { s with targ := [s.tca0, s.tca1, s.tca2, s.tca3] }

def State.tArg (s : State) (i : Nat) : Word := s.targ.getD i 0
def State.tOff (s : State) : Word := s.tArg 0
def State.tSeg (s : State) : BitVec 8 := (s.tArg 1).extractLsb' 56 8
def State.tCtx (s : State) : Nat := ((s.tArg 1).extractLsb' 48 8).toNat
def State.tCount (s : State) : Nat := ((s.tArg 1).extractLsb' 0 32).toNat
def State.tDest (s : State) : Word := s.tArg 2
/-- CPL without its low bits: a bus address. -/
def State.tCpl (s : State) : Word := s.tArg 3 &&& ~~~15

/-- The quarantine of COUNT frames from a physical address, if they lie in one (15 R335): addresses in holes between the
ranges that decode, and beyond them, lie outside the second tier (15 R320). -/
def State.oneQuarantine (s : State) (pa count : Nat) : Option Nat :=
  if pa + count * 65536 ≤ 2 ^ 40 ∧ pa / 2 ^ 38 = (pa + count * 65536 - 1) / 2 ^ 38 then some (pa / 2 ^ 38)
  else if 2 ^ 56 ≤ pa ∧ pa + count * 65536 ≤ 2 ^ 57 ∧ s.inTier 1 (placeAddr pa) (count * 65536) = true then some 4
  else none

/-- An unlisted OPC, or an argument the command does not take. -/
def State.tInvalid (s : State) (opc : BitVec 8) : Bool :=
  let odd := s.tOff.toNat % 65536 != 0
  match opc with
  | 1 => false
  | 2 => false
  | 3 => odd && s.tCount != 0
  | 4 => odd || s.tCount == 0
  | 5 => odd || s.tCount == 0 || (s.oneQuarantine s.tOff.toNat s.tCount).isNone
  | 6 => odd || s.tCount == 0
  | _ => true

/-- A command completes. -/
def State.tDone (s : State) : State := { s with tbusy := false, tcmd := 0 }

/-! ### REPLAY-ALL and FAULT-ABORT (15 R326, R328, R335) -/

def replayPath (abort : Bool) (p : Path) : Path := if p.onFault then { p with onFault := false, abortNext := abort } else p

def replayGroup (abort : Bool) (g : Group) : Group :=
  { g with p0 := g.p0.map (replayPath abort), p1 := g.p1.map (replayPath abort) }

/-- A copy reads its source again from the first sector. -/
def replayCopy (abort : Bool) (c : Copy) : Copy :=
  if c.faulted then { c with faulted := false, abortNext := abort, got := [] } else c

def replayTeam (abort : Bool) (t : Team) : Team :=
  { t with queues := t.queues.map (fun q => (q.1, { q.2 with pending := q.2.pending.map (replayCopy abort) })) }

/-- Removes the context's keys and releases what is parked on its faults. -/
def State.replay (s : State) (ctx : Nat) (abort : Bool) : State :=
  let s1 := { s with
    keys := s.keys.filter (fun k => k.ctx != ctx)
    groups := s.groups.map (fun (e : GroupId × Group) => if s.ctxOf e.1.launch = ctx then (e.1, replayGroup abort e.2) else e)
    teams := s.teams.map (fun (e : TeamId × Team) => if s.ctxOf e.1.launch = ctx then (e.1, replayTeam abort e.2) else e) }
  (s1.replayFront ctx abort).replayColls ctx abort

/-! ### INVAL (15 R335) -/

/-- An entry of the context that covers a unit of the range; every entry where the count is 0. -/
def TlbEntry.hit (e : TlbEntry) (ctx : Nat) (seg : BitVec 8) (off count : Nat) : Bool :=
  e.ctx == ctx && (count == 0 || (e.seg == seg && decide (e.base < off + count * 65536) && decide (off < e.base + e.size)))

/-- Drops TLB entries everywhere. -/
def State.inval (s : State) (ctx : Nat) (seg : BitVec 8) (off count : Nat) : State :=
  { s with
    cores := s.cores.map (fun c => (c.1, { c.2 with tlb := c.2.tlb.filter (fun e => !e.hit ctx seg off count) }))
    l2tlb := s.l2tlb.filterMap (fun t =>
      match t.2.filter (fun e => !e.hit ctx seg off count) with
      | [] => none
      | es => some (t.1, es)) }

/-! ### FLUSH and FREE (15 R335) -/

/-- Writes back a cluster's sector and lets it go once it is clean. -/
def State.cleanL1 (s : State) (clus sec : Nat) : State :=
  let s1 := s.wbL1 clus sec
  match s1.l1Sector clus sec with
  | some x => if x.mask = 0 then s1.setL1 clus sec none else s1
  | none => s1

def State.cleanL2 (s : State) (ctx sec : Nat) : State :=
  let s1 := (s.wbL2 ctx sec none).1
  match s1.l2Sector sec with
  | some x => if x.mask = 0 then s1.setL2 sec none else s1
  | none => s1

/-- Writes back and invalidates every cached sector of some 64 KiB pages of the place space, with the records of their
lines in the L2 slices. -/
def State.cleanPages (s : State) (ctx : Nat) (inside : Nat → Bool) : State :=
  let s1 := s.clusters.foldl (fun s c => ((c.2.l1.map Prod.fst).filter inside).foldl (fun s sec => s.cleanL1 c.1 sec) s) s
  let s2 := ((s1.l2.map Prod.fst).filter inside).foldl (fun s sec => s.cleanL2 ctx sec) s1
  { s2 with l2lines := s2.l2lines.filter (fun e => !inside (8 * e.1) || s2.l2.any (fun x => x.1 / 8 == e.1)) }

/-- Nothing of the pages is cached, or on its way to its owner. -/
def State.cleaned (s : State) (inside : Nat → Bool) : Bool :=
  !s.clusters.any (fun c => c.2.l1.any (fun e => inside e.1)) && !s.l2.any (fun e => inside e.1)
    && !s.remotes.any (fun r => match r.2.purpose with
      | .writeback sec _ => inside sec
      | _ => false)

/-- The places of the mapped units of a range. -/
def State.mappedPages (s : State) (ctx : Nat) (seg : BitVec 8) (off count : Nat) : List Nat :=
  (List.range count).filterMap (fun i =>
    let o := (off + i * 65536) % 2 ^ 64
    match s.walk ctx seg o with
    | .leaf w _ level =>
      let e := Pte.ofWord w
      some (mkPlace e.tier (if e.tier = 2 then e.peer else 0) (e.frame * 65536 + o % pageSize level) / 65536)
    | _ => none)

/-- FLUSH as far as it goes now. -/
def State.flush (s : State) : State :=
  let pages := s.mappedPages s.tCtx s.tSeg s.tOff.toNat s.tCount
  let inside (sec : Nat) : Bool := pages.contains (sec / 1024)
  let s1 := s.cleanPages s.tCtx inside
  if s1.cleaned inside then s1.tDone else s1

/-- Frames enter the quarantine at its generation. -/
def State.quarantineFrames (s : State) (i first count : Nat) : State :=
  s.modQuar i (fun q => { q with
    frames := q.frames.filter (fun f => f.frame < first || first + count ≤ f.frame)
      ++ (List.range count).map (fun k => { frame := first + k, gen := q.gen }) })

/-- FREE: local lines are written back at once. -/
def State.free (s : State) : State :=
  match s.oneQuarantine s.tOff.toNat s.tCount with
  | none => s
  | some i =>
    let first := s.tOff.toNat / 65536
    let inside (sec : Nat) : Bool := decide (first ≤ sec / 1024) && decide (sec / 1024 < first + s.tCount)
    let s1 := (s.cleanPages s.tCtx inside).quarantineFrames i first s.tCount
    { s1 with genf := (s.quar i).gen }.tDone

/-! ### MIGRATE (15 R338) -/

/-- The completion record of a migration: lost where the host refuses its address (16 R340). -/
def State.migrateRecord (s : State) (cpl off : Word) (status tries : Nat) : State :=
  if s.busRefused cpl.toNat then s
  else s.hostWriteN cpl.toNat (toBytes 8 off.toNat ++ toBytes 8 (status + tries * 256))

/-- DEST is a 64 KiB-aligned address of tier 0 or 1 within its tier. -/
def State.frameOkAt (s : State) (p : Nat) : Bool :=
  decide (p % 65536 = 0) && decide (p < 2 ^ 57) && s.inTier (placeTier p) (placeAddr p) 65536

/-- Bits of an entry's second byte: MIG is bit 0. -/
def State.setMig (s : State) (pte : Nat) (on : Bool) : State :=
  let b := s.homeByte (pte + 1)
  s.homeWriteAt (pte + 1) [if on then b ||| 1 else b &&& ~~~1]

/-- The die whose filter serves a frame: second-tier frame f stands on die f mod 4 (15 R320). -/
def frameDie (frame : Nat) : Nat := if frame * 65536 < 2 ^ 56 then quarOf (frame * 65536) else frame % 4

/-- MIGRATE: refused, waiting for a filter entry, or accepted. -/
def State.migrate (s : State) : State :=
  let refuse (s : State) : State := (s.migrateRecord s.tCpl s.tOff 3 0).tDone
  match s.walk s.tCtx s.tSeg s.tOff.toNat with
  | .leaf w pte 0 =>
    let e := Pte.ofWord w
    if 2 ≤ e.tier ∨ e.mig = true ∨ s.frameOkAt s.tDest.toNat = false then refuse s
    else
      let src := mkPlace e.tier 0 (e.frame * 65536) / 65536
      if 4096 ≤ (s.migrations.filter (fun x => frameDie x.2.src == frameDie src)).length then s
      else
        let (n, s1) := (s.setMig pte true).take
        let m : Migration := {
          ctx := s.tCtx, seg := s.tSeg, off := s.tOff, pte := pte, src := src, dst := s.tDest.toNat / 65536, cpl := s.tCpl
          tries := 0, dirty := false, committed := false, gen := 0 }
        { s1 with migrations := s1.migrations ++ [(n, m)] }.tDone
  | _ => refuse s

/-- Copies one sector of a page with its poison. -/
def State.copySector (s : State) (src dst i : Nat) : State :=
  let a := sectorOf (src * 65536) + i
  let b := sectorOf (dst * 65536) + i
  let s1 := s.homeWrite b (s.homeRead (sectorBase a) 64) (fullMask 64)
  if s.isPoisoned a then { s1 with poison := s1.poison ++ [b] } else s1

def State.copyPage (s : State) (src dst : Nat) : State :=
  (List.range 1024).foldl (fun s i => s.copySector src dst i) s

def State.setMigration (s : State) (n : Nat) (m : Migration) : State := { s with migrations := Tab.put s.migrations n m }
def State.dropMigration (s : State) (n : Nat) : State := { s with migrations := Tab.erase s.migrations n }

/-- The entry with the destination's frame and tier, and MIG clear. -/
def movedPte (w : BitVec 128) (dst : Nat) : BitVec 128 :=
  let p := dst * 65536
  let keep : BitVec 128 := w &&& ~~~(BitVec.ofNat 128 ((2 ^ 48 - 1) * 2 ^ 16 + 3 * 2 ^ 4 + 2 ^ 8))
  keep ||| BitVec.ofNat 128 (placeAddr p / 65536 * 2 ^ 16 + placeTier p * 2 ^ 4)

/-- The commit: the entry names the destination, accesses at the source are performed there, and cached lines of the
source leave. -/
def State.commit (s : State) (n : Nat) (m : Migration) : State :=
  let w := BitVec.ofNat 128 (ofBytes (s.homeRead m.pte 16))
  let s1 := s.homeWriteAt m.pte (toBytes 16 (movedPte w m.dst).toNat)
  let m1 := { m with committed := true, gen := (s.quar (quarOf (m.src * 65536))).gen }
  ((s1.setMigration n m1).inval m.ctx m.seg m.off.toNat 1).cleanPages m.ctx (fun sec => sec / 1024 == m.src)

/-- A copy of the page ends: the move commits where no write was caught, goes on to another try, or is abandoned. -/
def execMigrateTry (n : Nat) (s : State) : Host.Outcome State Fault Refusal :=
  match Tab.get? s.migrations n with
  | none => .next s
  | some m0 =>
    if m0.committed then .next s
    else
      let s1 := s.copyPage m0.src m0.dst
      let m := { m0 with tries := m0.tries + 1 }
      if !m.dirty then .next (s1.commit n m)
      else if m.tries < 4 then .next (s1.setMigration n { m with dirty := false })
      else
        let s2 := ((s1.setMig m.pte false).dropMigration n).migrateRecord m.cpl m.off 2 4
        .next (s2.post m.ctx (frameDie m.src) { FaultRec.blank with kind := 5, info := 4, addr := m.off, seg := m.seg })

/-- GEN has advanced twice since the commit: the source is cleaned and enters its quarantine. -/
def execMigrateSourceRelease (n : Nat) (s : State) : Host.Outcome State Fault Refusal :=
  match Tab.get? s.migrations n with
  | none => .next s
  | some m =>
    let i := quarOf (m.src * 65536)
    if m.committed = true ∧ 2 ≤ ((s.quar i).gen - m.gen).toNat then
      let s1 := s.cleanPages m.ctx (fun sec => sec / 1024 == m.src)
      .next (((s1.dropMigration n).quarantineFrames i m.src 1).migrateRecord m.cpl m.off 1 m.tries)
    else .next s

/-! ### Commands (15 R334, R335) -/

/-- Runs the command in progress as far as it goes now. -/
def State.tRun (s : State) : State :=
  match s.tcmd with
  | 1 => (s.replay s.tCtx false).tDone
  | 2 => (s.replay s.tCtx true).tDone
  | 3 => (s.inval s.tCtx s.tSeg s.tOff.toNat s.tCount).tDone
  | 4 => s.flush
  | 5 => s.free
  | 6 => s.migrate
  | _ => s.tDone

/-- A write of OPC to TCMD, which counts for nothing while BUSY is 1. -/
def State.tStart (s : State) (opc : BitVec 8) : State :=
  if s.tbusy then s
  else if s.latch.tInvalid opc then { s.latch with tresult := 1 }
  else { s.latch with tresult := 0, tbusy := true, tcmd := opc }.tRun

/-- The command as a step: it starts, or goes on where it waited. -/
def State.tStep (s : State) (opc : BitVec 8) : State :=
  if s.tbusy then (if s.tcmd = opc then s.tRun else s) else s.tStart opc

def execReplayAll (s : State) : Host.Outcome State Fault Refusal := s.hostStep (s.tStep 1)
def execFaultAbort (s : State) : Host.Outcome State Fault Refusal := s.hostStep (s.tStep 2)
def execInval (s : State) : Host.Outcome State Fault Refusal := s.hostStep (s.tStep 3)
def execFlush (s : State) : Host.Outcome State Fault Refusal := s.hostStep (s.tStep 4)
def execFree (s : State) : Host.Outcome State Fault Refusal := s.hostStep (s.tStep 5)
def execMigrate (s : State) : Host.Outcome State Fault Refusal := s.hostStep (s.tStep 6)

/-! ### Generations (12 R274, R275) and notices (15 R333) -/

/-- Stamps of the accesses in flight: of groups, of buffered contributions, and of the collective engine's writes that
are not made yet (12 R273). -/
def State.stamps (s : State) : List (Nat × BitVec 32) :=
  s.groups.flatMap (fun e => (e.2.flight ++ e.2.preTrap).flatMap (·.stamps))
    ++ s.teams.flatMap (fun e => e.2.contrib.flatMap (·.stamps))
    ++ s.colls.flatMap (fun e => e.2.stamps) ++ s.redSlots.flatMap (fun e => e.2.stamps)

/-- A generation advances when no access stamped below it is in flight; frames freed two generations ago leave. -/
def execGenAdvance (i : Nat) (s : State) : Host.Outcome State Fault Refusal :=
  let g := (s.quar i).gen
  if s.stamps.any (fun x => x.1 == i && precedes x.2 g) then .next s
  else
    .next (s.modQuar i (fun q => { gen := g + 1, frames := q.frames.filter (fun f => decide ((g + 1 - f.gen).toNat < 2)) }))

/-- The message that announces posted records. -/
def execFaultNotify (ctx : Nat) (s : State) : Host.Outcome State Fault Refusal :=
  let c := s.ctx ctx
  if c.notifyDue then .next ((s.modCtx ctx (fun c => { c with notifyDue := false })).interrupt c.vec.toNat) else .next s

end Sys2Proof.Machine
end

