-- ==== Sys2Proof/Machine/Control.lean ====
section
/-! DEFINITION. Words that fail their checks, and the control instructions (02 R36, R37, 03 R51 to R61). -/

namespace Sys2Proof.Machine

/-- The guard of a word that has none: every lane of the path. -/
def Guard.every : Guard := { pg := 7, pn := false, k := false, rt := .none }

/-- A word that fails a check of 02 R37 (02 R36); its MASK is the path's (log entry 15). -/
def execIllegalWord (detail : BitVec 8) (s : State) : Host.Outcome State Fault Refusal :=
  match s.cx? Guard.every Uses.none with
  | some cx => s.raise cx.gid (cx.info (cause 0x01 (detail.setWidth 16)) cx.p.pc)
  | none => .next s

/-- A control instruction that names no register. -/
def controlWord (g : Guard) (body : State → Cx → Ans) : State → Host.Outcome State Fault Refusal :=
  issueWord g Uses.none body

def execNop (g : Guard) : State → Host.Outcome State Fault Refusal := controlWord g (fun s _ => .done s)

/-- A branch target (01 R23). -/
def targetOf (pc : Word) (off : BitVec 32) : Word := pc + 16 * off.signExtend 64

/-- A uniform branch of lanes t of the path (03 R55). -/
def uniformBranch (s : State) (cx : Cx) (t target : Word) : Ans :=
  if t = cx.p.mask then .goto target s
  else if t = 0 then .done s
  else .trap s (cause 0x04 0)

def execBra (g : Guard) (off : BitVec 32) : State → Host.Outcome State Fault Refusal :=
  controlWord g (fun s cx => uniformBranch s cx cx.eff (targetOf cx.p.pc off))

/-- The lanes of the path's mask in which a source is not 0. -/
def nonzeroLanes (cx : Cx) (a : Src) : Word := maskOf ((lanes cx.p.mask).filter (fun l => (cx.src a).lane l != 0))

def execBrc (g : Guard) (a : Src) (off : BitVec 32) : State → Host.Outcome State Fault Refusal :=
  issueWord g (usesOf [a] []) (fun s cx => uniformBranch s cx (nonzeroLanes cx a) (targetOf cx.p.pc off))

/-- Split in the group of the path (03 R52), or trap 0x0E (R51). -/
def splitPath (s : State) (cx : Cx) (items : List (Word × Word)) (rpc : Word) : Ans :=
  match cx.g.split cx.slot cx.p items rpc with
  | some g => .placed (s.setGroup cx.gid g)
  | none => .trap s (cause 0x0E 0)

def execBrd (g : Guard) (off roff : BitVec 32) : State → Host.Outcome State Fault Refusal :=
  controlWord g (fun s cx =>
    if cx.eff = 0 ∨ cx.eff = cx.p.mask then uniformBranch s cx cx.eff (targetOf cx.p.pc off)
    else splitPath s cx [(cx.p.pc + 16, cx.p.mask &&& ~~~cx.eff), (targetOf cx.p.pc off, cx.eff)]
      (targetOf cx.p.pc roff))

def execJoin (g : Guard) : State → Host.Outcome State Fault Refusal :=
  controlWord g (fun s cx => .placed (s.setGroup cx.gid (cx.g.arrive cx.slot cx.p cx.p.pc)))

/-! ### Tables (01 R17, 03 R57, R58) -/

/-- The header of a table is of the form of 01 R17. -/
def headerOk (h : BitVec 128) : Bool :=
  h.extractLsb' 0 32 == 0 && h.extractLsb' 96 32 == 0 && h.extractLsb' 32 32 != 0
    && decide ((h.extractLsb' 32 32).toNat ≤ 4096)

/-- Reads the entries of the indices in order: index and target. -/
def readEntries (cx : Cx) (base : Word) : List Nat → State → List (Nat × Word) → State ⊕ Ans → List (Nat × Word) × (State ⊕ Ans)
  | _, _, acc, .inr a => (acc, .inr a)
  | [], _, acc, r => (acc, r)
  | i :: is, _, acc, .inl s =>
    match s.fetch16 cx (base + 16 + BitVec.ofNat 64 (i / 4 * 16)) false with
    | .stop a => (acc, .inr a)
    | .ok bs s1 =>
      let e : BitVec 32 := BitVec.ofNat 32 (ofBytes ((bs.drop (4 * (i % 4))).take 4))
      readEntries cx base is s1 (acc ++ [(i, targetOf base e)]) (.inl s1)

/-- The indices of the lanes of the path, ascending, each once. -/
def tableIndices (cx : Cx) (a : Src) : List Nat :=
  (sortNats ((lanes cx.p.mask).map (fun l => (((cx.src a).lane l).extractLsb' 0 32).toNat))).dedup

/-- Looks the path's indices up in the table at `base`: header and targets (03 R57). -/
def withTable (s : State) (cx : Cx) (base : Word) (idx : List Nat)
    (k : State → BitVec 128 → List (Nat × Word) → Ans) : Ans :=
  let bad (s : State) : Ans := .trap s { cause 0x0F 0 with addr := base, aseg := cx.l.kseg }
  match s.fetch16 cx base false with
  | .stop a => a
  | .ok bs s1 =>
    let h : BitVec 128 := BitVec.ofNat 128 (ofBytes bs)
    if !headerOk h || idx.any (fun i => decide ((h.extractLsb' 32 32).toNat ≤ i)) then bad s1
    else
      match readEntries cx base idx s1 [] (.inl s1) with
      | (_, .inr a) => a
      | (es, .inl s2) => k s2 h es

/-- The lanes of the path that hold an index. -/
def lanesAt (cx : Cx) (a : Src) (i : Nat) : Word :=
  maskOf ((lanes cx.p.mask).filter (fun l => (((cx.src a).lane l).extractLsb' 0 32).toNat == i))

def execBrx (g : Guard) (a : Src) (off : BitVec 32) : State → Host.Outcome State Fault Refusal :=
  issueWord g (usesOf [a] []) (fun s cx =>
    withTable s cx (targetOf cx.p.pc off) (tableIndices cx a) (fun s1 h es =>
      match es with
      | [e] => .goto e.2 s1
      | es =>
        let joff : BitVec 32 := h.extractLsb' 64 32
        splitPath s1 { cx with g := (s1.group? cx.gid).getD cx.g } (es.map (fun e => (e.2, lanesAt cx a e.1)))
          (targetOf (targetOf cx.p.pc off) joff)))

/-- The return address goes to D under the path's mask (03 R58). -/
def linkTo (s : State) (cx : Cx) (d : RegIx) : State :=
  s.putResult { cx with eff := cx.p.mask } d.toNat (.uniform (cx.p.pc + 16)) Counts.zero

def execCall (g : Guard) (d : RegIx) (off : BitVec 32) : State → Host.Outcome State Fault Refusal :=
  issueWord g (usesOf [] [d]) (fun s cx => .goto (targetOf cx.p.pc off) (linkTo s cx d))

def execCallTbl (g : Guard) (d : RegIx) (a : Src) (off : BitVec 32) : State → Host.Outcome State Fault Refusal :=
  issueWord g (usesOf [a] [d]) (fun s cx =>
    match tableIndices cx a with
    | [i] => withTable s cx (targetOf cx.p.pc off) [i] (fun s1 _ es =>
        match es with
        | e :: _ => .goto e.2 (linkTo s1 cx d)
        | [] => .done s1)
    | _ => .trap s (cause 0x04 0))

def execRet (g : Guard) (a : Src) : State → Host.Outcome State Fault Refusal :=
  issueWord g (usesOf [a] []) (fun s cx =>
    let x := (cx.src a).firstIn cx.p.mask
    if !(cx.src a).equalIn cx.p.mask then .trap s (cause 0x04 0)
    else if x % 16 ≠ 0 then .trap s { cause 0x0B 0 with addr := x, aseg := cx.l.kseg }
    else .goto x s)

/-- exit: the lanes leave; the path goes on with those that stay (03 R53). -/
def execExit (g : Guard) : State → Host.Outcome State Fault Refusal :=
  issueMasked g Uses.none (fun s cx =>
    .placed (s.setGroup cx.gid ((cx.g.setPath cx.slot (some { cx.p with pc := cx.p.pc + 16 })).leave cx.slot cx.eff)))

def execTrap (g : Guard) (code : BitVec 32) : State → Host.Outcome State Fault Refusal :=
  issueMasked g Uses.none (fun s _ => .after s { cause 0x11 0 with info := code.setWidth 64 })

/-- pmark: parks where a request is visible (03 R60, 08 R203). -/
def execPmark (g : Guard) (live : Word) (b : Src) : State → Host.Outcome State Fault Refusal :=
  issueWord g (usesOf [.spec .zero, b] []) (fun s cx =>
    if !(cx.src b).equalIn cx.p.mask then .trap s (cause 0x04 0)
    else if cx.g.preqVisible then
      .placed (s.modCur cx (fun p => { p with
        pc := p.pc + 16, pmark := some (live, ((cx.src b).firstIn cx.p.mask).extractLsb' 0 32) }))
    else .done s)

def execProg (g : Guard) : State → Host.Outcome State Fault Refusal :=
  controlWord g (fun s cx =>
    if cx.l.pers then
      match s.launch? cx.gid.launch with
      | some l => .done (s.progress l.queue)
      | none => .done s
    else .done s)

/-- yield: the path is deferred until every other eligible path of its core has had its opportunity, or for 64 issue
clocks (03 R61). -/
def execYield (g : Guard) : State → Host.Outcome State Fault Refusal :=
  controlWord g (fun s cx =>
    let others := (s.eligibleOn cx.g.core).filter (fun x => x != (cx.gid, cx.slot))
    .done (s.modCur cx (fun p => { p with deferral := if others.isEmpty then none else some (others, 64) })))

/-- rte outside a handler traps; inside it waits for the handler's own results, then checks the frame and resumes
(03 R59, 07 R185, 08 R209; log entries 14, 72). -/
def returnBody (s : State) (cx : Cx) : Ans :=
  match cx.g.inHandler, cx.g.frame with
  | true, some (a, written, slot) =>
    if cx.g.flight ≠ [] then .wait s
    else
      let s1 := s.wbCluster cx.g.core.clus
      if s1.areaOk a written.length then
        let now := s1.areaRead a written.length
        if frameOk written now && !s1.areaPoisoned a written.length then
          .whole (.next (s1.installGroup cx.gid (returnFrom cx.g slot now)))
        else .whole (.next (s1.haltGroup cx.gid 0x15 2 0 0))
      else .whole (.fault .contextAreaOutsideMemory)
  | _, _ => .trap s (cause 0x09 4)

def execRte (g : Guard) : State → Host.Outcome State Fault Refusal := controlWord g returnBody

end Sys2Proof.Machine
end

