-- ==== Sys2Proof/Machine/Integer.lean ====
section
/-! DEFINITION. The integer and address instructions (03 R41 to R50). -/

namespace Sys2Proof.Machine

/-! ### Values -/

/-- w of 03 R41. -/
def intWidth (w32 : Bool) : Nat := if w32 then 32 else 64

/-- A source as a signed or unsigned w-bit integer (03 R41). -/
def sInt (w32 : Bool) (x : Word) : Int := if w32 then (x.extractLsb' 0 32).toInt else x.toInt
def uNat (w32 : Bool) (x : Word) : Nat := if w32 then (x.extractLsb' 0 32).toNat else x.toNat
def asInt (w32 u : Bool) (x : Word) : Int := if u then (uNat w32 x : Int) else sInt w32 x

/-- The w-bit result as 64 bits: sign-extended under `.w`, zero-extended under `.w.u` (03 R41). -/
def extend (w32 u : Bool) (x : Word) : Word :=
  if w32 then (if u then (x.extractLsb' 0 32).setWidth 64 else (x.extractLsb' 0 32).signExtend 64) else x

/-- An integer narrowed to w bits and extended. -/
def narrow (w32 u : Bool) (v : Int) : Word := extend w32 u (BitVec.ofInt 64 v)

def valImulh (w32 u : Bool) (a b : Word) : Word :=
  narrow w32 u (asInt w32 u a * asInt w32 u b / 2 ^ intWidth w32)

/-- Division toward zero; by 0 gives 0, and −2^(w−1) by −1 wraps to itself (03 R45). -/
def valIdiv (w32 u : Bool) (a b : Word) : Word :=
  if asInt w32 u b = 0 then 0 else narrow w32 u ((asInt w32 u a).tdiv (asInt w32 u b))

/-- The remainder takes the sign of the dividend; by 0 it is a (03 R45). -/
def valIrem (w32 u : Bool) (a b : Word) : Word :=
  if asInt w32 u b = 0 then narrow w32 u (asInt w32 u a) else narrow w32 u ((asInt w32 u a).tmod (asInt w32 u b))

def valImin (w32 u : Bool) (a b : Word) : Word := narrow w32 u (min (asInt w32 u a) (asInt w32 u b))
def valImax (w32 u : Bool) (a b : Word) : Word := narrow w32 u (max (asInt w32 u a) (asInt w32 u b))
def valIabs (w32 : Bool) (a : Word) : Word := narrow w32 false |sInt w32 a|

/-- isat: n is b taken as unsigned (03 R45). -/
def valIsat (w32 u : Bool) (a b : Word) : Word :=
  let n := uNat w32 b
  if intWidth w32 ≤ n then narrow w32 u (asInt w32 u a)
  else if n = 0 then 0
  else if u then narrow w32 u (min (asInt w32 u a) (2 ^ n - 1))
  else narrow w32 u (max (-(2 ^ (n - 1))) (min (sInt w32 a) (2 ^ (n - 1) - 1)))

def valShl (w32 : Bool) (a b : Word) : Word :=
  if intWidth w32 ≤ uNat w32 b then 0 else extend w32 false (a <<< uNat w32 b)

def valShr (w32 : Bool) (a b : Word) : Word :=
  if intWidth w32 ≤ uNat w32 b then 0 else extend w32 false (BitVec.ofNat 64 (uNat w32 a >>> uNat w32 b))

def valSar (w32 : Bool) (a b : Word) : Word :=
  narrow w32 false (sInt w32 a / 2 ^ min (uNat w32 b) (intWidth w32))

def valRot (w32 : Bool) (a b : Word) : Word :=
  let w := intWidth w32
  let s := uNat w32 b % w
  extend w32 false (BitVec.ofNat 64 (uNat w32 a <<< s ||| uNat w32 a >>> (w - s)))

/-- Leading zero bits among the low n bits. -/
def leadingZeros (x : Nat) : Nat → Nat
  | 0 => 0
  | n + 1 => if x.testBit n then 0 else 1 + leadingZeros x n

def valClz (w32 : Bool) (a : Word) : Word := BitVec.ofNat 64 (leadingZeros (uNat w32 a) (intWidth w32))

def valPopc (w32 : Bool) (a : Word) : Word :=
  BitVec.ofNat 64 (((List.range (intWidth w32)).filter (fun i => (uNat w32 a).testBit i)).length)

def valBrev (w32 : Bool) (a : Word) : Word :=
  let w := intWidth w32
  extend w32 false (BitVec.ofNat 64
    ((List.range w).foldl (fun acc i => acc + if (uNat w32 a).testBit i then 2 ^ (w - 1 - i) else 0) 0))

/-- bfx: position and length from the descriptor (03 R47). -/
def valBfx (w32 : Bool) (a dsc : Word) : Word :=
  let p := (dsc.extractLsb' 0 7).toNat
  let n := min (dsc.extractLsb' 8 7).toNat (intWidth w32)
  extend w32 true (BitVec.ofNat 64 (uNat w32 a / 2 ^ p % 2 ^ n))

/-- bfi: the low bits of a into b (03 R47). -/
def valBfi (w32 : Bool) (a b dsc : Word) : Word :=
  let p := (dsc.extractLsb' 0 7).toNat
  let n := (dsc.extractLsb' 8 7).toNat
  let m : Word := BitVec.ofNat 64 ((2 ^ n - 1) * 2 ^ p)
  extend w32 false ((b &&& ~~~m) ||| (BitVec.ofNat 64 ((uNat w32 a % 2 ^ n) * 2 ^ p) &&& m))

/-! ### Results -/

/-- No third or second source. -/
def noSrc : Src := .spec .zero

/-- The result of an integer instruction with its shape (03 R42, R43). -/
def intResult (w32 : Bool) (r : LineRule) (a b c : Src) (f : Word → Word → Word → Word) (cx : Cx) : RegVal :=
  let x := cx.src a
  let y := cx.src b
  let z := cx.src c
  shaped cx.w (x.isUniform && y.isUniform && z.isUniform) w32 (r.apply x y z)
    (fun l => f (x.lane l) (y.lane l) (z.lane l))

def intWord3 (g : Guard) (w32 : Bool) (r : LineRule) (d : RegIx) (a b c : Src) (f : Word → Word → Word → Word) :
    State → Host.Outcome State Fault Refusal :=
  aluWord g [a, b, c] d (intResult w32 r a b c f)

def intWord2 (g : Guard) (w32 : Bool) (r : LineRule) (d : RegIx) (a b : Src) (f : Word → Word → Word) :
    State → Host.Outcome State Fault Refusal :=
  aluWord g [a, b] d (intResult w32 r a b noSrc (fun x y _ => f x y))

def intWord1 (g : Guard) (w32 : Bool) (r : LineRule) (d : RegIx) (a : Src) (f : Word → Word) :
    State → Host.Outcome State Fault Refusal :=
  aluWord g [a] d (intResult w32 r a noSrc noSrc (fun x _ _ => f x))

/-! ### The instructions (03 R44 to R50) -/

def execIadd (g : Guard) (w : Bool) (d : RegIx) (a b : Src) : State → Host.Outcome State Fault Refusal :=
  intWord2 g w .add d a b (fun x y => extend w false (x + y))

def execIsub (g : Guard) (w : Bool) (d : RegIx) (a b : Src) : State → Host.Outcome State Fault Refusal :=
  intWord2 g w .sub d a b (fun x y => extend w false (x - y))

def execImul (g : Guard) (w : Bool) (d : RegIx) (a b : Src) : State → Host.Outcome State Fault Refusal :=
  intWord2 g w .mul d a b (fun x y => extend w false (x * y))

def execImulh (g : Guard) (w u : Bool) (d : RegIx) (a b : Src) : State → Host.Outcome State Fault Refusal :=
  intWord2 g w .never d a b (valImulh w u)

def execImad (g : Guard) (w : Bool) (d : RegIx) (a b c : Src) : State → Host.Outcome State Fault Refusal :=
  intWord3 g w .mad d a b c (fun x y z => extend w false (x * y + z))

def execIdiv (g : Guard) (w u : Bool) (d : RegIx) (a b : Src) : State → Host.Outcome State Fault Refusal :=
  intWord2 g w .never d a b (valIdiv w u)

def execIrem (g : Guard) (w u : Bool) (d : RegIx) (a b : Src) : State → Host.Outcome State Fault Refusal :=
  intWord2 g w .never d a b (valIrem w u)

def execImin (g : Guard) (w u : Bool) (d : RegIx) (a b : Src) : State → Host.Outcome State Fault Refusal :=
  intWord2 g w .never d a b (valImin w u)

def execImax (g : Guard) (w u : Bool) (d : RegIx) (a b : Src) : State → Host.Outcome State Fault Refusal :=
  intWord2 g w .never d a b (valImax w u)

def execIabs (g : Guard) (w : Bool) (d : RegIx) (a : Src) : State → Host.Outcome State Fault Refusal :=
  intWord1 g w .never d a (valIabs w)

def execIneg (g : Guard) (w : Bool) (d : RegIx) (a : Src) : State → Host.Outcome State Fault Refusal :=
  intWord1 g w .neg d a (fun x => extend w false (0 - x))

def execAnd (g : Guard) (w : Bool) (d : RegIx) (a b : Src) : State → Host.Outcome State Fault Refusal :=
  intWord2 g w .never d a b (fun x y => extend w false (x &&& y))

def execOr (g : Guard) (w : Bool) (d : RegIx) (a b : Src) : State → Host.Outcome State Fault Refusal :=
  intWord2 g w .never d a b (fun x y => extend w false (x ||| y))

def execXor (g : Guard) (w : Bool) (d : RegIx) (a b : Src) : State → Host.Outcome State Fault Refusal :=
  intWord2 g w .never d a b (fun x y => extend w false (x ^^^ y))

def execAndn (g : Guard) (w : Bool) (d : RegIx) (a b : Src) : State → Host.Outcome State Fault Refusal :=
  intWord2 g w .never d a b (fun x y => extend w false (x &&& ~~~y))

def execNot (g : Guard) (w : Bool) (d : RegIx) (a : Src) : State → Host.Outcome State Fault Refusal :=
  intWord1 g w .never d a (fun x => extend w false (~~~x))

/-- shl: the shift amount is an unsigned w-bit value, for the line of an affine A too (03 R42, R46). -/
def execShl (g : Guard) (w : Bool) (d : RegIx) (a b : Src) : State → Host.Outcome State Fault Refusal :=
  aluWord g [a, b] d (fun cx =>
    let x := cx.src a
    let y := cx.src b
    let n : RegVal := if y.isUniform then .uniform (extend w true (y.lane 0)) else y
    shaped cx.w (x.isUniform && y.isUniform) w (LineRule.shl.apply x n n) (fun l => valShl w (x.lane l) (y.lane l)))

def execShr (g : Guard) (w : Bool) (d : RegIx) (a b : Src) : State → Host.Outcome State Fault Refusal :=
  intWord2 g w .never d a b (valShr w)

def execSar (g : Guard) (w : Bool) (d : RegIx) (a b : Src) : State → Host.Outcome State Fault Refusal :=
  intWord2 g w .never d a b (valSar w)

def execRot (g : Guard) (w : Bool) (d : RegIx) (a b : Src) : State → Host.Outcome State Fault Refusal :=
  intWord2 g w .never d a b (valRot w)

def execClz (g : Guard) (w : Bool) (d : RegIx) (a : Src) : State → Host.Outcome State Fault Refusal :=
  intWord1 g w .never d a (valClz w)

def execPopc (g : Guard) (w : Bool) (d : RegIx) (a : Src) : State → Host.Outcome State Fault Refusal :=
  intWord1 g w .never d a (valPopc w)

def execBrev (g : Guard) (w : Bool) (d : RegIx) (a : Src) : State → Host.Outcome State Fault Refusal :=
  intWord1 g w .never d a (valBrev w)

def execBfx (g : Guard) (w : Bool) (d : RegIx) (a b : Src) : State → Host.Outcome State Fault Refusal :=
  intWord2 g w .never d a b (valBfx w)

def execBfi (g : Guard) (w : Bool) (d : RegIx) (a b c : Src) : State → Host.Outcome State Fault Refusal :=
  intWord3 g w .never d a b c (valBfi w)

/-- The lanes in which a comparison holds (03 R48). -/
def cmpMask (cc : Cond) (w32 u : Bool) (a b : Src) (cx : Cx) : Word :=
  maskOf ((List.range cx.w).filter (fun l =>
    condHolds cc (asInt w32 u ((cx.src a).lane l)) (asInt w32 u ((cx.src b).lane l))))

def execIcmp (g : Guard) (cc : Cond) (w u : Bool) (d : PredIx) (a b : Src) :
    State → Host.Outcome State Fault Refusal :=
  predWord g [a, b] d (cmpMask cc w u a b)

/-- sel: with one predicate value in all lanes the result has the shape of the operand chosen (03 R49). -/
def selResult (w32 : Bool) (a b : Src) (p : PredIx) (cx : Cx) : RegVal :=
  let x := cx.src a
  let y := cx.src b
  let m := cx.g.pred p &&& cx.g.full
  let same := m == 0 || m == cx.g.full
  let chosen := if m = 0 then y else x
  shaped cx.w (same && chosen.isUniform) w32 (if same then chosen.line else none)
    (fun l => extend w32 false (if laneIn m l then x.lane l else y.lane l))

def execSel (g : Guard) (w : Bool) (d : RegIx) (a b : Src) (p : PredIx) : State → Host.Outcome State Fault Refusal :=
  aluWord g [a, b] d (selResult w a b p)

def execMov (g : Guard) (w : Bool) (d : RegIx) (a : Src) : State → Host.Outcome State Fault Refusal :=
  intWord1 g w .copy d a (fun x => extend w false x)

def execMovi (g : Guard) (w : Bool) (d : RegIx) (v : Word) : State → Host.Outcome State Fault Refusal :=
  intWord1 g w .copy d (.imm v) (fun x => extend w false x)

/-- lea adds the sign-extended offset (03 R50). -/
def execLea (g : Guard) (d : RegIx) (a : Src) (off : BitVec 32) : State → Host.Outcome State Fault Refusal :=
  aluWord g [a] d (intResult false .add a (.imm (off.signExtend 64)) noSrc (fun x y _ => x + y))

def execIaddc (g : Guard) (w : Bool) (d : RegIx) (a b c : Src) : State → Host.Outcome State Fault Refusal :=
  intWord3 g w .never d a b c (fun x y z => extend w false (x + y + (z &&& 1)))

def execIsat (g : Guard) (w u : Bool) (d : RegIx) (a b : Src) : State → Host.Outcome State Fault Refusal :=
  intWord2 g w .never d a b (valIsat w u)

end Sys2Proof.Machine
end

