-- ==== Sys2Proof/Machine/Service.lean ====
section
/-! DEFINITION. The host's side of the device but for its registers: context commands, BAR2, address translation
services, boot, the SPDM mailbox, power, reliability and spares (12 R272, 16 R340 to R353). -/

namespace Sys2Proof.Machine

/-! ### Context commands (16 R345) -/

/-- An accepted launch of the context that has not ended. -/
def State.hasLaunch (s : State) (ctx : Nat) : Bool := s.launches.any (fun e => e.2.ctx == ctx && e.2.status.isNone)

/-- The command completes. -/
def State.ctxDone (s : State) (ctx : Nat) : State := s.modCtx ctx (fun c => { c with busy := false, cmd := 0 })

/-- PREEMPT: BUSY clears when no group of the context is resident. -/
def State.ctxPreempt (s : State) (ctx : Nat) : State :=
  let s1 := (s.modCtx ctx (fun c => { c with held := true })).requestPreempt ctx
  if s1.anyResident ctx then s1 else s1.ctxDone ctx

/-- A team of the context still has its partition or buffers on the device. -/
def State.teamsLeft (s : State) (ctx : Nat) : Bool :=
  s.teams.any (fun e => s.ctxOf e.1.launch == ctx && e.2.phase == .saved)

/-- The record of a serial pair in the context save area (14 R312). -/
def pairRecord (owner : Nat) (p : SerialPair) : List Byte :=
  toBytes 8 (p.next.toNat * 2 ^ 32 + p.next.toNat)
    ++ toBytes 8 (p.ann.toNat * 2 ^ 32 + p.expinc.toNat * 2 ^ 16 + owner % 1024 * 2 ^ 6 + 1)

/-- A pair from its record: NEXT, ANN and EXPINC, with LOW equal to NEXT. -/
def recordPair (bs : List Byte) : Nat × SerialPair :=
  let w0 := ofBytes (bs.take 8)
  let w1 := ofBytes ((bs.drop 8).take 8)
  let next := BitVec.ofNat 32 (bits w0 32 32)
  (bits w1 6 10, { next := next, low := next, ann := BitVec.ofNat 32 (bits w1 32 32)
                   expinc := BitVec.ofNat 16 (bits w1 16 16), openHms := [], closed := false })

/-- The serial pairs go to the context save area, in ascending owner number (14 R312, step 4; log entry 76). -/
def State.savePairs (s : State) (ctx : Nat) : State :=
  s.modCtx ctx (fun c =>
    if c.pairs.isEmpty then c
    else { c with
      pairs := []
      saved := (sortBy (fun a b => decide (a.1 ≤ b.1)) c.pairs).flatMap (fun e => pairRecord e.1 e.2) })

/-- The records in use of a save area: those with VALID set (14 R312). -/
def savedPairs (bs : List Byte) : List (Nat × SerialPair) :=
  let rs := (List.range (bs.length / 16)).map (fun i => (bs.drop (16 * i)).take 16)
  (rs.filter (fun r => ofBytes ((r.drop 8).take 8) % 2 == 1)).map recordPair

/-- The pairs are taken from their records, and the context sends again. -/
def State.restorePairs (s : State) (ctx : Nat) : State :=
  (s.modCtx ctx (fun c => { c with
    pairs := (savedPairs c.saved).foldl (fun t e => Tab.put t e.1 e.2) c.pairs
    saved := []
    quiet := false })).sendQueued

/-- SWITCH-OUT: the pre-emption; then no new request is sent, and what is unresolved comes to its end; then the pairs are
saved, and every saved team is evicted (14 R312, 16 R345). -/
def State.ctxSwitchOut (s : State) (ctx : Nat) : State :=
  let s1 := (s.modCtx ctx (fun c => { c with held := true })).requestPreempt ctx
  if s1.anyResident ctx then s1
  else
    let s2 := s1.modCtx ctx (fun c => { c with quiet := true })
    if s2.remotes.any (fun r => r.2.ctx == ctx) then s2
    else
      let s3 := s2.savePairs ctx
      if s3.teamsLeft ctx then s3 else (s3.modCtx ctx (fun c => { c with out := true })).ctxDone ctx

/-- The host brings the records of a context that was switched out of another device (14 R312; log entry 76). -/
def State.bringPairs (s : State) (ctx : Nat) (bs : List Byte) : State := s.modCtx ctx (fun c => { c with saved := bs })

/-- RESUME: a context that was switched out, here or on another device, takes its pairs from their records (14 R312; log
entry 76). -/
def State.ctxResume (s : State) (ctx : Nat) : State :=
  let s1 := if (s.ctx ctx).out = true ∨ (s.ctx ctx).saved ≠ [] then (s.modCtx ctx (fun c => { c with out := false })).restorePairs ctx else s
  (s1.modCtx ctx (fun c => { c with held := false })).ctxDone ctx

/-- DESTROY: EN clears once a CLOSE has been sent to every owner, each after its DRAIN (14 R305); the extension, and so
CLOSE, goes to PEERX peers alone (14 R293). -/
def State.ctxDestroy (s : State) (ctx : Nat) : State :=
  let s1 := if (s.ctx ctx).quiet then s.restorePairs ctx else s
  if (s1.ctx ctx).pairs.any (fun e => s1.isPeerx e.1 && !e.2.closed) then s1
  else (s1.modCtx ctx (fun c => { c with en := false, pairs := [] })).ctxDone ctx

/-- Runs a command as far as it goes now. -/
def State.ctxRun (s : State) (ctx : Nat) (opc : BitVec 8) : State :=
  match opc with
  | 1 => s.ctxPreempt ctx
  | 2 => s.ctxResume ctx
  | 3 => s.ctxSwitchOut ctx
  | 4 => s.ctxDestroy ctx
  | _ => s.ctxDone ctx

/-- A write of OPC to CTXCMD: ignored while BUSY is 1, for an unlisted OPC, and for a DESTROY that may not be. -/
def State.ctxStart (s : State) (ctx : Nat) (opc : BitVec 8) : State :=
  let c := s.ctx ctx
  if c.busy = true ∨ opc = 0 ∨ 4 < opc.toNat ∨ (opc = 4 ∧ c.out = false ∧ s.hasLaunch ctx = true) then s
  else (s.modCtx ctx (fun c => { c with busy := true, cmd := opc })).ctxRun ctx opc

/-- The command as a step: it starts, or goes on where it waited. -/
def State.ctxStep (s : State) (ctx : Nat) (opc : BitVec 8) : State :=
  let c := s.ctx ctx
  if c.busy then (if c.cmd = opc then s.ctxRun ctx opc else s) else s.ctxStart ctx opc

def execPreempt (ctx : Nat) (s : State) : Host.Outcome State Fault Refusal := s.hostStep (s.ctxStep ctx 1)
def execResume (ctx : Nat) (s : State) : Host.Outcome State Fault Refusal := s.hostStep (s.ctxStep ctx 2)
def execSwitchOut (ctx : Nat) (s : State) : Host.Outcome State Fault Refusal := s.hostStep (s.ctxStep ctx 3)
def execDestroy (ctx : Nat) (s : State) : Host.Outcome State Fault Refusal := s.hostStep (s.ctxStep ctx 4)

/-! ### BAR2 (12 R272, 16 R341) -/

/-- The physical address of an offset in the window; WBASE is 1 GiB aligned (16 R343). -/
def State.windowAt (s : State) (off : Nat) : Nat := s.wbase.toNat / 2 ^ 30 * 2 ^ 30 + off

/-- The request lies inside BAR2 and inside tier 0, and the endpoint exposes the window (16 R341, R348). -/
def State.windowOk (s : State) (off n : Nat) : Bool :=
  s.boot != 3 && decide (off + n ≤ 2 ^ s.bar2Log) && decide (s.windowAt off + n ≤ 2 ^ 40)

/-- BAR2 has 1 GiB to 1 TiB, in powers of two (16 R341; log entry 77). -/
def State.resizeBar2 (s : State) (k : Nat) : State := if 30 ≤ k ∧ k ≤ 40 then { s with bar2Log := k } else s

/-- A read of BAR4 returns zero (16 R341). -/
def State.bar4Read (s : State) (len : Nat) : State :=
  if s.boot = 3 then { s with hostData := [], hostEp := false, hostUr := true }
  else { s with hostData := List.replicate len 0, hostEp := false, hostUr := false }

/-- Sectors that n bytes touch. -/
def sectorsOf (p n : Nat) : List Nat := (List.range ((p % 64 + n + 63) / 64)).map (fun i => sectorOf p + i)

/-- A host read: its data and the EP bit, or Unsupported Request without data. -/
def execBar2Read (off len : Nat) (s : State) : Host.Outcome State Fault Refusal :=
  let p := s.windowAt off
  if s.windowOk off len then
    .next { s with
      hostData := s.homeRead p len, hostEp := (sectorsOf p len).any s.isPoisoned, hostUr := false }
  else .next { s with hostData := [], hostEp := false, hostUr := true }

/-- A host write at the home slices; Unsupported Request changes no byte. -/
def execBar2Write (off : Nat) (data : List Byte) (s : State) : Host.Outcome State Fault Refusal :=
  if s.windowOk off data.length then .next { s.homeWriteN (s.windowAt off) data with hostUr := false }
  else .next { s with hostUr := true }

/-! ### Address translation services (16 R340) -/

/-- An Invalidation Request for pages lo to hi − 1: no request that used them is under way between steps, so it is
answered at once. -/
def execAtsInvalidation (lo hi : Nat) (s : State) : Host.Outcome State Fault Refusal :=
  let keep (p : Nat) : Bool := p < lo || hi ≤ p
  .next { s with atc := s.atc.filter (fun e => keep e.1), atsRefused := s.atsRefused.filter keep }

/-- A Translation Completion: the host has enabled ATS, and grants or refuses a page. -/
def execAtsTranslationCompletion (page : Nat) (ok : Bool) (target : Nat) (s : State) : Host.Outcome State Fault Refusal :=
  let atc := s.atc.filter (fun e => e.1 != page)
  let refused := s.atsRefused.filter (fun p => p != page)
  if ok then .next { s with atsEn := true, atc := ((page, target) :: atc).take Config.atcSize, atsRefused := refused }
  else .next { s with atsEn := true, atc := atc, atsRefused := page :: refused }

/-! ### Link training (16 R340, R353) -/

/-- The link trains at a width of the endpoint; a pending lane reversal takes effect. -/
def execLinkTraining (width : Nat) (s : State) : Host.Outcome State Fault Refusal :=
  if [1, 2, 4, 8, 16].contains width then
    match s.spCmd with
    | some c =>
      if c.kind = 6 then
        .next { s with linkWidth := width, reversed := !s.reversed, spCmd := none, spResult := 0 }
      else .next { s with linkWidth := width }
    | none => .next { s with linkWidth := width }
  else .next s

/-! ### Boot (16 R348) -/

/-- A device reset: everything but memory, the host's, the flash, the fuses, BAR2's size and what has left the device is
as after reset, and the controller begins to verify (log entry 39). -/
def execDeviceReset (s : State) : Host.Outcome State Fault Refusal :=
  .next { State.reset with
    mem := s.mem, hostMem := s.hostMem, poison := s.poison, flash := s.flash, fused := s.fused, bar2Log := s.bar2Log
    fabOut := s.fabOut, msix := s.msix
    cur := s.cur, agenda := s.agenda, fresh := s.fresh, serial := s.serial, boot := 1 }

/-- The checks of an image: 0, or FAIL of the first that it does not pass (16 R348; log entry 25). -/
def State.verify (s : State) (img : List Byte) : BitVec 8 :=
  if !Config.ecdsaOk img then 1
  else if !Config.lmsOk img then 2
  else if Config.imageVersion img < s.fused then 3 else 0

/-- A verified image that runs advances the fused version; it never falls (16 R348). -/
def State.fuseVersion (s : State) (v : Nat) : State := if s.boot = 2 ∧ s.fused < v then { s with fused := v } else s

/-- Verification ends: the image runs, or the controller enters recovery. -/
def execFirmwareVerify (s : State) : Host.Outcome State Fault Refusal :=
  if s.boot ≠ 1 then .next s
  else if s.starting then .next { s with boot := 2, starting := false }
  else
    let r : BitVec 8 := if Config.flashFails s.fresh then 4 else s.verify (s.flash.getD Config.flashImage)
    let s1 := { s with fresh := s.fresh + 1 }
    if r = 0 then .next { s1 with boot := 2, bootFail := 0 } else .next { s1 with boot := 3, bootFail := r }

/-- Bytes of the mailbox from +0x100 on. -/
def State.mailBytes (s : State) (n : Nat) : List Byte := (List.range (min n 3840)).map (fun i => Sparse.get 0 s.mbox i)

def State.putMail (s : State) (bs : List Byte) : State :=
  { s with mbox := (bs.zipIdx).foldl (fun t x => Sparse.put 0 t x.2 x.1) s.mbox }

/-- A chunk of a replacement image: bit 31 says that it is one, bit 30 that it is the last. -/
def execRecoveryChunk (len : BitVec 32) (s : State) : Host.Outcome State Fault Refusal :=
  if s.boot ≠ 3 ∨ len.getLsbD 31 = false then .next s
  else
    let img := s.chunks ++ s.mailBytes (len.toNat % 2 ^ 30)
    let s1 := { s with mboxLen := len, mboxDone := true, chunks := img }
    if len.getLsbD 30 = false then .next s1
    else
      let r := s.verify img
      if r = 0 then .next { s1 with chunks := [], flash := some img, starting := true, boot := 1, bootFail := 0 }
      else .next { s1 with chunks := [], bootFail := r }

/-- The spare map: replaced units with what replaces them (16 R353). -/
def State.spareMap (s : State) : List (List Nat) :=
  s.spareCores.map (fun e => [1, e.1, e.2]) ++ s.spareClusters.map (fun e => [2, e.1, e.2])
    ++ s.spareRows.map (fun e => [3, e.1, e.2.1, e.2.2]) ++ s.spareLanes.map (fun e => [4, e.1, e.2.1, e.2.2])

/-- Measurement i (16 R347). -/
def State.measure (s : State) : Nat → List Byte
  | 1 => Config.romMeasure
  | 2 => Config.imageMeasure (s.flash.getD Config.flashImage)
  | 3 => Config.fuseMeasure s.fused
  | 4 => Config.spareMeasure s.spareMap
  | _ => []

/-- A measurement block: index, specification, size, value. -/
def State.measureBlock (s : State) (i : Nat) : List Byte :=
  toBytes 1 i ++ toBytes 1 1 ++ toBytes 2 (s.measure i).length ++ s.measure i

/-- The requests that the responder takes, by their SPDM codes: GET_DIGESTS, GET_CERTIFICATE, CHALLENGE, GET_VERSION,
GET_MEASUREMENTS, GET_CAPABILITIES, NEGOTIATE_ALGORITHMS (16 R347; log entry 26). -/
def spdmCodes : List Nat := [0x81, 0x82, 0x83, 0x84, 0xE0, 0xE1, 0xE3]

/-- An LMS signature with the parameters LMS_SHA256_M24_H20 and LMOTS_SHA256_N24_W4: its leaf, the two type codes 7 and
13, and between and after them 52 and 20 values of 24 bytes (16 R347; log entry 26). -/
def lmsSignature (transcript : List Byte) : List Byte :=
  let some' (i n : Nat) : List Byte := (List.range n).map (fun k => Config.lmsByte transcript (i + k))
  some' 0 4 ++ [0, 0, 0, 7] ++ some' 4 (24 * 52) ++ [0, 0, 0, 13] ++ some' (4 + 24 * 52) (24 * 20)

/-- A signature of ECDSA over P-384: 96 bytes. -/
def ecdsaSignature (transcript : List Byte) : List Byte := (List.range 96).map (Config.ecdsaByte transcript)

/-- The end of a signed response: OpaqueData with the LMS element, then the ECDSA signature, both over the transcript
(16 R347). -/
def spdmSigned (transcript : List Byte) : List Byte :=
  let lms := lmsSignature transcript
  toBytes 2 lms.length ++ lms ++ ecdsaSignature transcript

/-- VERSION: one entry, 1.3. -/
def spdmVersion : List Byte := [0x10, 0x04, 0, 0, 0, 1, 0x00, 0x13]

/-- CAPABILITIES: certificates, CHALLENGE, and measurements with a signature; messages of the mailbox's 3840 bytes. -/
def spdmCapabilities : List Byte := [0x13, 0x61, 0, 0, 0, 0, 0, 0] ++ toBytes 4 0x16 ++ toBytes 4 3840 ++ toBytes 4 3840

/-- ALGORITHMS: of those that the request offers, TPM_ALG_ECDSA_ECC_NIST_P384 and SHA-384. -/
def spdmAlgorithms (req : List Byte) : List Byte :=
  let offered (i : Nat) : Nat := ofBytes ((req.drop i).take 4)
  [0x13, 0x63, 0, 0] ++ toBytes 2 36 ++ [1, 0] ++ toBytes 4 4 ++ toBytes 4 (offered 8 &&& 0x80)
    ++ toBytes 4 (offered 12 &&& 2) ++ toBytes 16 0

/-- The responder's answer to a request (16 R347; log entry 26). -/
def State.spdmAnswer (s : State) (req : List Byte) : List Byte :=
  let byte (i : Nat) : Nat := (req.getD i 0).toNat
  let free := Config.spdmFields req s.fresh
  let head (c : Nat) : List Byte := [0x13] ++ toBytes 1 c
  let error (e d : Nat) : List Byte := head 0x7F ++ toBytes 1 e ++ toBytes 1 d
  let code := byte 1
  if code = 0x84 then spdmVersion
  else if byte 0 ≠ 0x13 then error 0x41 0
  else if !spdmCodes.contains code then error 7 code
  else if code = 0xE1 then spdmCapabilities
  else if code = 0xE3 then spdmAlgorithms req
  else if code = 0xE0 then
    let i := byte 3
    if 4 < i ∧ i ≠ 255 then error 1 0
    else
      let ids := if i = 0 then [] else if i = 255 then [1, 2, 3, 4] else [i]
      let rec_ := ids.flatMap s.measureBlock
      let m := head 0x60 ++ toBytes 1 (if i = 0 then 4 else 0) ++ toBytes 1 0 ++ toBytes 1 ids.length
        ++ toBytes 3 rec_.length ++ rec_ ++ free
      m ++ (if byte 2 % 2 = 1 then spdmSigned (req ++ m) else toBytes 2 0)
  else if code = 0x83 then
    let m := head 3 ++ free
    m ++ spdmSigned (req ++ m)
  else head (code - 0x80) ++ free

/-- A request to the responder. -/
def execSpdmRequest (len : BitVec 32) (s : State) : Host.Outcome State Fault Refusal :=
  if s.boot ≠ 2 then .next s
  else
    let r := (s.spdmAnswer (s.mailBytes len.toNat)).take 3840
    .next { s.putMail r with
      fresh := s.fresh + 1, mboxLen := len, mboxDone := true, mboxRespLen := BitVec.ofNat 32 r.length }

/-! ### Power (16 R349, R350) -/

/-- The core of a core island. -/
def coreOfIsland (i : Nat) : CoreId := { clus := i / 2, core := i % 2 }

/-- A core that holds a resident group or a reservation entry. -/
def State.coreHolds (s : State) (c : CoreId) : Bool :=
  s.groups.any (fun e => e.2.core == c && s.holds e.1 e.2) || !(s.core c).resv.isEmpty

/-- The die of an L2 or HBM PHY island. -/
def islandDie (i : Nat) : Nat := (if i < 208 then i - 192 else i - 208) / 4

/-- Every core island of a die is OFF. -/
def State.dieOff (s : State) (d : Nat) : Bool := (List.range 48).all (fun k => (s.island (48 * d + k)).cur == 3)

/-- A write to an island register is refused. -/
def State.islandRefuses (s : State) (i : Nat) (vsel : BitVec 8) (fdiv : BitVec 4) (state : BitVec 2) : Bool :=
  decide (90 < vsel.toNat) || state == 2 || decide (Config.fdivLimit vsel.toNat < fdiv.toNat)
    || (decide (i < 192) && state == 3 && s.coreHolds (coreOfIsland i))
    || (decide (224 ≤ i) && state != 0)
    || (decide (192 ≤ i) && decide (i < 224) && state != 0 && !s.dieOff (islandDie i))

/-- A write of the low half of an island register. -/
def State.writeIsland (s : State) (i : Nat) (v : Word) : State :=
  let vsel := v.extractLsb' 8 8
  let fdiv := v.extractLsb' 4 4
  let state := v.extractLsb' 0 2
  if 256 ≤ i then s
  else if s.islandRefuses i vsel fdiv state then s.modIsland i (fun x => { x with ref := true })
  else
    s.modIsland i (fun x => { x with
      ref := x.ref && !v.getLsbD 19, chg := true, vsel := vsel, fdiv := fdiv, state := state })

def execIslandWrite (i : Nat) (v : Word) (s : State) : Host.Outcome State Fault Refusal := s.hostStep (s.writeIsland i v)

/-- A change ends: CUR is the state asked for. -/
def execIslandChangeComplete (i : Nat) (s : State) : Host.Outcome State Fault Refusal :=
  if (s.island i).chg then .next (s.modIsland i (fun x => { x with chg := false, cur := x.state })) else .next s

/-- The clamp starts: ACTIVE, CNT and the CLV message together. -/
def execClampEnter (s : State) : Host.Outcome State Fault Refusal :=
  if s.clampActive then .next s
  else .next ({ s with clampActive := true, clampCnt := satAdd s.clampCnt 1 }.interrupt s.clv.toNat)

def execClampExit (s : State) : Host.Outcome State Fault Refusal := .next { s with clampActive := false }

/-! ### Row activation counts (16 R352) -/

/-- RATHR: values below 256 are taken as 256. -/
def State.rowLimit (s : State) (stack : Nat) : Nat := max 256 (Sparse.get 4096 s.rathr stack).toNat

/-- The count of a row is read and incremented; at RATHR, or with bad parity, the neighbours are refreshed and the
count starts again. -/
def execRowPrecharge (stack bank row : Nat) (s : State) : Host.Outcome State Fault Refusal :=
  let bad := Config.parityFails s.fresh
  let n := (Tab.get? s.rows (stack, bank, row)).getD 0 + 1
  let reached := bad || decide (s.rowLimit stack ≤ n)
  .next { s with
    fresh := s.fresh + 1
    badCnt := if bad then satAdd s.badCnt 1 else s.badCnt
    rows := if reached then Tab.erase s.rows (stack, bank, row) else Tab.put s.rows (stack, bank, row) n }

/-! ### Spares (16 R353) -/

/-- Physical spare cores in use, and the spare cores of spare clusters in use, as 4 × die + number. -/
def State.coreSpareUsed (s : State) (k : Nat) : Bool :=
  s.spareCores.any (fun e => e.2 == k) || s.spareClusters.any (fun e => e.2 == k / 2)

/-- A spare cluster, as 2 × die + number, is in use or has given up a core. -/
def State.clusterSpareUsed (s : State) (k : Nat) : Bool :=
  s.spareClusters.any (fun e => e.2 == k) || s.spareCores.any (fun e => e.2 / 2 == k)

/-- RESULT of a command that does not start: 1 a bad argument, 2 a unit not quiesced, 3 no spare free. The numbers of SRAM
rows, channels and lanes, and of their spares, are not the manual's (log entry 75). -/
def State.spareRefuses (s : State) (c : SpareCmd) : Option (BitVec 8) :=
  match c.kind with
  | 1 =>
    if 192 ≤ c.u0 ∨ 4 ≤ c.u1 then some 1
    else if (s.core (coreOfIsland c.u0)).fenced = false ∧ (s.island c.u0).cur ≠ 3 then some 2
    else if s.coreSpareUsed (4 * (c.u0 / 48) + c.u1) then some 3 else none
  | 2 =>
    if 96 ≤ c.u0 ∨ 2 ≤ c.u1 then some 1
    else if (List.range 256).any (fun x => (s.ctx x).en && (s.ctx x).clusters.contains c.u0) then some 2
    else if s.clusterSpareUsed (2 * (c.u0 / 24) + c.u1) then some 3 else none
  | 3 =>
    if 96 ≤ c.u0 ∨ 32 ≤ c.u1 ∨ Config.spareUnit 3 c.u0 c.u1 c.u2 = false then some 1
    else if (s.bank c.u0 c.u1).mode ≠ .off then some 2
    else if Config.spareLeft 3 c.u0 c.u1 c.u2 s.spareRows.length then none else some 3
  | 4 =>
    if 16 ≤ c.u0 ∨ Config.spareUnit 4 c.u0 c.u1 c.u2 = false then some 1
    else if Config.spareLeft 4 c.u0 c.u1 c.u2 s.spareLanes.length then none else some 3
  | 6 => none
  | _ => some 1

/-- A write of KIND to SPCMD, ignored while BUSY is 1. -/
def State.spareStart (s : State) (c : SpareCmd) : State :=
  if s.spCmd.isSome then s
  else
    match s.spareRefuses c with
    | some r => { s with spResult := r }
    | none => { s with spCmd := some c }

def spareCmd (kind : BitVec 8) (u0 u1 u2 : Nat) : SpareCmd := { kind := kind, u0 := u0, u1 := u1, u2 := u2 }

def execSpareCore (u0 u1 : Nat) (s : State) : Host.Outcome State Fault Refusal := .next (s.spareStart (spareCmd 1 u0 u1 0))
def execSpareCluster (u0 u1 : Nat) (s : State) : Host.Outcome State Fault Refusal :=
  .next (s.spareStart (spareCmd 2 u0 u1 0))
def execSpareSramRow (u0 u1 u2 : Nat) (s : State) : Host.Outcome State Fault Refusal :=
  .next (s.spareStart (spareCmd 3 u0 u1 u2))
def execSpareHbmLane (u0 u1 u2 : Nat) (s : State) : Host.Outcome State Fault Refusal :=
  .next (s.spareStart (spareCmd 4 u0 u1 u2))
def execPcieLaneReversal (s : State) : Host.Outcome State Fault Refusal := .next (s.spareStart (spareCmd 6 0 0 0))

/-- What a command that ends has changed: the spare map, a fence, or the cores that a replaced cluster gives back. -/
def State.spareApply (s : State) (c : SpareCmd) : State :=
  match c.kind with
  | 1 =>
    { s.modCore (coreOfIsland c.u0) (fun x => { x with fenced := false, tlb := [] }) with
      spareCores := s.spareCores ++ [(c.u0, 4 * (c.u0 / 48) + c.u1)] }
  | 2 =>
    { s.dropCluster c.u0 with
      spareCores := s.spareCores.filter (fun e => e.1 / 2 != c.u0)
      spareClusters := s.spareClusters ++ [(c.u0, 2 * (c.u0 / 24) + c.u1)] }
  | 3 => { s with spareRows := s.spareRows ++ [(c.u0, c.u1, c.u2)] }
  | 4 => { s with spareLanes := s.spareLanes ++ [(c.u0, c.u1, c.u2)] }
  | _ => s

/-- A spare command ends with RESULT 0; a lane reversal ends at the next link training. -/
def execSpareComplete (s : State) : Host.Outcome State Fault Refusal :=
  match s.spCmd with
  | none => .next s
  | some c => if c.kind = 6 then .next s else .next { s.spareApply c with spCmd := none, spResult := 0 }

/-! ### Writes that are performed without an instruction (12 R249, R253) -/

/-- A written sector leaves the cluster L1, or the package's L2, on its own; a clean one is evicted. The request of an
eviction is made in context 0 (log entry 41). -/
def execWritePerformed (l2 : Bool) (clus sec : Nat) (s : State) : Host.Outcome State Fault Refusal :=
  if l2 then .next (s.cleanL2 0 sec) else .next (s.cleanL1 clus sec)

end Sys2Proof.Machine
end

