-- ==== Sys2Proof/Machine/Registers.lean ====
section
/-! DEFINITION. The registers of BAR0: what each reads, and what a write of all or half of one does (07 R180, 12 R276,
13 R279, R290, 14 R295, R307, R309, R313, 15 R331, R334, 16 R342 to R353). -/

namespace Sys2Proof.Machine

/-! ### Fields -/

/-- A value at bit k of a register. -/
def field {n : Nat} (x : BitVec n) (k : Nat) : Word := x.setWidth 64 <<< k
def bit (b : Bool) (k : Nat) : Word := if b then (1 : Word) <<< k else 0

/-- A write: the bits of a register that are written, and their new values. -/
structure RegWr where
  mask : Word
  data : Word
  deriving DecidableEq, Repr

namespace RegWr

def low (w : RegWr) : Bool := w.mask.getLsbD 0
def high (w : RegWr) : Bool := w.mask.getLsbD 63

/-- The register's value after the write, all bits being writable. -/
def over_ (w : RegWr) (old : Word) : Word := (old &&& ~~~w.mask) ||| (w.data &&& w.mask)

/-- n bits from bit k after the write. -/
def at_ {n : Nat} (w : RegWr) (old : BitVec n) (k : Nat) : BitVec n := (w.over_ (field old k)).extractLsb' k n

def flag (w : RegWr) (old : Bool) (k : Nat) : Bool := (w.over_ (bit old k)).getLsbD k

/-- Write one to clear. -/
def clear {n : Nat} (w : RegWr) (old : BitVec n) (k : Nat) : BitVec n := old &&& ~~~((w.data &&& w.mask).extractLsb' k n)

/-- A bit that acts when written as 1. -/
def hit (w : RegWr) (k : Nat) : Bool := (w.data &&& w.mask).getLsbD k

end RegWr

/-! ### The device block (16 R343) -/

def State.readDevice (s : State) (off : Nat) : Word :=
  match off with
  | 0x00 => field s.bootFail 8 ||| field s.boot 0
  | 0x08 => field s.devnum 0
  | 0x10 => field s.repv 48 ||| field s.qhv 32 ||| field s.uev 16 ||| field s.clv 0
  | 0x18 => field s.ilim 48 ||| field s.clampCnt 16 ||| bit s.clampActive 1
  | 0x28 => field s.spResult 8 ||| bit s.spCmd.isSome 0
  | 0x30 => field s.ueCnt 32 ||| field s.ceCnt 0
  | 0x38 => field s.ueAddr 0
  | 0x40 => field s.badCnt 0
  | 0x48 => field s.wbase 0
  | _ => 0

/-- SPCMD: KIND acts with the units as they then stand; a write while BUSY is 1 is ignored. -/
def State.writeSpare (s : State) (w : RegWr) : State :=
  if s.spCmd.isSome then s
  else
  let s1 := { s with spArg := w.at_ s.spArg 32 }
  if w.low then
    s1.spareStart (spareCmd (w.data.extractLsb' 0 8) (w.data.extractLsb' 16 16).toNat (s1.spArg.extractLsb' 0 16).toNat
      (s1.spArg.extractLsb' 16 16).toNat)
  else s1

def State.writeDevice (s : State) (off : Nat) (w : RegWr) : State :=
  match off with
  | 0x08 => if (List.range 256).any (fun c => (s.ctx c).en) then s else { s with devnum := w.at_ s.devnum 0 }
  | 0x10 =>
    { s with repv := w.at_ s.repv 48, qhv := w.at_ s.qhv 32, uev := w.at_ s.uev 16, clv := w.at_ s.clv 0 }
  | 0x18 => { s with ilim := w.at_ s.ilim 48, clampCnt := w.clear s.clampCnt 16 }
  | 0x20 => s.writeSpare w
  | 0x30 => { s with ueCnt := w.clear s.ueCnt 32, ceCnt := w.clear s.ceCnt 0 }
  | 0x40 => { s with badCnt := w.clear s.badCnt 0 }
  | 0x48 => { s with wbase := w.at_ s.wbase 0 }
  | _ => s

/-! ### The SPDM mailbox (16 R347, R348) -/

def State.readMail (s : State) (off : Nat) : Word :=
  if off = 0x00 then field s.mboxLen 0
  else if off = 0x08 then bit s.mboxDone 0
  else if off = 0x10 then field s.mboxRespLen 0
  else if 0x100 ≤ off then wordOf ((List.range 8).map (fun i => Sparse.get 0 s.mbox (off - 0x100 + i)))
  else 0

/-- The bytes of a message that a write changes. -/
def State.writeMailBytes (s : State) (o : Nat) (w : RegWr) : State :=
  { s with mbox := (List.range 8).foldl (fun t i =>
      if w.mask.getLsbD (8 * i) then Sparse.put 0 t (o + i) (w.data.extractLsb' (8 * i) 8) else t) s.mbox }

/-- The outcome's state; these steps never stop. -/
def afterStep (s : State) : Host.Outcome State Fault Refusal → State
  | .next t => t
  | _ => s

def State.writeMail (s : State) (off : Nat) (w : RegWr) : State :=
  if off = 0x00 then
    if w.low then
      let len := w.data.extractLsb' 0 32
      afterStep s (if s.boot = 3 then execRecoveryChunk len s else execSpdmRequest len s)
    else s
  else if 0x100 ≤ off then s.writeMailBytes (off - 0x100) w
  else s

/-! ### The fabric, translation commands and quiescence -/

def State.readFabric (s : State) (off : Nat) : Word :=
  match off with
  | 0x00 => bit s.rfen 16 ||| field s.incarn 0
  | 0x08 => field s.rmax 56 ||| field s.rto 0
  | 0x10 => field s.rlim 32 ||| field s.drain 0
  | _ => 0

/-- FXINC: with FRST the other fields are ignored, and INCARN takes a value only while RFEN is 0 (14 R309). -/
def State.writeFabric (s : State) (off : Nat) (w : RegWr) : State :=
  match off with
  | 0x00 =>
    if w.hit 17 then s.fabricReset
    else { s with incarn := if s.rfen then s.incarn else w.at_ s.incarn 0, rfen := w.flag s.rfen 16 }
  | 0x08 => { s with rmax := w.at_ s.rmax 56, rto := w.at_ s.rto 0 }
  | 0x10 => { s with rlim := w.at_ s.rlim 32, drain := w.at_ s.drain 0 }
  | _ => s

def State.readCmd (s : State) (off : Nat) : Word :=
  match off with
  | 0x00 => s.tca0
  | 0x08 => s.tca1
  | 0x10 => s.tca2
  | 0x18 => s.tca3
  | 0x28 => field s.genf 32 ||| field s.tresult 8 ||| bit s.tbusy 0
  | _ => 0

def State.writeCmd (s : State) (off : Nat) (w : RegWr) : State :=
  match off with
  | 0x00 => { s with tca0 := w.over_ s.tca0 }
  | 0x08 => { s with tca1 := w.over_ s.tca1 &&& ~~~(0xFFFF00000000 : Word) }
  | 0x10 => { s with tca2 := w.over_ s.tca2 }
  | 0x18 => { s with tca3 := w.over_ s.tca3 &&& ~~~(15 : Word) }
  | 0x20 => if w.low then s.tStart (w.data.extractLsb' 0 8) else s
  | _ => s

/-- A quiescence register (12 R276). -/
def State.readQuiet (s : State) (off : Nat) : Word :=
  if off / 8 < 5 then
    field (BitVec.ofNat 24 (s.quar (off / 8)).frames.length) 32 ||| field (s.quar (off / 8)).gen 0
  else 0

/-! ### Decoders, rows and peers -/

/-- CXLDEC: BASE and SIZE with EN (16 R345). -/
def State.readDecoder (s : State) (off : Nat) : Word :=
  if 8 ≤ off / 16 then 0
  else if off % 16 = 0 then Sparse.get 0 s.cxlBase (off / 16) else Sparse.get 0 s.cxlSize (off / 16)

def State.writeDecoder (s : State) (off : Nat) (w : RegWr) : State :=
  let p := off / 16
  if 8 ≤ p then s
  else if off % 16 = 0 then { s with cxlBase := Sparse.put 0 s.cxlBase p (w.over_ (Sparse.get 0 s.cxlBase p)) }
  else { s with cxlSize := Sparse.put 0 s.cxlSize p (w.over_ (Sparse.get 0 s.cxlSize p)) }

def State.readRow (s : State) (off : Nat) : Word := if off / 8 < 16 then field (Sparse.get 4096 s.rathr (off / 8)) 0 else 0

def State.writeRow (s : State) (off : Nat) (w : RegWr) : State :=
  if off / 8 < 16 then { s with rathr := Sparse.put 4096 s.rathr (off / 8) (w.at_ (Sparse.get 4096 s.rathr (off / 8)) 0) }
  else s

/-- PEERTAB (14 R295). -/
def State.readPeer (s : State) (n : Nat) : Word :=
  if n < 1024 then bit (s.isPeerx n) 17 ||| field (s.incOf n) 0 else 0

def State.writePeer (s : State) (n : Nat) (w : RegWr) : State :=
  if n < 1024 then
    { s with
      peerx := Sparse.put false s.peerx n (w.flag (s.isPeerx n) 17)
      peerInc := Sparse.put 0 s.peerInc n (w.at_ (s.incOf n) 0) }
  else s

/-! ### Queues (13 R279, R290) -/

def State.readQueue (s : State) (q off : Nat) : Word :=
  let x := s.queue q
  match off with
  | 0x00 => field x.ring 12
  | 0x08 => field x.ptrs 6
  | 0x10 => field x.ctx 32 ||| field x.log2n 16 ||| field x.prio 8 ||| bit x.halt 2 ||| bit x.en 0
  | 0x18 => field x.t2 32 ||| field x.t1 0
  | 0x20 => field x.w 32 ||| field x.stage 0
  | 0x28 => field x.t3 0
  | _ => 0

/-- QCTL: CTX and LOG2N stay while EN is 1; HALT is cleared by a 1; KILL kills. -/
def State.writeQctl (s : State) (q : Nat) (w : RegWr) : State :=
  let s1 := s.modQueue q (fun x => { x with
    ctx := if x.en then x.ctx else w.at_ x.ctx 32
    log2n := if x.en then x.log2n else w.at_ x.log2n 16
    prio := w.at_ x.prio 8
    halt := x.halt && !w.hit 2
    en := w.flag x.en 0 })
  if w.hit 3 then s1.killQueue q else s1

def State.writeQueue (s : State) (q off : Nat) (w : RegWr) : State :=
  match off with
  | 0x00 => s.modQueue q (fun x => if x.en then x else { x with ring := w.at_ x.ring 12 })
  | 0x08 => s.modQueue q (fun x => if x.en then x else { x with ptrs := w.at_ x.ptrs 6 })
  | 0x10 => s.writeQctl q w
  | 0x18 => s.modQueue q (fun x => { x with t2 := w.at_ x.t2 32, t1 := w.at_ x.t1 0 })
  | 0x28 => s.modQueue q (fun x => { x with t3 := w.at_ x.t3 0 })
  | _ => s

/-! ### Contexts (15 R331, 16 R344) -/

def State.readCtx (s : State) (n off : Nat) : Word :=
  let c := s.ctx n
  match off with
  | 0x00 => field c.rqid 40 ||| field c.asid 24 ||| bit c.en 0
  | 0x08 => field c.t4base 12
  | 0x10 => c.gcaBase
  | 0x18 => c.gcaStr
  | 0x20 => c.tcaBase
  | 0x28 => c.tcaStr
  | 0x30 => c.trapBase
  | 0x38 => c.trapStr
  | 0x40 => field c.grace 0
  | 0x48 => field c.serbase 0
  | 0x50 => c.clmask0
  | 0x58 => field c.clmask1 0
  | 0x68 => bit c.out 2 ||| bit c.held 1 ||| bit c.busy 0
  | 0x80 => field c.fbBase 12
  | 0x88 => field c.drops 32 ||| field c.vec 16 ||| field c.log2n 8 ||| bit c.nen 2 ||| bit c.dropped 1 ||| bit c.fbEn 0
  | 0x90 => field c.put 0
  | 0x98 => field c.get 0
  | _ => 0

/-- FBCTL: LOG2N stays while EN is 1; EN from 0 to 1 sets PUT := GET and clears DROPS. -/
def Context.writeFbctl (c : Context) (w : RegWr) : Context :=
  let en := w.flag c.fbEn 0
  let rises := !c.fbEn && en
  { c with
    drops := if rises then 0 else c.drops
    vec := w.at_ c.vec 16
    log2n := if c.fbEn then c.log2n else w.at_ c.log2n 8
    nen := w.flag c.nen 2
    dropped := c.dropped && !w.hit 1
    fbEn := en
    put := if rises then c.get else c.put }

/-- Registers of a context; those that fix its identity and areas stay while EN is 1. -/
def Context.write (c : Context) (off : Nat) (w : RegWr) : Context :=
  match off with
  | 0x00 =>
    { c with
      rqid := if c.en then c.rqid else w.at_ c.rqid 40
      asid := if c.en then c.asid else w.at_ c.asid 24
      en := w.flag c.en 0 }
  | 0x08 => if c.en then c else { c with t4base := w.at_ c.t4base 12 }
  | 0x10 => if c.en then c else { c with gcaBase := w.over_ c.gcaBase }
  | 0x18 => if c.en then c else { c with gcaStr := w.over_ c.gcaStr }
  | 0x20 => if c.en then c else { c with tcaBase := w.over_ c.tcaBase }
  | 0x28 => if c.en then c else { c with tcaStr := w.over_ c.tcaStr }
  | 0x30 => if c.en then c else { c with trapBase := w.over_ c.trapBase }
  | 0x38 => if c.en then c else { c with trapStr := w.over_ c.trapStr }
  | 0x40 => { c with grace := w.at_ c.grace 0 }
  | 0x48 => { c with serbase := w.at_ c.serbase 0 }
  | 0x50 => { c with clmask0 := w.over_ c.clmask0 }
  | 0x58 => { c with clmask1 := w.at_ c.clmask1 0 }
  | 0x80 => if c.fbEn then c else { c with fbBase := w.at_ c.fbBase 12 }
  | 0x88 => c.writeFbctl w
  | 0x98 => { c with get := w.at_ c.get 0 }
  | _ => c

def State.writeCtx (s : State) (n off : Nat) (w : RegWr) : State :=
  if off = 0x60 then (if w.low then s.ctxStart n (w.data.extractLsb' 0 8) else s)
  else s.modCtx n (fun c => c.write off w)

/-! ### Ports, bank owners and islands -/

/-- LREP (14 R313). -/
def State.readPort (s : State) (n : Nat) : Word :=
  let p := s.port n
  if n < 18 then
    field p.crccnt 48 ||| field p.abthr 32 ||| field p.nthr 16 ||| bit p.spok 8 ||| field p.lane 6 ||| bit p.req 5
      ||| bit p.abnd 4 ||| field p.state 2
  else 0

/-- LREP: REQ and LANE are RW at all times; a 1 in REQ commands a repair. -/
def State.writePort (s : State) (n : Nat) (w : RegWr) : State :=
  if 18 ≤ n then s
  else
    let s1 := s.modPort n (fun p => { p with
      crccnt := w.at_ p.crccnt 48, abthr := w.at_ p.abthr 32, nthr := w.at_ p.nthr 16, abnd := p.abnd && !w.hit 4 })
    if w.low then s1.modPort n (fun p => p.command (w.data.extractLsb' 6 2) (w.hit 5)) else s1

/-- The owner field of a bank (16 R346). -/
def ownerWord (b : Bank) : BitVec 16 := b.ownCtx.setWidth 16 ||| (if b.ownValid then 0x100 else 0)

/-- Four bank owners. -/
def State.readOwners (s : State) (off : Nat) : Word :=
  if off / 64 < 96 then
    (List.range 4).foldl (fun v i => v ||| field (ownerWord (s.bank (off / 64) (off % 64 / 2 + i))) (16 * i)) 0
  else 0

/-- The host may change the owner only of a bank that is OFF, or CACHE with no change pending (10 R221). DESIGN CHOICE
(log entry 78): bits [7:0] hold what was written whatever VALID is, as those of an RW field. -/
def Bank.setOwner (b : Bank) (v : BitVec 16) : Bank :=
  if b.mode = .off ∨ (b.mode = .cache ∧ b.target = none) then
    { b with ownCtx := v.extractLsb' 0 8, ownValid := v.getLsbD 8 }
  else b

def State.writeOwners (s : State) (off : Nat) (w : RegWr) : State :=
  if off / 64 < 96 then
    (List.range 4).foldl (fun s i =>
      if w.mask.getLsbD (16 * i) then
        s.modBank (off / 64) (off % 64 / 2 + i) (fun b => b.setOwner (w.data.extractLsb' (16 * i) 16))
      else s) s
  else s

/-- An island register (16 R349). -/
def State.readIsland (s : State) (i : Nat) : Word :=
  let x := s.island i
  if i < 256 then
    bit x.ref 19 ||| bit x.chg 18 ||| field x.cur 16 ||| field x.vsel 8 ||| field x.fdiv 4 ||| field x.state 0
  else 0

/-! ### BAR0 (16 R342) -/

/-- Until STATE is 2 only the device block answers, and the mailbox in recovery (16 R348; log entry 39). -/
def State.exposed (s : State) (off : Nat) : Bool :=
  off < 0x1000 || s.boot == 2 || (off < 0x2000 && s.boot == 3)

/-- What an aligned 8-byte register of BAR0 reads. -/
def State.readReg (s : State) (off : Nat) : Word :=
  if !s.exposed off then 0
  else if off < 0x1000 then s.readDevice off
  else if off < 0x2000 then s.readMail (off - 0x1000)
  else if off < 0x10000 then 0
  else if off < 0x20000 then s.readFabric (off - 0x10000)
  else if off < 0x30000 then s.readCmd (off - 0x20000)
  else if off < 0x40000 then s.readQuiet (off - 0x30000)
  else if off < 0x50000 then s.readDecoder (off - 0x40000)
  else if off < 0x60000 then s.readRow (off - 0x50000)
  else if off < 0x100000 then 0
  else if off < 0x200000 then s.readPeer ((off - 0x100000) / 8)
  else if off < 0x300000 then (if off < 0x204000 then s.readQueue ((off - 0x200000) / 64) (off % 64) else 0)
  else if off < 0x400000 then (if off < 0x310000 then s.readCtx ((off - 0x300000) / 256) (off % 256) else 0)
  else if off < 0x500000 then s.readPort ((off - 0x400000) / 8)
  else if off < 0x600000 then s.readOwners (off - 0x500000)
  else if off < 0x700000 then s.readIsland ((off - 0x600000) / 8)
  else 0

/-- Writes an aligned 8-byte register of BAR0, or a half of it. -/
def State.writeReg (s : State) (off : Nat) (w : RegWr) : State :=
  if !s.exposed off then s
  else if off < 0x1000 then s.writeDevice off w
  else if off < 0x2000 then s.writeMail (off - 0x1000) w
  else if off < 0x10000 then s
  else if off < 0x20000 then s.writeFabric (off - 0x10000) w
  else if off < 0x30000 then s.writeCmd (off - 0x20000) w
  else if off < 0x40000 then s
  else if off < 0x50000 then s.writeDecoder (off - 0x40000) w
  else if off < 0x60000 then s.writeRow (off - 0x50000) w
  else if off < 0x100000 then s
  else if off < 0x200000 then s.writePeer ((off - 0x100000) / 8) w
  else if off < 0x300000 then (if off < 0x204000 then s.writeQueue ((off - 0x200000) / 64) (off % 64) w else s)
  else if off < 0x400000 then (if off < 0x310000 then s.writeCtx ((off - 0x300000) / 256) (off % 256) w else s)
  else if off < 0x500000 then s.writePort ((off - 0x400000) / 8) w
  else if off < 0x600000 then s.writeOwners (off - 0x500000) w
  else if off < 0x700000 then (if w.low then s.writeIsland ((off - 0x600000) / 8) w.data else s)
  else s

/-- A host read of BAR0: an aligned access of 8 bytes, or of the half it addresses. -/
def State.readBar0 (s : State) (off : Nat) (half : Bool) : Word :=
  if half then
    (if off % 4 = 0 then ((s.readReg (off / 8 * 8)) >>> (8 * (off % 8))) &&& fullMask 32 else 0)
  else if off % 8 = 0 then s.readReg off else 0

/-- The bits an access of the host writes; none where it is not aligned. 16 R342 only says that accesses are aligned: one
that is not writes nothing here, and reads 0 (DESIGN CHOICE, log entry 95). -/
def regWr (off : Nat) (half : Bool) (v : Word) : Option RegWr :=
  if half then
    (if off % 4 = 0 then
      some { mask := fullMask 32 <<< (8 * (off % 8)), data := (v &&& fullMask 32) <<< (8 * (off % 8)) }
    else none)
  else if off % 8 = 0 then some { mask := fullMask 64, data := v } else none

/-- A host write to a register of BAR0. -/
def execRegisterWrite (off : Nat) (half : Bool) (v : Word) (s : State) : Host.Outcome State Fault Refusal :=
  match regWr off half v with
  | some w => .next (s.writeReg (off / 8 * 8) w)
  | none => .next s

/-- The host writes FBCTL (15 R331). -/
def execFaultBufferEnable (ctx : Nat) (v : Word) (s : State) : Host.Outcome State Fault Refusal :=
  s.hostStep (s.modCtx ctx (fun c => c.writeFbctl { mask := fullMask 64, data := v }))

end Sys2Proof.Machine
end

