-- ==== Sys2Proof/Machine/System.lean ====
section
/-! DEFINITION. Control registers, the cycle count and the performance counters (07 R180, R181). -/

namespace Sys2Proof.Machine

/-- A control register of the context, as the group reads it (07 R180). -/
def ctlValue (s : State) (cx : Cx) (sel : Nat) : Word :=
  let c := s.ctx cx.ctx
  match sel with
  | 0 => BitVec.ofNat 64 c.strict.toNat
  | 1 => c.trapvec ++ (0 : BitVec 4)
  | 2 => cx.g.tframe
  | 3 => cx.l.data
  | 4 => BitVec.ofNat 64 (cx.l.kseg.toNat * 256 + cx.l.dseg.toNat)
  | 5 => BitVec.ofNat 64 (c.asid.toNat * 2 ^ 24 + c.rqid.toNat)
  | 6 => s.devnum.setWidth 64
  | _ => BitVec.ofNat 64 cx.g.preqVisible.toNat

def execCtlr (g : Guard) (d : RegIx) (sel : BitVec 16) : State → Host.Outcome State Fault Refusal :=
  issueMasked g (usesOf [] [d]) (fun s cx =>
    .done (s.putResult cx d.toNat (.uniform (ctlValue s cx sel.toNat)) Counts.zero))

/-- ctlw: every group of the context sees the write at once, within the bound of 07 R180. -/
def execCtlw (g : Guard) (sel : BitVec 16) (a : Src) : State → Host.Outcome State Fault Refusal :=
  issueMasked g (usesOf [a] []) (fun s cx =>
    match equalActive cx a with
    | none => .trap s (cause 0x04 0)
    | some v =>
      match sel.toNat with
      | 0 => .done (s.modCtx cx.ctx (fun c => { c with strict := v.getLsbD 0 }))
      | 1 => .done (s.modCtx cx.ctx (fun c => { c with trapvec := v.extractLsb' 4 60 }))
      | _ => .trap s (cause 0x09 5))

def execRdcyc (g : Guard) (d : RegIx) : State → Host.Outcome State Fault Refusal :=
  issueMasked g (usesOf [] [d]) (fun s cx =>
    .done (s.putResult cx d.toNat (.uniform (s.core cx.g.core).cyc) Counts.zero))

/-- A counter of perf: the group's below 0x100, the core's from there (07 R181). -/
def perfValue (s : State) (cx : Cx) (sel : Nat) : BitVec 32 :=
  if sel < 0x100 then cx.g.perfCount sel else Sparse.get 0 (s.core cx.g.core).perf sel

def State.clearPerf (s : State) (cx : Cx) (sel : Nat) : State :=
  if sel < 0x100 then s.modGroup cx.gid (fun g => { g with perf := Sparse.put 0 g.perf sel 0 })
  else s.modCore cx.g.core (fun c => { c with perf := Sparse.put 0 c.perf sel 0 })

def execPerf (g : Guard) (clr : Bool) (d : RegIx) (sel : BitVec 16) : State → Host.Outcome State Fault Refusal :=
  issueMasked g (usesOf [] [d]) (fun s cx =>
    let v := perfValue s cx sel.toNat
    let s1 := if clr then s.clearPerf cx sel.toNat else s
    .done (s1.putResult cx d.toNat (.uniform (v.setWidth 64)) Counts.zero))

end Sys2Proof.Machine
end

