-- ==== Sys2Proof/Machine/Dispatch.lean ====
section
/-! DEFINITION. One arm per row of the opcode table: each calls the meaning of its constructor. -/

namespace Sys2Proof.Machine

def exec (i : Instr) (s : State) : Host.Outcome State Fault Refusal :=
  match i with
  | .illegalWord x0 => Sys2Proof.Machine.execIllegalWord x0 s
  | .nop x0 => Sys2Proof.Machine.execNop x0 s
  | .bra x0 x1 => Sys2Proof.Machine.execBra x0 x1 s
  | .brc x0 x1 x2 => Sys2Proof.Machine.execBrc x0 x1 x2 s
  | .brd x0 x1 x2 => Sys2Proof.Machine.execBrd x0 x1 x2 s
  | .join x0 => Sys2Proof.Machine.execJoin x0 s
  | .brx x0 x1 x2 => Sys2Proof.Machine.execBrx x0 x1 x2 s
  | .call x0 x1 x2 => Sys2Proof.Machine.execCall x0 x1 x2 s
  | .callTbl x0 x1 x2 x3 => Sys2Proof.Machine.execCallTbl x0 x1 x2 x3 s
  | .ret x0 x1 => Sys2Proof.Machine.execRet x0 x1 s
  | .exit x0 => Sys2Proof.Machine.execExit x0 s
  | .trap x0 x1 => Sys2Proof.Machine.execTrap x0 x1 s
  | .pmark x0 x1 x2 => Sys2Proof.Machine.execPmark x0 x1 x2 s
  | .prog x0 => Sys2Proof.Machine.execProg x0 s
  | .yield x0 => Sys2Proof.Machine.execYield x0 s
  | .rte x0 => Sys2Proof.Machine.execRte x0 s
  | .iadd x0 x1 x2 x3 x4 => Sys2Proof.Machine.execIadd x0 x1 x2 x3 x4 s
  | .isub x0 x1 x2 x3 x4 => Sys2Proof.Machine.execIsub x0 x1 x2 x3 x4 s
  | .imul x0 x1 x2 x3 x4 => Sys2Proof.Machine.execImul x0 x1 x2 x3 x4 s
  | .imulh x0 x1 x2 x3 x4 x5 => Sys2Proof.Machine.execImulh x0 x1 x2 x3 x4 x5 s
  | .imad x0 x1 x2 x3 x4 x5 => Sys2Proof.Machine.execImad x0 x1 x2 x3 x4 x5 s
  | .idiv x0 x1 x2 x3 x4 x5 => Sys2Proof.Machine.execIdiv x0 x1 x2 x3 x4 x5 s
  | .irem x0 x1 x2 x3 x4 x5 => Sys2Proof.Machine.execIrem x0 x1 x2 x3 x4 x5 s
  | .imin x0 x1 x2 x3 x4 x5 => Sys2Proof.Machine.execImin x0 x1 x2 x3 x4 x5 s
  | .imax x0 x1 x2 x3 x4 x5 => Sys2Proof.Machine.execImax x0 x1 x2 x3 x4 x5 s
  | .iabs x0 x1 x2 x3 => Sys2Proof.Machine.execIabs x0 x1 x2 x3 s
  | .ineg x0 x1 x2 x3 => Sys2Proof.Machine.execIneg x0 x1 x2 x3 s
  | .and x0 x1 x2 x3 x4 => Sys2Proof.Machine.execAnd x0 x1 x2 x3 x4 s
  | .or x0 x1 x2 x3 x4 => Sys2Proof.Machine.execOr x0 x1 x2 x3 x4 s
  | .xor x0 x1 x2 x3 x4 => Sys2Proof.Machine.execXor x0 x1 x2 x3 x4 s
  | .andn x0 x1 x2 x3 x4 => Sys2Proof.Machine.execAndn x0 x1 x2 x3 x4 s
  | .not x0 x1 x2 x3 => Sys2Proof.Machine.execNot x0 x1 x2 x3 s
  | .shl x0 x1 x2 x3 x4 => Sys2Proof.Machine.execShl x0 x1 x2 x3 x4 s
  | .shr x0 x1 x2 x3 x4 => Sys2Proof.Machine.execShr x0 x1 x2 x3 x4 s
  | .sar x0 x1 x2 x3 x4 => Sys2Proof.Machine.execSar x0 x1 x2 x3 x4 s
  | .rot x0 x1 x2 x3 x4 => Sys2Proof.Machine.execRot x0 x1 x2 x3 x4 s
  | .clz x0 x1 x2 x3 => Sys2Proof.Machine.execClz x0 x1 x2 x3 s
  | .popc x0 x1 x2 x3 => Sys2Proof.Machine.execPopc x0 x1 x2 x3 s
  | .brev x0 x1 x2 x3 => Sys2Proof.Machine.execBrev x0 x1 x2 x3 s
  | .bfx x0 x1 x2 x3 x4 => Sys2Proof.Machine.execBfx x0 x1 x2 x3 x4 s
  | .bfi x0 x1 x2 x3 x4 x5 => Sys2Proof.Machine.execBfi x0 x1 x2 x3 x4 x5 s
  | .icmp x0 x1 x2 x3 x4 x5 x6 => Sys2Proof.Machine.execIcmp x0 x1 x2 x3 x4 x5 x6 s
  | .sel x0 x1 x2 x3 x4 x5 => Sys2Proof.Machine.execSel x0 x1 x2 x3 x4 x5 s
  | .mov x0 x1 x2 x3 => Sys2Proof.Machine.execMov x0 x1 x2 x3 s
  | .movi x0 x1 x2 x3 => Sys2Proof.Machine.execMovi x0 x1 x2 x3 s
  | .lea x0 x1 x2 x3 => Sys2Proof.Machine.execLea x0 x1 x2 x3 s
  | .iaddc x0 x1 x2 x3 x4 x5 => Sys2Proof.Machine.execIaddc x0 x1 x2 x3 x4 x5 s
  | .isat x0 x1 x2 x3 x4 x5 => Sys2Proof.Machine.execIsat x0 x1 x2 x3 x4 x5 s
  | .vote x0 x1 x2 => Sys2Proof.Machine.execVote x0 x1 x2 s
  | .shfl x0 x1 x2 x3 => Sys2Proof.Machine.execShfl x0 x1 x2 x3 s
  | .scan x0 x1 x2 x3 x4 x5 x6 => Sys2Proof.Machine.execScan x0 x1 x2 x3 x4 x5 x6 s
  | .redl x0 x1 x2 x3 x4 x5 => Sys2Proof.Machine.execRedl x0 x1 x2 x3 x4 x5 s
  | .pmov x0 x1 x2 => Sys2Proof.Machine.execPmov x0 x1 x2 s
  | .pset x0 x1 x2 x3 x4 => Sys2Proof.Machine.execPset x0 x1 x2 x3 x4 s
  | .shape x0 x1 x2 => Sys2Proof.Machine.execShape x0 x1 x2 s
  | .matz x0 x1 => Sys2Proof.Machine.execMatz x0 x1 s
  | .getx x0 x1 x2 => Sys2Proof.Machine.execGetx x0 x1 x2 s
  | .fadd x0 x1 x2 x3 x4 => Sys2Proof.Machine.execFadd x0 x1 x2 x3 x4 s
  | .fsub x0 x1 x2 x3 x4 => Sys2Proof.Machine.execFsub x0 x1 x2 x3 x4 s
  | .fmul x0 x1 x2 x3 x4 => Sys2Proof.Machine.execFmul x0 x1 x2 x3 x4 s
  | .ffma x0 x1 x2 x3 x4 x5 => Sys2Proof.Machine.execFfma x0 x1 x2 x3 x4 x5 s
  | .fmin x0 x1 x2 x3 x4 => Sys2Proof.Machine.execFmin x0 x1 x2 x3 x4 s
  | .fmax x0 x1 x2 x3 x4 => Sys2Proof.Machine.execFmax x0 x1 x2 x3 x4 s
  | .fcmp x0 x1 x2 x3 x4 x5 => Sys2Proof.Machine.execFcmp x0 x1 x2 x3 x4 x5 s
  | .fclass x0 x1 x2 x3 x4 => Sys2Proof.Machine.execFclass x0 x1 x2 x3 x4 s
  | .fcvt x0 x1 x2 x3 x4 x5 x6 => Sys2Proof.Machine.execFcvt x0 x1 x2 x3 x4 x5 x6 s
  | .f2i x0 x1 x2 x3 x4 x5 => Sys2Proof.Machine.execF2i x0 x1 x2 x3 x4 x5 s
  | .i2f x0 x1 x2 x3 x4 x5 => Sys2Proof.Machine.execI2f x0 x1 x2 x3 x4 x5 s
  | .frnd x0 x1 x2 x3 => Sys2Proof.Machine.execFrnd x0 x1 x2 x3 s
  | .fdiv x0 x1 x2 x3 x4 => Sys2Proof.Machine.execFdiv x0 x1 x2 x3 x4 s
  | .fsqrt x0 x1 x2 x3 => Sys2Proof.Machine.execFsqrt x0 x1 x2 x3 s
  | .frcp x0 x1 x2 x3 => Sys2Proof.Machine.execFrcp x0 x1 x2 x3 s
  | .frsq x0 x1 x2 x3 => Sys2Proof.Machine.execFrsq x0 x1 x2 x3 s
  | .fex2 x0 x1 x2 x3 => Sys2Proof.Machine.execFex2 x0 x1 x2 x3 s
  | .flg2 x0 x1 x2 x3 => Sys2Proof.Machine.execFlg2 x0 x1 x2 x3 s
  | .fscl x0 x1 x2 x3 x4 => Sys2Proof.Machine.execFscl x0 x1 x2 x3 x4 s
  | .fdot x0 x1 x2 x3 x4 x5 x6 x7 => Sys2Proof.Machine.execFdot x0 x1 x2 x3 x4 x5 x6 x7 s
  | .fsum x0 x1 x2 x3 => Sys2Proof.Machine.execFsum x0 x1 x2 x3 s
  | .fmtdef x0 x1 x2 => Sys2Proof.Machine.execFmtdef x0 x1 x2 s
  | .fmtrd x0 x1 x2 => Sys2Proof.Machine.execFmtrd x0 x1 x2 s
  | .fseed x0 x1 x2 => Sys2Proof.Machine.execFseed x0 x1 x2 s
  | .fstat x0 x1 x2 => Sys2Proof.Machine.execFstat x0 x1 x2 s
  | .scq x0 x1 x2 x3 x4 x5 x6 x7 => Sys2Proof.Machine.execScq x0 x1 x2 x3 x4 x5 x6 x7 s
  | .scdq x0 x1 x2 x3 x4 x5 => Sys2Proof.Machine.execScdq x0 x1 x2 x3 x4 x5 s
  | .scpk x0 x1 x2 x3 x4 x5 x6 => Sys2Proof.Machine.execScpk x0 x1 x2 x3 x4 x5 x6 s
  | .scup x0 x1 x2 x3 x4 x5 => Sys2Proof.Machine.execScup x0 x1 x2 x3 x4 x5 s
  | .bscl x0 x1 x2 x3 x4 x5 x6 => Sys2Proof.Machine.execBscl x0 x1 x2 x3 x4 x5 x6 s
  | .ld x0 x1 x2 x3 x4 x5 x6 => Sys2Proof.Machine.execLd x0 x1 x2 x3 x4 x5 x6 s
  | .st x0 x1 x2 x3 x4 x5 x6 => Sys2Proof.Machine.execSt x0 x1 x2 x3 x4 x5 x6 s
  | .ldp x0 x1 x2 x3 x4 x5 x6 => Sys2Proof.Machine.execLdp x0 x1 x2 x3 x4 x5 x6 s
  | .stp x0 x1 x2 x3 x4 x5 => Sys2Proof.Machine.execStp x0 x1 x2 x3 x4 x5 s
  | .ldi x0 x1 x2 x3 x4 x5 => Sys2Proof.Machine.execLdi x0 x1 x2 x3 x4 x5 s
  | .waitac x0 x1 x2 => Sys2Proof.Machine.execWaitac x0 x1 x2 s
  | .pref x0 x1 x2 x3 => Sys2Proof.Machine.execPref x0 x1 x2 x3 s
  | .cinv x0 x1 x2 => Sys2Proof.Machine.execCinv x0 x1 x2 s
  | .cwb x0 x1 x2 => Sys2Proof.Machine.execCwb x0 x1 x2 s
  | .stz x0 x1 x2 x3 x4 x5 => Sys2Proof.Machine.execStz x0 x1 x2 x3 x4 x5 s
  | .ldz x0 x1 x2 x3 x4 x5 => Sys2Proof.Machine.execLdz x0 x1 x2 x3 x4 x5 s
  | .ldq x0 x1 x2 x3 x4 => Sys2Proof.Machine.execLdq x0 x1 x2 x3 x4 s
  | .stq x0 x1 x2 x3 x4 => Sys2Proof.Machine.execStq x0 x1 x2 x3 x4 s
  | .fence x0 x1 x2 => Sys2Proof.Machine.execFence x0 x1 x2 s
  | .qfence x0 x1 => Sys2Proof.Machine.execQfence x0 x1 s
  | .ldfr x0 x1 x2 x3 x4 x5 => Sys2Proof.Machine.execLdfr x0 x1 x2 x3 x4 x5 s
  | .atom x0 x1 x2 x3 x4 x5 x6 x7 x8 => Sys2Proof.Machine.execAtom x0 x1 x2 x3 x4 x5 x6 x7 x8 s
  | .red x0 x1 x2 x3 x4 x5 x6 x7 => Sys2Proof.Machine.execRed x0 x1 x2 x3 x4 x5 x6 x7 s
  | .acas x0 x1 x2 x3 x4 x5 x6 x7 => Sys2Proof.Machine.execAcas x0 x1 x2 x3 x4 x5 x6 x7 s
  | .bead x0 x1 => Sys2Proof.Machine.execBead x0 x1 s
  | .clinit x0 x1 x2 => Sys2Proof.Machine.execClinit x0 x1 x2 s
  | .clarr x0 x1 x2 x3 => Sys2Proof.Machine.execClarr x0 x1 x2 x3 s
  | .clwait x0 x1 x2 => Sys2Proof.Machine.execClwait x0 x1 x2 s
  | .clsync x0 x1 x2 => Sys2Proof.Machine.execClsync x0 x1 x2 s
  | .clexp x0 x1 x2 => Sys2Proof.Machine.execClexp x0 x1 x2 s
  | .clrd x0 x1 x2 x3 => Sys2Proof.Machine.execClrd x0 x1 x2 x3 s
  | .mma x0 x1 x2 x3 x4 x5 x6 x7 x8 => Sys2Proof.Machine.execMma x0 x1 x2 x3 x4 x5 x6 x7 x8 s
  | .mmas x0 x1 x2 x3 x4 x5 x6 x7 x8 x9 => Sys2Proof.Machine.execMmas x0 x1 x2 x3 x4 x5 x6 x7 x8 x9 s
  | .mmaz x0 x1 x2 x3 x4 x5 x6 x7 => Sys2Proof.Machine.execMmaz x0 x1 x2 x3 x4 x5 x6 x7 s
  | .stfr x0 x1 x2 x3 x4 x5 => Sys2Proof.Machine.execStfr x0 x1 x2 x3 x4 x5 s
  | .tmpl x0 x1 x2 x3 => Sys2Proof.Machine.execTmpl x0 x1 x2 x3 s
  | .coll x0 x1 x2 x3 x4 => Sys2Proof.Machine.execColl x0 x1 x2 x3 x4 s
  | .launch x0 x1 x2 x3 => Sys2Proof.Machine.execLaunch x0 x1 x2 x3 s
  | .bankm x0 x1 x2 x3 => Sys2Proof.Machine.execBankm x0 x1 x2 x3 s
  | .engst x0 x1 x2 => Sys2Proof.Machine.execEngst x0 x1 x2 s
  | .ctlr x0 x1 x2 => Sys2Proof.Machine.execCtlr x0 x1 x2 s
  | .ctlw x0 x1 x2 => Sys2Proof.Machine.execCtlw x0 x1 x2 s
  | .rdcyc x0 x1 => Sys2Proof.Machine.execRdcyc x0 x1 s
  | .perf x0 x1 x2 x3 => Sys2Proof.Machine.execPerf x0 x1 x2 x3 s
  | .loadReply x0 x1 => Sys2Proof.Machine.execLoadReply x0 x1 s
  | .ldiArrival x0 x1 => Sys2Proof.Machine.execLdiArrival x0 x1 s
  | .captureEnd x0 => Sys2Proof.Machine.execCaptureEnd x0 s
  | .matrixComplete x0 => Sys2Proof.Machine.execMatrixComplete x0 s
  | .matrixPriorityRaise x0 x1 => Sys2Proof.Machine.execMatrixPriorityRaise x0 x1 s
  | .trapTaken x0 => Sys2Proof.Machine.execTrapTaken x0 s
  | .groupRetire x0 => Sys2Proof.Machine.execGroupRetire x0 s
  | .teamRetire x0 => Sys2Proof.Machine.execTeamRetire x0 s
  | .teamComplete x0 => Sys2Proof.Machine.execTeamComplete x0 s
  | .preemptionRequestVisible x0 => Sys2Proof.Machine.execPreemptionRequestVisible x0 s
  | .groupSave x0 => Sys2Proof.Machine.execGroupSave x0 s
  | .graceLimitExpiry x0 => Sys2Proof.Machine.execGraceLimitExpiry x0 s
  | .teamEvict x0 => Sys2Proof.Machine.execTeamEvict x0 s
  | .teamRestore x0 => Sys2Proof.Machine.execTeamRestore x0 s
  | .teamPlace x0 => Sys2Proof.Machine.execTeamPlace x0 s
  | .placementAgeExpiry x0 => Sys2Proof.Machine.execPlacementAgeExpiry x0 s
  | .quantumExpiry x0 => Sys2Proof.Machine.execQuantumExpiry x0 s
  | .launchCommand x0 => Sys2Proof.Machine.execLaunchCommand x0 s
  | .wait x0 => Sys2Proof.Machine.execWait x0 s
  | .waitPoll x0 => Sys2Proof.Machine.execWaitPoll x0 s
  | .signal x0 => Sys2Proof.Machine.execSignal x0 s
  | .queueNotify x0 => Sys2Proof.Machine.execQueueNotify x0 s
  | .tailPoll x0 => Sys2Proof.Machine.execTailPoll x0 s
  | .kill x0 => Sys2Proof.Machine.execKill x0 s
  | .watchdogStage1 x0 => Sys2Proof.Machine.execWatchdogStage1 x0 s
  | .watchdogStage2 x0 => Sys2Proof.Machine.execWatchdogStage2 x0 s
  | .watchdogStage3 x0 => Sys2Proof.Machine.execWatchdogStage3 x0 s
  | .copyGranule x0 => Sys2Proof.Machine.execCopyGranule x0 s
  | .copyStrandPush x0 x1 => Sys2Proof.Machine.execCopyStrandPush x0 x1 s
  | .copyComplete x0 x1 => Sys2Proof.Machine.execCopyComplete x0 x1 s
  | .bankModeChange x0 x1 => Sys2Proof.Machine.execBankModeChange x0 x1 s
  | .collSubtree x0 => Sys2Proof.Machine.execCollSubtree x0 s
  | .collHomeTimeout x0 => Sys2Proof.Machine.execCollHomeTimeout x0 s
  | .collParticipantTimeout x0 => Sys2Proof.Machine.execCollParticipantTimeout x0 s
  | .receive x0 => Sys2Proof.Machine.execReceive x0 s
  | .retire x0 => Sys2Proof.Machine.execRetire x0 s
  | .close x0 => Sys2Proof.Machine.execClose x0 s
  | .remoteResponse x0 => Sys2Proof.Machine.execRemoteResponse x0 s
  | .rtoExpiry x0 => Sys2Proof.Machine.execRtoExpiry x0 s
  | .busyBackoffExpiry x0 => Sys2Proof.Machine.execBusyBackoffExpiry x0 s
  | .idleRetire x0 x1 => Sys2Proof.Machine.execIdleRetire x0 x1 s
  | .drainClose x0 x1 => Sys2Proof.Machine.execDrainClose x0 x1 s
  | .rlimExpiry x0 => Sys2Proof.Machine.execRlimExpiry x0 s
  | .frst => Sys2Proof.Machine.execFrst s
  | .laneRepair x0 x1 => Sys2Proof.Machine.execLaneRepair x0 x1 s
  | .crcError x0 => Sys2Proof.Machine.execCrcError x0 s
  | .repairRetrain x0 => Sys2Proof.Machine.execRepairRetrain x0 s
  | .retrainComplete x0 => Sys2Proof.Machine.execRetrainComplete x0 s
  | .faultNotify x0 => Sys2Proof.Machine.execFaultNotify x0 s
  | .replayAll => Sys2Proof.Machine.execReplayAll s
  | .faultAbort => Sys2Proof.Machine.execFaultAbort s
  | .inval => Sys2Proof.Machine.execInval s
  | .flush => Sys2Proof.Machine.execFlush s
  | .free => Sys2Proof.Machine.execFree s
  | .migrate => Sys2Proof.Machine.execMigrate s
  | .migrateTry x0 => Sys2Proof.Machine.execMigrateTry x0 s
  | .migrateSourceRelease x0 => Sys2Proof.Machine.execMigrateSourceRelease x0 s
  | .genAdvance x0 => Sys2Proof.Machine.execGenAdvance x0 s
  | .atsInvalidation x0 x1 => Sys2Proof.Machine.execAtsInvalidation x0 x1 s
  | .atsTranslationCompletion x0 x1 x2 => Sys2Proof.Machine.execAtsTranslationCompletion x0 x1 x2 s
  | .bar2Read x0 x1 => Sys2Proof.Machine.execBar2Read x0 x1 s
  | .bar2Write x0 x1 => Sys2Proof.Machine.execBar2Write x0 x1 s
  | .preempt x0 => Sys2Proof.Machine.execPreempt x0 s
  | .resume x0 => Sys2Proof.Machine.execResume x0 s
  | .switchOut x0 => Sys2Proof.Machine.execSwitchOut x0 s
  | .destroy x0 => Sys2Proof.Machine.execDestroy x0 s
  | .spareCore x0 x1 => Sys2Proof.Machine.execSpareCore x0 x1 s
  | .spareCluster x0 x1 => Sys2Proof.Machine.execSpareCluster x0 x1 s
  | .spareSramRow x0 x1 x2 => Sys2Proof.Machine.execSpareSramRow x0 x1 x2 s
  | .spareHbmLane x0 x1 x2 => Sys2Proof.Machine.execSpareHbmLane x0 x1 x2 s
  | .pcieLaneReversal => Sys2Proof.Machine.execPcieLaneReversal s
  | .linkTraining x0 => Sys2Proof.Machine.execLinkTraining x0 s
  | .faultBufferEnable x0 x1 => Sys2Proof.Machine.execFaultBufferEnable x0 x1 s
  | .islandWrite x0 x1 => Sys2Proof.Machine.execIslandWrite x0 x1 s
  | .islandChangeComplete x0 => Sys2Proof.Machine.execIslandChangeComplete x0 s
  | .clampEnter => Sys2Proof.Machine.execClampEnter s
  | .clampExit => Sys2Proof.Machine.execClampExit s
  | .spdmRequest x0 => Sys2Proof.Machine.execSpdmRequest x0 s
  | .recoveryChunk x0 => Sys2Proof.Machine.execRecoveryChunk x0 s
  | .deviceReset => Sys2Proof.Machine.execDeviceReset s
  | .firmwareVerify => Sys2Proof.Machine.execFirmwareVerify s
  | .rowPrecharge x0 x1 x2 => Sys2Proof.Machine.execRowPrecharge x0 x1 x2 s
  | .registerWrite x0 x1 x2 => Sys2Proof.Machine.execRegisterWrite x0 x1 x2 s
  | .writePerformed x0 x1 x2 => Sys2Proof.Machine.execWritePerformed x0 x1 x2 s
  | .spareComplete => Sys2Proof.Machine.execSpareComplete s

end Sys2Proof.Machine
end

