-- ==== Sys2Proof/Machine/Ecc.lean ====
section
/-! DEFINITION. The end-to-end sector code (16 R351) and what an error in a sector comes to (16 R352). Which symbols go
wrong is an input, named in the agenda (log entry 60). -/

namespace Sys2Proof.Machine

namespace Ecc

/-- Times α in GF(2^16), field polynomial x^16 + x^12 + x^3 + x + 1. -/
def timesX (a : BitVec 16) : BitVec 16 := if a.getLsbD 15 then (a <<< 1) ^^^ 0x100B else a <<< 1

/-- α^n. -/
def alpha : Nat → BitVec 16
  | 0 => 1
  | n + 1 => timesX (alpha n)

/-- The product in the field, from the highest bit of b down. -/
def mul (a b : BitVec 16) : BitVec 16 :=
  (List.range 16).foldl (fun acc i => timesX acc ^^^ (if b.getLsbD (15 - i) then a else 0)) 0

/-- a^(2^n − 1), for the inverse: a^(2^16 − 2) is its square at n = 15. -/
def powOnes (a : BitVec 16) : Nat → BitVec 16
  | 0 => 1
  | n + 1 => let x := powOnes a n; mul (mul x x) a

def inv (a : BitVec 16) : BitVec 16 := let x := powOnes a 15; mul x x

/-! #### The codeword: check symbols, data symbols, address symbols -/

/-- The product of a polynomial, lowest coefficient first, and x + a. -/
def timesRoot (g : List (BitVec 16)) (a : BitVec 16) : List (BitVec 16) :=
  List.zipWith (fun x y => x ^^^ y) (0 :: g) (g.map (fun c => mul c a) ++ [0])

/-- The polynomial whose roots are α^0 to α^3, lowest coefficient first. -/
def generator : List (BitVec 16) := (List.range 4).foldl (fun g k => timesRoot g (alpha k)) [1]

/-- One more symbol, the next lower one, enters the remainder of the division by the generator. -/
def divide (r : List (BitVec 16)) (c : BitVec 16) : List (BitVec 16) :=
  let f := c ^^^ r.getD 3 0
  (List.range 4).map (fun i => (if i = 0 then 0 else r.getD (i - 1) 0) ^^^ mul f (generator.getD i 0))

/-- Data symbols d0 to d31 of a sector and the address symbols of its place: positions 4 to 39. -/
def symbols (p : Nat) (bs : List Byte) : List (BitVec 16) :=
  (List.range 32).map (fun i => bs.getD (2 * i + 1) 0 ++ bs.getD (2 * i) 0)
    ++ (List.range 4).map (fun i => BitVec.ofNat 16 (p / 64 * 64 % 2 ^ 58 / 2 ^ (16 * i)))

/-- p0 to p3, formed as the sector leaves the L2: with them the codeword vanishes at α^0 to α^3. -/
def checkSymbols (p : Nat) (bs : List Byte) : List (BitVec 16) := (symbols p bs).reverse.foldl divide [0, 0, 0, 0]

/-- The codeword of the sector at p; a poisoned one is stored with its check symbols complemented (16 R352). -/
def codeword (p : Nat) (bs : List Byte) (poisoned : Bool) : List (BitVec 16) :=
  (checkSymbols p bs).map (fun c => if poisoned then ~~~c else c) ++ symbols p bs

/-- What is added at a position. -/
def addedAt (errs : List (Nat × BitVec 16)) (i : Nat) : BitVec 16 :=
  errs.foldl (fun acc e => if e.1 = i then acc ^^^ e.2 else acc) 0

/-- A word with an error: pairs of a position and what is added there. -/
def withErrors (w : List (BitVec 16)) (errs : List (Nat × BitVec 16)) : List (BitVec 16) :=
  (List.range 40).map (fun i => w.getD i 0 ^^^ addedAt errs i)

/-- The values of a word at α^0 to α^3: what the checker forms. -/
def check (w : List (BitVec 16)) : List (BitVec 16) :=
  (List.range 4).map (fun k => (List.range 40).foldl (fun acc i => acc ^^^ mul (w.getD i 0) (alpha (i * k))) 0)

/-! #### Correction -/

/-- The four values at α^0 to α^3 of an error. -/
def syndrome (errs : List (Nat × BitVec 16)) : List (BitVec 16) :=
  (List.range 4).map (fun k => errs.foldl (fun acc e => acc ^^^ mul e.2 (alpha (e.1 * k))) 0)

/-- An error that the checker looks for has nonzero symbols and the syndrome seen. -/
def explains (syn : List (BitVec 16)) (errs : List (Nat × BitVec 16)) : Bool :=
  errs.all (fun e => e.2 != 0) && syndrome errs == syn

/-- The errors of two symbols at i and j that may have the syndrome: solved from its first two values. -/
def pairAt (syn : List (BitVec 16)) (i j : Nat) : List (Nat × BitVec 16) :=
  let s0 := syn.getD 0 0
  let s1 := syn.getD 1 0
  let v := mul (s1 ^^^ mul s0 (alpha i)) (inv (alpha i ^^^ alpha j))
  [(i, s0 ^^^ v), (j, v)]

/-- The error in up to two symbols of positions 0 to 35 with that syndrome, if there is one. -/
def correction (syn : List (BitVec 16)) : Option (List (Nat × BitVec 16)) :=
  if explains syn [] then some []
  else
    ((List.range 36).findSome? (fun i =>
      let e := [(i, syn.getD 0 0)]
      if explains syn e then some e else none)).or
    ((List.range 36).findSome? (fun j => (List.range j).findSome? (fun i =>
      let e := pairAt syn i j
      if explains syn e then some e else none)))

/-- The check symbols complemented: how a poisoned sector is stored (16 R352). -/
def poisonPattern : List (Nat × BitVec 16) := [(0, 0xFFFF), (1, 0xFFFF), (2, 0xFFFF), (3, 0xFFFF)]

/-- The bytes of a sector with an error added to its data symbols. -/
def addTo (bs : List Byte) (errs : List (Nat × BitVec 16)) : List Byte :=
  (List.range 64).map (fun k => bs.getD k 0 ^^^ ((addedAt errs (k / 2 + 4)).extractLsb' (8 * (k % 2)) 8))

end Ecc

/-- One more, up to the greatest. -/
def saturated (n : BitVec 32) : BitVec 32 := if n = 0xFFFFFFFF then n else n + 1

/-- The codeword stored with a sector of tiers 0 and 1, or sent with a sector that the package's L2 holds. -/
def State.wordOf (s : State) (sec : Nat) : List (BitVec 16) :=
  let p := sectorBase sec
  if isLocal p then Ecc.codeword p (Memory.readN s.mem p 64) (s.poison.contains sec)
  else Ecc.codeword p ((s.l2Sector sec).elim [] (·.bytes)) false

/-- The sector is uncorrectable: UE advances, UEADDR names it, and the UEV vector is sent (16 R352). -/
def State.uncorrectable (s : State) (sec : Nat) : State :=
  { s with ueCnt := saturated s.ueCnt, ueAddr := BitVec.ofNat 58 (sectorBase sec) }.interrupt s.uev.toNat

/-- A sector of tiers 0 and 1 is found to have the syndrome: the checker reports it as poisoned, corrects it, or finds it
uncorrectable, and it is then rewritten with the poison pattern. -/
def State.checkStored (s : State) (sec : Nat) (errs : List (Nat × BitVec 16)) (syn : List (BitVec 16)) : State :=
  let p := sectorBase sec
  let poisoned := if s.poison.contains sec then s.poison else s.poison ++ [sec]
  if syn = Ecc.syndrome Ecc.poisonPattern then { s with poison := poisoned }
  else
    match Ecc.correction syn with
    | some found =>
      let bs := Memory.readN s.mem p 64
      { s with
        mem := Memory.writeN s.mem p (Ecc.addTo (Ecc.addTo bs errs) found)
        poison := s.poison.filter (fun x => x != sec)
        ceCnt := if found.isEmpty then s.ceCnt else saturated s.ceCnt }
    | none => { s with poison := poisoned }.uncorrectable sec

/-- An answer that a waiting word has got and not yet read is poisoned (16 R352). -/
def Path.spoil (sec : Nat) (p : Path) : Path :=
  { p with fills := p.fills.map (fun f => match f.2 with
      | .bytes bs => if f.1 = sec then (sec, .poisoned bs) else f
      | _ => f) }

/-- A path waits with what came of a sector. -/
def Path.holdsFill (sec : Nat) (p : Path) : Bool :=
  p.fills.any (fun f => f.1 == sec && match f.2 with
    | .bytes _ => true
    | _ => false)

/-- A sector that came is reported as poisoned: to the words that wait with it, or else to what reads it next. Its clean
copy is taken out (16 R352; log entry 60). -/
def State.spoilCopy (s : State) (sec : Nat) (x : Sector) : State :=
  let held := s.groups.any (fun e => e.2.p0.any (Path.holdsFill sec) || e.2.p1.any (Path.holdsFill sec))
  let s1 := s.setL2 sec x.invalidate
  { s1 with
    groups := s.groups.map (fun e => (e.1, { e.2 with
      p0 := e.2.p0.map (Path.spoil sec), p1 := e.2.p1.map (Path.spoil sec) }))
    l2bad := if held || s.l2bad.contains sec then s.l2bad else s.l2bad ++ [sec] }

/-- The same of a sector as it enters the package's L2 from its owner or the host: it is reported as poisoned where it
cannot be corrected, and as well where it came so. Its home slice is not the package's to rewrite (log entry 60). -/
def State.checkCopy (s : State) (sec : Nat) (errs : List (Nat × BitVec 16)) (syn : List (BitVec 16)) : State :=
  match s.l2Sector sec with
  | none => s
  | some x =>
    if syn = Ecc.syndrome Ecc.poisonPattern then s.spoilCopy sec x
    else match Ecc.correction syn with
    | some found =>
      { s.setL2 sec (some { x with bytes := Ecc.addTo (Ecc.addTo x.bytes errs) found }) with
        ceCnt := if found.isEmpty then s.ceCnt else saturated s.ceCnt }
    | none => (s.spoilCopy sec x).uncorrectable sec

/-- A sector is found to differ from its codeword by the given symbols (positions of 16 R351; the address of a misdirected
sector differs at 36 to 39). -/
def State.sectorError (s : State) (sec : Nat) (errs : List (Nat × BitVec 16)) : State :=
  let syn := Ecc.check (Ecc.withErrors (s.wordOf sec) errs)
  if isLocal (sectorBase sec) then s.checkStored sec errs syn else s.checkCopy sec errs syn

end Sys2Proof.Machine
end

