-- ==== Sys2Proof/Machine/Sched.lean ====
section
/-! DEFINITION. One move of the machine: which path slot may issue, the fetch of its word, and the default schedule (01
R30, 03 R61, 08 R189, 13 R287, 15 R327; log entries 3, 5, 42). -/

namespace Sys2Proof.Machine

/-! ### The arbiter (08 R189, 13 R287) -/

/-- How far a group slot lies from a core's pointer, around the 32 slots. -/
def fromPtr (ptr gslot : Nat) : Nat := (gslot + 32 - ptr) % 32

/-- How a core's issue clock lists a path slot. -/
def slotKey (g : Group) (slot : Nat) : Nat := 2 * g.gslot + slot

/-- The slot may be tried in an issue clock that has tried others. -/
def State.untried (s : State) (tried : List Nat) (g : Group) (slot : Nat) : Bool :=
  s.eligible g slot && !tried.contains (slotKey g slot)

/-- The group of a core nearest to its pointer among those with a path slot to try. -/
def State.nearest (s : State) (tried : List Nat) (ptr : Nat) : List (GroupId × Group) → Option (GroupId × Group)
  | [] => none
  | e :: es =>
    let open' := s.untried tried e.2 0 || s.untried tried e.2 1
    match s.nearest tried ptr es with
    | some x => if open' && decide (fromPtr ptr e.2.gslot ≤ fromPtr ptr x.2.gslot) then some e else some x
    | none => if open' then some e else none

/-- The path slot of a group that issues: its slots alternate when both are eligible (08 R189). -/
def State.slotOf (s : State) (tried : List Nat) (g : Group) : Nat :=
  if s.untried tried g 0 && s.untried tried g 1 then 1 - g.lastSlot else if s.untried tried g 0 then 0 else 1

/-- The first eligible group from a pointer, with its path slot, where an issue clock has tried others. -/
def State.choice (s : State) (c : CoreId) (tried : List Nat) (ptr : Nat) : Option (GroupId × Nat) :=
  (s.nearest tried ptr (s.groups.filter (fun e => e.2.core = c))).map (fun e => (e.1, s.slotOf tried e.2))

/-- What a core may still issue in its current clock, while a vector port or the scalar path is free (13 R287). -/
def State.inClock (s : State) (c : CoreId) : Option (GroupId × Nat) :=
  if (s.core c).vec < 2 ∨ (s.core c).scal < 2 then s.choice c (s.core c).tried (s.core c).ptr else none

/-- The core's choice: in its current issue clock, or in the next, whose pointer stands one slot further (13 R287). An
IDLE core issues nothing (16 R349). -/
def State.pick (s : State) (c : CoreId) : Option (GroupId × Nat) :=
  if s.clockOn c then (s.inClock c).or (s.choice c [] (((s.core c).ptr + 1) % 32)) else none

/-! ### Issuing a word -/

/-- An issue clock of the core passes: what is left of a deferral (03 R61). -/
def Path.tick (p : Path) : Path :=
  match p.deferral with
  | some (xs, n) => { p with deferral := if n ≤ 1 then none else some (xs, n - 1) }
  | none => p

/-- Path slot x had its opportunity: no deferral waits for it any more (03 R61). -/
def Path.served (x : GroupId × Nat) (p : Path) : Path :=
  match p.deferral with
  | some (xs, n) =>
    let ys := xs.filter (fun y => y != x)
    { p with deferral := if ys.isEmpty then none else some (ys, n) }
  | none => p

/-- Changes every path of a core's groups. -/
def State.modPaths (s : State) (c : CoreId) (f : Path → Path) : State :=
  { s with groups := s.groups.map (fun e =>
      if e.2.core = c then (e.1, { e.2 with p0 := e.2.p0.map f, p1 := e.2.p1.map f }) else e) }

/-- The next issue clock of a core: its pointer advances by one, its ports are free, deferrals of its core count the
clock, and one arithmetic cycle passes or more (13 R287; log entry 5). -/
def State.newClock (s : State) (c : CoreId) : State :=
  let s1 := s.modCore c (fun x => { x with
    ptr := (x.ptr + 1) % 32
    tried := []
    vec := 0
    scal := 0
    cyc := x.cyc + 1 + BitVec.ofNat 64 (Config.extraCycles s.fresh) })
  { s1.modPaths c Path.tick with fresh := s.fresh + 1 }

/-- The arbiter turns to a path slot, in the current issue clock or in the next: it is deferred no more. -/
def State.turn (s : State) (gid : GroupId) (g : Group) (slot : Nat) : State :=
  let s1 := if (s.inClock g.core).isSome then s else s.newClock g.core
  { (s1.modGroup gid (fun h => h.modPath slot (fun p => { p with deferral := none }))).modCore g.core (fun c => { c with
      tried := slotKey g slot :: c.tried }) with
    cur := { gid := gid, slot := slot } }

/-- A word of a group has issued between two states of it: it counts, it was the `rte` of its handler, or it moved a path
although it cleared that count. -/
def Group.hasIssued (g h : Group) : Bool :=
  g.perfCount 3 != h.perfCount 3 || (g.inHandler && !h.inHandler)
    || (g.inHandler == h.inHandler && (g.p0.map Path.pc != h.p0.map Path.pc || g.p1.map Path.pc != h.p1.map Path.pc))

/-- The word that issued since the group's serial numbers began at n went to the scalar path: its results are uniform or
affine (13 R287; log entry 5). -/
def Group.onScalar (h : Group) (n : Nat) : Bool :=
  h.flight.any (fun f => decide (n ≤ f.serial) && f.kind == .alu && !f.dests.isEmpty
    && f.dests.all (fun r => !(h.val r).isGeneral))

/-- The port of the core that the word needs is free in this issue clock. -/
def Core.portFree (c : Core) (scalar : Bool) : Bool := if scalar then decide (c.scal < 2) else decide (c.vec < 2)

/-- A word takes its port; its group issues no second word in this clock. -/
def Core.takePort (c : Core) (scalar : Bool) (g : Group) : Core :=
  { c with
    tried := slotKey g 0 :: slotKey g 1 :: c.tried
    vec := if scalar then c.vec else c.vec + 1
    scal := if scalar then c.scal + 1 else c.scal }

/-- What the arbiter does once it has tried the word of a path slot, from the state it was tried in: a word that issued
takes its port, or waits for a clock in which one is free; a word that waited is not eligible until it is tried again
(08 R189, 13 R287). -/
def State.settleTurn (s : State) (gid : GroupId) (slot : Nat) (t : State) : State :=
  match s.group? gid, t.group? gid with
  | some g, some h =>
    if g.hasIssued h then
      let scalar := h.onScalar s.serial
      if (s.core g.core).portFree scalar then
        ((t.modGroup gid (fun x => { x with lastSlot := slot })).modCore g.core (fun c => c.takePort scalar g)).modPaths
          g.core (Path.served (gid, slot))
      else s.modCore g.core (fun c => { c with tried := slotKey g 0 :: slotKey g 1 :: c.tried })
    else if (h.path slot).map Path.pc = (g.path slot).map Path.pc ∧ h.inHandler = g.inHandler then
      t.modGroup gid (fun x => x.modPath slot (fun p => { p with waiting := true }))
    else t.modPaths g.core (Path.served (gid, slot))
  | _, _ => t

/-- The outcome of a tried word as its core's arbiter leaves it. -/
def State.afterWord (s : State) (gid : GroupId) (slot : Nat) :
    Host.Outcome State Fault Refusal → Host.Outcome State Fault Refusal
  | .next t => .next (s.settleTurn gid slot t)
  | o => o

/-- An issue clock in which no path of the core is eligible (13 R287). -/
def State.idleClock (s : State) (c : CoreId) : State :=
  if s.clockOn c && (s.pick c).isNone then s.newClock c else s

/-- The limits by which a group's words are checked (02 R37). -/
def Cx.env (cx : Cx) : Env := { nr := cx.g.nr, width := cx.g.width, clasps := cx.l.clasps }

/-- The word is the handler's first, and fetching it has parked the group: a fault there halts it (15 R327; log entry
42). -/
def Cx.handlerFault (cx : Cx) (s0 s1 : State) : Bool :=
  cx.g.inHandler && cx.p.pc == (s0.ctx cx.ctx).trapvec ++ (0 : BitVec 4)
    && (s1.group? cx.gid).any (fun g => Group.faulted (g.path cx.slot))

/-- What fetching the current path's word comes to: the instruction and the state, or the whole outcome. -/
def State.fetchWord (s : State) : (Instr × State) ⊕ Host.Outcome State Fault Refusal :=
  match s.cx? Guard.every Uses.none with
  | none => .inr (.next s)
  | some cx =>
    match s.fetch16 cx cx.p.pc true with
    | .ok bs s1 => .inl (decode cx.env (wordOfBytes bs), s1)
    | .stop (.wait s1) =>
      if cx.handlerFault s s1 then
        .inr (s.conclude cx Guard.every Uses.none
          (.trap s { cause 0x0A 6 with addr := cx.p.pc, aseg := cx.l.kseg }))
      else .inr (s.conclude cx Guard.every Uses.none (.wait s1))
    | .stop a => .inr (s.conclude cx Guard.every Uses.none a)

/-- Fetches, decodes and executes the current path's word. -/
def State.runWord (s : State) : Host.Outcome State Fault Refusal :=
  match s.fetchWord with
  | .inl (i, s1) => exec i s1
  | .inr o => o

/-- A path slot issues, if it is the choice of its core. -/
def State.issueAt (s : State) (gid : GroupId) (slot : Nat) : Host.Outcome State Fault Refusal :=
  match s.group? gid with
  | some g =>
      if s.pick g.core = some (gid, slot) then
        (s.turn gid g slot).afterWord gid slot (s.turn gid g slot).runWord
      else .next s
  | none => .next s

/-! ### Moves -/

/-- A short-latency result computed at issue is written, and its events are added (01 R28, 04 R81; log entry 6). -/
def State.settle (s : State) (gid : GroupId) (serial : Nat) : State :=
  s.modGroup gid (fun g => match g.findFlight serial with
    | some f => if f.kind = .alu then (g.addCounts f.counts).land serial else g
    | none => g)

/-- Steps of the table that are no words. -/
def isEvent : Instr → Bool
  | .loadReply _ _ => true
  | .ldiArrival _ _ => true
  | .captureEnd _ => true
  | .matrixComplete _ => true
  | .matrixPriorityRaise _ _ => true
  | .trapTaken _ => true
  | .groupRetire _ => true
  | .teamRetire _ => true
  | .teamComplete _ => true
  | .preemptionRequestVisible _ => true
  | .groupSave _ => true
  | .graceLimitExpiry _ => true
  | .teamEvict _ => true
  | .teamRestore _ => true
  | .teamPlace _ => true
  | .placementAgeExpiry _ => true
  | .quantumExpiry _ => true
  | .launchCommand _ => true
  | .wait _ => true
  | .waitPoll _ => true
  | .signal _ => true
  | .queueNotify _ => true
  | .tailPoll _ => true
  | .kill _ => true
  | .watchdogStage1 _ => true
  | .watchdogStage2 _ => true
  | .watchdogStage3 _ => true
  | .copyGranule _ => true
  | .copyStrandPush _ _ => true
  | .copyComplete _ _ => true
  | .bankModeChange _ _ => true
  | .collSubtree _ => true
  | .collHomeTimeout _ => true
  | .collParticipantTimeout _ => true
  | .receive _ => true
  | .retire _ => true
  | .close _ => true
  | .remoteResponse _ => true
  | .rtoExpiry _ => true
  | .busyBackoffExpiry _ => true
  | .idleRetire _ _ => true
  | .drainClose _ _ => true
  | .rlimExpiry _ => true
  | .frst => true
  | .laneRepair _ _ => true
  | .crcError _ => true
  | .repairRetrain _ => true
  | .retrainComplete _ => true
  | .faultNotify _ => true
  | .replayAll => true
  | .faultAbort => true
  | .inval => true
  | .flush => true
  | .free => true
  | .migrate => true
  | .migrateTry _ => true
  | .migrateSourceRelease _ => true
  | .genAdvance _ => true
  | .atsInvalidation _ _ => true
  | .atsTranslationCompletion _ _ _ => true
  | .bar2Read _ _ => true
  | .bar2Write _ _ => true
  | .preempt _ => true
  | .resume _ => true
  | .switchOut _ => true
  | .destroy _ => true
  | .spareCore _ _ => true
  | .spareCluster _ _ => true
  | .spareSramRow _ _ _ => true
  | .spareHbmLane _ _ _ => true
  | .pcieLaneReversal => true
  | .linkTraining _ => true
  | .faultBufferEnable _ _ => true
  | .islandWrite _ _ => true
  | .islandChangeComplete _ => true
  | .clampEnter => true
  | .clampExit => true
  | .spdmRequest _ => true
  | .recoveryChunk _ => true
  | .deviceReset => true
  | .firmwareVerify => true
  | .rowPrecharge _ _ _ => true
  | .registerWrite _ _ _ => true
  | .writePerformed _ _ _ => true
  | .spareComplete => true
  | _ => false

/-- Performs a move; a word is no event. -/
def State.runMove (s : State) : Move → Host.Outcome State Fault Refusal
  | .issue gid slot => s.issueAt gid slot
  | .settle gid serial => .next (s.settle gid serial)
  | .ev i => if isEvent i then exec i s else .next s
  | .sectorError sec errs => .next (s.sectorError sec errs)
  | .hostWrite a bs => .next { s with hostMem := Memory.writeN s.hostMem a bs }
  | .watchdogUnit q => .next (s.watchdogUnit q)
  | .flitAck port => .next (s.flitAck port)
  | .portTrain port fifth => .next (s.portTrain port fifth)
  | .fuseVersion v => .next (s.fuseVersion v)
  | .resizeBar2 k => .next (s.resizeBar2 k)
  | .bar4Read len => .next (s.bar4Read len)
  | .idleClock c => .next (s.idleClock c)
  | .bringPairs ctx bs => .next (s.bringPairs ctx bs)

/-! ### The default schedule (log entry 3) -/

/-- The move changes something, or stops the machine. -/
def State.moves (s : State) (m : Move) : Bool :=
  match s.runMove m with
  | .next t => decide (t ≠ s)
  | _ => true

/-- What a result in flight waits to become. -/
def flightMove (gid : GroupId) (c : CoreId) (f : InFlight) : Move :=
  match f.kind with
  | .alu => .settle gid f.serial
  | .load => .ev (.loadReply gid f.serial)
  | .atom => .ev (.loadReply gid f.serial)
  | .ldi _ => .ev (.ldiArrival gid f.serial)
  | .matrix => .ev (.matrixComplete c)

def groupMoves (e : GroupId × Group) : List Move :=
  (e.2.flight.map (flightMove e.1 e.2.core)) ++ (e.2.preTrap.map (flightMove e.1 e.2.core))
    ++ [.ev (.captureEnd e.2.core), .ev (.matrixComplete e.2.core), .ev (.trapTaken e.1)
      , .ev (.preemptionRequestVisible e.1), .ev (.groupSave e.1), .ev (.groupRetire e.1)]

def teamMoves (e : TeamId × Team) : List Move :=
  [.ev (.teamComplete e.1), .ev (.teamRetire e.1), .ev (.teamEvict e.1), .ev (.copyGranule e.2.clus)]
    ++ e.2.queues.flatMap (fun q => [.ev (.copyStrandPush e.1 q.1), .ev (.copyComplete e.1 q.1)])

def bankMoves (c : Nat × Cluster) : List Move :=
  (c.2.banks.filter (fun b => b.2.target.isSome)).map (fun b => .ev (.bankModeChange c.1 b.1))

/-- Lines leave the L1 of a cluster whose sets hold more of them than they have ways (10 R225). -/
def State.evictMoves (s : State) (c : Nat × Cluster) : List Move :=
  (s.victimSectors c.1).map (fun sec => .ev (.writePerformed false c.1 sec))

/-- The team whose turn it is to be placed or restored. -/
def State.placeMoves (s : State) : List Move :=
  match s.nextPlacement with
  | some (n, _, .one t _) =>
    [.ev (.teamPlace { launch := n, team := t }), .ev (.teamRestore { launch := n, team := t })]
  | some (n, l, .all _) => (s.coopTeams n l).take 1 |>.flatMap (fun t =>
    [.ev (.teamPlace { launch := n, team := t }), .ev (.teamRestore { launch := n, team := t })])
  | _ => []

def queueMoves (q : Nat × Queue) : List Move :=
  [.ev (.launchCommand q.1), .ev (.wait q.1), .ev (.signal q.1)]

/-- A command of the host that goes on where it waited. -/
def contextMove (c : Nat × Context) : List Move :=
  match c.2.cmd with
  | 1 => [.ev (.preempt c.1)]
  | 2 => [.ev (.resume c.1)]
  | 3 => [.ev (.switchOut c.1)]
  | 4 => [.ev (.destroy c.1)]
  | _ => []

def State.commandMoves (s : State) : List Move :=
  match s.tcmd with
  | 4 => [.ev .flush]
  | 6 => [.ev .migrate]
  | _ => []

/-- What the machine does by itself, before any word issues. -/
def State.innerMoves (s : State) : List Move :=
  s.clusters.flatMap s.evictMoves ++ (s.groups.filter (fun e => s.clockOn e.2.core)).flatMap groupMoves ++ s.teams.flatMap teamMoves ++ s.clusters.flatMap bankMoves
    ++ s.colls.map (fun c => .ev (.collSubtree c.1)) ++ s.placeMoves ++ s.queues.flatMap queueMoves
    ++ s.ctxs.flatMap contextMove ++ s.commandMoves ++ s.ctxs.map (fun c => .ev (.faultNotify c.1))

/-- What comes about when nothing else can. -/
def State.outerMoves (s : State) : List Move :=
  s.queues.flatMap (fun q => [.ev (.waitPoll q.1), .ev (.tailPoll q.1)])
    ++ s.migrations.map (fun m => .ev (.migrateTry m.1))
    ++ s.migrations.map (fun m => .ev (.migrateSourceRelease m.1))
    ++ s.islands.map (fun i => .ev (.islandChangeComplete i.1)) ++ [.ev .spareComplete]

/-- The cores that hold groups, those after the core that issued last first. -/
def State.coresInTurn (s : State) : List CoreId :=
  let cs := (s.groups.map (fun e => e.2.core)).dedup
  match s.group? s.cur.gid with
  | some g => match cs.findIdx? (fun c => c == g.core) with
    | some i => cs.drop (i + 1) ++ cs.take (i + 1)
    | none => cs
  | none => cs

/-- The next move: what is named in the agenda, or the default schedule's. -/
def State.nextMove (s : State) : Option Move :=
  ((s.innerMoves.find? s.moves).or (s.coresInTurn.findSome? (fun c =>
    (s.pick c).map (fun x => .issue x.1 x.2)))).or (s.outerMoves.find? s.moves)

/-- One move; a machine with nothing to do stays as it is. -/
def State.advance (s : State) : Host.Outcome State Fault Refusal :=
  match s.agenda with
  | m :: ms => { s with agenda := ms }.runMove m
  | [] =>
    match s.nextMove with
    | some m => s.runMove m
    | none => .next s

end Sys2Proof.Machine
end

