-- ==== Sys2Proof/Machine/Step.lean ====
section
/-! DEFINITION. The step, and a machine whose next step runs a given word (log entry 3). -/

namespace Sys2Proof.Machine

/-- One step of the device. -/
def step (s : State) : Host.Outcome State Fault Refusal := s.advance

/-! ### A machine about to run one word

A program comes to run through the host's writes, a QUEUE_NOTIFY, a LAUNCH command and a placement (log entry 3). What
follows stands for all of that: one resident group of 64 lanes whose first word lies at address 0 of tier 0. -/

/-- A launch of one team of one group with the widest limits, and binary64 in every format slot. -/
def oneLaunch : LaunchRec where
  kentry := 0
  kseg := 0
  dseg := 0
  slotv := 0xFFFF
  depc := false
  paired := false
  pers := false
  coop := false
  quant := false
  det := false
  data := 0
  teams := 1
  vx := 1
  vy := 1
  seed := 0
  nr := 512
  budget := 512
  divdepth := 64
  groups := 1
  width := 64
  clasps := 16
  scru := 0
  qlen := 0
  task := 0
  tseg := 0
  cpl := 0
  cseg := 0
  fmts := List.replicate 16 0x10A1FFE97

def oneCore : CoreId := { clus := 0, core := 0 }
def oneTeam : TeamId := { launch := 0, team := 0 }
def oneGroup : GroupId := { launch := 0, team := 0, grp := 0 }

/-- Page 0 of segment 0: frame 0 of tier 0, readable only by fetches. -/
def onePage (asid : BitVec 16) : TlbEntry where
  ctx := 0
  asid := asid
  seg := 0
  base := 0
  size := 65536
  leaf := 0x9

/-- s with an instruction of nbits bits as the word that step fetches next: bits above nbits are 0. -/
def State.withFetchWord (s : State) (nbits w : Nat) : State :=
  { s with
    mem := Memory.writeN s.mem 0 (bytesOfWord (BitVec.ofNat 128 (w % 2 ^ min nbits 128)))
    poison := s.poison.filter (fun x => x != 0)
    migrations := []
    launches := [(0, {
      ctx := 0
      queue := 0
      lrec := oneLaunch
      npred := []
      succs := []
      retiredCount := 0
      bead := 0
      runq := []
      status := none
      killed := false })]
    teams := [(oneTeam, newTeam { clus := 0, cores := [0], units := [] })]
    groups := [(oneGroup, newGroup oneLaunch oneCore 0)]
    islands := Sparse.put Island.reset s.islands 0 { s.island 0 with cur := 0 }
    cores := Tab.put s.cores oneCore { s.core oneCore with fenced := false, tlb := [onePage (s.ctx 0).asid] }
    agenda := [.issue oneGroup 0] }

end Sys2Proof.Machine
end

