-- ==== Sys2Proof/Safety.lean ====
section
/-! DEFINITION. The terms in which claims speak: when a word may take effect, what it leaves as it was, and the forms
that every step keeps. -/

namespace Sys2Proof.Machine

/-! ### Forms that steps keep -/

/-- Keys strictly rising, from `lo` up: one entry a key. -/
def Sparse.rising {β : Type} : Nat → List (Nat × β) → Bool
  | _, [] => true
  | lo, (a, _) :: t => decide (lo ≤ a) && Sparse.rising (a + 1) t

/-- The tables of a group hold one entry a key. -/
def Group.tidy (g : Group) : Bool :=
  Sparse.rising 0 g.regs && Sparse.rising 0 g.preds && Sparse.rising 0 g.slots && Sparse.rising 0 g.soff
    && Sparse.rising 0 g.draw && Sparse.rising 0 g.acs && Sparse.rising 0 g.perf

/-- Local memory, host memory and every team's scratch have the canonical form. -/
def State.memoryOk (s : State) : Bool :=
  Memory.wf s.mem && Memory.wf s.hostMem && s.teams.all (fun e => Memory.wf e.2.scratch)

/-- Every group's tables hold one entry a key. -/
def State.groupsTidy (s : State) : Bool := s.groups.all (fun e => e.2.tidy)

/-- A cached sector has 64 bytes, and holds every byte that it owes. -/
def Sector.tidy (x : Sector) : Bool := x.bytes.length == 64 && x.mask &&& ~~~x.valid == 0

/-- Every table keyed by number holds one entry a key, cached sectors are as they must be, and a TLB entry maps whole
pages. -/
def State.tidy (s : State) : Bool :=
  s.groupsTidy && Sparse.rising 0 s.ctxs && Sparse.rising 0 s.queues && Sparse.rising 0 s.clusters
    && s.clusters.all (fun c => Sparse.rising 0 c.2.banks && c.2.l1.all (fun x => x.2.tidy))
    && s.l2.all (fun x => x.2.tidy)
    && s.teams.all (fun t => Sparse.rising 0 t.2.clasps && Sparse.rising 0 t.2.queues)
    && s.cores.all (fun c => Sparse.rising 0 c.2.perf && c.2.tlb.all (fun e => e.size % 65536 == 0))
    && s.l2tlb.all (fun t => t.2.all (fun e => e.size % 65536 == 0))

/-! ### When a word takes effect -/

/-- The current path slot holds `cx.p` in group `cx.g`, and nothing of 01 R29, 02 R38 or 06 R161 holds the word of
guard w back: its slots are defined, nothing is in flight to a register it names, and no register it writes is being
captured. Its effective mask is `cx.eff`. -/
structure Ready (s : State) (w : Guard) (u : Uses) (cx : Cx) : Prop where
  here : s.cx? w u = some cx
  slots : badSlot cx.g u.slots = none
  free : cx.g.hazard u.named = none
  uncaptured : u.writes.any (s.capturing cx.gid cx.g) = false
  memory : s.memoryOk = true
  tidy : s.tidy = true

/-- `Ready` for a word with register runs: nothing holds a member of them back either (01 R29, 06 R161). -/
structure ReadyRuns (s : State) (w : Guard) (u : Uses) (m : Members) (cx : Cx) : Prop extends Ready s w u cx where
  runsFree : cx.g.hazard m.all = none
  runsUncaptured : m.writes.any (s.capturing cx.gid cx.g) = false

/-- Where the group's part of its context area begins: its divergence stack, then its spilled registers (08 R190, R195,
R198). -/
def groupArea (c : Context) (gid : GroupId) : Nat :=
  (c.gcaBase + c.gcaStr * BitVec.ofNat 64 (32 * gid.team + gid.grp)).toNat

/-- A place of local memory that no byte of the group's stack and spill areas comes to, moved pages among them (08 R190,
R195, R198, 15 R338). -/
def outsideSpill (s : State) (cx : Cx) (a : Nat) : Prop :=
  ∀ b, groupArea (s.ctx cx.ctx) cx.gid ≤ b →
    b < groupArea (s.ctx cx.ctx) cx.gid + 64 * ((cx.g.divdepth + 1) / 2) + 8 * cx.g.width * cx.g.nr → s.redirect b ≠ a

/-! ### Frames -/

/-- A migration without its dirty-filter entry. -/
def unfiltered (e : Nat × Migration) : Nat × Migration := (e.1, { e.2 with dirty := false })

/-- Of the state, nothing but groups, what `sameMemory` speaks of and the serial counter differs. -/
def State.onlyGroups (s t : State) : Prop :=
  { t with groups := s.groups, mem := s.mem, poison := s.poison, migrations := s.migrations, serial := s.serial } = s

/-- Of the state, nothing but groups, teams, what `sameMemory` speaks of and the serial counter differs. -/
def State.onlyTeams (s t : State) : Prop :=
  { t with groups := s.groups, teams := s.teams, mem := s.mem, poison := s.poison, migrations := s.migrations
           serial := s.serial } = s

/-- Every byte of local memory outside the group's stack and spill areas reads as before; poison leaves whole sectors of
those areas only, and of a migration nothing changes but its dirty-filter entry (16 R352, 15 R338). -/
structure State.sameMemory (s t : State) (cx : Cx) : Prop where
  bytes : ∀ a, outsideSpill s cx a → Memory.read t.mem a = Memory.read s.mem a
  fewer : ∀ x ∈ t.poison, x ∈ s.poison
  poison : ∀ x ∈ s.poison, ∀ i, i < 64 → outsideSpill s cx (64 * x + i) → x ∈ t.poison
  migrations : t.migrations.map unfiltered = s.migrations.map unfiltered

/-- Of a group, nothing differs but registers, residency, recency, the group's performance counters, results in flight
and its two paths: predicates, exited lanes, stack, format state, event counters, arrival counters, traps and the save
state are as before. -/
def Group.onlyRegs (g h : Group) : Prop :=
  { h with regs := g.regs, resident := g.resident, used := g.used, useNo := g.useNo, perf := g.perf, flight := g.flight
           p0 := g.p0, p1 := g.p1 } = g

/-- The registers but those listed hold what they held, shapes and all. -/
def Group.keeps (g h : Group) (but : List Nat) : Prop := ∀ r, r ∉ but → h.val r = g.val r

/-- The path goes on at pc with its mask and reconvergence link, parked if the word's K is set; the other path slot is as
before but for its operand buffer, which is empty (01 R31), and every other group is as before. `gt` is the group
afterwards. -/
structure Went (s t : State) (cx : Cx) (w : Guard) (pc : Word) (gt : Group) : Prop where
  group : t.group? cx.gid = some gt
  path : ∃ p, gt.path cx.slot = some p ∧ p.pc = pc ∧ p.mask = cx.p.mask ∧ p.jx = cx.p.jx ∧ p.park = w.k
  other : gt.path (1 - cx.slot) = (cx.g.path (1 - cx.slot)).map (fun p => { p with retained := none })
  elsewhere : ∀ gid, gid ≠ cx.gid → t.group? gid = s.group? gid

/-- The word completes at the next address. -/
def Next (s t : State) (cx : Cx) (w : Guard) (gt : Group) : Prop := Went s t cx w (cx.p.pc + 16) gt

/-- Lane l of the register's value is `v l` in the lanes of the effective mask, and as before in the others. -/
def Group.wrote (g h : Group) (eff : Word) (r : Nat) (v : Nat → Word) : Prop :=
  ∀ l, l < 64 → l < g.width → (h.val r).lane l = if laneIn eff l then v l else (g.val r).lane l

/-- Predicate p is `v` in the lanes of the mask; every other predicate, and p7, is as before. -/
def Group.setTo (g h : Group) (eff : Word) (p : PredIx) (v : Nat → Bool) : Prop :=
  (p ≠ 7 → ∀ l, l < 64 → l < g.width →
    laneIn (h.pred p) l = if laneIn eff l then v l else laneIn (g.pred p) l)
    ∧ ∀ q, q ≠ p ∨ q = 7 → h.pred q = g.pred q

/-- Of a group, nothing differs but predicates and what `onlyRegs` names. -/
def Group.onlyPreds (g h : Group) : Prop := Group.onlyRegs g { h with preds := g.preds }

/-- A word with a register result completes: D takes the value in the lanes of the mask, every other register, and all
else, is as before. -/
structure WroteReg (s t : State) (cx : Cx) (w : Guard) (d : RegIx) (v : Nat → Word) (gt : Group) : Prop where
  next : Next s t cx w gt
  value : cx.g.wrote gt cx.eff d.toNat v
  regs : cx.g.keeps gt [d.toNat]
  group : cx.g.onlyRegs gt
  memory : s.sameMemory t cx
  rest : s.onlyGroups t

/-- A word with a predicate result completes. -/
structure WrotePred (s t : State) (cx : Cx) (w : Guard) (p : PredIx) (v : Nat → Bool) (gt : Group) : Prop where
  next : Next s t cx w gt
  value : cx.g.setTo gt cx.eff p v
  regs : cx.g.keeps gt []
  group : cx.g.onlyPreds gt
  memory : s.sameMemory t cx
  rest : s.onlyGroups t

/-- One more result is in flight, behind those that were, and the events of the word stand with it: the counters take
them as the result is written (04 R81, R97). -/
def Group.owes (g h : Group) (cnt : Counts) : Prop :=
  let bare (x : InFlight) : InFlight := { x with covered := false }
  h.counts = g.counts ∧ ∃ f, h.flight.map bare = g.flight.map bare ++ [bare f] ∧ f.kind = .alu ∧ f.counts = cnt

/-- A floating-point word completes: D takes the value, the event counters take the events as it is written, and DRAW
advances by one in the lanes of the mask where `adv` says so (04 R80, R81). -/
structure WroteFloat (s t : State) (cx : Cx) (w : Guard) (d : RegIx) (v : Nat → Word) (cnt : Counts) (adv : Bool)
    (gt : Group) : Prop where
  next : Next s t cx w gt
  value : cx.g.wrote gt cx.eff d.toNat v
  regs : cx.g.keeps gt [d.toNat]
  events : cx.eff ≠ 0 → cx.g.owes gt cnt
  draws : ∀ l, l < 64 → gt.drawOf l = if adv && laneIn cx.eff l then cx.g.drawOf l + 1 else cx.g.drawOf l
  group : cx.g.onlyRegs { gt with draw := cx.g.draw }
  memory : s.sameMemory t cx
  rest : s.onlyGroups t

/-- The path goes to pc and nothing else of its group, and no other state, changes but what `onlyRegs` leaves out. -/
structure Moved (s t : State) (cx : Cx) (w : Guard) (pc : Word) (gt : Group) : Prop where
  went : Went s t cx w pc gt
  regs : cx.g.keeps gt []
  group : cx.g.onlyRegs gt
  memory : s.sameMemory t cx
  rest : s.onlyGroups t

/-- The state once a word's operands are resident, before its effect (08 R195). -/
def State.fetched (s : State) (cx : Cx) (u : Uses) (m : Members := Members.none) : State :=
  (s.setGroup cx.gid (cx.g.refill (u.names m).named u.outside)).storeSpills cx.gid cx.g

/-- The word's surroundings once its operands are resident. -/
def Cx.fetched (cx : Cx) (u : Uses) (m : Members := Members.none) : Cx :=
  { cx with g := cx.g.refill (u.names m).named u.outside, named := (u.names m).named }

/-- The trap information of a precise trap of the word at hand that has no lane and no address (07 R182, R183). -/
def Cx.precise (cx : Cx) (code : BitVec 8) (detail : BitVec 16) (info : Word) : TrapInfo where
  code := code
  detail := detail
  lane := 0xFFFF
  prec := true
  pc := cx.p.pc
  rpc := cx.p.pc
  addr := 0
  aseg := 0
  mask := cx.eff
  info := info
  slot := cx.slot

/-- A word completes whose effect has made the state `e` and left its own group's registers and other state as they
were but for what `onlyRegs` leaves out. -/
structure Done (e t : State) (cx : Cx) (w : Guard) (gt : Group) : Prop where
  next : Next e t cx w gt
  regs : cx.g.keeps gt []
  group : cx.g.onlyRegs gt
  memory : e.sameMemory t cx
  rest : e.onlyGroups t

/-- A word that writes registers of runs completes: each register listed takes its value in the lanes of its mask, the
event counters and DRAW as in `WroteFloat`. -/
structure WroteRun (s t : State) (cx : Cx) (w : Guard) (m : Nat → Word) (ws : List (Nat × RegVal)) (cnt : Counts) (adv : Bool)
    (gt : Group) : Prop where
  next : Next s t cx w gt
  value : (ws.map Prod.fst).Nodup → ∀ x ∈ ws, cx.g.wrote gt (m x.1) x.1 (fun l => x.2.lane l)
  regs : cx.g.keeps gt (ws.map Prod.fst)
  events : cx.eff ≠ 0 → cx.g.owes gt cnt
  draws : ∀ l, l < 64 → gt.drawOf l = if adv && laneIn cx.eff l then cx.g.drawOf l + 1 else cx.g.drawOf l
  group : cx.g.onlyRegs { gt with draw := cx.g.draw }
  memory : s.sameMemory t cx
  rest : s.onlyGroups t

/-- The group's frame lies within tiers 0 and 1, whatever of the group it holds (16 R344). -/
structure FrameFits (s : State) (cx : Cx) : Prop where
  lanes : cx.g.width ≤ 64
  regs : cx.g.nr ≤ 512
  stack : cx.g.stack.length ≤ 512
  area : s.areaOk (frameAddr (s.ctx cx.ctx) cx.gid) 1048576 = true

end Sys2Proof.Machine
end

