-- ==== Sys2Proof/Certificates/Slice0/Obligations.lean ====
section
/-! DEFINITION. The statements for the provers, and the forms of the manual's tables they are stated with. -/

namespace Sys2Proof.Claims

open Sys2Proof.Machine

/-! ### Integers as 03 R41 has them -/

/-- w of 03 R41. -/
def wid (w : Bool) : Nat := if w then 32 else 64

/-- Bits w − 1 to 0 of a source. -/
def low (w : Bool) (x : Word) : Nat := x.toNat % 2 ^ wid w

/-- The same bits as a signed number. -/
def sgn (w : Bool) (x : Word) : Int :=
  if low w x < 2 ^ (wid w - 1) then (low w x : Int) else (low w x : Int) - 2 ^ wid w

/-- Signed, or unsigned under `.u`. -/
def num (w u : Bool) (x : Word) : Int := if u then (low w x : Int) else sgn w x

/-- An integer modulo 2^w as a register holds it: sign-extended under `.w`, zero-extended under `.w.u`. -/
def fit (w u : Bool) (n : Int) : Word :=
  let m : Int := n % 2 ^ wid w
  BitVec.ofInt 64 (if w && !u && decide (2 ^ 31 ≤ m) then m - 2 ^ 32 else m)

/-- The number whose bit i, for i below n, is `f i`. -/
def bitsOf (n : Nat) (f : Nat → Bool) : Nat := (List.range n).foldl (fun acc i => acc + if f i then 2 ^ i else 0) 0

/-- A quotient toward zero. -/
def quot (a b : Int) : Int := if b = 0 then 0 else (if (a < 0) = (b < 0) then 1 else -1) * ((a.natAbs / b.natAbs : Nat) : Int)

/-- `isat` (03 R45). -/
def clampTo (u : Bool) (w n : Nat) (a : Int) : Int :=
  if w ≤ n then a else if n = 0 then 0
  else if u then min a (2 ^ n - 1) else max (-(2 ^ (n - 1))) (min a (2 ^ (n - 1) - 1))

/-- An integer instruction with a register result: guard, destination, sources, and the value of a lane from the lane's
source values (03 R44 to R47, R50). -/
structure IntForm where
  w : Guard
  d : RegIx
  srcs : List Src
  val : Word → Word → Word → Word

def form3 (g : Guard) (d : RegIx) (a b c : Src) (f : Word → Word → Word → Word) : Option IntForm :=
  some { w := g, d := d, srcs := [a, b, c], val := f }
def form2 (g : Guard) (d : RegIx) (a b : Src) (f : Word → Word → Word) : Option IntForm :=
  some { w := g, d := d, srcs := [a, b], val := fun x y _ => f x y }
def form1 (g : Guard) (d : RegIx) (a : Src) (f : Word → Word) : Option IntForm :=
  some { w := g, d := d, srcs := [a], val := fun x _ _ => f x }

/-- Thirty integer instructions. -/
def intForm : Instr → Option IntForm
  | .iadd g w d a b => form2 g d a b (fun x y => fit w false (low w x + low w y))
  | .isub g w d a b => form2 g d a b (fun x y => fit w false (low w x - low w y))
  | .imul g w d a b => form2 g d a b (fun x y => fit w false (low w x * low w y))
  | .imulh g w u d a b => form2 g d a b (fun x y => fit w u (num w u x * num w u y / 2 ^ wid w))
  | .imad g w d a b c => form3 g d a b c (fun x y z => fit w false (low w x * low w y + low w z))
  | .idiv g w u d a b => form2 g d a b (fun x y => fit w u (quot (num w u x) (num w u y)))
  | .irem g w u d a b => form2 g d a b (fun x y => fit w u (num w u x - num w u y * quot (num w u x) (num w u y)))
  | .imin g w u d a b => form2 g d a b (fun x y => fit w u (if num w u x ≤ num w u y then num w u x else num w u y))
  | .imax g w u d a b => form2 g d a b (fun x y => fit w u (if num w u x ≤ num w u y then num w u y else num w u x))
  | .iabs g w d a => form1 g d a (fun x => fit w false (if sgn w x < 0 then -sgn w x else sgn w x))
  | .ineg g w d a => form1 g d a (fun x => fit w false (0 - low w x))
  | .and g w d a b => form2 g d a b (fun x y => fit w false (bitsOf (wid w) (fun i => x.getLsbD i && y.getLsbD i)))
  | .or g w d a b => form2 g d a b (fun x y => fit w false (bitsOf (wid w) (fun i => x.getLsbD i || y.getLsbD i)))
  | .xor g w d a b => form2 g d a b (fun x y => fit w false (bitsOf (wid w) (fun i => x.getLsbD i ^^ y.getLsbD i)))
  | .andn g w d a b => form2 g d a b (fun x y => fit w false (bitsOf (wid w) (fun i => x.getLsbD i && !y.getLsbD i)))
  | .not g w d a => form1 g d a (fun x => fit w false (bitsOf (wid w) (fun i => !x.getLsbD i)))
  | .shl g w d a b => form2 g d a b (fun x y => fit w false (low w x * 2 ^ low w y))
  | .shr g w d a b => form2 g d a b (fun x y => fit w false (low w x / 2 ^ low w y : Nat))
  | .sar g w d a b => form2 g d a b (fun x y => fit w false (bitsOf (wid w) (fun i =>
      x.getLsbD (min (i + low w y) (wid w - 1)))))
  | .rot g w d a b => form2 g d a b (fun x y => fit w false (bitsOf (wid w) (fun i =>
      x.getLsbD ((i + wid w - low w y % wid w) % wid w))))
  | .clz g w d a => form1 g d a (fun x => fit w false (if low w x = 0 then wid w else wid w - 1 - Nat.log2 (low w x) : Nat))
  | .popc g w d a => form1 g d a (fun x => fit w false (((List.range (wid w)).filter (fun i => x.getLsbD i)).length : Nat))
  | .brev g w d a => form1 g d a (fun x => fit w false (bitsOf (wid w) (fun i => x.getLsbD (wid w - 1 - i))))
  | .bfx g w d a b => form2 g d a b (fun x y =>
      let p := y.toNat % 128
      let n := min (y.toNat / 256 % 128) (wid w)
      fit w true (bitsOf n (fun i => decide (p + i < wid w) && x.getLsbD (p + i))))
  | .bfi g w d a b c => form3 g d a b c (fun x y z =>
      let p := z.toNat % 128
      let n := z.toNat / 256 % 128
      fit w false (bitsOf (wid w) (fun j => if p ≤ j ∧ j < p + n then x.getLsbD (j - p) else y.getLsbD j)))
  | .mov g w d a => form1 g d a (fun x => fit w false (low w x))
  | .movi g w d v => form1 g d (.imm v) (fun x => fit w false (low w x))
  | .lea g d a off => form1 g d a (fun x => fit false false (x.toNat + off.toInt))
  | .iaddc g w d a b c => form3 g d a b c (fun x y z => fit w false (low w x + low w y + low w z % 2))
  | .isat g w u d a b => form2 g d a b (fun x y => fit w u (clampTo u (wid w) (low w y) (num w u x)))
  | _ => none


/-- Source values of lane l. -/
def laneOf (cx : Cx) (srcs : List Src) (i l : Nat) : Word := (cx.src (srcs.getD i (.spec .zero))).lane l

/-! ### Shapes (03 R42, R43, R49) -/

inductive ShapeKind
  | uniform | affine | general
  deriving DecidableEq, Repr

/-- A register's shape; unwritten counts as uniform. -/
def shapeOf : RegVal → ShapeKind
  | .unwritten => .uniform
  | .uniform _ => .uniform
  | .affine _ _ => .affine
  | .general _ => .general

/-- Base and stride of a uniform or affine value. -/
def lineOf : RegVal → Word × Word
  | .unwritten => (0, 0)
  | .uniform u => (u, 0)
  | .affine b s => (b, s)
  | .general _ => (0, 0)

/-- The table of 03 R42 for instructions with an affine row: whether the shapes of the sources give an affine result, and
its base and stride. -/
def affineRow (i : Instr) (cx : Cx) : Option (Bool × Word × Word) :=
  let sh (x : Src) : ShapeKind := shapeOf (cx.src x)
  let ln (x : Src) : Word × Word := lineOf (cx.src x)
  let linear (xs : List Src) : Bool := xs.all (fun x => sh x != .general) && xs.any (fun x => sh x == .affine)
  match i with
  | .iadd _ _ _ a b => some (linear [a, b], (ln a).1 + (ln b).1, (ln a).2 + (ln b).2)
  | .isub _ _ _ a b => some (linear [a, b], (ln a).1 - (ln b).1, (ln a).2 - (ln b).2)
  | .imul _ _ _ a b => some (linear [a, b] && (sh a == .uniform || sh b == .uniform),
      (ln a).1 * (ln b).1, (ln a).2 * (ln b).1 + (ln a).1 * (ln b).2)
  | .imad _ _ _ a b c => some (linear [a, b, c] && (sh a == .uniform || sh b == .uniform),
      (ln a).1 * (ln b).1 + (ln c).1, (ln a).2 * (ln b).1 + (ln a).1 * (ln b).2 + (ln c).2)
  | .shl _ w _ a b => some (sh a == .affine && sh b == .uniform,
      fit false false ((ln a).1.toNat * 2 ^ low w (ln b).1), fit false false ((ln a).2.toNat * 2 ^ low w (ln b).1))
  | .ineg _ _ _ a => some (sh a == .affine, 0 - (ln a).1, 0 - (ln a).2)
  | .mov _ _ _ a => some (sh a == .affine, (ln a).1, (ln a).2)
  | .lea _ _ a off => some (sh a == .affine, (ln a).1 + off.signExtend 64, (ln a).2)
  | _ => none

/-- `.w` of an instruction of the table. -/
def isW : Instr → Bool
  | .iadd _ w _ _ _ => w
  | .isub _ w _ _ _ => w
  | .imul _ w _ _ _ => w
  | .imad _ w _ _ _ _ => w
  | .shl _ w _ _ _ => w
  | .ineg _ w _ _ => w
  | .mov _ w _ _ => w
  | _ => false

/-- The value lies in the signed 32-bit range in every lane of the group (03 R43). -/
def allS32 (b s : Word) (n : Nat) : Bool :=
  (List.range n).all (fun l =>
    let v := (b + BitVec.ofNat 64 l * s).toInt
    decide (-(2 ^ 31) ≤ v) && decide (v < 2 ^ 31))

/-! ### Segments of lanes (03 R62 to R66) -/

/-- The active lanes of the segment of lane l, in ascending order. -/
def mates (cx : Cx) (s l : Nat) : List Nat := (List.range 64).filter (fun k => laneIn cx.eff k && k / s == l / s)

/-- A word whose register result is a function of state and lane. -/
structure RegForm where
  w : Guard
  u : Uses
  d : RegIx
  val : State → Cx → Nat → Word

/-- What shfl writes in lane l of segment length s (03 R64). -/
def shuffled (cx : Cx) (s : Nat) (f : ShflForm) (l : Nat) : Word :=
  let t := l - l % s
  match f with
  | .get a b => (cx.src a).lane (t + ((cx.src b).lane l).toNat % s)
  | .rot a n => (cx.src a).lane (t + (l - t + n.toNat) % s)
  | .slup a n c => if n.toNat ≤ l - t then (cx.src a).lane (l - n.toNat) else (cx.src c).lane l
  | .sldn a n c => if l - t + n.toNat < s then (cx.src a).lane (l + n.toNat) else (cx.src c).lane l
  | .xor a n => (cx.src a).lane (t + ((l - t) ^^^ n.toNat))

/-- shfl, vote.mask, vote.count, pmov, shape and getx (03 R63, R64, R67 to R69). -/
def crossForm : Instr → Option RegForm
  | .shfl g sp d f => some
      { w := g, u := usesOf (shflSrcs f) [d], d := d, val := fun _ cx l => shuffled cx (2 ^ (sp.toNat + 1)) f l }
  | .vote g sp (.mask d a) => some
      { w := g, u := usesOf [] [d], d := d, val := fun _ cx l =>
          let s := 2 ^ (sp.toNat + 1)
          BitVec.ofNat 64 (bitsOf (min s 64) (fun q => (mates cx s l).contains (l - l % s + q)
            && laneIn (cx.g.pred a) (l - l % s + q))) }
  | .vote g sp (.count d a) => some
      { w := g, u := usesOf [] [d], d := d, val := fun _ cx l =>
          BitVec.ofNat 64 ((mates cx (2 ^ (sp.toNat + 1)) l).filter (laneIn (cx.g.pred a))).length }
  | .pmov g d a => some
      { w := g, u := usesOf [] [d], d := d, val := fun _ cx l => if laneIn (cx.g.pred a) l then 1 else 0 }
  | .shape g d a => some
      { w := g, u := usesOf [a] [d], d := d, val := fun _ cx _ => match cx.src a with
          | .unwritten => 0
          | .uniform _ => 1
          | .affine _ _ => 2
          | .general _ => 3 }
  | .getx g k d => some
      { w := g, u := usesOf [] [d], d := d, val := fun _ cx _ => match k with
          | .mask => cx.p.mask
          | .path => BitVec.ofNat 64 cx.slot
          | .depth => BitVec.ofNat 64 cx.g.stack.length }
  | _ => none

/-- A word with a predicate result. -/
structure PredForm where
  w : Guard
  u : Uses
  p : PredIx
  val : Cx → Nat → Bool

def compare (c : Cond) (x y : Int) : Bool :=
  match c with
  | .eq => decide (x = y)
  | .ne => decide (x ≠ y)
  | .lt => decide (x < y)
  | .le => decide (x ≤ y)
  | .gt => decide (y < x)
  | .ge => decide (y ≤ x)

/-- icmp, pset and the forms of vote with a predicate result (03 R48, R63, R67). -/
def predForm : Instr → Option PredForm
  | .icmp g cc w u d a b => some
      { w := g, u := usesOf [a, b] [], p := d
        val := fun cx l => compare cc (num w u ((cx.src a).lane l)) (num w u ((cx.src b).lane l)) }
  | .pset g op d a b => some
      { w := g, u := usesOf [] [], p := d, val := fun cx l =>
          let x := laneIn (cx.g.pred a) l
          let y := laneIn (cx.g.pred b) l
          match op with
          | .and => x && y
          | .or => x || y
          | .xor => x ^^ y
          | .andn => x && !y }
  | .vote g sp (.every d a) => some
      { w := g, u := usesOf [] [], p := d
        val := fun cx l => (mates cx (2 ^ (sp.toNat + 1)) l).all (laneIn (cx.g.pred a)) }
  | .vote g sp (.some d a) => some
      { w := g, u := usesOf [] [], p := d
        val := fun cx l => (mates cx (2 ^ (sp.toNat + 1)) l).any (laneIn (cx.g.pred a)) }
  | .vote g sp (.same d a) => some
      { w := g, u := usesOf [a] [], p := d
        val := fun cx l => (mates cx (2 ^ (sp.toNat + 1)) l).all (fun k => (cx.src a).lane k == (cx.src a).lane l) }
  | _ => none


/-- sel (03 R49), and words that read machine state: fmtrd, rdcyc, ctlr, engst, clrd and perf without `.clr` (04 R95, 05
R133, 07 R179 to R181). -/
def readForm : Instr → Option RegForm
  | .sel g w d a b p => some
      { w := g, u := usesOf [a, b] [d], d := d, val := fun _ cx l =>
          fit w false (low w (if laneIn (cx.g.pred p) l then (cx.src a).lane l else (cx.src b).lane l)) }
  | .fmtrd g fs d => some { w := g, u := usesOf [] [d], d := d, val := fun _ cx _ => cx.g.slotDef fs.toNat }
  | .rdcyc g d => some { w := g, u := usesOf [] [d], d := d, val := fun s cx _ => (s.core cx.g.core).cyc }
  | .ctlr g d sel => some
      { w := g, u := usesOf [] [d], d := d, val := fun s cx _ => match sel.toNat with
          | 0 => if (s.ctx cx.ctx).strict then 1 else 0
          | 1 => (s.ctx cx.ctx).trapvec.setWidth 64 * 16
          | 2 => cx.g.tframe
          | 3 => cx.l.data
          | 4 => cx.l.kseg.setWidth 64 * 256 + cx.l.dseg.setWidth 64
          | 5 => (s.ctx cx.ctx).asid.setWidth 64 * 2 ^ 24 + (s.ctx cx.ctx).rqid.setWidth 64
          | 6 => s.devnum.setWidth 64
          | _ => if cx.g.preqVisible then 1 else 0 }
  | .engst g d sel => some { w := g, u := usesOf [] [d], d := d, val := fun s cx _ => engstValue s cx sel.toNat }
  | .clrd g d n word => some
      { w := g, u := usesOf [] [d], d := d, val := fun s cx _ =>
          let x := s.claspOf cx n
          if word then x.expb.setWidth 64 * 2 ^ 32 + x.bytes.setWidth 64
          else BitVec.ofNat 64 (x.arrived.toNat + x.count.toNat * 2 ^ 16 + x.phase.toNat * 2 ^ 32
            + x.pers.toNat * 2 ^ 33 + x.ovr.toNat * 2 ^ 34) }
  | .perf g false d sel => some
      { w := g, u := usesOf [] [d], d := d, val := fun s cx _ =>
          if sel.toNat < 256 then ((cx.g.refill [d.toNat]).perfCount sel.toNat).setWidth 64
          else (Sparse.get 0 (s.core cx.g.core).perf sel.toNat).setWidth 64 }
  | _ => none

/-- The value that a first active lane takes in an exclusive scan (03 R65). -/
def scanFirstInt : ScanOp → Word
  | .and => 0xFFFFFFFFFFFFFFFF
  | .min => 0x7FFFFFFFFFFFFFFF
  | .max => 0x8000000000000000
  | .umin => 0xFFFFFFFFFFFFFFFF
  | _ => 0

/-- One integer combination (03 R65). -/
def combineInt (op : ScanOp) (x y : Word) : Word :=
  match op with
  | .add => fit false false (x.toNat + y.toNat)
  | .and => BitVec.ofNat 64 (bitsOf 64 (fun i => x.getLsbD i && y.getLsbD i))
  | .or => BitVec.ofNat 64 (bitsOf 64 (fun i => x.getLsbD i || y.getLsbD i))
  | .xor => BitVec.ofNat 64 (bitsOf 64 (fun i => x.getLsbD i ^^ y.getLsbD i))
  | .min => if y.toInt < x.toInt then y else x
  | .max => if x.toInt < y.toInt then y else x
  | .umin => if y.toNat < x.toNat then y else x
  | .umax => if x.toNat < y.toNat then y else x
  | _ => 0

/-- A running combination from the left, or the first value where there is nothing to combine. -/
def combined (op : ScanOp) : List Word → Word
  | [] => scanFirstInt op
  | x :: xs => xs.foldl (combineInt op) x

/-- scan and redl with an integer operation (03 R65, R66). -/
def scanForm : Instr → Option RegForm
  | .scan g sp op _ excl d a => if isFloatOp op then none else some
      { w := g, u := usesOf [a] [d], d := d, val := fun _ cx l =>
          combined op (((mates cx (2 ^ (sp.toNat + 1)) l).filter (fun k => if excl then decide (k < l) else decide (k ≤ l))).map
            (fun k => (cx.src a).lane k)) }
  | .redl g sp op _ d a => if isFloatOp op then none else some
      { w := g, u := usesOf [a] [d], d := d, val := fun _ cx l =>
          combined op ((mates cx (2 ^ (sp.toNat + 1)) l).map (fun k => (cx.src a).lane k)) }
  | _ => none

/-! ### Floating point (04 R79, R84 to R93, 06 R149) -/

/-- A word with a floating-point result: slots named, sources, destination slot, and the rounded value of a lane with
its events. -/
structure FloatForm where
  w : Guard
  slots : List (BitVec 4 × BitVec 16)
  srcs : List Src
  d : RegIx
  dest : BitVec 4
  lane : Cx → Nat → Tallied Word

/-- An element-wise word: each sub-element decoded, one exact operation, one rounding (04 R84, R86). -/
def elemForm (g : Guard) (fs : BitVec 4) (d : RegIx) (srcs : List Src) (op : Fmt → Machine.Num → Machine.Num → Machine.Num → Tallied Machine.Num) :
    Option FloatForm :=
  some { w := g, slots := [(fs, 1)], srcs := srcs, d := d, dest := fs, lane := fun cx l =>
    let f := cx.fmt fs
    let v (i j : Nat) : Tallied Machine.Num := match srcs[i]? with
      | some x => f.decode ((((cx.src x).lane l).toNat / 2 ^ (j * f.w)) % 2 ^ f.w)
      | none => .pure .nan
    let rs := (List.range f.k).map (fun j =>
      (v 0 j).bind (fun x => (v 1 j).bind (fun y => (v 2 j).bind (fun z =>
        (op f x y z).bind (fun q => round f (cx.key fs l j) q)))))
    { val := BitVec.ofNat 64 (((List.range f.k).map (fun j => (rs.map Tallied.val).getD j 0 % 2 ^ f.w * 2 ^ (j * f.w))).sum)
      cnt := Counts.sum (rs.map Tallied.cnt) } }

/-- Sub-element j of a register value. -/
def elemOf (f : Fmt) (v : Word) (j : Nat) : Tallied Machine.Num := f.decode (v.toNat / 2 ^ (j * f.w) % 2 ^ f.w)

/-- One combination of two register values per sub-element, each rounded once, by a floating operation of scan, redl or an
atomic: the sum, the smaller or the larger (03 R66, 05 R125). -/
def combineNum (f : Fmt) (k : Nat) (op : ScanOp) (key : Nat → Key) (x y : Word) : Tallied Word :=
  let rs := (List.range k).map (fun j => (elemOf f x j).bind (fun p => (elemOf f y j).bind (fun q =>
    (match op with
      | .fmin => Tallied.pure (chooseNum false p q)
      | .fmax => Tallied.pure (chooseNum true p q)
      | _ => Tallied.ofOp (Machine.Num.add f.down p q)).bind (fun z => round f (key j) z))))
  { val := BitVec.ofNat 64 (((List.range k).map (fun j => (rs.map Tallied.val).getD j 0 % 2 ^ f.w * 2 ^ (j * f.w))).sum)
    cnt := Counts.sum (rs.map Tallied.cnt) }

/-- The sum of the leaves of a node of 04 R92: the leaves of its left half, then those of its right half, rounded once
where both have a present leaf; node h has the children 2h and 2h + 1. -/
def halves (f : Fmt) (key : Nat → Key) : Nat → Nat → List (Option (Tallied Machine.Num)) → Option (Tallied Machine.Num)
  | 0, _, xs => xs.headD none
  | n + 1, h, xs =>
    let x := halves f key n (2 * h) (xs.take (2 ^ n))
    let y := halves f key n (2 * h + 1) (xs.drop (2 ^ n))
    match x, y with
    | some a, some b => some ((a.bind (fun p => b.bind (fun q => Tallied.ofOp (Machine.Num.add f.down p q)))).bind
        (fun z => (round f (key h) z).bind f.decode))
    | some a, none => some a
    | none, b => b

/-- The tree over n leaves, P the least power of two that is at least n. -/
def sumOf (f : Fmt) (key : Nat → Key) (n : Nat) (leaf : Nat → Tallied Machine.Num) : Tallied Machine.Num :=
  let k := ((List.range 8).find? (fun k => decide (n ≤ 2 ^ k))).getD 0
  (halves f key k 1 ((List.range (2 ^ k)).map (fun i => if i < n then some (leaf i) else none))).getD (.pure (.zero false))

/-- A register value with the codes of sub-elements from p on, and another value's bits elsewhere. -/
def withElems (w p : Nat) (codes : List Nat) (c : Word) : Word :=
  BitVec.ofNat 64 (bitsOf 64 (fun q =>
    if p * w ≤ q ∧ q < (p + codes.length) * w then (codes.getD (q / w - p) 0).testBit (q % w) else c.getLsbD q))

def floatForm : Instr → Option FloatForm
  | .fadd g fs d a b => elemForm g fs d [a, b] (fun f x y _ => .ofOp (Machine.Num.add f.down x y))
  | .fsub g fs d a b => elemForm g fs d [a, b] (fun f x y _ => .ofOp (Machine.Num.add f.down x y.negate))
  | .fmul g fs d a b => elemForm g fs d [a, b] (fun _ x y _ => .ofOp (Machine.Num.mul x y))
  | .ffma g fs d a b c => elemForm g fs d [a, b, c] (fun f x y z =>
      (Tallied.ofOp (Machine.Num.mul x y)).bind (fun p => .ofOp (Machine.Num.add f.down p z)))
  | .fmin g fs d a b => elemForm g fs d [a, b] (fun _ x y _ => .pure (chooseNum false x y))
  | .fmax g fs d a b => elemForm g fs d [a, b] (fun _ x y _ => .pure (chooseNum true x y))
  | .fdiv g fs d a b => elemForm g fs d [a, b] (fun _ x y _ => .ofOp (Machine.Num.div x y))
  | .fsqrt g fs d a => elemForm g fs d [a] (fun _ x _ _ => .ofOp x.root)
  | .frcp g fs d a => elemForm g fs d [a] (fun _ x _ _ => .ofOp (Machine.Num.div (.rat 1) x))
  | .frsq g fs d a => elemForm g fs d [a] (fun _ x _ _ => .ofOp x.rroot)
  | .fex2 g fs d a => elemForm g fs d [a] (fun _ x _ _ => .ofOp x.power)
  | .flg2 g fs d a => elemForm g fs d [a] (fun _ x _ _ => .ofOp x.logarithm)
  | .frnd g fs d a => some
      { w := g, slots := [(fs, 1)], srcs := [a], d := d, dest := fs, lane := fun cx l =>
          let f := cx.fmt fs
          elemWise f (cx.key fs l) (fun j =>
            (f.decode (subElem ((cx.src a).lane l) f.w j)).bind (fun x => .pure (integralNum f (cx.key fs l j) x))) }
  | .fscl g fs d a b => some
      { w := g, slots := [(fs, 1)], srcs := [a, b], d := d, dest := fs, lane := fun cx l =>
          let f := cx.fmt fs
          elemWise f (cx.key fs l) (fun j =>
            (f.decode (subElem ((cx.src a).lane l) f.w j)).bind (fun x =>
              .pure (scaleNum x ((cx.src b).lane l).toInt))) }
  | .fcvt g fs sc d a b c => some
      { w := g, slots := [(fs, 1), (sc, 3)], srcs := [a, b, c], d := d, dest := sc, lane := fun cx l =>
          let fx := cx.fmt fs
          let fy := cx.fmt sc
          let o := ((cx.src b).lane l).toNat % 64
          let p := ((cx.src b).lane l).toNat / 256 % 64
          let rs := (List.range (min (fx.k - o) (fy.k - p))).map (fun i =>
            (elemOf fx ((cx.src a).lane l) (o + i)).bind (fun x => round fy (cx.key sc l (p + i)) x))
          { val := withElems fy.w p (rs.map Tallied.val) ((cx.src c).lane l), cnt := Counts.sum (rs.map Tallied.cnt) } }
  | .i2f g fs w u d a => some
      { w := g, slots := [(fs, 1)], srcs := [a], d := d, dest := fs, lane := fun cx l =>
          let f := cx.fmt fs
          let r := round f (cx.key fs l 0) (Machine.Num.ofRat (num w u ((cx.src a).lane l)))
          { val := BitVec.ofNat 64 (r.val % 2 ^ f.w), cnt := r.cnt } }
  | .fdot g fs sb sc d a b c => some
      { w := g, slots := [(fs, 1), (sb, 2), (sc, 3)], srcs := [a, b, c], d := d, dest := sc, lane := fun cx l =>
          let fx := cx.fmt fs
          let fy := cx.fmt sb
          let fz := cx.fmt sc
          let c := (cx.src c).lane l
          let dot := sumOf fz (cx.key sc l) (min fx.k fy.k) (fun i =>
            (elemOf fx ((cx.src a).lane l) i).bind (fun x => (elemOf fy ((cx.src b).lane l) i).bind (fun y =>
              .ofOp (Machine.Num.mul x y))))
          let r := (dot.bind (fun x => (elemOf fz c 0).bind (fun y => .ofOp (Machine.Num.add fz.down x y)))).bind
            (fun z => round fz (cx.key sc l 0) z)
          { val := withElems fz.w 0 [r.val] c, cnt := r.cnt } }
  | .fsum g fs d a => some
      { w := g, slots := [(fs, 1)], srcs := [a], d := d, dest := fs, lane := fun cx l =>
          let f := cx.fmt fs
          let r := (sumOf f (cx.key fs l) f.k (elemOf f ((cx.src a).lane l))).bind (fun z => round f (cx.key fs l 0) z)
          { val := withElems f.w 0 [r.val] 0, cnt := r.cnt } }
  | _ => none

/-! ### Floating scans (03 R65, R66) -/

/-- The right part of a range of n positions that 03 R66 combines: half of a power of two, else the least power of two
of n. -/
def rightPart (n : Nat) : Nat := if n &&& (n - 1) = 0 then n / 2 else n - (n &&& (n - 1))

/-- The value of the n positions from lane x on, and its lowest present lane; positions whose lane is not active are
absent. -/
def rangeVal (leaf : Nat → Option Word) (f : Nat → Word → Word → Tallied Word) : Nat → Nat → Nat → Option (Nat × Word)
  | 0, _, _ => none
  | fuel + 1, x, n =>
    if n = 0 then none
    else if n = 1 then (leaf x).map (fun v => (x, v))
    else
      let r := rightPart n
      match rangeVal leaf f fuel x (n - r), rangeVal leaf f fuel (x + (n - r)) r with
      | some a, some b => some (a.1, (f a.1 a.2 b.2).val)
      | some a, none => some a
      | none, b => b

/-- The nodes of a range, as first lane and length. -/
def rangeNodes : Nat → Nat → Nat → List (Nat × Nat)
  | 0, _, _ => []
  | fuel + 1, x, n =>
    if n ≤ 1 then []
    else
      let r := rightPart n
      (x, n) :: rangeNodes fuel x (n - r) ++ rangeNodes fuel (x + (n - r)) r

/-- The events of a node: of its one combination, where both parts are present. -/
def nodeEvents (leaf : Nat → Option Word) (f : Nat → Word → Word → Tallied Word) (x n : Nat) : Counts :=
  let r := rightPart n
  match rangeVal leaf f 16 x (n - r), rangeVal leaf f 16 (x + (n - r)) r with
  | some a, some b => (f a.1 a.2 b.2).cnt
  | _, _ => Counts.zero

/-- The value of an exclusive floating scan in the first active lane, per sub-element (03 R65): +0, which the format
without a zero encodes as code 0 (model's choice, log entry 81); +∞ or the largest finite value; −∞, the most negative
finite value, or 0 in an unsigned slot. -/
def scanFirstFloat (op : ScanOp) (f : Fmt) : Word :=
  let code := match op with
    | .fmin => if f.inf = 1 then f.encodeInf false else f.encodeMax false
    | .fmax => if f.s = 0 then 0 else if f.inf = 1 then f.encodeInf true else f.encodeMax true
    | _ => f.encodeRat 0 false
  BitVec.ofNat 64 (((List.range f.k).map (fun j => code % 2 ^ f.w * 2 ^ (j * f.w))).sum)

/-- A result is computed once where every source is uniform and the destination slot is not stochastic (04 R85). -/
def once (cx : Cx) (srcs : List Src) (sto : Bool) : Bool := !sto && srcs.all (fun x => shapeOf (cx.src x) == .uniform)

/-- The events of a result: those of the one computation in each active lane, or the sum over the active lanes (04
R81). -/
def eventsOf (cx : Cx) (one : Bool) (f : Nat → Tallied Word) : Counts :=
  if one then (f 0).cnt.times (laneCount cx.eff)
  else Counts.sum (((List.range cx.g.width).filter (laneIn cx.eff)).map (fun l => (f l).cnt))

/-- The class of a raw code as fclass reports it (04 R88). -/
def classWord (cx : Cx) (fs : BitVec 4) (a b : Src) (l : Nat) : Word :=
  let f := cx.fmt fs
  let i := ((cx.src b).lane l).toNat % 64
  if i < f.k then BitVec.ofNat 64 (classOf f (subElem ((cx.src a).lane l) f.w i)) else 0

/-! ### What each word names (01 R29) -/

/-- What each word that names registers names: its guard, the registers its fields read and write with the slots it
uses, and the members of its runs. -/
def namesOf (cx : Cx) (i : Instr) : Option (Guard × Uses × Members) :=
  let plain (g : Guard) (srcs : List Src) (ds : List RegIx) : Option (Guard × Uses × Members) :=
    some (g, usesOf srcs ds, Members.none)
  let slot (g : Guard) (srcs : List Src) (ds : List RegIx) (ss : List (BitVec 4 × BitVec 16)) :
      Option (Guard × Uses × Members) := some (g, (usesOf srcs ds).withSlots ss, Members.none)
  let mem (g : Guard) (m : Addr) (b c : Src) (ws : List Nat) : Option (Guard × Uses × Members) :=
    some (g, memUses m b c ws, Members.none)
  let mat (g : Guard) (w : MatrixWord) : Option (Guard × Uses × Members) :=
    some (g, { reads := [w.kreg], writes := [], runs := [], slots := [(w.fs, 1), (w.sb, 2), (w.sc, 3)]
               fields := [[w.a], [w.b], w.c.toList] }, matrixMembers w cx)
  let zero : Src := .spec .zero
  match i with
  | .brc g a _ => plain g [a] []
  | .brx g a _ => plain g [a] []
  | .call g d _ => plain g [] [d]
  | .callTbl g d a _ => plain g [a] [d]
  | .ret g a => plain g [a] []
  | .pmark g _ b => plain g [b] []
  | .matz g d => plain g [] [d]
  | .perf g _ d _ => plain g [] [d]
  | .fcmp g _ fs _ a b => slot g [a, b] [] [(fs, 1)]
  | .fclass g fs d a b => slot g [a, b] [d] [(fs, 1)]
  | .f2i g fs _ _ d a => slot g [a] [d] [(fs, 1)]
  | .scan g _ op fs _ d a => slot g [a] [d] (if isFloatOp op then [(fs, 1)] else [])
  | .redl g _ op fs d a => slot g [a] [d] (if isFloatOp op then [(fs, 1)] else [])
  | .fmtdef g _ a => plain g [a] []
  | .fseed g fs a => slot g [a] [] [(fs, 1)]
  | .fstat g _ d => plain g [] [d]
  | .bscl g fs sb sc d a b => slot g [a, b] [d] [(fs, 1), (sb, 2), (sc, 3)]
  | .scq g fs sb sc bs res d a =>
    let r := (match res with
      | some x => [x.toNat]
      | none => [])
    some (g, runUses [[a.toNat]] (d.toNat :: r) (a.toNat :: r) [(fs, 1), (sb, 2), (sc, 3), (sc, 4)]
      , scqMembers fs sb bs res a cx)
  | .scdq g fs sc d a c =>
    some (g, runUses [srcReg a, [], srcReg c] [d.toNat] [d.toNat] [(fs, 1), (fs, 4), (sc, 3)], unpackMembers d c cx)
  | .scup g fs r d a c =>
    some (g, runUses [srcReg a, [], srcReg c] [d.toNat, r.toNat] [d.toNat] [(fs, 1), (fs, 4)], unpackMembers d c cx)
  | .scpk g fs sb bs d a b =>
    some (g, runUses [[a.toNat], srcReg b] [d.toNat] [a.toNat] [(fs, 1), (sb, 2), (sb, 4)], scpkMembers fs bs a cx)
  | .ld g wd _ _ _ d m => mem g m zero zero (loadDests wd d)
  | .ldi g _ _ _ d m => mem g m zero zero [d.toNat]
  | .st g wd _ _ _ m b => some (g, { Uses.none with reads := addrRegs m ++ storeSrcs wd b }, Members.none)
  | .ldp g _ _ _ d m c => mem g m zero c [d.toNat]
  | .stp g _ _ m b c => mem g m b c []
  | .pref g _ _ m => mem g m zero zero []
  | .cinv g _ m => mem g m zero zero []
  | .cwb g _ m => mem g m zero zero []
  | .ldq g _ d a _ => plain g [a] [d]
  | .stq g _ a _ b => plain g [a, b] []
  | .stz g fs _ m b c =>
    some (g, runMemUses m [b.toNat] c [] [b.toNat] fs, { reads := formMembers fs b c cx, writes := [] })
  | .ldz g fs _ d m c =>
    some (g, runMemUses m [] c [d.toNat] [d.toNat] fs, { reads := [], writes := formMembers fs d c cx })
  | .ldfr g fs _ d m c =>
    some (g, runMemUses m [] c [d.toNat] [d.toNat] fs
      , { reads := [], writes := if cx.eff = 0 then [] else fragMembers fs d c cx })
  | .stfr g fs _ m b c =>
    some (g, runMemUses m [b.toNat] c [] [b.toNat] fs
      , { reads := if cx.eff = 0 then [] else fragMembers fs b c cx, writes := [] })
  | .atom g op _ fs _ _ d m b =>
    some (g, (memUses m b zero [d.toNat]).withSlots (if isFloatAtom op then [(fs, 1)] else []), Members.none)
  | .red g op _ fs _ _ m b =>
    some (g, (memUses m b zero []).withSlots (if isFloatAtom op then [(fs, 1)] else []), Members.none)
  | .acas g _ _ _ d m b c => mem g m b c [d.toNat]
  | .clinit g _ a => plain g [a] []
  | .clarr g d _ a => plain g [a] [d]
  | .clwait g _ a => plain g [a] []
  | .clsync g _ a => plain g [a] []
  | .clexp g _ a => plain g [a] []
  | .tmpl g _ _ a => plain g [a] []
  | .coll g _ _ _ a => plain g [a] []
  | .launch g _ _ a => plain g [a] []
  | .bankm g _ d _ => plain g [] [d]
  | .ctlw g _ a => plain g [a] []
  | .mma g fs sb sc d a b c mk => mat g { fs := fs, sb := sb, sc := sc, block := 0, d := d.toNat, a := a.toNat
                                          b := b.toNat, c := some c.toNat, kreg := mk.toNat }
  | .mmas g fs sb sc bs d a b c mk => mat g { fs := fs, sb := sb, sc := sc, block := blockLen bs, d := d.toNat
                                              a := a.toNat, b := b.toNat, c := some c.toNat, kreg := mk.toNat }
  | .mmaz g fs sb sc d a b mk => mat g { fs := fs, sb := sb, sc := sc, block := 0, d := d.toNat, a := a.toNat
                                         b := b.toNat, c := none, kreg := mk.toNat }
  | i =>
    ((intForm i).map (fun f => (f.w, usesOf f.srcs [f.d], Members.none))).or
      (((predForm i).map (fun f => (f.w, f.u, Members.none))).or
        (((crossForm i).map (fun f => (f.w, f.u, Members.none))).or
          (((readForm i).map (fun f => (f.w, f.u, Members.none))).or
            ((floatForm i).map (fun f => (f.w, (usesOf f.srcs [f.d]).withSlots f.slots, Members.none))))))


/-! ### Memory as a cluster's words see it (12 R249, R252) -/

/-- A byte beneath the cluster L1: at its home slice, or in the package's L2 copy, which host memory backs. -/
def belowAt (s : State) (p : Nat) : Byte :=
  if isLocal p then Memory.read s.mem (s.redirect p)
  else
    let under : Byte := if isHost p then Memory.read s.hostMem (s.bus (placeAddr p)) else 0
    match s.l2Sector (sectorOf p) with
    | some x => if laneIn x.valid (p % 64) then x.bytes.getD (p % 64) 0 else under
    | none => under

/-- A byte of a place as a cluster finds it: in its L1 where that holds the byte, else beneath. -/
def seenAt (s : State) (clus p : Nat) : Byte :=
  match s.l1Sector clus (sectorOf p) with
  | some x => if laneIn x.valid (p % 64) then x.bytes.getD (p % 64) 0 else belowAt s p
  | none => belowAt s p

/-- A byte of a place as a read with a hint finds it: with `.byp` beneath the L1, but for bytes the cluster has written
(05 R114). -/
def hintAt (s : State) (h : Hint) (clus p : Nat) : Byte :=
  if h = .byp then
    match s.l1Sector clus (sectorOf p) with
    | some x => if laneIn x.mask (p % 64) then x.bytes.getD (p % 64) 0 else belowAt s p
    | none => belowAt s p
  else seenAt s clus p

/-- Scratch byte a of the group's team (05 R100). -/
def scratchAt (s : State) (cx : Cx) (a : Nat) : Byte :=
  match s.team? (tidOf cx.gid) with
  | some t => Memory.read t.scratch a
  | none => 0

/-- No frame is redirected to another (15 R338). -/
def unmoved (s : State) : Prop := ∀ p, s.redirect p = p

/-- The package's L2 holds so few lines that none leaves it for the lines of one word (05 R114, log entry 62). -/
def l2Room (s : State) : Prop := s.l2lines.length + 4096 ≤ sliceLines

/-- What a word's reads find at a place: what the cluster sees there, or, where a line has made room for another one, what
lies beneath and the cluster's own written bytes. -/
def mayFind (s : State) (h : Hint) (clus p : Nat) (b : Byte) : Prop :=
  isLocal p = true ∨ l2Room s → b = hintAt s h clus p ∨ b = hintAt s .byp clus p

/-- The bytes of an access: of scratch, or of the places its regions were translated to. -/
def accGives (s : State) (cx : Cx) (h : Hint) (rs : List Region) (a : LaneAcc) (bs : List Byte) : Prop :=
  bs.length = a.n ∧ ∀ j, j < a.n →
    let o := (a.off + j) % 2 ^ 64
    if a.seg = 0xFE then bs.getD j 0 = scratchAt s cx o
    else mayFind s h cx.g.core.clus (placeIn rs a.seg o) (bs.getD j 0)

/-- A byte that a word does not write, as the cluster sees it once lines have made room for others: as before, or what
lies beneath and its own written bytes (12 R253). -/
def seenKept (s e : State) (clus q : Nat) : Prop :=
  isLocal q = true ∨ l2Room s →
    seenAt e clus q = seenAt s clus q ∨ seenAt e clus q = hintAt s .byp clus q

/-- A byte of local memory that a word does not write: it stays, or takes what the cluster had written there. -/
def memKept (s e : State) (clus a : Nat) : Prop :=
  Memory.read e.mem a = Memory.read s.mem a
    ∨ ∃ x, s.l1Sector clus (sectorOf a) = some x ∧ laneIn x.mask (a % 64) = true
        ∧ Memory.read e.mem a = x.bytes.getD (a % 64) 0

/-- What a word's writes through the caches leave as it was: bytes it does not write, and host memory unless the L2 made
room for other lines. -/
structure Kept (s e : State) (clus : Nat) (written : Nat → Prop) : Prop where
  seen : ∀ q, ¬ written q → seenKept s e clus q
  mem : ∀ a, ¬ written a → memKept s e clus a
  host : l2Room s → e.hostMem = s.hostMem

/-- Every read of the pieces was answered with bytes. -/
def allRead (xs : List (Piece × Got)) : Bool :=
  xs.all (fun x => match x.2 with
    | .bytes _ => true
    | _ => false)

/-- What st and stp read: the address registers, and the stored source with its companion for 128 bits (01 R31). -/
def stUses (wd : Width) (m : Addr) (b : Src) : Uses :=
  { Uses.none with reads := addrRegs m ++ storeSrcs wd b, fields := [srcReg m.base, srcReg b] }

/-- What ldi, ldp, stp, stz, ldz, ldfr, stfr and the atomics check of their addresses (05 R99 to R101): the alignment,
and each access with its lane, segment, offset and bytes. A lane of ldp or stp without an element has no access (log
entry 83); none where the word is refused before. -/
def accessOf (cx : Cx) (i : Instr) : Option (Nat × List LaneAcc) :=
  let one (m : Addr) (n l : Nat) : LaneAcc :=
    { lane := l, seg := (laneAddr cx m l).1, off := (laneAddr cx m l).2.toNat, n := n }
  let rows (z : Nat) (m : Addr) (n : Nat) : Option (Nat × List LaneAcc) := some (z, (lanes cx.eff).map (one m n))
  let packed (pw : BitVec 6) (m : Addr) (c : Src) : Option (Nat × List LaneAcc) :=
    some (1, (lanes cx.eff).filterMap (fun l =>
      let b := (laneAddr cx m l).2.toNat
      let n := min (((cx.src c).lane l).toNat % 128) (64 / (pw.toNat + 1)) * (pw.toNat + 1)
      if n = 0 then none else some { lane := l, seg := (laneAddr cx m l).1, off := b / 8, n := (b % 8 + n + 7) / 8 }))
  let form (m : Addr) (c : Src) (n : Word → Nat) : Option (Nat × List LaneAcc) :=
    (formAddr cx m c).map (fun x => (16, [{ lane := lowLane cx, seg := x.1, off := x.2.1, n := n x.2.2 }]))
  let atomic (isFloat : Bool) (fs : BitVec 4) (b64 : Bool) (m : Addr) : Option (Nat × List LaneAcc) :=
    let n := if b64 then 8 else 4
    if isFloat ∧ 8 * n < (cx.fmt fs).w then none else rows n m n
  match i with
  | .ldi _ wd ac _ _ m => if cx.g.ac ac.toNat < 63 then rows (widthBytes wd) m (widthBytes wd) else none
  | .ldp _ _ pw _ _ m c => packed pw m c
  | .stp _ pw _ m _ c => packed pw m c
  | .stz _ fs _ m b c => form m c (fun v =>
      let f := cx.fmt fs
      (formBytes f.w ((List.range (v.toNat % 65536)).map (fun e =>
        subElem ((cx.g.val (b.toNat + e / (cx.g.width * f.k))).lane (e % (cx.g.width * f.k) / f.k)) f.w (e % f.k)))).length)
  | .ldz _ _ _ _ m c => form m c (fun v => 16 + formMask (v.toNat % 65536))
  | .ldfr _ fs _ _ m c => (equalActive cx c).bind (fun v =>
      let n := v.toNat % 65536
      if v.getLsbD 31 then rows 64 m (if n = 0 then 0 else 64) else rows 1 m (ceilDiv (n * (cx.fmt fs).w) 8))
  | .stfr _ fs _ m _ c => (equalActive cx c).bind (fun v => rows 1 m (ceilDiv (v.toNat % 65536 * (cx.fmt fs).w) 8))
  | .atom _ op b64 fs _ _ _ m _ => atomic (isFloatAtom op) fs b64 m
  | .red _ op b64 fs _ _ m _ => atomic (isFloatAtom op) fs b64 m
  | .acas _ b64 _ _ _ m _ _ => atomic false 0 b64 m
  | _ => none

/-- What the last of some writes to a byte stores: in scratch by offset, else by place. -/
def lastWrite (ps : List (Piece × List Byte)) (scratch : Bool) (a : Nat) : Option Byte :=
  ps.foldl (fun acc x =>
    let b := if scratch then x.1.off else x.1.place
    if x.1.scratch = scratch ∧ b ≤ a ∧ a < b + x.2.length then some (x.2.getD (a - b) 0) else acc) none

/-- A byte after masked bytes are merged into it in order. -/
def afterBits (xs : List BitByte) (scratch : Bool) (a : Nat) (old : Byte) : Byte :=
  xs.foldl (fun v x =>
    if x.scratch = scratch ∧ (if scratch then x.off else x.place) = a then (v &&& ~~~x.mask) ||| (x.val &&& x.mask) else v)
    old

/-- The word has gone on with result `f` in flight and nothing else of `e` changed but what `onlyRegs` leaves out and,
for ldi, its arrival counter (01 R28, 05 R111). -/
structure Flew (e t : State) (cx : Cx) (w : Guard) (f : InFlight) (gt : Group) : Prop where
  next : Next e t cx w gt
  regs : cx.g.keeps gt []
  group : cx.g.onlyRegs { gt with acs := cx.g.acs }
  counters : (∀ n, f.kind ≠ .ldi n) → gt.acs = cx.g.acs
  memory : e.sameMemory t cx
  rest : e.onlyGroups t
  out : f ∈ gt.flight
  slot : f.slot = cx.slot

/-! ### Atomics (05 R125 to R127) -/

/-- One integer operation on words of n bits (05 R125). -/
def onWord (op : AtomOp) (n : Nat) (x y : Nat) : Nat :=
  let sg (v : Nat) : Int := if v < 2 ^ (n - 1) then (v : Int) else (v : Int) - 2 ^ n
  match op with
  | .add => (x + y) % 2 ^ n
  | .and => x &&& y
  | .or => x ||| y
  | .xor => x ^^^ y
  | .min => if sg y < sg x then y else x
  | .max => if sg x < sg y then y else x
  | .umin => min x y
  | .umax => max x y
  | _ => y

/-- The word at a place, or at an offset of scratch. -/
def wordAt (s : State) (cx : Cx) (seg : BitVec 8) (a n : Nat) : Nat :=
  ofBytes ((List.range n).map (fun i => if seg = 0xFE then scratchAt s cx (a + i) else seenAt s cx.g.core.clus (a + i)))

/-- The operations of a word one after another, from the lowest lane: the word each lane finds, and the last. -/
def inTurn (f : Nat → Nat → Nat) : List Nat → Nat → List (Nat × Nat) × Nat
  | [], v => ([], v)
  | l :: ls, v => let r := inTurn f ls (f l v); ((l, v) :: r.1, r.2)

/-- An answer of an operation that is no obstacle: performed, or on its way to its owner. -/
def goesOn : Perf → Bool
  | .done _ _ => true
  | .sent _ => true
  | _ => false

/-! ### Steps that are no words -/

/-- Registers named by some writes take the written lanes and keep the others; every other register is as it was. -/
def tookWrites (g h : Group) (ws : List RegWrite) : Prop :=
  (∀ w ∈ ws, ∀ l, l < 64 → l < g.width →
    (h.val w.reg).lane l = if laneIn w.mask l then w.val.lane l else (g.val w.reg).lane l)
    ∧ g.keeps h (ws.map RegWrite.reg)

/-- Local memory outside the stack and spill areas of a group is as before (08 R190, R195, R198). -/
def spillsOnly (s t : State) (gid : GroupId) (g : Group) : Prop :=
  ∀ cx : Cx, cx.gid = gid → cx.g = g → cx.ctx = s.ctxOf gid.launch → s.sameMemory t cx

/-- The bytes from a on lie at as many places: no page moves onto another (15 R338). -/
def apart (s : State) (a n : Nat) : Prop :=
  ∀ x y, a ≤ x → x < a + n → a ≤ y → y < a + n → s.redirect x = s.redirect y → x = y

/-- Local memory outside n bytes from a on is as before. -/
def elsewhere (s t : State) (a n : Nat) : Prop :=
  ∀ x, (∀ i, i < n → s.redirect (a + i) ≠ x) → Memory.read t.mem x = Memory.read s.mem x

/-- The paths are as before but for operand buffers with a register of the list, which are discarded (01 R31). -/
def buffersOnly (g h : Group) (rs : List Nat) : Prop :=
  ∀ slot, h.path slot = (g.path slot).map (fun p => { p with retained := p.retained.filter (fun x => !rs.contains x.1) })

/-- Every other group is as before. -/
def othersStay (s t : State) (gid : GroupId) : Prop := ∀ o, o ≠ gid → t.group? o = s.group? o

/-- Nothing is dirty in any cluster L1. -/
def l1Clean (s : State) : Prop := ∀ c, s.l1Dirty c = false

/-- The path a command of the host takes away: parked on a recoverable fault no more (15 R326, R335). -/
def unparked (abort : Bool) (p q : Option Path) : Prop :=
  q = p.map (fun x => if x.onFault then { x with onFault := false, abortNext := abort } else x)

/-- What a device has sent: `t` has sent what `s` has and then `ms`, each by its port, which replays it until it is
acknowledged; a message waits where its port retrains (14 R293, R314). -/
def sends (s t : State) (ms : List FabMsg) : Prop :=
  let goes (m : FabMsg) : Bool := !s.ports.any (fun e => e.1 == portTo m.dst && e.2.state == 2)
  t.fabOut = s.fabOut ++ ms.filter goes
    ∧ t.unacked = s.unacked ++ (ms.filter goes).map (fun m => (portTo m.dst, m))
    ∧ t.heldOut = s.heldOut ++ (ms.filter (fun m => !goes m)).map (fun m => (portTo m.dst, m))

/-- The response to a request (14 R298). -/
def answerTo (s : State) (q : RemoteReq) (rstat : BitVec 4) (data : List Byte) : FabMsg :=
  let m : RemoteResp := {
    ext := q.ext, src := s.devnum.toNat, tag := 0, echo := q.expinc, hm := q.hm, incarn := s.incarn, rstat := rstat
    data := data, err := false }
  .resp q.src m (respWire m)

/-- No TLB of the machine holds an entry of the context that covers a unit of the range; other entries stay. -/
def tlbsWithout (s t : State) (ctx : Nat) (seg : BitVec 8) (off count : Nat) : Prop :=
  (∀ c, (t.core c).tlb = (s.core c).tlb.filter (fun e => !e.hit ctx seg off count))
    ∧ ∀ d e, e ∈ (Tab.get? t.l2tlb d).getD [] → e ∈ (Tab.get? s.l2tlb d).getD [] ∧ e.hit ctx seg off count = false

/-- A command of the host's registers has run to its end. -/
def commandOver (t : State) : Prop := t.tbusy = false ∧ t.tcmd = 0

end Sys2Proof.Claims

open Sys2Proof Sys2Proof.Machine Sys2Proof.Claims

/-! ### Encodings and the step -/

/-- 02 R32 to R40: every well-formed instruction that is a word has an encoding, and decoding that gives the word back. -/
def Obligations.DecodeEncode : Prop :=
  ∀ (e : Env) (i : Instr), isEvent i = false → wellFormed e i = true → ∃ w, encode i = some w ∧ decode e w = i

/-- 02 R37: what decodes to no illegal word is well formed, and its encoding is the word decoded: no bit is dropped. -/
def Obligations.EncodeDecode : Prop :=
  ∀ (e : Env) (w : BitVec 128), (∃ d, decode e w = .illegalWord d)
    ∨ (wellFormed e (decode e w) = true ∧ encode (decode e w) = some w)

/-- 03 R61, 08 R189, 13 R287, 15 R327: the path slot that its core's arbiter chooses fetches the 16 bytes at its pc in
KSEG, through the page its TLB or walk gives, and executes what they decode to; another slot does not issue. Around
exec stand the arbiter's turn (TurnFrame) and what it does with the outcome (TurnSettles). `sa` is the machine once its
agenda or its default schedule has named the move (log entry 3). -/
def Sys2Proof.Claims.StepRunsDecoded : Prop :=
  ∀ (s sa s1 : State) (gid : GroupId) (slot p : Nat) (ms : List Move) (g : Group) (cx : Cx) (h : Hint),
    (s.agenda = .issue gid slot :: ms ∧ sa = { s with agenda := ms })
      ∨ (s.agenda = [] ∧ s.nextMove = some (.issue gid slot) ∧ sa = s) →
    sa.group? gid = some g →
    (sa.pick g.core ≠ some (gid, slot) → step s = .next sa)
    ∧ (sa.pick g.core = some (gid, slot) →
      (sa.turn gid g slot).cx? Guard.every Uses.none = some cx → cx.l.kseg.toNat < 0xFC → cx.p.pc.toNat % 16 = 0 →
      cx.p.abortNext = false →
      (sa.turn gid g slot).translate (.core cx.g.core) cx.ctx cx.l.kseg (cx.p.pc.toNat / 65536 * 65536) .fetch
        = (.ok p h, s1) →
      isLocal (p + cx.p.pc.toNat % 65536) = true → p % 65536 = 0 →
      s1.isPoisoned (sectorOf (p + cx.p.pc.toNat % 65536)) = false →
      step s = (sa.turn gid g slot).afterWord gid slot
        (exec (decode { nr := cx.g.nr, width := cx.g.width, clasps := cx.l.clasps }
          (wordOfBytes (s1.homeRead (p + cx.p.pc.toNat % 65536) 16))) s1))

/-- 08 R189, 13 R287: the slot a core chooses is eligible, was not yet tried in its issue clock, and belongs to the
group nearest to the pointer among those with such a slot, counting upward around 32; of two such slots of the group it
is the one that did not issue last. The clock is the current one while a port is free in it and a slot is left to try,
and otherwise the next, whose pointer stands one further (the order within a clock is log entry 5). A core that chooses
nothing is idle or has no eligible slot. -/
def Sys2Proof.Claims.PickChooses : Prop :=
  ∀ (s : State) (c : CoreId),
    let left (ks : List Nat) (h : Group) (k : Nat) : Prop := s.eligible h k = true ∧ 2 * h.gslot + k ∉ ks
    let free : Prop := (s.core c).vec < 2 ∨ (s.core c).scal < 2
    let some' (ks : List Nat) : Prop := ∃ o h k, (o, h) ∈ s.groups ∧ h.core = c ∧ k < 2 ∧ left ks h k
    (∀ gid slot, s.pick c = some (gid, slot) → s.clockOn c = true ∧ ∃ ks ptr g,
      ((free ∧ some' (s.core c).tried ∧ ks = (s.core c).tried ∧ ptr = (s.core c).ptr)
        ∨ ((¬ free ∨ ¬ some' (s.core c).tried) ∧ ks = [] ∧ ptr = ((s.core c).ptr + 1) % 32))
      ∧ (gid, g) ∈ s.groups ∧ g.core = c ∧ slot < 2 ∧ left ks g slot
      ∧ (∀ o h k, (o, h) ∈ s.groups → h.core = c → k < 2 → left ks h k →
          (g.gslot + 32 - ptr) % 32 ≤ (h.gslot + 32 - ptr) % 32)
      ∧ (left ks g 0 → left ks g 1 → slot = 1 - g.lastSlot))
    ∧ (s.pick c = none → s.clockOn c = true → ∀ o h k, (o, h) ∈ s.groups → h.core = c → k < 2 →
        s.eligible h k = false)

/-- What an issue opportunity changes before the word is tried. Within the core's issue clock only that the slot is
tried and defers no more; in a new clock also the pointer, which advances by one around the 32 group slots (13 R287),
the ports, which are free, CYC (11 R238), and every deferral by `yield` on the core, which counts the clock (03 R61).
The cycles a clock stands for are log entry 5. -/
def Sys2Proof.Claims.TurnFrame : Prop :=
  ∀ (s : State) (gid : GroupId) (g : Group) (slot : Nat), s.group? gid = some g → slot < 2 →
    let t := s.turn gid g slot
    let go := (s.inClock g.core).isSome
    { t with cores := s.cores, groups := s.groups, cur := s.cur, fresh := s.fresh } = s
      ∧ t.cur = { gid := gid, slot := slot }
      ∧ t.fresh = (if go then s.fresh else s.fresh + 1)
      ∧ (∃ h, t.group? gid = some h ∧ { h with p0 := g.p0, p1 := g.p1 } = g
        ∧ h.path slot = (g.path slot).map (fun p => { p with deferral := none }))
      ∧ (∀ o h k p, (o, k) ≠ (gid, slot) → s.group? o = some h → h.core = g.core → k < 2 → h.path k = some p →
          ∃ h2 q, t.group? o = some h2 ∧ h2.path k = some q ∧ { q with deferral := p.deferral } = p
            ∧ q.deferral = (if go then p.deferral
                else p.deferral.bind (fun d => if d.2 ≤ 1 then none else some (d.1, d.2 - 1))))
      ∧ (∀ o h, s.group? o = some h → h.core = g.core → ∃ h2, t.group? o = some h2
          ∧ { h2 with p0 := h.p0, p1 := h.p1 } = h)
      ∧ t.core g.core = { s.core g.core with
          ptr := if go then (s.core g.core).ptr else ((s.core g.core).ptr + 1) % 32
          vec := if go then (s.core g.core).vec else 0
          scal := if go then (s.core g.core).scal else 0
          tried := (2 * g.gslot + slot) :: (if go then (s.core g.core).tried else [])
          cyc := if go then (s.core g.core).cyc
            else (s.core g.core).cyc + 1 + BitVec.ofNat 64 (Config.extraCycles s.fresh) }
      ∧ (∀ c, c ≠ g.core → t.core c = s.core c)
      ∧ ∀ o h, s.group? o = some h → h.core ≠ g.core → t.group? o = some h

/-- 08 R189, 13 R287: what the arbiter does with a tried word's outcome t, from the state s it was tried in. A word that
issued takes a vector port, or a scalar port where its results are uniform or affine, of the two of each a clock has,
and its group issues no other word in that clock; where that port is taken the word is left for a later clock. A word
that waited before issue leaves its slot waiting. Another opportunity (a trap, say) takes no port. That a result's shape
says which port a word takes is log entry 5. -/
def Sys2Proof.Claims.TurnSettles : Prop :=
  ∀ (s t : State) (gid : GroupId) (g h : Group) (slot : Nat), s.group? gid = some g → t.group? gid = some h → slot < 2 →
    let r := s.settleTurn gid slot t
    let scalar := h.onScalar s.serial
    let port := if scalar then (s.core g.core).scal else (s.core g.core).vec
    let ks := 2 * g.gslot :: (2 * g.gslot + 1) :: (s.core g.core).tried
    (g.hasIssued h = true → port < 2 →
      { r with groups := t.groups, cores := t.cores } = t
      ∧ r.core g.core = { t.core g.core with
          tried := 2 * g.gslot :: (2 * g.gslot + 1) :: (t.core g.core).tried
          vec := if scalar then (t.core g.core).vec else (t.core g.core).vec + 1
          scal := if scalar then (t.core g.core).scal + 1 else (t.core g.core).scal }
      ∧ (∀ c, c ≠ g.core → r.core c = t.core c)
      ∧ (∃ h2, r.group? gid = some h2 ∧ { h2 with p0 := h.p0, p1 := h.p1, lastSlot := h.lastSlot } = h ∧ h2.lastSlot = slot)
      ∧ (∀ o k, o ≠ gid → t.group? o = some k → ∃ k2, r.group? o = some k2 ∧ { k2 with p0 := k.p0, p1 := k.p1 } = k)
      ∧ (∀ o k, o ≠ gid → t.group? o = some k → k.core ≠ g.core → r.group? o = some k)
      ∧ ∀ o k i p, t.group? o = some k → k.core = g.core → i < 2 → k.path i = some p →
          ∃ k2 q, r.group? o = some k2 ∧ k2.path i = some q ∧ { q with deferral := p.deferral } = p
            ∧ q.deferral = p.deferral.bind (fun d =>
                if d.1.all (fun y => y == (gid, slot)) then none else some (d.1.filter (fun y => y != (gid, slot)), d.2)))
    ∧ (g.hasIssued h = true → ¬ port < 2 →
      { r with cores := s.cores } = s ∧ r.core g.core = { s.core g.core with tried := ks }
      ∧ ∀ c, c ≠ g.core → r.core c = s.core c)
    ∧ (g.hasIssued h = false → (h.path slot).map Path.pc = (g.path slot).map Path.pc → h.inHandler = g.inHandler →
      { r with groups := t.groups } = t
      ∧ (∃ h2, r.group? gid = some h2 ∧ { h2 with p0 := h.p0, p1 := h.p1 } = h
        ∧ h2.path slot = (h.path slot).map (fun p => { p with waiting := true })
        ∧ h2.path (1 - slot) = h.path (1 - slot))
      ∧ ∀ o k, o ≠ gid → t.group? o = some k → r.group? o = some k)
    ∧ (g.hasIssued h = false →
      ¬ ((h.path slot).map Path.pc = (g.path slot).map Path.pc ∧ h.inHandler = g.inHandler) →
      { r with groups := t.groups } = t
      ∧ ∀ o k, t.group? o = some k → ∃ k2, r.group? o = some k2 ∧ { k2 with p0 := k.p0, p1 := k.p1 } = k)

/-- Steps of the table that are no words come about from the agenda, each once and alone. -/
def Obligations.StepRunsEvent : Prop :=
  ∀ (s : State) (i : Instr) (ms : List Move), s.agenda = .ev i :: ms →
    step s = if isEvent i then exec i { s with agenda := ms } else .next { s with agenda := ms }

/-- Local memory, host memory and scratch keep their one form through every step. -/
def Obligations.StepKeepsMemoryForm : Prop :=
  ∀ s t : State, s.memoryOk = true → step s = .next t → t.memoryOk = true

/-- Tables keyed by number (registers, predicates, slots, counters, contexts, queues, clusters, banks, clasps) keep one
entry a key through every step, and cached sectors their 64 bytes. -/
def Obligations.StepKeepsTables : Prop :=
  ∀ s t : State, s.tidy = true → step s = .next t → t.tidy = true

/-- Both forms hold after reset. -/
def Obligations.ResetForms : Prop := State.reset.memoryOk = true ∧ State.reset.tidy = true

/-- No word changes what only the host, the endpoint, the fabric's requests and the boot controller change: the device
block but for what faults count, the translation commands, peers, islands, spares, mailbox, image, link and ATS state,
locket, floors and reduction slots. -/
def Obligations.WordsLeaveDevice : Prop :=
  ∀ (i : Instr) (s t : State), isEvent i = false → exec i s = .next t →
    { t with
      mem := s.mem, hostMem := s.hostMem, poison := s.poison, l2 := s.l2, l2bad := s.l2bad, l2lines := s.l2lines, clusters := s.clusters, cores := s.cores
      l2tlb := s.l2tlb, keys := s.keys, ctxs := s.ctxs, queues := s.queues, launches := s.launches, teams := s.teams
      groups := s.groups, colls := s.colls, migrations := s.migrations, remotes := s.remotes, fabOut := s.fabOut
      unacked := s.unacked, heldOut := s.heldOut, fresh := s.fresh, serial := s.serial } = s

/-! ### Registers and predicates -/

/-- 03 R44 to R47, R50, R41, 01 R27: thirty integer instructions write their value in the lanes of the effective mask. -/
def Obligations.IntegerResults : Prop :=
  ∀ (i : Instr) (f : IntForm) (s : State) (cx : Cx), intForm i = some f → wellFormed cx.env i = true →
    Ready s f.w (usesOf f.srcs [f.d]) cx →
    ∃ t gt, exec i s = .next t ∧ WroteReg s t cx f.w f.d
      (fun l => f.val (laneOf cx f.srcs 0 l) (laneOf cx f.srcs 1 l) (laneOf cx f.srcs 2 l)) gt

/-- 03 R42, R43: with a full mask the shape of an integer result follows from the shapes of the sources. -/
def Obligations.IntegerShapes : Prop :=
  ∀ (i : Instr) (f : IntForm) (s : State) (cx : Cx), intForm i = some f → wellFormed cx.env i = true →
    Ready s f.w (usesOf f.srcs [f.d]) cx → cx.eff = cx.g.full → 8 ≤ cx.g.width → cx.g.width ≤ 64 →
    ∃ t gt, exec i s = .next t ∧ t.group? cx.gid = some gt
      ∧ (f.srcs.all (fun x => shapeOf (cx.src x) == .uniform) = true → shapeOf (gt.val f.d.toNat) = .uniform)
      ∧ (f.srcs.all (fun x => shapeOf (cx.src x) == .uniform) = false → ∀ aff b st, affineRow i cx = some (aff, b, st) →
          if aff = true ∧ (isW i = false ∨ allS32 b st cx.g.width = true) then gt.val f.d.toNat = .affine b st
          else shapeOf (gt.val f.d.toNat) = .general)
      ∧ (f.srcs.all (fun x => shapeOf (cx.src x) == .uniform) = false → affineRow i cx = none →
          shapeOf (gt.val f.d.toNat) = .general)

/-- 01 R29: a word, of whatever kind, that names a register with a result in flight is held, run members included. Where
no park marker has covered the result, STRICT makes it trap with 0x14 and the register in INFO, and otherwise it waits
and counts once in HAZPARK. (Of several such registers INFO has the first in the order of the word's fields, log entry
15.) -/
def Obligations.HazardHolds : Prop :=
  ∀ (i : Instr) (w : Guard) (u : Uses) (m : Members) (s : State) (cx : Cx), s.cx? w u = some cx →
    namesOf cx i = some (w, u, m) → badSlot cx.g u.slots = none → s.tidy = true →
    let names := (u.reads ++ m.reads) ++ (u.writes ++ m.writes)
    (∃ r ∈ names, ∃ x ∈ cx.g.flight, r ∈ x.dests) →
    let bare := names.find? (fun r => cx.g.flight.any (fun x => x.dests.contains r && !x.covered))
    (∀ r, bare = some r → (s.ctx cx.ctx).strict = true →
      exec i s = s.raise cx.gid { code := 0x14, detail := 0, lane := 0xFFFF, prec := true, pc := cx.p.pc, rpc := cx.p.pc
                                  addr := 0, aseg := 0, mask := cx.eff, info := BitVec.ofNat 64 r, slot := cx.slot })
    ∧ (bare = none ∨ (s.ctx cx.ctx).strict = false →
      ∃ t gt, exec i s = .next t ∧ t.group? cx.gid = some gt ∧ { t with groups := s.groups } = s
        ∧ { gt with perf := cx.g.perf, p0 := cx.g.p0, p1 := cx.g.p1 } = cx.g
        ∧ gt.perfCount 0 = cx.g.perfCount 0 + (if bare.isSome ∧ cx.p.held = false then 1 else 0)
        ∧ (∃ p, gt.path cx.slot = some p ∧ { p with held := cx.p.held } = cx.p)
        ∧ gt.path (1 - cx.slot) = cx.g.path (1 - cx.slot) ∧ ∀ o, o ≠ cx.gid → t.group? o = s.group? o)

/-- 03 R48, R63, R67, 02 R35: icmp, pset and the predicate forms of vote. -/
def Obligations.PredicateResults : Prop :=
  ∀ (i : Instr) (f : PredForm) (s : State) (cx : Cx), predForm i = some f → wellFormed cx.env i = true →
    Ready s f.w f.u cx →
    ∃ t gt, exec i s = .next t ∧ WrotePred s t cx f.w f.p (f.val cx) gt

/-- 03 R62 to R64, R67 to R69: shfl, vote.mask, vote.count, pmov, shape and getx. -/
def Sys2Proof.Claims.CrossLaneResults : Prop :=
  ∀ (i : Instr) (f : RegForm) (s : State) (cx : Cx), crossForm i = some f → wellFormed cx.env i = true →
    Ready s f.w f.u cx →
    ∃ t gt, exec i s = .next t ∧ WroteReg s t cx f.w f.d (f.val s cx) gt

/-- 03 R65, R66: scan and redl with an integer operation combine the active lanes of each segment in lane order. -/
def Sys2Proof.Claims.ScanResults : Prop :=
  ∀ (i : Instr) (f : RegForm) (s : State) (cx : Cx), scanForm i = some f → wellFormed cx.env i = true →
    Ready s f.w f.u cx →
    ∃ t gt, exec i s = .next t ∧ WroteReg s t cx f.w f.d (f.val s cx) gt

/-- 03 R49, 04 R95, 05 R133, 07 R179 to R181: sel, fmtrd, rdcyc, ctlr, engst, clrd, perf. -/
def Sys2Proof.Claims.ReadResults : Prop :=
  ∀ (i : Instr) (f : RegForm) (s : State) (cx : Cx), readForm i = some f → wellFormed cx.env i = true →
    Ready s f.w f.u cx →
    ∃ t gt, exec i s = .next t ∧ WroteReg s t cx f.w f.d (f.val s cx) gt

/-- 03 R68, 08 R192, R193: matz leaves every lane's value and makes the shape general. -/
def Sys2Proof.Claims.MatzResult : Prop :=
  ∀ (g : Guard) (d : RegIx) (s : State) (cx : Cx), wellFormed cx.env (.matz g d) = true →
    Ready s g (usesOf [] [d]) cx →
    ∃ t gt, exec (.matz g d) s = .next t ∧ Next s t cx g gt ∧ cx.g.keeps gt [d.toNat] ∧ cx.g.onlyRegs gt
      ∧ (cx.eff ≠ 0 → shapeOf (gt.val d.toNat) = .general) ∧ (cx.eff = 0 → gt.val d.toNat = cx.g.val d.toNat)
      ∧ (∀ l, l < cx.g.width → (gt.val d.toNat).lane l = (cx.g.val d.toNat).lane l)
      ∧ s.sameMemory t cx ∧ s.onlyGroups t

/-- 07 R181: perf.clr reads a counter and sets it to 0; the counters of instructions, spills and materialisations may
count the word itself after that. -/
def Sys2Proof.Claims.PerfClears : Prop :=
  ∀ (g : Guard) (d : RegIx) (sel : BitVec 16) (s : State) (cx : Cx), wellFormed cx.env (.perf g true d sel) = true →
    Ready s g (usesOf [] [d]) cx → cx.eff ≠ 0 →
    ∃ t gt, exec (.perf g true d sel) s = .next t ∧ Next s t cx g gt ∧ cx.g.keeps gt [d.toNat] ∧ cx.g.onlyRegs gt
      ∧ cx.g.wrote gt cx.eff d.toNat (fun _ =>
          if sel.toNat < 256 then ((cx.g.refill [d.toNat]).perfCount sel.toNat).setWidth 64
          else (Sparse.get 0 (s.core cx.g.core).perf sel.toNat).setWidth 64)
      ∧ (sel.toNat < 256 → sel.toNat ∉ [2, 3, 7] → gt.perfCount sel.toNat = 0)
      ∧ (256 ≤ sel.toNat → t.core cx.g.core
          = { s.core cx.g.core with perf := Sparse.put 0 (s.core cx.g.core).perf sel.toNat 0 })
      ∧ s.sameMemory t cx ∧ s.onlyGroups { t with cores := s.cores }

/-! ### Floating point -/

/-- 04 R79 to R81, R84 to R86, R89, R90, R92, R93: fourteen element-wise instructions, fcvt, i2f, and fdot and fsum along
the tree of R92. -/
def Sys2Proof.Claims.FloatResults : Prop :=
  ∀ (i : Instr) (f : FloatForm) (s : State) (cx : Cx), floatForm i = some f → wellFormed cx.env i = true →
    Ready s f.w ((usesOf f.srcs [f.d]).withSlots f.slots) cx →
    let sto := decide ((cx.fmt f.dest).rnd = 5)
    let one := once cx f.srcs sto
    ∃ t gt, exec i s = .next t ∧ WroteFloat s t cx f.w f.d (fun l => (f.lane cx (if one then 0 else l)).val)
      (eventsOf cx one (f.lane cx)) sto gt

/-- 04 R88: fclass counts nothing and rounds nothing. -/
def Sys2Proof.Claims.ClassResult : Prop :=
  ∀ (g : Guard) (fs : BitVec 4) (d : RegIx) (a b : Src) (s : State) (cx : Cx),
    wellFormed cx.env (.fclass g fs d a b) = true → Ready s g ((usesOf [a, b] [d]).withSlots [(fs, 1)]) cx →
    ∃ t gt, exec (.fclass g fs d a b) s = .next t ∧ WroteReg s t cx g d (classWord cx fs a b) gt

/-- 04 R91: f2i rounds to the grid of integers, saturates, and counts; under stochastic rounding DRAW advances (R80; log
entry 16). -/
def Sys2Proof.Claims.ToIntegerResult : Prop :=
  ∀ (g : Guard) (fs : BitVec 4) (w u : Bool) (d : RegIx) (a : Src) (s : State) (cx : Cx),
    wellFormed cx.env (.f2i g fs w u d a) = true → Ready s g ((usesOf [a] [d]).withSlots [(fs, 1)]) cx →
    let f := cx.fmt fs
    let one := once cx [a] (decide (f.rnd = 5))
    let at_ (l : Nat) : Tallied Word :=
      (f.decode (((cx.src a).lane l).toNat % 2 ^ f.w)).bind (fun x =>
        let lo : Int := if u then 0 else -(2 ^ (wid w - 1))
        let hi : Int := if u then 2 ^ wid w - 1 else 2 ^ (wid w - 1) - 1
        match x with
        | .nan => { val := 0, cnt := { Counts.zero with nanl := 1 } }
        | .inf neg => { val := fit w u (if neg then lo else hi), cnt := { Counts.zero with sat := 1 } }
        | .zero _ => .pure 0
        | x =>
          let r := roundToGrid f (cx.key fs l 0) x 1
          if r < lo ∨ hi < r then { val := fit w u (if r < lo then lo else hi), cnt := { Counts.zero with sat := 1 } }
          else .pure (fit w u r))
    ∃ t gt, exec (.f2i g fs w u d a) s = .next t ∧ WroteFloat s t cx g d (fun l => (at_ (if one then 0 else l)).val)
      (eventsOf cx one at_) (decide (f.rnd = 5)) gt

/-- 04 R87: fcmp holds in a lane where it holds for every sub-element; a NaN makes every comparison but ne and un
false. -/
def Obligations.FloatCompare : Prop :=
  ∀ (g : Guard) (cc : FCond) (fs : BitVec 4) (d : PredIx) (a b : Src) (s : State) (cx : Cx),
    wellFormed cx.env (.fcmp g cc fs d a b) = true → Ready s g ((usesOf [a, b] []).withSlots [(fs, 1)]) cx →
    let f := cx.fmt fs
    let pairs (l : Nat) : List (Tallied Machine.Num × Tallied Machine.Num) := (List.range f.k).map (fun j =>
      (f.decode (subElem ((cx.src a).lane l) f.w j), f.decode (subElem ((cx.src b).lane l) f.w j)))
    ∃ t gt, exec (.fcmp g cc fs d a b) s = .next t ∧ Next s t cx g gt ∧ cx.g.keeps gt []
      ∧ cx.g.setTo gt cx.eff d (fun l => (pairs l).all (fun x =>
          let un := x.1.val == .nan || x.2.val == .nan
          let lt := Machine.Num.lt false x.1.val x.2.val
          let gtr := Machine.Num.lt false x.2.val x.1.val
          match cc with
          | .eq => !un && !lt && !gtr
          | .ne => un || lt || gtr
          | .lt => !un && lt
          | .le => !un && !gtr
          | .gt => !un && gtr
          | .ge => !un && !lt
          | .un => un))
      ∧ gt.counts = cx.g.counts.add (Counts.sum ((lanes cx.eff).map (fun l =>
          Counts.sum ((pairs l).map (fun x => x.1.cnt.add x.2.cnt)))))
      ∧ cx.g.onlyPreds { gt with counts := cx.g.counts } ∧ s.sameMemory t cx ∧ s.onlyGroups t

/-- 03 R65, R66, 04 R80: scan and redl with a floating operation combine along the ranges of R66, the noise of a node
drawn for its lowest present lane; each distinct node counts once, and DRAW advances under a stochastic slot. What an
exclusive fadd scan puts in the first active lane under the format without a zero is the model's choice (log entry
81). -/
def Sys2Proof.Claims.FloatScan : Prop :=
  ∀ (g : Guard) (sp : BitVec 3) (op : ScanOp) (fs : BitVec 4) (excl isScan : Bool) (d : RegIx) (a : Src) (s : State)
    (cx : Cx) (i : Instr), i = (if isScan then .scan g sp op fs excl d a else .redl g sp op fs d a) →
    isFloatOp op = true → wellFormed cx.env i = true → Ready s g ((usesOf [a] [d]).withSlots [(fs, 1)]) cx →
    let n := 2 ^ (sp.toNat + 1)
    let f := cx.fmt fs
    let leaf (l : Nat) : Option Word := if laneIn cx.eff l then some ((cx.src a).lane l) else none
    let comb (l : Nat) : Word → Word → Tallied Word := combineNum f f.k op (cx.key fs l)
    let len (l : Nat) : Nat := if isScan then (if excl then l % n else l % n + 1) else n
    let val (l : Nat) : Word := match rangeVal leaf comb 16 (l - l % n) (len l) with
      | some v => v.2
      | none => scanFirstFloat op f
    let nodes := (((List.range 64).filter (laneIn cx.eff)).flatMap (fun l => rangeNodes 16 (l - l % n) (len l))).dedup
    ∃ t gt, exec i s = .next t ∧ WroteFloat s t cx g d val (Counts.sum (nodes.map (fun x => nodeEvents leaf comb x.1 x.2)))
      (decide (f.rnd = 5)) gt

/-- 04 R94, R96: fmtdef defines a slot where every lane that has not exited executes it with one valid definition;
fseed sets SOFF and clears DRAW likewise. -/
def Sys2Proof.Claims.SlotWords : Prop :=
  ∀ (g : Guard) (fs : BitVec 4) (a : Src) (seed : Bool) (s : State) (cx : Cx) (i : Instr) (v : Word),
    i = (if seed then .fseed g fs a else .fmtdef g fs a) → wellFormed cx.env i = true →
    Ready s g ((usesOf [a] []).withSlots (if seed then [(fs, 1)] else [])) cx →
    cx.eff = cx.g.live → (∀ l, laneIn cx.eff l = true → (cx.src a).lane l = v) → cx.eff ≠ 0 →
    (seed = false → Fmt.invalid v = none) →
    ∃ t gt, exec i s = .next t ∧ Next s t cx g gt ∧ cx.g.keeps gt []
      ∧ (seed = false → gt.slotDef fs.toNat = v ∧ (∀ n, n ≠ fs.toNat → gt.slotDef n = cx.g.slotDef n)
          ∧ cx.g.onlyRegs { gt with slots := cx.g.slots })
      ∧ (seed = true → gt.soffOf fs.toNat = v.extractLsb' 0 32 ∧ (∀ n, n ≠ fs.toNat → gt.soffOf n = cx.g.soffOf n)
          ∧ (∀ l, gt.drawOf l = 0) ∧ cx.g.onlyRegs { gt with soff := cx.g.soff, draw := cx.g.draw })
      ∧ s.sameMemory t cx ∧ s.onlyGroups t

/-- 04 R94, R96: where lanes differ, or some that have not exited do not execute it, fmtdef and fseed trap with 0x04. An
invalid definition traps with 0x03, the least reason of 04 R71 in DETAIL and the definition in INFO. With an empty mask
fmtdef and fseed trap too, since lanes that have not exited do not execute them, although 01 R27 lets a word with an
empty mask do nothing: the model's choice (log entry 21). -/
def Sys2Proof.Claims.SlotWordTraps : Prop :=
  (∀ (g : Guard) (fs : BitVec 4) (a : Src) (s : State) (cx : Cx) (seed : Bool) (i : Instr) (u : Uses),
    (i, u) = (if seed then (.fseed g fs a, (usesOf [a] []).withSlots [(fs, 1)]) else (.fmtdef g fs a, usesOf [a] [])) →
    wellFormed cx.env i = true → Ready s g u cx →
    (cx.eff ≠ cx.g.live
      ∨ (∃ l m, laneIn cx.eff l = true ∧ laneIn cx.eff m = true ∧ (cx.src a).lane l ≠ (cx.src a).lane m) →
      exec i s = (s.fetched cx u).raise cx.gid (cx.precise 0x04 0 0))
    ∧ (cx.eff = 0 → cx.g.live ≠ 0 → exec i s = (s.fetched cx u).raise cx.gid (cx.precise 0x04 0 0)))
  ∧ ∀ (g : Guard) (fs : BitVec 4) (a : Src) (s : State) (cx : Cx), wellFormed cx.env (.fmtdef g fs a) = true →
    Ready s g (usesOf [a] []) cx →
    let s0 := s.fetched cx (usesOf [a] [])
    let ti (code : BitVec 8) (detail : BitVec 16) (info : Word) : TrapInfo :=
      { code := code, detail := detail, lane := 0xFFFF, prec := true, pc := cx.p.pc, rpc := cx.p.pc, addr := 0, aseg := 0
        mask := cx.eff, info := info, slot := cx.slot }
    ∀ v r, cx.eff = cx.g.live → (cx.src a).equalIn cx.eff = true → (cx.src a).firstIn cx.eff = v →
      Fmt.invalid v = some r → exec (.fmtdef g fs a) s = s0.raise cx.gid (ti 0x03 (r.setWidth 16) v)

/-- 04 R81, R97: fstat reads the four counters and under `.clr` sets them to 0. -/
def Sys2Proof.Claims.EventWord : Prop :=
  ∀ (g : Guard) (clr : Bool) (d : RegIx) (s : State) (cx : Cx), wellFormed cx.env (.fstat g clr d) = true →
    Ready s g (usesOf [] [d]) cx → cx.eff ≠ 0 →
    let c := cx.g.counts
    ∃ t gt, exec (.fstat g clr d) s = .next t ∧ Next s t cx g gt ∧ cx.g.keeps gt [d.toNat]
      ∧ cx.g.wrote gt cx.eff d.toNat (fun _ => BitVec.ofNat 64
          (c.inv.toNat * 2 ^ 48 + c.nanl.toNat * 2 ^ 32 + c.flush.toNat * 2 ^ 16 + c.sat.toNat))
      ∧ gt.counts = (if clr then Counts.zero else c) ∧ cx.g.onlyRegs { gt with counts := cx.g.counts }
      ∧ s.sameMemory t cx ∧ s.onlyGroups t

/-! ### Control -/

/-- 03 R51, R60, R61: nop only goes on, prog of a persistent launch starts its queue's watchdog anew (13 R292), and
yield defers the path until each path slot that is eligible beside it has had its opportunity, or for 64 issue clocks. -/
def Sys2Proof.Claims.StraightWords : Prop :=
  (∀ (g : Guard) (s : State) (cx : Cx), wellFormed cx.env (.nop g) = true → Ready s g Uses.none cx →
    ∃ t gt, exec (.nop g) s = .next t ∧ Moved s t cx g (cx.p.pc + 16) gt)
  ∧ (∀ (g : Guard) (s : State) (cx : Cx), wellFormed cx.env (.yield g) = true → Ready s g Uses.none cx →
    ∃ t gt, exec (.yield g) s = .next t ∧ Moved s t cx g (cx.p.pc + 16) gt
      ∧ (let others := ((s.fetched cx Uses.none).eligibleOn cx.g.core).filter (fun x => x != (cx.gid, cx.slot))
         ∃ p, gt.path cx.slot = some p ∧ p.deferral = if others = [] then none else some (others, 64)))
  ∧ (∀ (g : Guard) (s : State) (cx : Cx) (l : Launch), wellFormed cx.env (.prog g) = true → Ready s g Uses.none cx →
    s.launch? cx.gid.launch = some l →
    ∃ t gt, exec (.prog g) s = .next t ∧ Moved s { t with queues := s.queues } cx g (cx.p.pc + 16) gt
      ∧ (∀ q, q ≠ l.queue → t.queue q = s.queue q)
      ∧ (cx.l.pers = false → t.queues = s.queues)
      ∧ (cx.l.pers = true → (s.queue l.queue).stage ≠ 2 →
          t.queue l.queue = { s.queue l.queue with w := 0, stage := 0 }))

/-- 03 R55: a branch is taken where its lanes are all of the path's, falls through where there are none, and traps with
0x04 otherwise: bra by its guard, brc by a source that is not 0. The target is pc + 16 · OFF (01 R23). -/
def Obligations.UniformBranches : Prop :=
  ∀ (g : Guard) (src : Option Src) (off : BitVec 32) (s : State) (cx : Cx) (i : Instr) (u : Uses) (taken : Word),
    (i, u, taken) = (match src with
      | some a => (.brc g a off, usesOf [a] [], maskOf ((lanes cx.p.mask).filter (fun l => (cx.src a).lane l != 0)))
      | none => (.bra g off, Uses.none, cx.eff)) →
    wellFormed cx.env i = true → Ready s g u cx →
    (taken = cx.p.mask → ∃ t gt, exec i s = .next t ∧ Moved s t cx g (cx.p.pc + 16 * off.signExtend 64) gt)
    ∧ (taken ≠ cx.p.mask → taken = 0 → ∃ t gt, exec i s = .next t ∧ Moved s t cx g (cx.p.pc + 16) gt)
    ∧ (taken ≠ cx.p.mask → taken ≠ 0 → exec i s = (s.fetched cx u).raise cx.gid (cx.precise 0x04 0 0))

/-- 03 R52, R56: brd whose lanes are some of the path's splits it: the slot goes on at the next word with the lanes not
taken, the lanes taken go to the other slot if that is empty, else wait as a PATH entry above the new RECONVERGE entry;
past `.divdepth` it traps with 0x0E. A slot that a word with K has emptied is still parked for its new path (01 R28). -/
def Sys2Proof.Claims.DivergentBranch : Prop :=
  ∀ (g : Guard) (off roff : BitVec 32) (s : State) (cx : Cx), wellFormed cx.env (.brd g off roff) = true →
    Ready s g Uses.none cx →
    let target := cx.p.pc + 16 * off.signExtend 64
    let e := cx.g.nextId
    let entry : Entry := .reconv e (cx.p.pc + 16 * roff.signExtend 64) cx.p.mask 0 cx.p.jx
    let free := (cx.g.path (1 - cx.slot)).isNone
    (cx.eff = cx.p.mask → ∃ t gt, exec (.brd g off roff) s = .next t ∧ Moved s t cx g target gt)
    ∧ (cx.eff ≠ cx.p.mask → cx.eff = 0 → ∃ t gt, exec (.brd g off roff) s = .next t ∧ Moved s t cx g (cx.p.pc + 16) gt)
    ∧ (cx.eff ≠ cx.p.mask → cx.eff ≠ 0 → cx.g.depth + (if free then 1 else 2) ≤ cx.g.divdepth →
      ∃ t gt, exec (.brd g off roff) s = .next t ∧ t.group? cx.gid = some gt
        ∧ (∃ p, gt.path cx.slot = some p ∧ p.pc = cx.p.pc + 16 ∧ p.mask = cx.p.mask &&& ~~~cx.eff ∧ p.jx = some e)
        ∧ (free = true → gt.path (1 - cx.slot)
              = some { Path.start target cx.eff (some e) with park := cx.g.left.contains (1 - cx.slot) }
            ∧ gt.left = cx.g.left.filter (fun k => k != 1 - cx.slot) ∧ gt.stack = cx.g.stack ++ [entry])
        ∧ (free = false → gt.left = cx.g.left ∧ gt.path (1 - cx.slot) = (cx.g.path (1 - cx.slot)).map (fun p => { p with retained := none })
            ∧ gt.stack = cx.g.stack ++ [entry, .path target cx.eff (some e)])
        ∧ cx.g.keeps gt [] ∧ cx.g.onlyRegs { gt with stack := cx.g.stack, nextId := cx.g.nextId, left := cx.g.left }
        ∧ s.sameMemory t cx ∧ s.onlyGroups t ∧ othersStay s t cx.gid)
    ∧ (cx.eff ≠ cx.p.mask → cx.eff ≠ 0 → cx.g.divdepth < cx.g.depth + (if free then 1 else 2) →
      exec (.brd g off roff) s = (s.fetched cx Uses.none).raise cx.gid (cx.precise 0x0E 0 0))

/-- 03 R52: join is where paths meet. A path whose entry names another address goes on; the last to arrive goes on with
the lanes of all; any other is parked in its entry and the slot takes the PATH entry pushed last; where there is none,
the slot is empty, and parked if the word has K (01 R28). -/
def Sys2Proof.Claims.JoinMeets : Prop :=
  ∀ (g : Guard) (s : State) (cx : Cx), wellFormed cx.env (.join g) = true → Ready s g Uses.none cx →
    (cx.p.jx = none → ∃ t gt, exec (.join g) s = .next t ∧ Moved s t cx g (cx.p.pc + 16) gt)
    ∧ ∀ n rpc expect arrived par, cx.p.jx = some n →
      cx.g.stack.find? (Entry.hasId n) = some (.reconv n rpc expect arrived par) →
      (rpc ≠ cx.p.pc → ∃ t gt, exec (.join g) s = .next t ∧ Moved s t cx g (cx.p.pc + 16) gt)
      ∧ (rpc = cx.p.pc → arrived ||| cx.p.mask = expect → ∃ t gt, exec (.join g) s = .next t
          ∧ t.group? cx.gid = some gt
          ∧ (∃ p, gt.path cx.slot = some p ∧ p.pc = cx.p.pc + 16 ∧ p.mask = expect ∧ p.jx = par)
          ∧ gt.path (1 - cx.slot) = (cx.g.path (1 - cx.slot)).map (fun p => { p with retained := none })
          ∧ gt.stack = cx.g.stack.filter (fun e => !Entry.hasId n e)
          ∧ cx.g.keeps gt [] ∧ cx.g.onlyRegs { gt with stack := cx.g.stack } ∧ s.sameMemory t cx ∧ s.onlyGroups t
          ∧ othersStay s t cx.gid)
      ∧ (rpc = cx.p.pc → arrived ||| cx.p.mask ≠ expect → ∃ t gt, exec (.join g) s = .next t
          ∧ t.group? cx.gid = some gt
          ∧ gt.path (1 - cx.slot) = (cx.g.path (1 - cx.slot)).map (fun p => { p with retained := none })
          ∧ (let st := cx.g.stack.map (fun e =>
                if Entry.hasId n e then Entry.reconv n rpc expect (arrived ||| cx.p.mask) par else e)
             match popPath st with
             | none => gt.path cx.slot = none ∧ gt.stack = st
                ∧ gt.left = (if g.k then cx.slot :: cx.g.left else cx.g.left)
             | some (q, rest) => gt.stack = rest ∧ gt.left = cx.g.left.filter (fun k => k != cx.slot)
                ∧ ∃ p, gt.path cx.slot = some p ∧ p.pc = q.pc ∧ p.mask = q.mask ∧ p.jx = q.jx)
          ∧ cx.g.keeps gt [] ∧ cx.g.onlyRegs { gt with stack := cx.g.stack, left := cx.g.left }
          ∧ s.sameMemory t cx ∧ s.onlyGroups t ∧ othersStay s t cx.gid)

/-- 03 R58: call writes the address of the next word in D under the path's mask and goes to pc + 16 · OFF; ret goes to
the address every lane of the path holds, traps with 0x04 where they differ and with 0x0B where it is not aligned. -/
def Sys2Proof.Claims.CallReturn : Prop :=
  (∀ (g : Guard) (d : RegIx) (off : BitVec 32) (s : State) (cx : Cx), wellFormed cx.env (.call g d off) = true →
    Ready s g (usesOf [] [d]) cx →
    ∃ t gt, exec (.call g d off) s = .next t ∧ Went s t cx g (cx.p.pc + 16 * off.signExtend 64) gt
      ∧ cx.g.wrote gt cx.p.mask d.toNat (fun _ => cx.p.pc + 16) ∧ cx.g.keeps gt [d.toNat] ∧ cx.g.onlyRegs gt
      ∧ s.sameMemory t cx ∧ s.onlyGroups t)
  ∧ ∀ (g : Guard) (a : Src) (s : State) (cx : Cx), wellFormed cx.env (.ret g a) = true → Ready s g (usesOf [a] []) cx →
    (∀ x, cx.p.mask ≠ 0 → (∀ l, laneIn cx.p.mask l = true → (cx.src a).lane l = x) → x.toNat % 16 = 0 →
      ∃ t gt, exec (.ret g a) s = .next t ∧ Moved s t cx g x gt)
    ∧ (∀ x, cx.p.mask ≠ 0 → (∀ l, laneIn cx.p.mask l = true → (cx.src a).lane l = x) → x.toNat % 16 ≠ 0 →
      exec (.ret g a) s = (s.fetched cx (usesOf [a] [])).raise cx.gid
        { cx.precise 0x0B 0 0 with addr := x, aseg := cx.l.kseg })
    ∧ ((∃ l m, laneIn cx.p.mask l = true ∧ laneIn cx.p.mask m = true ∧ (cx.src a).lane l ≠ (cx.src a).lane m) →
      exec (.ret g a) s = (s.fetched cx (usesOf [a] [])).raise cx.gid (cx.precise 0x04 0 0))

/-- 01 R17, 03 R57, R58: brx and call.tbl of one index go to the target of the table's entry, call.tbl with the next
address in D. brx of several indices splits the path: the lanes of the first index stay in the slot, those of the
second take the other slot if that is empty, and the rest wait as PATH entries, the last pushed first, above the new
RECONVERGE entry, whose address is 16 · JOFF past the header; past `.divdepth` it traps with 0x0E. call.tbl whose lanes
hold differing indices traps with 0x04. An index past the table or a header of another form traps with 0x0F. `s1` is the machine after the header's fetch and `s2` after the entries'. -/
def Sys2Proof.Claims.TableBranches : Prop :=
  ∀ (g : Guard) (link : Option RegIx) (a : Src) (off : BitVec 32) (s s1 : State) (cx : Cx) (i : Instr) (u : Uses)
    (bs : List Byte),
    (i, u) = (match link with
      | some d => (.callTbl g d a off, usesOf [a] [d])
      | none => (.brx g a off, usesOf [a] [])) →
    wellFormed cx.env i = true → Ready s g u cx →
    let base := cx.p.pc + 16 * off.signExtend 64
    let cx0 := cx.fetched u
    let count := (ofBytes bs) / 2 ^ 32 % 2 ^ 32
    (link.isSome = true → (∃ l m, laneIn cx.p.mask l = true ∧ laneIn cx.p.mask m = true
        ∧ ((cx.src a).lane l).toNat % 2 ^ 32 ≠ ((cx.src a).lane m).toNat % 2 ^ 32) →
      exec i s = (s.fetched cx u).raise cx.gid (cx.precise 0x04 0 0))
    ∧ ((s.fetched cx u).fetch16 cx0 base false = .ok bs s1 →
    (∀ n e s2, tableIndices cx a = [n] → headerOk (BitVec.ofNat 128 (ofBytes bs)) = true → n < count →
      readEntries cx0 base [n] s1 [] (.inl s1) = ([e], .inl s2) →
      ∃ t gt, exec i s = .next t ∧ Went s t cx g e.2 gt
        ∧ cx.g.keeps gt (match link with
            | some d => [d.toNat]
            | none => [])
        ∧ (∀ d, link = some d → cx.g.wrote gt cx.p.mask d.toNat (fun _ => cx.p.pc + 16))
        ∧ cx.g.onlyRegs gt ∧ s2.sameMemory t cx ∧ s2.onlyGroups t)
    ∧ (∀ es s2, link = none → 2 ≤ es.length → headerOk (BitVec.ofNat 128 (ofBytes bs)) = true →
      (∀ n ∈ tableIndices cx a, n < count) → readEntries cx0 base (tableIndices cx a) s1 [] (.inl s1) = (es, .inl s2) →
      let holds (n : Nat) : Word :=
        maskOf ((List.range 64).filter (fun l => laneIn cx.p.mask l && ((cx.src a).lane l).toNat % 2 ^ 32 == n))
      let free := (cx.g.path (1 - cx.slot)).isNone
      let waits := es.drop (if free then 2 else 1)
      let e := cx.g.nextId
      let x (n : Nat) : Nat × Word := es.getD n (0, 0)
      (cx.g.depth + 1 + waits.length ≤ cx.g.divdepth →
        ∃ t gt p, exec i s = .next t ∧ t.group? cx.gid = some gt ∧ gt.path cx.slot = some p
          ∧ p.pc = (x 0).2 ∧ p.mask = holds (x 0).1 ∧ p.jx = some e
          ∧ (free = true → gt.path (1 - cx.slot)
                = some { Path.start (x 1).2 (holds (x 1).1) (some e) with park := cx.g.left.contains (1 - cx.slot) }
              ∧ gt.left = cx.g.left.filter (fun k => k != 1 - cx.slot))
          ∧ (free = false → gt.left = cx.g.left
              ∧ gt.path (1 - cx.slot) = (cx.g.path (1 - cx.slot)).map (fun p => { p with retained := none }))
          ∧ gt.stack = cx.g.stack
              ++ .reconv e (base + 16 * BitVec.signExtend 64 (BitVec.ofNat 32 (ofBytes bs / 2 ^ 64))) cx.p.mask 0 cx.p.jx
              :: waits.reverse.map (fun y => .path y.2 (holds y.1) (some e))
          ∧ cx.g.keeps gt [] ∧ cx.g.onlyRegs { gt with stack := cx.g.stack, nextId := cx.g.nextId, left := cx.g.left }
          ∧ s2.sameMemory t cx ∧ s2.onlyGroups t ∧ othersStay s2 t cx.gid)
      ∧ (cx.g.divdepth < cx.g.depth + 1 + waits.length → exec i s = s2.raise cx.gid (cx.precise 0x0E 0 0)))
    ∧ (link = none ∨ (∃ n, tableIndices cx a = [n]) →
      headerOk (BitVec.ofNat 128 (ofBytes bs)) = false ∨ (∃ n ∈ tableIndices cx a, count ≤ n) →
      exec i s = s1.raise cx.gid { cx.precise 0x0F 0 0 with addr := base, aseg := cx.l.kseg }))

/-- 03 R53: exit takes the lanes of the mask out of the group: no path and no entry holds one of them after it; a slot
that empties takes the PATH entry pushed last, and the word's own slot, where it stays empty, is parked if the word has K
(01 R28). -/
def Sys2Proof.Claims.ExitLeaves : Prop :=
  ∀ (g : Guard) (s : State) (cx : Cx), wellFormed cx.env (.exit g) = true → Ready s g Uses.none cx → cx.eff ≠ 0 →
    let on := (cx.g.setPath cx.slot (some { cx.p with pc := cx.p.pc + 16 })).leave cx.slot cx.eff
    ∃ t gt, exec (.exit g) s = .next t ∧ t.group? cx.gid = some gt
      ∧ gt.exited = cx.g.exited ||| cx.eff
      ∧ (∀ n p, gt.path n = some p → p.mask &&& cx.eff = 0)
      ∧ (∀ pc m jx, Entry.path pc m jx ∈ gt.stack → m &&& cx.eff = 0)
      ∧ (∀ n rpc e arr par, Entry.reconv n rpc e arr par ∈ gt.stack → e &&& cx.eff = 0)
      ∧ (∀ n, (gt.path n).map (fun p => (p.pc, p.mask, p.jx)) = (on.path n).map (fun p => (p.pc, p.mask, p.jx)))
      ∧ gt.stack = on.stack ∧ gt.left = (if g.k ∧ on.path cx.slot = none then cx.slot :: on.left else on.left)
      ∧ cx.g.keeps gt []
      ∧ cx.g.onlyRegs { gt with exited := cx.g.exited, stack := cx.g.stack, left := cx.g.left }
      ∧ s.sameMemory t cx ∧ s.onlyGroups t ∧ othersStay s t cx.gid

/-- 02 R36, R37, 03 R59, 07 R182 to R184: trap raises 0x11 with its code in INFO and the next word in RPC; a word that
fails its checks raises 0x01, whose MASK is the path's by the model's choice (log entry 15). The group enters its handler,
waits for its results in flight, or halts. -/
def Sys2Proof.Claims.TrapWords : Prop :=
  (∀ (g : Guard) (code : BitVec 32) (s : State) (cx : Cx), wellFormed cx.env (.trap g code) = true →
    Ready s g Uses.none cx → FrameFits s cx → cx.eff ≠ 0 →
    ∃ t t0 gt, Moved s t0 cx g (cx.p.pc + 16) gt ∧ exec (.trap g code) s = .next t
      ∧ t0.raise cx.gid { cx.precise 0x11 0 (code.setWidth 64) with rpc := cx.p.pc + 16 } = .next t)
  ∧ (∀ (g : Guard) (code : BitVec 32) (s : State) (cx : Cx), wellFormed cx.env (.trap g code) = true →
    Ready s g Uses.none cx → cx.eff = 0 →
    ∃ t gt, exec (.trap g code) s = .next t ∧ Moved s t cx g (cx.p.pc + 16) gt)
  ∧ (∀ (d : BitVec 8) (s : State) (cx : Cx), s.cx? Guard.every Uses.none = some cx → FrameFits s cx →
    ∃ t, exec (.illegalWord d) s = .next t ∧ s.raise cx.gid (cx.precise 0x01 (d.setWidth 16) 0) = .next t)

/-- 07 R182, R184, R185: a precise trap of a group with no short-latency result out writes the frame and starts the
handler at TRAPVEC with the lanes that have not exited, registers unwritten, p0 to p6 false and the format state as it
was; without TRAPVEC, or inside a handler, the group halts; with results out the trap waits. That the cluster's L1 is
written back and dropped around the frame is the model's choice (log entry 14), although 12 R271 lets the handler do
without a cache action. -/
def Sys2Proof.Claims.TrapEntry : Prop :=
  ∀ (s : State) (gid : GroupId) (g : Group) (ti : TrapInfo), s.group? gid = some g → s.memoryOk = true →
    let c := s.ctx (s.ctxOf gid.launch)
    let a := frameAddr c gid
    let n := (frameBytes g ti).length
    (∀ x y, a ≤ x → x < a + n → a ≤ y → y < a + n → s.redirect x = s.redirect y → x = y) →
    (g.settled = false → s.raise gid ti = .next (s.setGroup gid { g with trap := some ti }))
    ∧ (g.settled = true → s.areaOk a n = true → ∃ t h, s.raise gid ti = .next t ∧ t.group? gid = some h
      ∧ (c.trapvec ≠ 0 → g.inHandler = false →
          t.homeRead a n = frameBytes g ti
          ∧ (∀ x, (∀ y, a ≤ y → y < a + n → s.redirect y ≠ x) →
              Memory.read t.mem x = Memory.read (s.dropCluster g.core.clus).mem x)
          ∧ h.inHandler = true ∧ h.tframe = BitVec.ofNat 64 a ∧ h.p0 = some { Path.start (c.trapvec.setWidth 64 * 16) g.live none with acquiring := g.acquiring }
          ∧ h.p1 = none ∧ h.stack = [] ∧ (∀ r, h.val r = .unwritten) ∧ (∀ p, p ≠ 7 → h.pred p = 0)
          ∧ h.slots = g.slots ∧ h.soff = g.soff ∧ h.draw = g.draw ∧ h.counts = g.counts ∧ h.perf = g.perf
          ∧ h.exited = g.exited ∧ h.acs = g.acs ∧ h.phase = g.phase ∧ h.preTrap = g.flight ∧ h.flight = [])
      ∧ (c.trapvec = 0 ∨ g.inHandler = true → h.phase = .halted))

/-- 07 R182: the fields of the frame's header. -/
def Sys2Proof.Claims.FrameFields : Prop :=
  ∀ (g : Group) (ti : TrapInfo), let f := frameBytes g ti
    let at_ (o n : Nat) : Nat := ofBytes ((f.drop o).take n)
    at_ 0 1 = ti.code.toNat ∧ at_ 1 1 = (if ti.prec then 1 else 0) ∧ at_ 2 2 = ti.lane.toNat ∧ at_ 4 2 = ti.detail.toNat
      ∧ at_ 8 8 = ti.pc.toNat ∧ at_ 16 8 = ti.rpc.toNat ∧ at_ 24 8 = ti.addr.toNat ∧ at_ 32 8 = ti.aseg.toNat
      ∧ at_ 40 8 = ti.mask.toNat ∧ at_ 48 8 = ti.info.toNat ∧ 128 ≤ f.length ∧ f.length % 64 = 0

/-- 03 R59, 07 R185, 08 R209: rte outside a handler traps with 0x09, detail 4; inside one it waits for the handler's
results, halts the group with 0x15 where the frame is not as the device wrote it, and else resumes what the frame holds.
That the cluster is written back before the frame is read, and that a poisoned frame halts too, is the model's choice (log
entries 14, 72). -/
def Sys2Proof.Claims.ReturnFromTrap : Prop :=
  ∀ (g : Guard) (s : State) (cx : Cx), wellFormed cx.env (.rte g) = true → Ready s g Uses.none cx →
    (cx.g.inHandler = false → exec (.rte g) s = (s.fetched cx Uses.none).raise cx.gid (cx.precise 0x09 4 0))
    ∧ ∀ a written slot, cx.g.inHandler = true → cx.g.frame = some (a, written, slot) →
      (cx.g.flight ≠ [] → exec (.rte g) s = .next (s.fetched cx Uses.none))
      ∧ (cx.g.flight = [] →
          let s1 := (s.fetched cx Uses.none).wbCluster cx.g.core.clus
          let now := s1.areaRead a written.length
          let sound := frameOk written now && !s1.areaPoisoned a written.length
          s1.areaOk a written.length = true →
          (sound = true → ∃ t gt, exec (.rte g) s = .next t ∧ t.group? cx.gid = some gt
            ∧ gt = returnFrom cx.g slot now ∧ gt.inHandler = false ∧ gt.tframe = 0 ∧ gt.flight = cx.g.preTrap
            ∧ s1.sameMemory t cx ∧ s1.onlyGroups t ∧ t.serial = s1.serial)
          ∧ (sound = false → ∃ t gt, exec (.rte g) s = .next t ∧ t.group? cx.gid = some gt
            ∧ gt.phase = .halted))

/-- 08 R199 to R202, 07 R185: what a trap puts in the frame, rte takes out: registers with their shapes, predicates,
format state and counters are as they were, and the trapped path stands at RPC. -/
def Sys2Proof.Claims.TrapRoundTrip : Prop :=
  ∀ (g : Group) (ti : TrapInfo) (vec : Word) (a : Nat) (p : Path),
    g.width ∈ [8, 16, 32, 64] → 1 ≤ g.nr → g.nr ≤ 512 → g.stack.length < 512 → g.tidy = true →
    g.path ti.slot = some p → p.mask ≠ 0 →
    let h := returnFrom (enterHandler g ti vec a (frameBytes g ti)) ti.slot (frameBytes g ti)
    (∀ r, r < g.nr → shapeOf (h.val r) = shapeOf (g.val r) ∧ (h.val r).tag = (g.val r).tag)
      ∧ (∀ r l, r < g.nr → l < g.width → (h.val r).lane l = (g.val r).lane l)
      ∧ (∀ q, h.pred q = g.pred q) ∧ (∀ n, n < 16 → h.slotDef n = g.slotDef n ∧ h.soffOf n = g.soffOf n)
      ∧ (∀ l, l < g.width → h.drawOf l = g.drawOf l) ∧ h.counts = g.counts ∧ h.exited = g.exited
      ∧ (∀ n, n < 8 → h.perfCount n = g.perfCount n) ∧ h.flight = g.flight ∧ h.inHandler = false
      ∧ ∃ q, h.path ti.slot = some q ∧ q.pc = ti.rpc ∧ q.mask = p.mask

/-- 03 R60, 08 R203: pmark goes on, and where a pre-emption request is visible its path stays there parked with the
bitmap and the scratch range; lanes that hold different ranges trap with 0x04. -/
def Sys2Proof.Claims.PmarkParks : Prop :=
  ∀ (g : Guard) (live : Word) (b : Src) (s : State) (cx : Cx), wellFormed cx.env (.pmark g live b) = true →
    Ready s g (usesOf [b] []) cx →
    ((cx.src b).equalIn cx.p.mask = true → ∃ t gt p, exec (.pmark g live b) s = .next t
      ∧ Moved s t cx g (cx.p.pc + 16) gt ∧ gt.path cx.slot = some p
      ∧ p.pmark = if cx.g.preqVisible then some (live, ((cx.src b).firstIn cx.p.mask).extractLsb' 0 32) else none)
    ∧ ((cx.src b).equalIn cx.p.mask = false →
      exec (.pmark g live b) s = (s.fetched cx (usesOf [b] [])).raise cx.gid (cx.precise 0x04 0 0))

/-! ### Scaled blocks -/

/-- 06 R140, R141: a sector holds its header, scales and elements where the manual puts them. -/
def Sys2Proof.Claims.SectorFields : Prop :=
  ∀ (els bsz w : Nat) (scales codes : List Nat), els < 16 → bsz < 4 →
    let n := mkSector els bsz w scales codes
    n % 16 = els ∧ n / 16 % 16 = bsz
      ∧ (∀ b, b < scales.length → sectorScale n b = scales.getD b 0 % 1024)
      ∧ (∀ e, e < codes.length → sectorElem n scales.length w e = codes.getD e 0 % 2 ^ w)

/-- 06 R144 to R146: scq quantises each block to its slots, writes the sectors to every lane of D, those that have exited
too (R146; log entry 64), and the residuals to their run in the effective mask. -/
def Sys2Proof.Claims.QuantiseWord : Prop :=
  ∀ (g : Guard) (fs sb sc : BitVec 4) (bs : BlockSize) (res : Option RegIx) (d a : RegIx) (s : State) (cx : Cx),
    wellFormed cx.env (.scq g fs sb sc bs res d a) = true →
    let rn := (match res with
      | some x => [x.toNat]
      | none => [])
    let u := runUses [[a.toNat]] (d.toNat :: rn) (a.toNat :: rn) [(fs, 1), (sb, 2), (sc, 3), (sc, 4)]
    let n := sectorRun (sectorBlocks (blockLen bs) (cx.fmt sb).w * blockLen bs) (cx.fmt fs).k
    let resid := (match res with
      | some r => runOf r.toNat n
      | none => [])
    ReadyRuns s g u { reads := runOf a.toNat n, writes := resid } cx → cx.eff = cx.g.live →
    let fx := cx.fmt fs
    let b := blockLen bs
    let nb := sectorBlocks b (cx.fmt sb).w
    nb ≠ 0 → n ≤ 32 → a.toNat + n ≤ cx.g.nr → (∀ r, res = some r → r.toNat + n ≤ cx.g.nr) →
    residBad d.toNat (runOf a.toNat n) resid = false →
    let secs := Tallied.all ((List.range (cx.g.width / 8)).map (quantSector cx fs sb sc b a res.isSome))
    ∃ t gt, exec (.scq g fs sb sc bs res d a) s = .next t ∧ WroteRun s t cx g (fun r => if r = d.toNat then cx.g.full else cx.eff)
      ((d.toNat, sectorsVal cx.g.width (secs.val.map (fun x =>
          mkSector sb.toNat (blockCode bs) (cx.fmt sb).w x.1 (x.2.map Prod.fst))))
        :: (match res with
          | some r => (List.range n).map (fun i => (r.toNat + i, layoutReg cx.g.width i fx.k fx.w (fun i e =>
              match ((secs.val.getD i ([], [])).2)[e]? with
              | some x => x.2
              | none => fx.encodeRat 0 false)))
          | none => []))
      secs.cnt ((cx.fmt sb).sto || fx.sto) gt

/-- 09 R216: a residual run of scq that holds D, or part of the run of A and not exactly it, traps with code 0x01 and
detail 0x0B. -/
def Sys2Proof.Claims.ResidualRun : Prop :=
  ∀ (g : Guard) (fs sb sc : BitVec 4) (bs : BlockSize) (r d a : RegIx) (s : State) (cx : Cx),
    wellFormed cx.env (.scq g fs sb sc bs (some r) d a) = true →
    let u := runUses [[a.toNat]] [d.toNat, r.toNat] [a.toNat, r.toNat] [(fs, 1), (sb, 2), (sc, 3), (sc, 4)]
    let n := sectorRun (sectorBlocks (blockLen bs) (cx.fmt sb).w * blockLen bs) (cx.fmt fs).k
    let m : Members := { reads := runOf a.toNat n, writes := runOf r.toNat n }
    ReadyRuns s g u m cx → cx.eff = cx.g.live →
    let resid (x : Nat) : Prop := r.toNat ≤ x ∧ x < r.toNat + n
    let source (x : Nat) : Prop := a.toNat ≤ x ∧ x < a.toNat + n
    (resid d.toNat ∨ (r ≠ a ∧ ∃ x, resid x ∧ source x)) →
    exec (.scq g fs sb sc bs (some r) d a) s = (s.fetched cx u m).raise cx.gid (cx.precise 0x01 0x0B 0)

/-- 06 R147, R148: scdq multiplies codes by their block's scale and rounds into its run; scup unpacks codes to a run and
scales to a register. -/
def Sys2Proof.Claims.UnpackWords : Prop :=
  ∀ (g : Guard) (fs sc : BitVec 4) (raw : Option RegIx) (d : RegIx) (a c : Src) (s : State) (cx : Cx) (i : Instr)
    (u : Uses) (n : Nat),
    (i, u) = (match raw with
      | none => (.scdq g fs sc d a c, runUses [srcReg a, [], srcReg c] [d.toNat] [d.toNat] [(fs, 1), (fs, 4), (sc, 3)])
      | some r => (.scup g fs r d a c, runUses [srcReg a, [], srcReg c] [d.toNat, r.toNat] [d.toNat] [(fs, 1), (fs, 4)])) →
    wellFormed cx.env i = true → ReadyRuns s g u { reads := [], writes := runOf d.toNat n } cx → cx.eff = cx.g.live →
    (∃ x, equalC cx c = some x ∧ n = x.toNat % 64) → n ≠ 0 → n ≤ 32 → d.toNat + n ≤ cx.g.nr →
    (∀ j, j < cx.g.width / 8 → sectorEmpty cx (regSector (cx.src a) j) = false) →
    (∀ j, j < cx.g.width / 8 → sectorFault cx (fun f => 8 * (match raw with
      | none => (cx.fmt sc).k
      | some _ => f.k) * n) (regSector (cx.src a) j) = none) →
    let v := cx.src a
    let out := (match raw with
      | none => (List.range n).map (fun j => (d.toNat + j, (dequantReg cx fs sc v j).val))
      | some r => (List.range n).map (fun j => (d.toNat + j, generalVal cx.g.width (unpackLane cx v j)))
          ++ [(r.toNat, scalesVal cx.g.width (fun j b =>
            let x := regSector v j
            if b < (sectorShape cx x).2.1 then sectorScale x b % 2 ^ (cx.fmt fs).w else 0))])
    ∃ t gt, exec i s = .next t ∧ WroteRun s t cx g (fun _ => cx.eff) out
      (match raw with
        | none => Counts.sum ((List.range n).map (fun j => (dequantReg cx fs sc v j).cnt))
        | some _ => Counts.zero)
      (raw.isNone && (cx.fmt sc).sto) gt

/-- 06 R148: scpk packs codes and scales as they are. -/
def Sys2Proof.Claims.PackWord : Prop :=
  ∀ (g : Guard) (fs sb : BitVec 4) (bs : BlockSize) (d a : RegIx) (b : Src) (s : State) (cx : Cx),
    wellFormed cx.env (.scpk g fs sb bs d a b) = true →
    let f := cx.fmt fs
    let nb := sectorBlocks (blockLen bs) f.w
    let n := sectorRun (nb * blockLen bs) f.k
    ReadyRuns s g (runUses [[a.toNat], srcReg b] [d.toNat] [a.toNat] [(fs, 1), (sb, 2), (sb, 4)])
      { reads := runOf a.toNat n, writes := [] } cx →
    cx.eff = cx.g.live → nb ≠ 0 → n ≤ 32 → a.toNat + n ≤ cx.g.nr →
    ∃ t gt, exec (.scpk g fs sb bs d a b) s = .next t ∧ WroteRun s t cx g (fun _ => cx.eff)
      [(d.toNat, sectorsVal cx.g.width ((List.range (cx.g.width / 8)).map (fun j =>
        mkSector fs.toNat (blockCode bs) f.w
          ((List.range nb).map (fun x => regScale (cx.src b) j x % 2 ^ (cx.fmt sb).w))
          ((List.range (nb * blockLen bs)).map (runElem (fun r => cx.g.val (a.toNat + r)) f j)))))]
      Counts.zero false gt

/-- The exact product of three numbers: NaN without an event where one of them is NaN, and with one where an infinity
meets a zero (04 R79; model's choice, log entry 71). -/
def product3 (x y z : Machine.Num) : Machine.Num × Bool :=
  let isInf (n : Machine.Num) : Bool := match n with
    | .inf _ => true
    | _ => false
  let isZero (n : Machine.Num) : Bool := match n with
    | .zero _ => true
    | _ => false
  if x = .nan ∨ y = .nan ∨ z = .nan then (.nan, false)
  else if (isInf x || isInf y || isInf z) && (isZero x || isZero y || isZero z) then (.nan, true)
  else ((Machine.Num.mul (Machine.Num.mul x y).1 z).1, false)

/-- 06 R149: bscl multiplies each sub-element by two factors, rounding once. That an infinity beside a zero is invalid
wherever the two stand, and a NaN hides it, is the model's choice (log entry 71). -/
def Sys2Proof.Claims.BandScale : Prop :=
  ∀ (g : Guard) (fs sb sc : BitVec 4) (d : RegIx) (a b : Src) (s : State) (cx : Cx),
    wellFormed cx.env (.bscl g fs sb sc d a b) = true →
    Ready s g ((usesOf [a, b] [d]).withSlots [(fs, 1), (sb, 2), (sc, 3)]) cx → cx.eff = cx.g.live →
    (cx.fmt sb).w ≤ 32 →
    let fx := cx.fmt fs
    let fb := cx.fmt sb
    let fy := cx.fmt sc
    let at_ (l : Nat) : Tallied Word :=
      let rs := (List.range (min fx.k fy.k)).map (fun j =>
        (fx.decode (subElem ((cx.src a).lane l) fx.w j)).bind (fun x =>
          (fb.decode (subElem ((cx.src b).lane l) fb.w 0)).bind (fun y =>
            (fb.decode (subElem ((cx.src b).lane l) fb.w 1)).bind (fun z =>
              (Tallied.ofOp (product3 x y z)).bind (fun q => round fy (cx.key sc l j) q)))))
      { val := packElems fy.w (rs.map Tallied.val), cnt := Counts.sum (rs.map Tallied.cnt) }
    ∃ t gt, exec (.bscl g fs sb sc d a b) s = .next t ∧ WroteFloat s t cx g d (fun l => (at_ l).val)
      (eventsOf cx false at_) fy.sto gt

/-! ### Memory -/

/-- 15 R322 to R325, 08 R197: a walk that ends in a leaf that permits the access gives its page's place and default retention, sets ACC, and
DIRTY for a write, in the leaf, and changes no other byte; what else changes are the TLBs and dirty filters. -/
def Sys2Proof.Claims.TranslateLeaf : Prop :=
  ∀ (s : State) (a : Asker) (ctx off p level : Nat) (seg : BitVec 8) (k : Kind) (w : BitVec 128), s.memoryOk = true →
    s.cached a ctx seg off k = none → s.walk ctx seg off = .leaf w p level → (Pte.ofWord w).permits k = true →
    ((Pte.ofWord w).tier = 3 → s.busRefused ((Pte.ofWord w).frame * 65536 + off % pageSize level) = false) →
    let e := Pte.ofWord w
    ∃ s1, s.translate a ctx seg off k
        = (.ok (mkPlace e.tier (if e.tier = 2 then e.peer else 0) (e.frame * 65536 + off % pageSize level))
            (if e.ret = 1 then .strm else if e.ret = 2 then .stky else .dflt), s1)
      ∧ s1.homeByte (p + 1) = s.homeByte (p + 1) ||| 4 ||| (if k = .write ∨ k = .atomic then 2 else 0)
      ∧ (∀ x, x ≠ s.redirect (p + 1) → Memory.read s1.mem x = Memory.read s.mem x)
      ∧ { s1 with mem := s.mem, cores := s.cores, l2tlb := s.l2tlb, migrations := s.migrations } = s

/-- 15 R322, R323: what a walk cannot use: an entry that is not valid is recoverable, and a leaf that does not permit
the access is refused. -/
def Sys2Proof.Claims.TranslateRefuses : Prop :=
  ∀ (s : State) (a : Asker) (ctx off : Nat) (seg : BitVec 8) (k : Kind), s.cached a ctx seg off k = none →
    (s.walk ctx seg off = .recoverable → s.translate a ctx seg off k = (.recoverable, s))
    ∧ (∀ d, s.walk ctx seg off = .bad d → s.translate a ctx seg off k = (.bad d, s))
    ∧ (∀ w p level, s.walk ctx seg off = .leaf w p level → (Pte.ofWord w).permits k = false →
        s.translate a ctx seg off k = (.forbidden, s))

/-- 12 R249, R252, R253, 10 R224, 05 R114: a read through the cluster L1 gives the bytes the cluster sees, one with `.byp`
those beneath the L1 but for the cluster's own writes, which then stand in a copy the L1 holds. A line that makes room
for the one read is written back: its written bytes stay seen. -/
def Sys2Proof.Claims.ReadSeesMemory : Prop :=
  ∀ (s s1 : State) (clus p n : Nat) (h h2 : Hint) (bs : List Byte), s.tidy = true → s.memoryOk = true → unmoved s →
    1 ≤ n → p % 64 + n ≤ 64 → s.plainRead clus p n h h2 = (.bytes bs, s1) →
    bs = (List.range n).map (fun i => hintAt s h clus (p + i))
      ∧ (∀ q, sectorOf q = sectorOf p → isLocal q = true ∨ l2Room s → seenAt s1 clus q = hintAt s h clus q)
      ∧ Kept s s1 clus (fun q => sectorOf q = sectorOf p)
      ∧ ∀ a, memKept s s1 clus a

/-- 12 R249, R252, R253: after a store the cluster sees the bytes stored, and every other byte as before but where a line
has made room, whichever level holds them. -/
def Sys2Proof.Claims.WriteSeenBack : Prop :=
  ∀ (s : State) (clus sec : Nat) (bs : List Byte) (m : Word) (h h2 : Hint), s.tidy = true → s.memoryOk = true →
    unmoved s → bs.length = 64 →
    let t := s.plainWrite clus sec bs m h h2
    (∀ q, sectorOf q = sec → laneIn m (q % 64) = true → seenAt t clus q = bs.getD (q % 64) 0)
      ∧ Kept s t clus (fun q => sectorOf q = sec ∧ laneIn m (q % 64) = true)

/-- 05 R114, 10 R225: the order in which retention classes leave a set. -/
def retention : Hint → Nat
  | .strm => 0
  | .stky => 2
  | _ => 1

/-- 10 R224, R225, 14 R315: when a line comes to a set whose ways are all taken, the line to leave is, of those whose
written bytes may leave now, one of the lowest class, and the oldest of its class; the new line takes its way. That age
counts from allocation, and that a line which may not leave yet is passed over, is the model's choice (log entry 62). -/
def Sys2Proof.Claims.CacheVictim : Prop :=
  ∀ (s t : State) (clus sec : Nat) (h : Hint), s.tidy = true →
    let c := s.cluster clus
    let line := sec / 8
    (∀ e ∈ c.lines, e.line ≠ line) → c.freeBank line = none → s.makeRoom clus sec h = some t →
    ∃ v k, v ∈ c.set line ∧ s.canLeave clus v.line = true
      ∧ (∀ e ∈ c.set line, s.canLeave clus e.line = true → retention v.hint ≤ retention e.hint)
      ∧ (c.set line).find? (fun e => retention e.hint == retention v.hint && s.canLeave clus e.line) = some v
      ∧ (t.cluster clus).lines = c.lines.filter (fun e => e.line != v.line)
          ++ [{ line := line, hint := k, bank := v.bank }]
      ∧ (k = h ∨ k = .dflt)

/-- 05 R114, 10 R225: an access records its hint with the line, but a sticky one beyond half the ways of the set is
ordinary; other lines keep their records, and a line keeps its age. Beneath the L1 the same holds of a slice of the L2.
That a line keeps its age, that `.byp` renews a copy's record, and the 6144 sticky lines of an L2 slice are the model's
choice (log entry 62). -/
def Sys2Proof.Claims.RetentionRecord : Prop :=
  (∀ (c : Cluster) (line : Nat) (h : Hint),
    let d := c.note line h
    let others := (c.lines.filter (fun e => e.line ≠ line ∧ e.line % 32 = line % 32 ∧ e.hint = .stky)).length
    let banks := ((List.range 32).filter (fun b => (c.bank b).mode = .cache)).length
    let k : Hint := if h = .stky ∧ 2 * banks ≤ others then .dflt else h
    (∀ e ∈ d.lines, e.line = line → e.hint = k)
    ∧ d.lines.filter (fun e => e.line ≠ line) = c.lines.filter (fun e => e.line ≠ line)
    ∧ d.lines.map (fun e => (e.line, e.bank)) = c.lines.map (fun e => (e.line, e.bank))
    ∧ { d with lines := c.lines } = c)
  ∧ ∀ (s : State) (sec : Nat) (h : Hint), sec / 8 ∈ s.l2lines.map Prod.fst →
    let t := s.noteL2 sec (some h)
    let others := (s.l2lines.filter (fun e => e.1 ≠ sec / 8 ∧ e.2 = .stky
      ∧ sliceOf (e.1 * 512) = sliceOf (sec / 8 * 512))).length
    (∀ e ∈ t.l2lines, e.1 = sec / 8 → e.2 = if h = .stky ∧ 6144 ≤ others then .dflt else h)
    ∧ t.l2lines.filter (fun e => e.1 ≠ sec / 8) = s.l2lines.filter (fun e => e.1 ≠ sec / 8)
    ∧ t.l2lines.map Prod.fst = s.l2lines.map Prod.fst ∧ { t with l2lines := s.l2lines } = s

/-- 10 R223, 12 R253: with nothing else asked of it, the device evicts the first sector that a bank which drains still
holds. That it does so first is the model's default schedule (log entry 3). -/
def Sys2Proof.Claims.CacheEvicts : Prop :=
  ∀ (s : State) (pre post : List (Nat × Cluster)) (c : Nat) (k : Cluster) (sec : Nat) (ss : List Nat), s.agenda = [] →
    s.clusters = pre ++ (c, k) :: post → (∀ e ∈ pre, s.victimSectors e.1 = []) → s.victimSectors c = sec :: ss →
    exec (.writePerformed false c sec) s ≠ .next s → step s = exec (.writePerformed false c sec) s

/-- 05 R100 to R102: a load or store of an address its width does not divide traps with 0x0B, one of segment 0xFC or
0xFF with 0x09, and one past the team's scratch with 0x09, detail 1, each naming the lowest such lane; segment
protection is checked first, then alignment. A store to the copy aperture that is not of 16 bytes traps with 0x08, detail
1, at the first of these checks (log entry 87). -/
def Sys2Proof.Claims.LoadStoreTraps : Prop :=
  ∀ (g : Guard) (wd : Width) (o : Order) (sc : Scope) (h : Hint) (d : RegIx) (m : Addr) (b : Src) (store : Bool)
    (s : State) (cx : Cx) (i : Instr) (u : Uses),
    (i, u) = (if store then (.st g wd o sc h m b, stUses wd m b)
      else (.ld g wd o sc h d m, memUses m (.spec .zero) (.spec .zero) (loadDests wd d))) →
    wellFormed cx.env i = true → Ready s g u cx →
    let n := widthBytes wd
    let ls := lanes cx.eff
    let segOf (l : Nat) : BitVec 8 := (laneAddr cx m l).1
    let offOf (l : Nat) : Nat := (laneAddr cx m l).2.toNat
    let ti (l : Nat) (code : BitVec 8) (detail : BitVec 16) : TrapInfo :=
      { cx.precise code detail 0 with lane := BitVec.ofNat 16 l, addr := BitVec.ofNat 64 (offOf l), aseg := segOf l }
    (∀ l, ls.find? (fun k => segOf k == 0xFC || segOf k == 0xFF || (segOf k == 0xFD && (!store || wd != .b128))) = some l →
      exec i s = (s.fetched cx u).raise cx.gid (ti l (if store ∧ segOf l = 0xFD then 0x08 else 0x09)
        (if store ∧ segOf l = 0xFD then 1 else 0)))
    ∧ (∀ l, (∀ k ∈ ls, (segOf k).toNat < 0xFC ∨ segOf k = 0xFE) → ls.find? (fun k => offOf k % n != 0) = some l →
      exec i s = (s.fetched cx u).raise cx.gid (ti l 0x0B 0))
    ∧ (∀ l, (∀ k ∈ ls, (segOf k).toNat < 0xFC ∨ segOf k = 0xFE) → (∀ k ∈ ls, offOf k % n = 0) →
      ls.find? (fun k => segOf k == 0xFE && decide (256 * cx.l.scru < offOf k + n)) = some l →
      exec i s = (s.fetched cx u).raise cx.gid (ti l 0x09 1))

/-- 05 R100 to R102: ldi, ldp, stp, stz, ldz, ldfr, stfr, atom, red and acas trap likewise: an address in segment 0xFC,
0xFD or 0xFF with 0x09, one that the word's alignment does not divide with 0x0B, one whose bytes pass the team's scratch
with 0x09, detail 1, in that order, each naming the lowest such lane. -/
def Sys2Proof.Claims.OtherAccessTraps : Prop :=
  ∀ (i : Instr) (w : Guard) (u : Uses) (ms : Members) (s : State) (cx : Cx) (z : Nat) (accs : List LaneAcc),
    namesOf cx i = some (w, u, ms) → accessOf cx i = some (z, accs) → wellFormed cx.env i = true →
    ReadyRuns s w u ms cx → cx.eff ≠ 0 →
    let traps (a : LaneAcc) (code : BitVec 8) (detail : BitVec 16) : Prop :=
      exec i s = (s.fetched cx u ms).raise cx.gid
        { cx.precise code detail 0 with lane := BitVec.ofNat 16 a.lane, addr := BitVec.ofNat 64 a.off, aseg := a.seg }
    let lies (a : LaneAcc) : Bool := a.seg == 0xFC || a.seg == 0xFD || a.seg == 0xFF
    (∀ a, accs.find? lies = some a → traps a 0x09 0)
    ∧ (∀ a, accs.any lies = false → accs.find? (fun a => a.off % z != 0) = some a → traps a 0x0B 0)
    ∧ (∀ a, accs.any lies = false → accs.all (fun a => a.off % z == 0) = true →
        accs.find? (fun a => a.seg == 0xFE && a.n != 0 && decide (256 * cx.l.scru < a.off + a.n)) = some a → traps a 0x09 1)

/-- 05 R111: an ldi waits before issue while 63 loads are out on its counter. -/
def Sys2Proof.Claims.LoadWaits : Prop :=
  ∀ (g : Guard) (wd : Width) (n : BitVec 4) (h : Hint) (d : RegIx) (m : Addr) (s : State) (cx : Cx),
    let u := memUses m (.spec .zero) (.spec .zero) [d.toNat]
    wellFormed cx.env (.ldi g wd n h d m) = true → Ready s g u cx → cx.eff ≠ 0 → 63 ≤ cx.g.ac n.toNat →
    exec (.ldi g wd n h d m) s = .next (s.fetched cx u)

/-- 05 R99, R105 to R107, R111: ld and ldi put a result in flight that gives each active lane the bytes its address
names, extended. Where a read must wait, for a peer's sector or a write-back, the word itself waits, unissued: the
model's choice (log entry 7), as it is that the ldi takes its value at issue (log entry 86) and that an acquiring load
waits for write-backs first (log entry 85). `s1` is the machine after the translations, `sr` after the write-backs of an
acquire, `xs` and `s2` what the reads gave. -/
def Sys2Proof.Claims.LoadWords : Prop :=
  ∀ (g : Guard) (wd : Width) (o : Order) (sc : Scope) (h : Hint) (ac : Option (BitVec 4)) (d : RegIx) (m : Addr)
    (s s1 sr s2 : State) (cx : Cx) (i : Instr) (u : Uses) (rs : List Region) (xs : List (Piece × Got)),
    (i, u) = (match ac with
      | none => (.ld g wd o sc h d m, memUses m (.spec .zero) (.spec .zero) (loadDests wd d))
      | some n => (.ldi g wd n h d m, memUses m (.spec .zero) (.spec .zero) [d.toNat])) →
    (∀ n, ac = some n → o = .plain ∧ sc = .grp ∧ cx.g.ac n.toNat < 63) →
    wellFormed cx.env i = true → Ready s g u cx → cx.eff ≠ 0 → cx.p.fills = [] →
    let cx0 := cx.fetched u
    let accs := byteAccs cx m (widthBytes wd)
    let one := ac.isNone && cx.eff == cx.g.full && uniformAddr cx m
    let used := if one then accs.take 1 else accs
    let ps := used.flatMap (splitAcc rs)
    let at_ := accScope accs sc
    earlyFault cx (widthBytes wd) accs = none → (s.fetched cx u).probe cx0 .read accs = .ok rs s1 →
    (if acquires o then s1.releaseAt cx0 at_ (storeWho cx0 ps) else (true, s1)) = (true, sr) →
    sr.readPieces cx0 (readerOf cx0 o sc h) ps = (xs, s2) →
    (mustWait xs = true → ∃ t gt p, exec i s = .next t ∧ t.group? cx.gid = some gt ∧ gt.path cx.slot = some p
      ∧ p.pc = cx.p.pc ∧ p.mask = cx.p.mask)
    ∧ (allRead xs = true → ∃ t gt f, exec i s = .next t
        ∧ Flew (if acquires o then s2.acquireAt cx.g.core.clus cx.ctx (storeWho cx0 ps) at_ else s2) t cx g f gt
        ∧ f.dests = loadDests wd d ∧ f.due = []
        ∧ (match ac with
            | none => f.kind = .load
            | some n => f.kind = .ldi n ∧ gt.ac n.toNat = cx.g.ac n.toNat + 1
                ∧ ∀ k, k ≠ n.toNat → gt.ac k = cx.g.ac k)
        ∧ (acquires o = false → unmoved s1 → ∀ l, l < cx.g.width → laneIn cx.eff l = true →
            ∃ bs, accGives s1 cx h rs
              { lane := l, seg := (laneAddr cx m l).1, off := (laneAddr cx m l).2.toNat, n := widthBytes wd } bs
            ∧ ∃ w ∈ f.writes, w.reg = d.toNat ∧ laneIn w.mask l = true ∧ w.val.lane l = extendLoad wd bs
              ∧ (wd = .b128 → ∃ v ∈ f.writes, v.reg = d.toNat + 1 ∧ laneIn v.mask l = true
                  ∧ v.val.lane l = wordOf (bs.drop 8))))

/-- 05 R108 to R110: ldp reads up to 64 bits at a bit address in each lane. -/
def Sys2Proof.Claims.PackedLoad : Prop :=
  ∀ (g : Guard) (x : Bool) (pw : BitVec 6) (h : Hint) (d : RegIx) (m : Addr) (c : Src) (s s1 s2 : State) (cx : Cx)
    (rs : List Region) (xs : List (Piece × Got)),
    let i : Instr := .ldp g x pw h d m c
    let u := memUses m (.spec .zero) c [d.toNat]
    wellFormed cx.env i = true → Ready s g u cx → cx.eff ≠ 0 → cx.p.fills = [] →
    let cx0 := cx.fetched u
    let fs := packAccs cx pw m c
    let accs := fs.map (·.1)
    let one := cx.eff == cx.g.full && uniformAddr cx m && (cx.src c).isUniform
    earlyFault cx 1 accs = none → (s.fetched cx u).probe cx0 .read accs = .ok rs s1 →
    s1.readPieces cx0 (fun s q => s.wordRead cx0 h q) ((if one then accs.take 1 else accs).flatMap (splitAcc rs))
      = (xs, s2) → allRead xs = true →
    ∃ t gt f, exec i s = .next t ∧ Flew s2 t cx g f gt ∧ f.kind = .load ∧ f.dests = [d.toNat] ∧ f.due = []
      ∧ (unmoved s1 → ∀ l, l < cx.g.width → laneIn cx.eff l = true →
          let b := (laneAddr cx m l).2.toNat
          let n := min (((cx.src c).lane l).toNat % 128) (64 / (pw.toNat + 1)) * (pw.toNat + 1)
          ∃ bs, accGives s1 cx h rs (bitAcc l (laneAddr cx m l).1 b n) bs ∧
          let bits := ofBytes bs / 2 ^ (b % 8) % 2 ^ n
          ∃ w ∈ f.writes, w.reg = d.toNat ∧ laneIn w.mask l = true
            ∧ w.val.lane l = if n = 0 then 0
              else if x ∧ 2 ^ (n - 1) ≤ bits then BitVec.ofInt 64 ((bits : Int) - 2 ^ n) else BitVec.ofNat 64 bits)

/-- 05 R103, R105, R106, 12 R249: st stores each lane's low bytes at its address, higher lanes over lower ones, and no
other byte; a release first makes the cluster's earlier writes visible at its scope. `s2` is the machine once that is
done. Copy starts are in another statement. -/
def Sys2Proof.Claims.StoreWords : Prop :=
  ∀ (g : Guard) (wd : Width) (o : Order) (sc : Scope) (h : Hint) (m : Addr) (b : Src) (s s1 s2 : State) (cx : Cx)
    (rs : List Region) (tm : Team),
    let i : Instr := .st g wd o sc h m b
    let u : Uses := stUses wd m b
    wellFormed cx.env i = true → Ready s g u cx → cx.eff ≠ 0 → s.team? (tidOf cx.gid) = some tm →
    let cx0 := cx.fetched u
    let accs := byteAccs cx m (widthBytes wd)
    let at_ := accScope accs sc
    let rel := releases o && (at_ == .dev || at_ == .sys)
    let ps := storePieces cx wd b rs accs
    (∀ a ∈ accs, a.seg ≠ 0xFD) → earlyFault cx (widthBytes wd) accs = none →
    (s.fetched cx u).probe cx0 .write accs = .ok rs s1 → 
    s1.releaseAt cx0 (if rel then at_ else .grp) (storeWho cx0 (ps.map Prod.fst)) = (true, s2) →
    writeBlocked s2 cx0 (rel || h == .byp) (rel && at_ == .sys)
      ((ps.filter (fun x => !x.1.scratch)).map (fun x => x.1.place)) = false →
    ∃ t gt e, exec i s = .next t ∧ Done e t cx g gt
      ∧ (∀ a, scratchAt e cx a = (lastWrite ps true a).getD (scratchAt s2 cx a))
      ∧ (unmoved s2 → ∀ q v, lastWrite ps false q = some v → isLocal q = true ∨ l2Room s2 →
          seenAt e cx.g.core.clus q = v)
      ∧ (unmoved s2 → rel = false ∨ at_ = .dev → Kept s2 e cx.g.core.clus (fun q => lastWrite ps false q ≠ none))
      ∧ (unmoved s2 → ∀ a, lastWrite ps false a = none → memKept s2 e cx.g.core.clus a)

/-- 05 R108, R109, 06 R155: stp stores fields of bits at bit addresses, stfr rows of packed elements at byte addresses;
bits outside the fields stay, with `.byp` as the level beneath the cluster L1 holds them. -/
def Sys2Proof.Claims.BitStores : Prop :=
  ∀ (g : Guard) (frag : Bool) (pw : BitVec 6) (fs : BitVec 4) (h : Hint) (m : Addr) (v : Src) (b : RegIx) (c : Src)
    (s s1 : State) (cx : Cx) (i : Instr) (u : Uses) (ms : Members) (accs : List LaneAcc) (xs : List BitByte)
    (rs : List Region) (tm : Team),
    let n := ((cx.src c).firstIn cx.eff).toNat % 65536
    let f := cx.fmt fs
    (i, u, ms, accs) = (if frag then
        (.stfr g fs h m b c, runMemUses m [b.toNat] c [] [b.toNat] fs,
          { reads := runOf b.toNat (ceilDiv n f.k), writes := [] }, byteAccs cx m (ceilDiv (n * f.w) 8))
      else (.stp g pw h m v c, memUses m v c [], Members.none, (packAccs cx pw m c).map (·.1))) →
    (xs = if frag then
        accs.flatMap (fun a => fieldBytes rs a 0 (n * f.w) ((List.range n).foldr (fun e acc =>
          subElem ((cx.g.val (b.toNat + e / f.k)).lane a.lane) f.w (e % f.k) + acc * 2 ^ f.w) 0))
      else (packAccs cx pw m c).flatMap (fun x => fieldBytes rs x.1 x.2.1 x.2.2 ((cx.src v).lane x.1.lane).toNat)) →
    wellFormed cx.env i = true → ReadyRuns s g u ms cx → cx.eff ≠ 0 → cx.p.fills = [] → s.team? (tidOf cx.gid) = some tm →
    (frag = true → (cx.src c).equalIn cx.eff = true ∧ ((cx.src c).firstIn cx.eff).getLsbD 31 = false ∧ 1 ≤ n
      ∧ n ≤ 32 * f.k ∧ b.toNat + ceilDiv n f.k ≤ cx.g.nr) →
    let cx0 := cx.fetched u ms
    earlyFault cx 1 accs = none → (s.fetched cx u ms).probe cx0 .write accs = .ok rs s1 →
    (∀ y ∈ mergeBits xs, y.2.mask = 0xFF ∨ (s1.storedByte cx0 h y.2).isSome = true) →
    writeBlocked s1 cx0 (h == .byp) false (((mergeBits xs).filter (fun y => !y.2.scratch)).map (fun y => y.2.place))
      = false →
    ∃ t gt e, exec i s = .next t ∧ Done e t cx g gt
      ∧ (∀ a, scratchAt e cx a = afterBits xs true a (scratchAt s1 cx a))
      ∧ (unmoved s1 → ∀ q, (∃ x ∈ xs, x.scratch = false ∧ x.place = q) → isLocal q = true ∨ l2Room s1 →
          seenAt e cx.g.core.clus q = afterBits xs false q (hintAt s1 h cx.g.core.clus q))
      ∧ (unmoved s1 → Kept s1 e cx.g.core.clus (fun q => ∃ x ∈ xs, x.scratch = false ∧ x.place = q))

/-- 05 R119: the elements of a zero-mask form are those it was made of. -/
def Sys2Proof.Claims.FormRoundTrip : Prop :=
  ∀ (w : Nat) (xs : List Nat), 1 ≤ w → w ≤ 64 → 1 ≤ xs.length → xs.length < 65536 → (∀ x ∈ xs, x < 2 ^ w) →
    let bs := formBytes w xs
    let nnz := (xs.filter (fun x => x != 0)).length
    formHeader w xs.length (bs.take (16 + formMask xs.length)) = some nnz
      ∧ maskCount xs.length (bs.take (16 + formMask xs.length)) = nnz
      ∧ bs.length = 16 + formMask xs.length + formVals nnz w ∧ formElems w xs.length bs = xs

/-- 05 R119 to R121: stz stores the zero-mask form of the vector in its run, if CAP bytes are enough. -/
def Sys2Proof.Claims.FormStore : Prop :=
  ∀ (g : Guard) (fs : BitVec 4) (h : Hint) (m : Addr) (b : RegIx) (c : Src) (s s1 : State) (cx : Cx) (seg : BitVec 8)
    (off : Nat) (cv : Word) (rs : List Region) (tm : Team),
    let i : Instr := .stz g fs h m b c
    let u := runMemUses m [b.toNat] c [] [b.toNat] fs
    let f := cx.fmt fs
    let len := cv.toNat % 65536
    let n := formRun cx f len
    let ms : Members := { reads := runOf b.toNat n, writes := [] }
    wellFormed cx.env i = true → ReadyRuns s g u ms cx → cx.eff ≠ 0 → s.team? (tidOf cx.gid) = some tm →
    formAddr cx m c = some (seg, off, cv) →
    let code (e : Nat) : Nat :=
      subElem ((cx.g.val (b.toNat + e / (cx.g.width * f.k))).lane (e % (cx.g.width * f.k) / f.k)) f.w (e % f.k)
    let bs := formBytes f.w ((List.range len).map code)
    let acc : LaneAcc := { lane := lowLane cx, seg := seg, off := off, n := bs.length }
    let cx0 := cx.fetched u ms
    let ps := alongPieces (splitAcc rs acc) bs
    earlyFault cx 16 [acc] = none →
    formFault cx b.toNat n len (cv.toNat / 2 ^ 32) = none → bs.length ≤ cv.toNat / 2 ^ 32 →
    (s.fetched cx u ms).probe cx0 .write [acc] = .ok rs s1 →
    writeBlocked s1 cx0 (h == .byp) false ((ps.filter (fun x => !x.1.scratch)).map (fun x => x.1.place)) = false →
    ∃ t gt e, exec i s = .next t ∧ Done e t cx g gt
      ∧ (∀ a, scratchAt e cx a = (lastWrite ps true a).getD (scratchAt s1 cx a))
      ∧ (unmoved s1 → ∀ q v, lastWrite ps false q = some v → isLocal q = true ∨ l2Room s1 →
          seenAt e cx.g.core.clus q = v)
      ∧ (unmoved s1 → Kept s1 e cx.g.core.clus (fun q => lastWrite ps false q ≠ none))

/-- 05 R119 to R121: ldz reads header and mask, then the whole form, and puts its elements in flight to the run. -/
def Sys2Proof.Claims.FormLoad : Prop :=
  ∀ (g : Guard) (fs : BitVec 4) (h : Hint) (d : RegIx) (m : Addr) (c : Src) (s s1 s2 s3 s4 : State) (cx : Cx)
    (seg : BitVec 8) (off nnz : Nat) (cv : Word) (r1 r2 : List Region) (xs ys : List (Piece × Got)) (hd bs : List Byte),
    let i : Instr := .ldz g fs h d m c
    let u := runMemUses m [] c [d.toNat] [d.toNat] fs
    let f := cx.fmt fs
    let len := cv.toNat % 65536
    let n := formRun cx f len
    let ms : Members := { reads := [], writes := runOf d.toNat n }
    wellFormed cx.env i = true → ReadyRuns s g u ms cx → cx.eff ≠ 0 → formAddr cx m c = some (seg, off, cv) →
    let cx0 := cx.fetched u ms
    let acc (k : Nat) : LaneAcc := { lane := lowLane cx, seg := seg, off := off, n := k }
    let size := 16 + formMask len + formVals nnz f.w
    earlyFault cx 16 [acc (16 + formMask len)] = none → formFault cx d.toNat n len (cv.toNat / 2 ^ 32) = none →
    (s.fetched cx u ms).probe cx0 .read [acc (16 + formMask len)] = .ok r1 s1 →
    readAccess s1 cx0 h r1 [acc (16 + formMask len)] = .inl (xs, s2) → laneBytes xs (lowLane cx) = some hd →
    formHeader f.w len hd = some nnz → maskCount len hd = nnz → size ≤ cv.toNat / 2 ^ 32 →
    scratchFault cx.scratchSize [acc size] = none → s2.probe cx0 .read [acc size] = .ok r2 s3 →
    readAccess s3 cx0 h r2 [acc size] = .inl (ys, s4) → laneBytes ys (lowLane cx) = some bs →
    ∃ t gt fl, exec i s = .next t ∧ Flew s4 t cx g fl gt ∧ fl.kind = .load ∧ fl.dests = runOf d.toNat n ∧ fl.due = []
      ∧ ∀ r l q, r < n → l < cx.g.width → laneIn cx.eff l = true → q < f.k →
        ∃ w ∈ fl.writes, w.reg = d.toNat + r ∧ laneIn w.mask l = true
          ∧ subElem (w.val.lane l) f.w q = (formElems f.w len bs).getD (r * (cx.g.width * f.k) + l * f.k + q) 0 % 2 ^ f.w

/-- 06 R153: ldfr of packed rows puts n elements of each active lane's row in flight to the run, k to a register. -/
def Sys2Proof.Claims.FragmentLoad : Prop :=
  ∀ (g : Guard) (fs : BitVec 4) (h : Hint) (d : RegIx) (m : Addr) (c : Src) (s s1 s2 : State) (cx : Cx) (v : Word)
    (rs : List Region) (xs : List (Piece × Got)),
    let i : Instr := .ldfr g fs h d m c
    let u := runMemUses m [] c [d.toNat] [d.toNat] fs
    let f := cx.fmt fs
    let n := v.toNat % 65536
    let k := ceilDiv n f.k
    let ms : Members := { reads := [], writes := runOf d.toNat k }
    wellFormed cx.env i = true → ReadyRuns s g u ms cx → cx.eff ≠ 0 → cx.p.fills = [] →
    (∀ l, laneIn cx.eff l = true → (cx.src c).lane l = v) → v.getLsbD 31 = false →
    let cx0 := cx.fetched u ms
    let accs := byteAccs cx m (ceilDiv (n * f.w) 8)
    earlyFault cx 1 accs = none → 1 ≤ n → n ≤ 32 * f.k → d.toNat + k ≤ cx.g.nr →
    (s.fetched cx u ms).probe cx0 .read accs = .ok rs s1 → readAccess s1 cx0 h rs accs = .inl (xs, s2) → allRead xs = true →
    ∃ t gt fl, exec i s = .next t ∧ Flew s2 t cx g fl gt ∧ fl.kind = .load ∧ fl.dests = runOf d.toNat k ∧ fl.due = []
      ∧ (unmoved s1 → ∀ l, l < cx.g.width → laneIn cx.eff l = true → ∃ bs, accGives s1 cx h rs
          { lane := l, seg := (laneAddr cx m l).1, off := (laneAddr cx m l).2.toNat, n := ceilDiv (n * f.w) 8 } bs
        ∧ ∀ r q, r < k → q < f.k → ∃ w ∈ fl.writes, w.reg = d.toNat + r ∧ laneIn w.mask l = true
          ∧ subElem (w.val.lane l) f.w q = if r * f.k + q < n then ofBytes bs / 2 ^ ((r * f.k + q) * f.w) % 2 ^ f.w else 0)

/-- 06 R154: ldfr of scaled sectors: the first sector of the lowest lane gives the block size; every active lane's row
is read in whole sectors, whose headers must agree with it; codes go to the run and scales behind them. -/
def Sys2Proof.Claims.FragmentSectors : Prop :=
  ∀ (g : Guard) (fs : BitVec 4) (h : Hint) (d : RegIx) (m : Addr) (c : Src) (s s0 s1 s2 s3 : State) (cx : Cx) (v : Word)
    (r0 rs : List Region) (ys xs : List (Piece × Got)) (hb : List Byte),
    let i : Instr := .ldfr g fs h d m c
    let u := runMemUses m [] c [d.toNat] [d.toNat] fs
    let f := cx.fmt fs
    let n := v.toNat % 65536
    let k := ceilDiv n f.k
    let least := k + ceilDiv (ceilDiv n 32) 6
    let ms : Members := { reads := [], writes := runOf d.toNat least }
    wellFormed cx.env i = true → ReadyRuns s g u ms cx → cx.eff ≠ 0 → cx.p.fills = [] →
    (∀ l, laneIn cx.eff l = true → (cx.src c).lane l = v) → v.getLsbD 31 = true →
    let cx0 := cx.fetched u ms
    let first := (byteAccs cx m 64).take 1
    earlyFault cx 64 (byteAccs cx m 64) = none → 1 ≤ n → n ≤ 32 * f.k → runBad cx d.toNat least 32 = false →
    (s.fetched cx u ms).probe cx0 .read (byteAccs cx m 64) = .ok r0 s0 → readAccess s0 cx0 h r0 first = .inl (ys, s1) →
    laneBytes ys (lowLane cx) = some hb →
    let h0 := (hb.getD 0 0).toNat
    let bl := headerBlock h0
    let nb := sectorBlocks bl f.w
    let e := nb * bl
    let more := ceilDiv (ceilDiv n bl) 6
    let accs := byteAccs cx m (64 * ceilDiv n e)
    headerBsz h0 ≠ 3 → nb ≠ 0 → runBad cx d.toNat (k + more) 32 = false →
    s1.holdRest cx0 (runOf d.toNat (k + more)) = none → scratchFault cx.scratchSize accs = none →
    s1.probe cx0 .read accs = .ok rs s2 → readAccess s2 cx0 h rs accs = .inl (xs, s3) → allRead xs = true →
    let sector (l j : Nat) : Nat := ofBytes ((((laneBytes xs l).getD []).drop (64 * j)).take 64)
    (∀ l j, laneIn cx.eff l = true → j < ceilDiv n e → rowHeaderOk fs (headerBsz h0) (sector l j % 256) = true) →
    ∃ t gt fl, exec i s = .next t ∧ Flew s3 t cx g fl gt ∧ fl.kind = .load ∧ fl.dests = runOf d.toNat (k + more)
      ∧ fl.due = []
      ∧ (∀ r l q, r < k → l < cx.g.width → laneIn cx.eff l = true → q < f.k →
        ∃ w ∈ fl.writes, w.reg = d.toNat + r ∧ laneIn w.mask l = true
          ∧ subElem (w.val.lane l) f.w q = let x := r * f.k + q
            if x < n then sectorElem (sector l (x / e)) nb f.w (x % e) else 0)
      ∧ ∀ r l q, r < more → l < cx.g.width → laneIn cx.eff l = true → q < 6 →
        ∃ w ∈ fl.writes, w.reg = d.toNat + k + r ∧ laneIn w.mask l = true
          ∧ subElem (w.val.lane l) 10 q = let b := 6 * r + q
            if b < ceilDiv n bl then sectorScale (sector l (b / nb)) (b % nb) else 0

/-- 05 R115, R116: pref leaves local memory, host memory and what the cluster sees as its translations left them, but
for lines that made room: their written bytes go home. cwb and cinv leave no dirty byte of their lines in the cluster L1,
and what was dirty there is what the cluster then sees; cwb changes no byte that it sees, and cinv leaves none of its
own copies. -/
def Obligations.CacheWords : Prop :=
  (∀ (g : Guard) (sc : Scope) (h : Hint) (m : Addr) (s : State) (cx : Cx), wellFormed cx.env (.pref g sc h m) = true →
    Ready s g (memUses m (.spec .zero) (.spec .zero) []) cx → segFault (lineAccs cx m) = none →
    let s1 := ((s.fetched cx (memUses m (.spec .zero) (.spec .zero) [])).translateAll (.core cx.g.core) cx.ctx .probe
      (accRuns (lineAccs cx m))).2
    ∃ t gt e, exec (.pref g sc h m) s = .next t ∧ Done e t cx g gt
      ∧ (cx.eff ≠ 0 → unmoved s1 → Kept s1 e cx.g.core.clus (fun _ => False))
      ∧ (cx.eff = 0 → e = s.fetched cx (memUses m (.spec .zero) (.spec .zero) []))
      ∧ (∀ x ∈ e.poison, x ∈ s1.poison))
  ∧ ∀ (g : Guard) (inv : Bool) (sc : Scope) (m : Addr) (s s1 : State) (cx : Cx) (i : Instr) (rs : List Region),
    i = (if inv then .cinv g sc m else .cwb g sc m) → wellFormed cx.env i = true →
    let u := memUses m (.spec .zero) (.spec .zero) []
    Ready s g u cx → cx.eff ≠ 0 → segFault (lineAccs cx m) = none →
    (s.fetched cx u).probe (cx.fetched u) .probe (lineAccs cx m) = .ok rs s1 →
    let s2 := (lineSectors rs (lineAccs cx m)).foldl
      (fun s sec => s.maintain (cx.fetched u) sc (linePieces rs (lineAccs cx m)) sec) s1
    (∀ sec ∈ lineSectors rs (lineAccs cx m), s2.maintains (cx.fetched u) sc sec = false) →
    ∃ t gt e, exec i s = .next t ∧ Done e t cx g gt
      ∧ (unmoved s1 → inv = false → ∀ q, isLocal q = true ∨ l2Room s1 →
          seenAt e cx.g.core.clus q = seenAt s1 cx.g.core.clus q)
      ∧ (unmoved s1 → ∀ q x, s1.l1Sector cx.g.core.clus (sectorOf q) = some x → isPeer (sectorBase (sectorOf q)) = false →
          sectorOf q ∈ lineSectors rs (lineAccs cx m) → laneIn x.mask (q % 64) = true →
          seenAt e cx.g.core.clus q = x.bytes.getD (q % 64) 0)
      ∧ ∀ sec ∈ lineSectors rs (lineAccs cx m), match e.l1Sector cx.g.core.clus sec with
          | some x => inv = false ∧ x.mask = 0
          | none => True

/-- 05 R117, 10 R226, R227: ldq takes from a strand's head the entries its active lanes fill, stq adds entries at its
tail; ldq waits for data and stq for room. Sources that differ trap with 0x04, and a bank that is no strand of the
context's, or one that stq finds draining, with 0x09, detail 3. -/
def Sys2Proof.Claims.StrandWords : Prop :=
  (∀ (g : Guard) (wd : Width) (d : RegIx) (a v : Src) (off : BitVec 32) (push : Bool) (s : State) (cx : Cx) (i : Instr)
      (u : Uses),
    (i, u) = (if push then (.stq g wd a off v, usesOf [a, v] []) else (.ldq g wd d a off, usesOf [a] [d])) →
    wellFormed cx.env i = true → Ready s g u cx → cx.eff ≠ 0 →
    let x := ((cx.src a).firstIn cx.eff + off.signExtend 64).toNat
    ((cx.src a).equalIn cx.eff = false → exec i s = (s.fetched cx u).raise cx.gid (cx.precise 0x04 0 0))
    ∧ ((cx.src a).equalIn cx.eff = true →
        32 ≤ x ∨ s.strandOpen cx.g.core.clus x cx.ctx = false
          ∨ (push = true ∧ (s.bank cx.g.core.clus x).target ≠ none) →
        exec i s = (s.fetched cx u).raise cx.gid { cx.precise 0x09 3 0 with lane := BitVec.ofNat 16 (lowLane cx) }))
  ∧ (∀ (g : Guard) (wd : Width) (d : RegIx) (a : Src) (off : BitVec 32) (s : State) (cx : Cx) (b : Nat),
    wellFormed cx.env (.ldq g wd d a off) = true → Ready s g (usesOf [a] [d]) cx → cx.eff ≠ 0 →
    strandOf s cx a off false = .inl b →
    let k := s.bank cx.g.core.clus b
    let z := widthBytes wd
    let n := ceilDiv (laneCount cx.eff * z) 64
    (filledHead n k.strand = none → exec (.ldq g wd d a off) s = .next (s.fetched cx (usesOf [a] [d])))
    ∧ ∀ bs, filledHead n k.strand = some bs → ∃ t gt f e, exec (.ldq g wd d a off) s = .next t ∧ Flew e t cx g f gt
        ∧ e.bank cx.g.core.clus b = { k with strand := k.strand.drop n } ∧ e.mem = s.mem ∧ e.hostMem = s.hostMem
        ∧ f.dests = [d.toNat] ∧ f.due = []
        ∧ ∀ l, l < cx.g.width → laneIn cx.eff l = true → ∃ w ∈ f.writes, w.reg = d.toNat ∧ laneIn w.mask l = true
          ∧ w.val.lane l = extendLoad wd ((bs.drop (((lanes cx.eff).filter (fun j => decide (j < l))).length * z)).take z))
  ∧ ∀ (g : Guard) (wd : Width) (a : Src) (off : BitVec 32) (v : Src) (s : State) (cx : Cx) (b : Nat),
    wellFormed cx.env (.stq g wd a off v) = true → Ready s g (usesOf [a, v] []) cx → cx.eff ≠ 0 →
    strandOf s cx a off true = .inl b →
    let k := s.bank cx.g.core.clus b
    let bs := (lanes cx.eff).flatMap (fun l => toBytes (widthBytes wd) ((cx.src v).lane l).toNat)
    let es := entriesOf 0 bs
    (1024 < k.strand.length + es.length → exec (.stq g wd a off v) s = .next (s.fetched cx (usesOf [a, v] [])))
    ∧ (k.strand.length + es.length ≤ 1024 → ∃ t gt e, exec (.stq g wd a off v) s = .next t ∧ Done e t cx g gt
        ∧ e.bank cx.g.core.clus b = { k with strand := k.strand ++ es } ∧ e.mem = s.mem ∧ e.hostMem = s.hostMem)

/-- 05 R112, R123, R124: waitac goes on where its counter is at most T, qfence where no copy of the named queues is
pending; each waits otherwise. A fence that releases goes on once the cluster's written bytes are home at its scope and no
request of the group is open, and waits until then; one that only acquires waits for nothing. -/
def Sys2Proof.Claims.WaitWords : Prop :=
  (∀ (g : Guard) (n : BitVec 4) (t0 : BitVec 6) (s : State) (cx : Cx), wellFormed cx.env (.waitac g n t0) = true →
    Ready s g Uses.none cx →
    (cx.g.ac n.toNat ≤ t0.toNat → ∃ t gt, exec (.waitac g n t0) s = .next t ∧ Moved s t cx g (cx.p.pc + 16) gt)
    ∧ (t0.toNat < cx.g.ac n.toNat → exec (.waitac g n t0) s = .next (s.fetched cx Uses.none)))
  ∧ (∀ (g : Guard) (q : BitVec 8) (s : State) (cx : Cx) (t0 : Team), wellFormed cx.env (.qfence g q) = true →
    Ready s g Uses.none cx → s.team? (tidOf cx.gid) = some t0 →
    ((∀ k, k < 8 → q.getLsbD k = true → (t0.queue k).pending = []) →
      ∃ t gt, exec (.qfence g q) s = .next t ∧ Moved s t cx g (cx.p.pc + 16) gt)
    ∧ ((∃ k, k < 8 ∧ q.getLsbD k = true ∧ (t0.queue k).pending ≠ []) → exec (.qfence g q) s = .next (s.fetched cx Uses.none)))
  ∧ ∀ (g : Guard) (o : Order) (sc : Scope) (s s1 : State) (cx : Cx), wellFormed cx.env (.fence g o sc) = true →
    Ready s g Uses.none cx → cx.eff ≠ 0 → ∀ ready,
    let s0 := s.fetched cx Uses.none
    let who (_ : Nat) := (cx.fetched Uses.none).who
    (if releases o then s0.releaseAt (cx.fetched Uses.none) sc else (true, s0)) = (ready, s1) →
    (ready = true → releases o = false ∨ s0.openOf cx.gid = false → ∃ t gt, exec (.fence g o sc) s = .next t
      ∧ Done (if acquires o then s1.acquireAt cx.g.core.clus cx.ctx who sc else s1) t cx g gt)
    ∧ (ready = false ∨ (releases o = true ∧ s0.openOf cx.gid = true) → exec (.fence g o sc) s = .next s1)

/-! ### Atomics -/

/-- 05 R125 to R127: where every active lane names one word, in scratch or in local memory, an integer atomic leaves it
as the lanes' operations in ascending order would, and atom and acas put what each lane found in flight to D. -/
def Obligations.AtomicOneWord : Prop :=
  ∀ (g : Guard) (op : AtomOp) (b64 : Bool) (sc : Scope) (kind : Nat) (d : RegIx) (m : Addr) (b c : Src) (s s1 : State)
    (cx : Cx) (i : Instr) (u : Uses) (rs : List Region) (seg : BitVec 8) (off : Nat) (tm : Team),
    (i, u) = (match kind with
      | 0 => (.red g op b64 0 .plain sc m b, memUses m b (.spec .zero) [])
      | 1 => (.atom g op b64 0 .plain sc d m b, memUses m b (.spec .zero) [d.toNat])
      | _ => (.acas g b64 .plain sc d m b c, memUses m b c [d.toNat])) →
    op ∉ [.fadd, .fmin, .fmax] → wellFormed cx.env i = true → Ready s g u cx → cx.eff ≠ 0 → cx.g.width ∈ [8, 16, 32, 64] →
    (∀ l, laneIn cx.eff l = true → l < cx.g.width) → s.team? (tidOf cx.gid) = some tm →
    (∀ l, laneIn cx.eff l = true → (laneAddr cx m l).1 = seg ∧ (laneAddr cx m l).2.toNat = off) →
    let nb := if b64 then 8 else 4
    let accs := byteAccs cx m nb
    earlyFault cx nb accs = none → (s.fetched cx u).probe (cx.fetched u) .atomic accs = .ok rs s1 → unmoved s1 →
    let a := if seg = 0xFE then off else placeIn rs seg off
    (seg ≠ 0xFE → isLocal a = true ∧ s1.isPoisoned (sectorOf a) = false ∧ sc ≠ .sys
      ∧ (sc = .dev → s1.l1Sector cx.g.core.clus (sectorOf a) = none)) →
    let lowOf (x : Src) (l : Nat) : Nat := ((cx.src x).lane l).toNat % 2 ^ (8 * nb)
    let r := inTurn (fun l v => if kind = 0 ∨ kind = 1 then onWord op (8 * nb) v (lowOf b l)
      else if v = lowOf b l then lowOf c l else v) (lanes cx.eff) (wordAt s1 cx seg a nb)
    ∃ t gt e, exec i s = .next t ∧ Next e t cx g gt ∧ cx.g.keeps gt [] ∧ cx.g.onlyRegs gt
      ∧ e.sameMemory t cx ∧ e.onlyGroups t
      ∧ wordAt e cx seg a nb = r.2
      ∧ (∀ q, seg ≠ 0xFE ∨ q < a ∨ a + nb ≤ q → scratchAt e cx q = scratchAt s1 cx q)
      ∧ Kept s1 e cx.g.core.clus (fun q => seg ≠ 0xFE ∧ a ≤ q ∧ q < a + nb)
      ∧ (kind ≠ 0 → ∃ f ∈ gt.flight, f.kind = .atom ∧ f.dests = [d.toNat] ∧ f.due = [] ∧ f.waits = []
          ∧ ∀ x ∈ r.1, ∃ w ∈ f.writes, w.reg = d.toNat ∧ laneIn w.mask x.1 = true ∧ (w.val.lane x.1).toNat = x.2)

/-- 05 R126, R128, 12 R255, R263 to R265: any atomic performs its operations between its release and its acquire, counts
the events of what it performs here, and advances DRAW under a stochastic slot; an operation on a peer's memory is on its
way in the result's `waits`, and its acquire follows the answer. `s2` is the machine after the release, `xs` and `s3` what
performing gave. -/
def Obligations.AtomicCompletes : Prop :=
  ∀ (g : Guard) (op : AtomOp) (b64 : Bool) (fs : BitVec 4) (o : Order) (sc : Scope) (kind : Nat) (d : RegIx) (m : Addr)
    (b c : Src) (s s1 s2 s3 : State) (cx : Cx) (i : Instr) (u : Uses) (rs : List Region) (xs : List (AtomJob × Perf)),
    (i, u) = (match kind with
      | 0 => (.red g op b64 fs o sc m b, (memUses m b (.spec .zero) []).withSlots (atomSlots op fs))
      | 1 => (.atom g op b64 fs o sc d m b, (memUses m b (.spec .zero) [d.toNat]).withSlots (atomSlots op fs))
      | _ => (.acas g b64 o sc d m b c, memUses m b c [d.toNat])) →
    (kind ≤ 1 ∨ (op = .exch ∧ fs = 0)) → wellFormed cx.env i = true → Ready s g u cx → cx.eff ≠ 0 →
    (cx.l.det = false ∨ op ≠ .fadd) →
    let nb := atomBytes b64
    let cx0 := cx.fetched u
    let accs := byteAccs cx m nb
    let dst : Option Nat := if kind = 0 then none else some d.toNat
    let at_ := accScope accs sc
    let w : AtomWord := { op := op, b64 := b64, fs := fs, fetches := dst.isSome, sc := at_, reg := dst, serial := s1.serial }
    let js := if kind = 0 ∨ kind = 1 then
        (if op = .exch then accs.map (jobOne cx0 b64 dst.isSome b none)
          else (addrSets accs).map (jobOf cx0 op b64 dst.isSome fs b))
      else accs.map (jobOne cx0 b64 true b (some c))
    let ps := jobPieces w rs js
    (isFloatAtom op = true → (cx.fmt fs).w ≤ 8 * nb) → earlyFault cx nb accs = none →
    (s.fetched cx u).probe cx0 .atomic accs = .ok rs s1 →
    (isFloatAtom op = true ∨ 2 ≤ kind → plainPeer s1 rs accs = none) →
    (if releases o || acquires o then s1.take.2.releaseAt cx0 at_ (storeWho cx0 ps) else (true, s1.take.2)) = (true, s2) →
    let s2' := (sysSectors w rs js).foldl (fun s sec => s.clearPeer cx0 ps sec) s2
    windowFull s2' cx0 w rs js = false → s2'.performAll cx0 w rs js = (xs, s3) →
    xs.all (fun x => goesOn x.2) = true →
    let later := acquires o && xs.any (fun x => x.2.isSent)
    let e := if acquires o && !later then s3.acquireAt cx.g.core.clus cx.ctx (storeWho cx0 ps) at_ else s3
    ∃ t gt p, exec i s = .next t ∧ Next e t cx g gt ∧ cx.g.keeps gt []
      ∧ gt.path cx.slot = some p ∧ p.acquiring = (if later then some w.serial else cx.p.acquiring)
      ∧ gt.counts = cx.g.counts.add (localResults cx0 w xs).2
      ∧ (∀ l, l < 64 → gt.drawOf l = if isFloatAtom op && (cx.fmt fs).sto && laneIn cx.eff l then cx.g.drawOf l + 1
          else cx.g.drawOf l)
      ∧ cx.g.onlyRegs { gt with counts := cx.g.counts, draw := cx.g.draw } ∧ e.sameMemory t cx ∧ e.onlyGroups t
      ∧ (kind ≠ 0 → ∃ f ∈ gt.flight, f.kind = .atom ∧ f.dests = [d.toNat] ∧ f.due = []
          ∧ f.waits = xs.filterMap (fun x => match x.2 with
              | .sent n => some n
              | _ => none)
          ∧ f.writes = laneWrites cx.g.width d.toNat (localResults cx0 w xs).1)

/-- 05 R126, R130, R131: under DET red.fadd puts its combined operations, on memory or on scratch, into the team's buffer
in lane order, and leaves memory and the event counters as they are until the team drains it; where the buffer is full it
waits for the bead. -/
def Sys2Proof.Claims.Contributions : Prop :=
  ∀ (g : Guard) (b64 : Bool) (fs : BitVec 4) (sc : Scope) (m : Addr) (b : Src) (s s1 : State) (cx : Cx) (rs : List Region)
    (tm : Team),
    let i : Instr := .red g .fadd b64 fs .plain sc m b
    let u := (memUses m b (.spec .zero) []).withSlots (fsSlot fs)
    wellFormed cx.env i = true → Ready s g u cx → cx.eff ≠ 0 → cx.l.det = true → s.team? (tidOf cx.gid) = some tm →
    let cx0 := cx.fetched u
    let accs := byteAccs cx m (atomBytes b64)
    (cx.fmt fs).w ≤ 8 * atomBytes b64 → earlyFault cx (atomBytes b64) accs = none →
    (s.fetched cx u).probe cx0 .atomic accs = .ok rs s1 → plainPeer s1 rs accs = none →
    let js := (addrSets accs).map (jobOf cx0 .fadd b64 false fs b)
    let full := Config.contribFull (tm.contrib.length + js.length - 1)
    (full = false ∨ tm.contrib = [] → ∃ t gt t1, exec i s = .next t ∧ Next s1 t cx g gt
      ∧ t.team? (tidOf cx.gid) = some t1
      ∧ t1.contrib.take tm.contrib.length = tm.contrib
      ∧ (t1.contrib.drop tm.contrib.length).map (fun x => (x.gid, x.scratch, x.ga, x.total, x.fdef, x.nodes))
          = js.map (fun j => (cx.gid, j.seg == 0xFE, (if j.seg = 0xFE then j.off else placeIn rs j.seg j.off), j.total,
              cx.g.slotDef fs.toNat, j.nodes))
      ∧ { t1 with contrib := tm.contrib } = tm
      ∧ gt.counts = cx.g.counts
      ∧ (∀ l, l < 64 → gt.drawOf l = if (cx.fmt fs).sto && laneIn cx.eff l then cx.g.drawOf l + 1 else cx.g.drawOf l)
      ∧ cx.g.keeps gt [] ∧ cx.g.onlyRegs { gt with draw := cx.g.draw } ∧ s1.sameMemory t cx ∧ s1.onlyTeams t)
    ∧ (full = true → tm.contrib ≠ [] → s1.holdsBead (tidOf cx.gid) = false →
        exec i s = .next (s1.take.2.modCur cx0 (fun p => { p with onBead := true })))

/-- 05 R126, R130, 11 R240: under DET atom.fadd waits until its team holds the bead, which it then drains the buffer
with, and once the cluster's written bytes are at their homes it acquires at .dev and is performed as without DET. `sb`
is the machine after that, `s2` after its own release, `xs` and `s3` what performing gave. -/
def Sys2Proof.Claims.AtomUnderDet : Prop :=
  ∀ (g : Guard) (b64 : Bool) (fs : BitVec 4) (o : Order) (sc : Scope) (d : RegIx) (m : Addr) (b : Src) (s s1 : State)
    (cx : Cx) (rs : List Region),
    let i : Instr := .atom g .fadd b64 fs o sc d m b
    let u := (memUses m b (.spec .zero) [d.toNat]).withSlots (fsSlot fs)
    wellFormed cx.env i = true → Ready s g u cx → cx.eff ≠ 0 → cx.l.det = true →
    let nb := if b64 then 8 else 4
    let cx0 := cx.fetched u
    let accs := byteAccs cx m nb
    let at_ := accScope accs sc
    let w : AtomWord := { op := .fadd, b64 := b64, fs := fs, fetches := true, sc := at_, reg := some d.toNat
                          serial := s1.serial }
    let js := (addrSets accs).map (jobOf cx0 .fadd b64 true fs b)
    let ps := jobPieces w rs js
    (cx.fmt fs).w ≤ 8 * nb → earlyFault cx nb accs = none → (s.fetched cx u).probe cx0 .atomic accs = .ok rs s1 →
    plainPeer s1 rs accs = none →
    (s1.holdsBead (tidOf cx.gid) = false → exec i s = .next (s1.take.2.modCur cx0 (fun p => { p with onBead := true })))
    ∧ (s1.holdsBead (tidOf cx.gid) = true → ∀ sd sl x y,
        s1.take.2.drainBuffer (tidOf cx.gid) = (x, sd) → sd.drainL1 cx.g.core.clus = (y, sl) →
        (x = false ∨ y = false → exec i s = .next sl)
        ∧ (x = true → y = true →
          let sb := sl.acquireAt cx.g.core.clus cx.ctx (fun _ => cx0.who) .dev
          ∀ s2 s3 gb xs, sb.group? cx.gid = some gb →
            (if releases o || acquires o then sb.releaseAt cx0 at_ (storeWho cx0 ps) else (true, sb)) = (true, s2) →
            let s2' := (sysSectors w rs js).foldl (fun s sec => s.clearPeer cx0 ps sec) s2
            windowFull s2' cx0 w rs js = false → s2'.performAll cx0 w rs js = (xs, s3) →
            xs.all (fun x => goesOn x.2) = true →
            let later := acquires o && xs.any (fun x => x.2.isSent)
            let e := if acquires o && !later then s3.acquireAt cx.g.core.clus cx.ctx (storeWho cx0 ps) at_ else s3
            ∃ t gt f, exec i s = .next t ∧ Next e t cx g gt ∧ gb.keeps gt []
              ∧ gt.counts = gb.counts.add (localResults cx0 w xs).2
              ∧ (∀ l, l < 64 → gt.drawOf l = if (cx.fmt fs).sto && laneIn cx.eff l then gb.drawOf l + 1 else gb.drawOf l)
              ∧ gb.onlyRegs { gt with counts := gb.counts, draw := gb.draw } ∧ e.sameMemory t cx ∧ e.onlyGroups t
              ∧ f ∈ gt.flight ∧ f.kind = .atom ∧ f.dests = [d.toNat] ∧ f.due = []
              ∧ f.writes = laneWrites cx.g.width d.toNat (localResults cx0 w xs).1))

/-- 05 R131, R132, 11 R240: without DET the bead words only go on; under it they wait for the bead, and bead.drain
performs the buffer first; then, once the cluster's written bytes are at their homes, it acquires at .dev. -/
def Sys2Proof.Claims.BeadWords : Prop :=
  ∀ (g : Guard) (drain : Bool) (s : State) (cx : Cx), wellFormed cx.env (.bead g drain) = true →
    Ready s g Uses.none cx → cx.eff ≠ 0 →
    let s0 := s.fetched cx Uses.none
    let cx0 := cx.fetched Uses.none
    (cx.l.det = false → ∃ t gt, exec (.bead g drain) s = .next t ∧ Moved s t cx g (cx.p.pc + 16) gt)
    ∧ (cx.l.det = true → s.holdsBead (tidOf cx.gid) = false →
        exec (.bead g drain) s = .next (s0.modCur cx0 (fun p => { p with onBead := true })))
    ∧ (cx.l.det = true → s.holdsBead (tidOf cx.gid) = true → ∀ s1 s2 a b,
        (if drain then s0.drainBuffer (tidOf cx.gid) else (true, s0)) = (a, s1) → s1.drainL1 cx.g.core.clus = (b, s2) →
        (a = true → b = true → ∃ t gt ge, exec (.bead g drain) s = .next t
          ∧ (let e := s2.acquireAt cx.g.core.clus cx.ctx (fun _ => cx0.who) .dev
            e.group? cx.gid = some ge ∧ Next e t cx g gt ∧ ge.keeps gt [] ∧ ge.onlyRegs gt ∧ e.sameMemory t cx
              ∧ e.onlyGroups t)
          ∧ cx.g.keeps gt [])
        ∧ (a = false ∨ b = false → exec (.bead g drain) s = .next s2))

/-! ### Clasps -/

/-- 05 R133 to R135: what clexp, clinit and an arrival do to a clasp; `ofGroup` tells a group's arrival from an engine's,
whose bytes alone count where every arrival is in. The model's own count of phases goes on with each. -/
def Sys2Proof.Claims.ClaspRules : Prop :=
  ∀ (x : Clasp) (c : BitVec 16) (b : BitVec 32) (ofGroup : Bool),
    let due (y : Clasp) : Bool := y.count != 0 && y.arrived == y.count && decide (y.expb.toNat ≤ y.bytes.toNat)
    let after (y : Clasp) : Clasp := if due y then
        { ovr := decide (y.expb.toNat < y.bytes.toNat), pers := y.pers, phase := !y.phase, count := if y.pers then y.count else 0,
          arrived := 0, expb := 0, bytes := 0, gen := y.gen + 1 }
      else y
    (x.arrived ≠ 0 → x.init c = none)
    ∧ (x.arrived = 0 → x.init c = some
        { ovr := false, pers := c != 0, phase := false, count := c, arrived := 0, expb := 0, bytes := 0, gen := x.gen + 2 })
    ∧ x.expect b = after { x with expb := x.expb + b }
    ∧ (c ≠ 0 → x.count ≠ 0 → c ≠ x.count → x.arrive c b ofGroup = none)
    ∧ (c ≠ 0 → x.count = 0 → c.toNat ≤ x.arrived.toNat → x.arrive c b ofGroup = none)
    ∧ (x.count ≠ 0 → x.arrived = x.count → c = 0 ∨ c = x.count →
        x.arrive c b ofGroup = if ofGroup then none else some (after { x with bytes := x.bytes + b }))
    ∧ (x.count ≠ 0 → x.arrived.toNat < x.count.toNat → c = 0 ∨ c = x.count →
        x.arrive c b ofGroup = some (after { x with arrived := x.arrived + 1, bytes := x.bytes + b }))
    ∧ (x.count = 0 → x.arrived = 65535 → x.arrive c b ofGroup = none)
    ∧ (x.count = 0 → x.arrived.toNat < 65535 → c = 0 ∨ x.arrived.toNat < c.toNat →
        x.arrive c b ofGroup = some (after { x with count := c, arrived := x.arrived + 1, bytes := x.bytes + b }))

/-- 05 R134 to R136, R139, 07 R183: the clasp words. clinit, clarr and clexp act on the clasp of their team, clarr
giving the phase it found; a conflict traps with 0x05, the clasp in DETAIL and the count in INFO, and lanes of A that
differ with 0x04. clwait and the wait half of clsync end where the phase has changed, go on waiting where it has not, and
trap with 0x06 on an overrun, but for one that the path has seen (log entry 20). -/
def Sys2Proof.Claims.ClaspWords : Prop :=
  ∀ (g : Guard) (kind : Nat) (d : RegIx) (n : BitVec 4) (a : Src) (s : State) (cx : Cx) (i : Instr) (u : Uses) (v : Word)
    (tm : Team),
    (i, u) = (match kind with
      | 0 => (.clinit g n a, usesOf [a] [])
      | 1 => (.clarr g d n a, usesOf [a] [d])
      | 2 => (.clwait g n a, usesOf [a] [])
      | 3 => (.clexp g n a, usesOf [a] [])
      | _ => (.clsync g n a, usesOf [a] [])) →
    wellFormed cx.env i = true → Ready s g u cx → cx.eff ≠ 0 → s.team? (tidOf cx.gid) = some tm →
    let s0 := s.fetched cx u
    let cx0 := cx.fetched u
    let same : Prop := ∀ l, laneIn cx.eff l = true → (cx.src a).lane l = v
    let x := tm.clasp n.toNat
    let c : BitVec 16 := v.extractLsb' 0 16
    let conflict := exec i s = s0.raise cx.gid (cx.precise 0x05 (n.setWidth 16) (c.setWidth 64))
    let becomes (y : Clasp) (t : State) : Prop := ∃ t1, t.team? (tidOf cx.gid) = some t1 ∧ t1.clasp n.toNat = y
      ∧ (∀ k, k ≠ n.toNat → t1.clasp k = tm.clasp k) ∧ { t1 with clasps := tm.clasps } = tm
    let phaseOf (y : Clasp) (ph : Bool) : Nat := if y.phase = ph then y.gen else y.gen - 1
    let wait (k : BitVec 4) (y : Clasp) (ph : Bool) : Waited :=
      let seen := decide (cx.p.seenOver = some (k, phaseOf y ph))
      if y.phase ≠ ph then (if y.ovr && !seen then .over_ else .ends)
      else if decide (y.expb.toNat < y.bytes.toNat) && !seen then .over_ else .goesOn
    let overrun (s' : State) (k : BitVec 4) (y : Clasp) (ph : Bool) :=
      (s'.modCur cx0 (fun p => { p with seenOver := some (k, phaseOf y ph) })).raise cx.gid
        { cx.precise 0x06 (k.setWidth 16) 0 with info := BitVec.ofNat 64 (y.expb.toNat * 2 ^ 32 + y.bytes.toNat) }
    let arrived (y : Clasp) : State := (s0.setClaspOf cx0 n y).modCur cx0 (fun p =>
      { p with cwait := some { clasp := n, phase := x.phase } })
    ((∀ w, ¬ ∀ l, laneIn cx.eff l = true → (cx.src a).lane l = w) → kind ≤ 3 ∨ cx.p.cwait = none →
        exec i s = s0.raise cx.gid (cx.precise 0x04 0 0))
    ∧ (kind = 0 → same → match x.init c with
      | none => conflict
      | some y => ∃ t gt, exec i s = .next t ∧ Next s t cx g gt ∧ cx.g.keeps gt [] ∧ cx.g.onlyRegs gt ∧ becomes y t
          ∧ s.sameMemory t cx ∧ s.onlyTeams t)
    ∧ (kind = 1 → same → match x.arrive c 0 true with
      | none => conflict
      | some y => ∃ t gt, exec i s = .next t ∧ Next s t cx g gt ∧ cx.g.keeps gt [d.toNat] ∧ cx.g.onlyRegs gt ∧ becomes y t
          ∧ cx.g.wrote gt cx.eff d.toNat (fun _ => if x.phase then 1 else 0) ∧ s.sameMemory t cx ∧ s.onlyTeams t)
    ∧ (kind = 3 → same → ∃ t gt, exec i s = .next t ∧ Next s t cx g gt ∧ cx.g.keeps gt [] ∧ cx.g.onlyRegs gt
          ∧ becomes (x.expect (v.extractLsb' 0 32)) t ∧ s.sameMemory t cx ∧ s.onlyTeams t)
    ∧ (kind = 2 → same → match wait n x (v.getLsbD 0) with
      | .ends => ∃ t gt, exec i s = .next t ∧ Moved s t cx g (cx.p.pc + 16) gt
      | .goesOn => exec i s = .next s0
      | .over_ => exec i s = overrun s0 n x (v.getLsbD 0))
    ∧ (4 ≤ kind → same → cx.p.cwait = none → match x.arrive c 0 true with
      | none => conflict
      | some y => match wait n y x.phase with
        | .ends => ∃ t gt p, exec i s = .next t ∧ Next s t cx g gt ∧ cx.g.keeps gt [] ∧ cx.g.onlyRegs gt ∧ becomes y t
            ∧ gt.path cx.slot = some p ∧ p.cwait = none ∧ s.sameMemory t cx ∧ s.onlyTeams t
        | .goesOn => exec i s = .next (arrived y) ∧ becomes y (arrived y)
        | .over_ => exec i s = overrun (arrived y) n y x.phase)
    ∧ (4 ≤ kind → ∀ w, cx.p.cwait = some w → match wait w.clasp (tm.clasp w.clasp.toNat) w.phase with
        | .ends => ∃ t gt p, exec i s = .next t ∧ Moved s t cx g (cx.p.pc + 16) gt ∧ gt.path cx.slot = some p ∧ p.cwait = none
        | .goesOn => exec i s = .next s0
        | .over_ => exec i s = overrun s0 w.clasp (tm.clasp w.clasp.toNat) w.phase)

/-! ### Matrix instructions -/

/-- The word and the scheme of a matrix instruction. -/
def matrixForm (g : Guard) (fs sb sc : BitVec 4) (bs : Option BlockSize) (d a b mk : RegIx) (c : Option RegIx) :
    Instr × MatrixWord :=
  let w (n : Nat) : MatrixWord :=
    { fs := fs, sb := sb, sc := sc, block := n, d := d.toNat, a := a.toNat, b := b.toNat, c := c.map (·.toNat), kreg := mk.toNat }
  match c, bs with
  | some r, some k => (.mmas g fs sb sc k d a b r mk, w (blockLen k))
  | some r, none => (.mma g fs sb sc d a b r mk, w 0)
  | none, _ => (.mmaz g fs sb sc d a b mk, w 0)

/-- What it names before its runs are known. -/
def matrixUses (w : MatrixWord) : Uses :=
  { reads := [w.kreg], writes := [], runs := [], slots := [(w.fs, 1), (w.sb, 2), (w.sc, 3)]
    fields := [[w.a], [w.b], w.c.toList] }

/-- 06 R144, R150 to R152, R161 to R163, 10 R232: mma, mmas and mmaz capture their runs, put the D run in flight, and take
an entry of the core's table, or wait for one; DRAW of every lane advances under a stochastic slot. -/
def Sys2Proof.Claims.MatrixIssue : Prop :=
  ∀ (g : Guard) (fs sb sc : BitVec 4) (bs : Option BlockSize) (d a b mk : RegIx) (c : Option RegIx) (s s1 : State) (cx : Cx)
    (ok : Bool) (i : Instr) (w : MatrixWord),
    (i, w) = matrixForm g fs sb sc bs d a b mk c →
    let u := matrixUses w
    let ms := matrixMembers w cx
    wellFormed cx.env i = true → ReadyRuns s g u ms cx → cx.eff = cx.g.full → cx.g.width ∈ [8, 16, 32, 64] →
    let v := (cx.g.val mk.toNat).lane 0
    let x := Machine.shapeOf v
    let r := runsOf cx w x
    (∀ l, l < cx.g.width → (cx.g.val mk.toNat).lane l = v) →
    shapeOk v cx.g.width (cx.fmt fs).k (cx.fmt sb).k (w.block != 0) = true →
    (w.block ≠ 0 → badScale (cx.g.slotDef x.scs.toNat) = false) → runsBad cx w r = false →
    (s.fetched cx u ms).reserve (cx.fetched u ms) = (ok, s1) →
    (ok = true → ∃ t gt f, exec i s = .next t ∧ Next s t cx g gt ∧ cx.g.keeps gt [] ∧ cx.g.onlyRegs { gt with draw := cx.g.draw }
      ∧ f ∈ gt.flight ∧ f.kind = .matrix ∧ f.dests = runOf d.toNat r.gd ∧ f.job = some (jobFor cx w x r)
      ∧ (∀ l, l < 64 → gt.drawOf l = if (cx.fmt sc).sto && laneIn cx.g.full l then cx.g.drawOf l + 1 else cx.g.drawOf l)
      ∧ (t.core cx.g.core).resv = (s.core cx.g.core).resv ++ [
          { gid := cx.gid, serial := f.serial, capture := (r.aRun w ++ r.bRun w ++ r.cRun w ++ [w.kreg]).dedup, captured := false }]
      ∧ s.sameMemory t cx ∧ s.onlyGroups { t with cores := s.cores })
    ∧ (ok = false → exec i s = .next s1)

/-- 06 R144, R152, R154, R156: lanes missing from the mask, or MK not one value, trap with 0x04; a shape out of range or a
run that does not fit or overlaps what it may not with 0x01, detail 0x0B; a slot that cannot hold scales with 0x02, detail
4. -/
def Sys2Proof.Claims.MatrixTraps : Prop :=
  ∀ (g : Guard) (fs sb sc : BitVec 4) (bs : Option BlockSize) (d a b mk : RegIx) (c : Option RegIx) (s : State) (cx : Cx)
    (i : Instr) (w : MatrixWord),
    (i, w) = matrixForm g fs sb sc bs d a b mk c →
    let u := matrixUses w
    let ms := matrixMembers w cx
    wellFormed cx.env i = true → ReadyRuns s g u ms cx →
    let v := (cx.g.val mk.toNat).firstIn cx.g.full
    let x := Machine.shapeOf v
    let whole := cx.eff = cx.g.full ∧ (cx.g.val mk.toNat).equalIn cx.g.full = true
    let fits := shapeOk v cx.g.width (cx.fmt fs).k (cx.fmt sb).k (w.block != 0) = true
    let scaled := w.block = 0 ∨ badScale (cx.g.slotDef x.scs.toNat) = false
    let traps (code : BitVec 8) (detail : BitVec 16) : Prop :=
      exec i s = (s.fetched cx u ms).raise cx.gid (cx.precise code detail 0)
    (¬ whole → traps 0x04 0)
    ∧ (whole → ¬ fits → traps 0x01 0x0B)
    ∧ (whole → fits → ¬ scaled → traps 0x02 4)
    ∧ (whole → fits → scaled → runsBad cx w (runsOf cx w x) = true → traps 0x01 0x0B)

/-- 06 R157: with integer formats of at most 16 bits, an element of D is the sum of products and c, rounded once into
the slot. -/
def Obligations.MatrixElement : Prop :=
  ∀ (j : MatrixJob) (m n : Nat) (xs : List RegVal), j.block = 0 → j.c = .regs xs →
    j.fmtA.isInt = true → j.fmtB.isInt = true → j.fmtC.isInt = true → j.fmtA.w ≤ 16 → j.fmtB.w ≤ 16 →
    let num (f : Fmt) (c : Nat) : Rat := match f.decodeInt c with
      | .rat q => q
      | _ => 0
    let sum : Rat := ((List.range j.k).map (fun k =>
        num j.fmtA (runCode j.a j.fmtA 0 m k) * num j.fmtB (runCode j.b j.fmtB (n / j.w * j.gb) (n % j.w) k))).sum
      + num j.fmtC (runCode xs j.fmtC 0 m n)
    (j.elem m n).val = (round j.fmtC (j.key m n 0) (Num.ofRat sum)).val

/-! ### Engine words, banks and control registers -/

/-- 07 R165, R168, R173, R178: tmpl sets a valid template of the team and deletes one whose record fails a check, with
trap 0x07 and the lowest reason; coll posts a collective once its release is done; launch hands its record to the queue; each waits where there is no room for another.
`bs` is the record as the cluster reads it, `s2` the machine after the read. -/
def Sys2Proof.Claims.EngineWords : Prop :=
  ∀ (g : Guard) (kind : Nat) (x : BitVec 6) (op : CollOp) (arr : Bool) (seg q : BitVec 8) (a : Src) (s s1 s2 : State)
    (cx : Cx) (i : Instr) (off : Word) (rs : List Region) (xs : List (Piece × Got)) (bs : List Byte) (tm : Team),
    i = (match kind with
      | 0 => .tmpl g x seg a
      | 1 => .coll g op arr seg a
      | _ => .launch g seg q a) →
    wellFormed cx.env i = true → Ready s g (usesOf [a] []) cx → cx.eff ≠ 0 → s.team? (tidOf cx.gid) = some tm →
    (∀ l, laneIn cx.eff l = true → (cx.src a).lane l = off) → seg.toNat < 0xFC → off.toNat % 64 = 0 →
    let cx0 := cx.fetched (usesOf [a] [])
    let acc : LaneAcc := { lane := lowLane cx, seg := seg, off := off.toNat, n := if kind = 0 ∨ kind = 1 then 64 else 256 }
    (2 ≤ kind → (s.queue q.toNat).ctx.toNat = cx.ctx ∧ (s.queue q.toNat).en = true) →
    (s.fetched cx (usesOf [a] [])).probe cx0 .read [acc] = .ok rs s1 →
    readAccess s1 cx0 .dflt rs [acc] = .inl (xs, s2) → laneBytes xs (lowLane cx) = some bs →
    (kind = 1 → Config.collsFull (s.collCount cx.ctx) = true → exec i s = .next s2)
    ∧ (2 ≤ kind → Config.launchBufferFull (s.queue q.toNat).buffered = true → exec i s = .next s2)
    ∧ (kind = 0 → (∀ r, tmplBad (recordWords bs) cx.l.clasps = some r →
        exec i s = (s2.modTeam (tidOf cx.gid) (fun t => { t with tmpls := Tab.erase t.tmpls x.toNat })).raise cx.gid
          (cx.precise 0x07 r (x.setWidth 64)))
      ∧ (tmplBad (recordWords bs) cx.l.clasps = none → ∃ t gt t1, exec i s = .next t ∧ Next s2 t cx g gt
          ∧ cx.g.keeps gt [] ∧ cx.g.onlyRegs gt ∧ t.team? (tidOf cx.gid) = some t1
          ∧ Tab.get? t1.tmpls x.toNat = some (recordWords bs)
          ∧ (∀ k, k ≠ x.toNat → Tab.get? t1.tmpls k = Tab.get? tm.tmpls k) ∧ { t1 with tmpls := tm.tmpls } = tm
          ∧ s2.sameMemory t cx ∧ s2.onlyTeams t))
    ∧ (kind = 1 → Config.collsFull (s.collCount cx.ctx) = false → ∀ e, s2.releaseAt cx0 .sys = (true, e) →
        ∃ t gt n, exec i s = .next t ∧ Next e t cx g gt ∧ cx.g.keeps gt [] ∧ cx.g.onlyRegs gt
          ∧ t.colls = e.colls ++ [(n, newColl cx.ctx cx.gid op arr (recordWords bs))]
          ∧ e.sameMemory t cx ∧ e.onlyGroups { t with colls := e.colls })
    ∧ (2 ≤ kind → Config.launchBufferFull (s.queue q.toNat).buffered = false → ∀ e, s2.releaseAt cx0 .dev = (true, e) →
        ∃ t gt, exec i s = .next t ∧ Next e t cx g gt ∧ cx.g.keeps gt [] ∧ cx.g.onlyRegs gt
          ∧ t.queue q.toNat = { s.queue q.toNat with visible := (s.queue q.toNat).visible ++ [.device cx.ctx bs] }
          ∧ (∀ k, k ≠ q.toNat → t.queue k = s.queue k)
          ∧ e.sameMemory t cx ∧ e.onlyGroups { t with queues := e.queues })

/-- 07 R179, R180: bankm starts a mode change of a bank of its own context and gives the bank's status word; it traps
with 0x09, detail 3, on another's bank. ctlw writes STRICT and TRAPVEC, and traps with 0x09, detail 5, for any other
register. -/
def Sys2Proof.Claims.BankAndControl : Prop :=
  (∀ (g : Guard) (mode : BankMode) (d : RegIx) (b : BitVec 5) (s : State) (cx : Cx),
    wellFormed cx.env (.bankm g mode d b) = true → Ready s g (usesOf [] [d]) cx → cx.eff ≠ 0 →
    let k := s.bank cx.g.core.clus b.toNat
    (k.ownedBy cx.ctx = false → exec (.bankm g mode d b) s
      = (s.fetched cx (usesOf [] [d])).raise cx.gid (cx.precise 0x09 3 0))
    ∧ (k.ownedBy cx.ctx = true → k.target ≠ none → exec (.bankm g mode d b) s = .next (s.fetched cx (usesOf [] [d])))
    ∧ (k.ownedBy cx.ctx = true → k.target = none → ∃ t gt, exec (.bankm g mode d b) s = .next t ∧ Next s t cx g gt
      ∧ cx.g.wrote gt cx.eff d.toNat (fun _ => k.status) ∧ cx.g.keeps gt [d.toNat] ∧ cx.g.onlyRegs gt
      ∧ t.bank cx.g.core.clus b.toNat = (if k.mode = mode then k else { k with target := some mode })
      ∧ (∀ n, n ≠ b.toNat → t.bank cx.g.core.clus n = s.bank cx.g.core.clus n)
      ∧ s.sameMemory t cx ∧ s.onlyGroups { t with clusters := s.clusters }))
  ∧ ∀ (g : Guard) (sel : BitVec 16) (a : Src) (s : State) (cx : Cx) (v : Word),
    wellFormed cx.env (.ctlw g sel a) = true → Ready s g (usesOf [a] []) cx → cx.eff ≠ 0 →
    (∀ l, laneIn cx.eff l = true → (cx.src a).lane l = v) →
    (sel.toNat ≤ 1 → ∃ t gt, exec (.ctlw g sel a) s = .next t ∧ Next s t cx g gt ∧ cx.g.keeps gt [] ∧ cx.g.onlyRegs gt
      ∧ t.ctx cx.ctx = (if sel = 0 then { s.ctx cx.ctx with strict := v.getLsbD 0 }
          else { s.ctx cx.ctx with trapvec := BitVec.ofNat 60 (v.toNat / 16) })
      ∧ (∀ c, c ≠ cx.ctx → t.ctx c = s.ctx c) ∧ s.sameMemory t cx ∧ s.onlyGroups { t with ctxs := s.ctxs })
    ∧ (2 ≤ sel.toNat → exec (.ctlw g sel a) s = (s.fetched cx (usesOf [a] [])).raise cx.gid (cx.precise 0x09 5 0))

/-! ### Results, matrix engine, traps -/

/-- 01 R28, R30, 05 R105, R111: a returned result writes its lanes, adds its events, and makes its traps due; the last
lane of a split-phase load lowers its arrival counter, and while a handler runs its lanes wait for `rte`. -/
def Sys2Proof.Claims.ResultsArrive : Prop :=
  ∀ (s : State) (gid : GroupId) (n : Nat) (g : Group) (f : InFlight), s.group? gid = some g → s.tidy = true →
    s.memoryOk = true → g.phase = .running → (f.writes.map RegWrite.reg).Nodup →
    let arrives (t : State) (h : Group) : Prop := t.group? gid = some h ∧ tookWrites g h f.writes
      ∧ h.counts = g.counts.add f.counts ∧ h.flight = g.flight.filter (fun x => x.serial != n)
      ∧ h.imprecise = g.imprecise ++ f.due
      ∧ g.onlyRegs { h with counts := g.counts, imprecise := g.imprecise, acs := g.acs }
      ∧ buffersOnly g h (f.writes.map RegWrite.reg) ∧ othersStay s t gid ∧ spillsOnly s t gid g
      ∧ s.onlyGroups t
    (g.findFlight n = some f → (f.kind = .load ∨ f.kind = .atom) → f.waits = [] →
      ∃ t h, exec (.loadReply gid n) s = .next t ∧ arrives t h ∧ h.acs = g.acs)
    ∧ (g.findFlight n = some f → f.waits ≠ [] → exec (.loadReply gid n) s = .next s)
    ∧ (∀ ac, g.findFlight n = some f → f.kind = .ldi ac →
      ∃ t h, exec (.ldiArrival gid n) s = .next t ∧ arrives t h
        ∧ ∀ k, h.ac k = if k = ac.toNat then g.ac k - 1 else g.ac k)
    ∧ (∀ ac, g.findFlight n = none → g.preTrap.find? (fun x => x.serial == n) = some f → f.kind = .ldi ac →
      ∃ t h, exec (.ldiArrival gid n) s = .next t ∧ t.group? gid = some h ∧ g.keeps h []
        ∧ h.late = g.late ++ f.writes ∧ h.laterTraps = g.laterTraps ++ f.due
        ∧ h.preTrap = g.preTrap.filter (fun x => x.serial != n)
        ∧ (∀ k, h.ac k = if k = ac.toNat then g.ac k - 1 else g.ac k)
        ∧ othersStay s t gid ∧ { t with groups := s.groups } = s)

/-- 06 R157, R161, R162, 10 R232, 13 R289: captures end in issue order; the oldest captured instruction of a core writes
its D run, each element in rows and columns of its shape and no other lane or element, and a later one chained to
it takes that run as its C; its entry is freed. A waiter that has waited 4096 cycles is raised. -/
def Sys2Proof.Claims.MatrixEngine : Prop :=
  (∀ (s : State) (c : CoreId) (xs ys : List MatrixEntry) (e : MatrixEntry), (s.core c).resv = xs ++ e :: ys →
    xs.all (·.captured) = true → e.captured = false →
    ∃ t, exec (.captureEnd c) s = .next t
      ∧ (t.core c).resv = xs ++ { e with capture := [], captured := true } :: ys
      ∧ (∀ d, d ≠ c → t.core d = s.core d) ∧ { t with cores := s.cores } = s)
  ∧ (∀ (s : State) (c : CoreId) (e : MatrixEntry) (es : List MatrixEntry) (g : Group) (f : InFlight) (j : MatrixJob),
    s.tidy = true → s.memoryOk = true → (s.core c).resv = e :: es → e.captured = true → s.group? e.gid = some g →
    g.findFlight e.serial = some f → f.job = some j → j.w = g.width → g.width ∈ [8, 16, 32, 64] → j.m ≤ j.w →
    Fmt.invalid j.fc = none →
    let k := j.fmtC.k
    ∃ t h, exec (.matrixComplete c) s = .next t ∧ t.group? e.gid = some h
      ∧ (∀ r l q, r < j.gd → l < j.m → q < k → subElem ((h.val (j.d + r)).lane l) j.fmtC.w q
          = if r * k + q < j.n then (j.elem l (r * k + q)).val % 2 ^ j.fmtC.w
            else subElem ((g.val (j.d + r)).lane l) j.fmtC.w q)
      ∧ (∀ r l, r < j.gd → j.m ≤ l → l < g.width → (h.val (j.d + r)).lane l = (g.val (j.d + r)).lane l)
      ∧ g.keeps h (runOf j.d j.gd)
      ∧ (h.flight.map (·.serial)) = (g.flight.filter (fun x => x.serial != e.serial)).map (·.serial)
      ∧ (∀ x y, x ∈ g.flight → x.serial ≠ e.serial → x.job = some y →
          (y.c ≠ .awaits e.serial → x ∈ h.flight)
          ∧ (y.c = .awaits e.serial → ∃ vs, { x with job := some { y with c := .regs vs } } ∈ h.flight
            ∧ vs.length = j.gd ∧ ∀ r l, r < j.gd → l < g.width → (vs.getD r .unwritten).lane l = (h.val (j.d + r)).lane l))
      ∧ g.onlyRegs { h with counts := g.counts } ∧ buffersOnly g h (runOf j.d j.gd)
      ∧ (t.core c).resv = es ∧ (∀ d, d ≠ c → t.core d = s.core d) ∧ othersStay s t e.gid ∧ spillsOnly s t e.gid g
      ∧ s.onlyGroups { t with cores := s.cores, fresh := s.fresh })
  ∧ (∀ (s : State) (c : CoreId), (∀ e ∈ (s.core c).resv.head?, e.captured = false) → exec (.matrixComplete c) s = .next s)
  ∧ ∀ (s : State) (gid : GroupId) (slot : Nat), ∃ t, exec (.matrixPriorityRaise gid slot) s = .next t
      ∧ (∀ c, (t.core c).mwait = (s.core c).mwait.map (fun x =>
          if x.gid = gid ∧ x.slot = slot then { x with raised := true } else x))
      ∧ (∀ c, { t.core c with mwait := (s.core c).mwait } = s.core c) ∧ { t with cores := s.cores } = s

/-- 01 R30, 07 R183 to R185: once a group's short-latency results are written, a pending trap enters the handler, the
precise one before imprecise ones, these in order of arrival with the pc of a slot that still holds a path. That the
cluster's L1 is written back and dropped around the frame is the model's choice (log entry 14), and so is that the
imprecise traps still pending wait for rte (log entry 45). -/
def Sys2Proof.Claims.PendingTraps : Prop :=
  ∀ (s : State) (gid : GroupId) (g : Group) (ti : TrapInfo) (later : List TrapInfo), s.group? gid = some g →
    g.phase = .running → g.settled = true → s.memoryOk = true →
    (g.trap = some ti ∧ later = g.imprecise)
      ∨ (g.trap = none ∧ ∃ x p, g.imprecise = x :: later ∧ ((g.path x.slot = some p ∧ ti = { x with rpc := p.pc })
          ∨ (g.path x.slot = none ∧ g.path (1 - x.slot) = some p ∧ ti = { x with slot := 1 - x.slot, rpc := p.pc }))) →
    let c := s.ctx (s.ctxOf gid.launch)
    let a := frameAddr c gid
    let n := (frameBytes g ti).length
    c.trapvec ≠ 0 → g.inHandler = false → s.areaOk a n = true → apart s a n →
    ∃ t h, exec (.trapTaken gid) s = .next t ∧ t.group? gid = some h ∧ t.homeRead a n = frameBytes g ti
      ∧ elsewhere (s.dropCluster g.core.clus) t a n
      ∧ h.inHandler = true
      ∧ h.p0 = some { Path.start (c.trapvec.setWidth 64 * 16) g.live none with acquiring := g.acquiring } ∧ h.p1 = none
      ∧ h.tframe = BitVec.ofNat 64 a ∧ h.trap = none ∧ h.imprecise = [] ∧ h.laterTraps = later ∧ h.preTrap = g.flight
      ∧ othersStay s t gid

/-! ### Groups and teams -/

/-- 08 R188: a group whose lanes have all exited, with nothing of it on its way and no trap due, retires once its copies have
ended: its slot and registers are free. -/
def Sys2Proof.Claims.GroupRetires : Prop :=
  ∀ (s : State) (gid : GroupId) (g : Group), s.group? gid = some g → g.phase = .running → g.p0 = none → g.p1 = none →
    g.stack = [] → g.flight = [] → g.preTrap = [] → g.trap = none → g.imprecise = [] → g.laterTraps = [] →
    (∀ e ∈ (s.core g.core).resv, e.gid ≠ gid) → (s.copiesOf gid = true → exec (.groupRetire gid) s = .next s)
    ∧ (s.copiesOf gid = false → ∃ t h, exec (.groupRetire gid) s = .next t ∧ t.group? gid = some h
      ∧ h = { g with phase := .retired, regs := [], resident := [], preds := [] } ∧ t.holds gid h = false
      ∧ othersStay s t gid ∧ (l1Clean s → { t with groups := s.groups, teams := s.teams } = s))

/-- 08 R188, 11 R239, 12 R256, 13 R277, 07 R177: a team whose groups have all retired completes once the bytes that its
cluster has written are home and no request of it is open: its successors count down and its partition is free. Without DET it retires with that; under DET it retires once it holds the bead and its buffer is
drained, and passes the bead on. -/
def Sys2Proof.Claims.TeamsEnd : Prop :=
  (∀ (s s0 : State) (tid : TeamId) (x : Team) (l : Launch), s.team? tid = some x → s.launch? tid.launch = some l →
    l.status = none → x.phase = .resident → (∃ e ∈ s.groups, tidOf e.1 = tid) →
    (∀ e ∈ s.groups, tidOf e.1 = tid → e.2.phase = .retired) →
    (s.teamRelease tid x.clus = (false, s0) → l.retiredCount < l.lrec.teams →
      ∃ t, exec (.teamComplete tid) s = .next t ∧ t.team? tid = some x ∧ t.launch? tid.launch = some l)
    ∧ (s.teamRelease tid x.clus = (true, s0) →
    ∃ t y m, exec (.teamComplete tid) s = .next t ∧ t.team? tid = some y ∧ t.launch? tid.launch = some m
      ∧ y.phase = (if l.lrec.det then .exited else .retired) ∧ y.part = false ∧ y.units = [] ∧ y.completed = true
      ∧ m.retiredCount = l.retiredCount + (if l.lrec.det then 0 else 1) ∧ m.bead = l.bead
      ∧ m.npred = countDown (l.succs.getD tid.team []) l.npred ∧ m.runq = l.runq.filter (fun k => k != tid.team)))
  ∧ ∀ (s s1 : State) (tid : TeamId) (x : Team) (l : Launch), s.team? tid = some x → s.launch? tid.launch = some l →
    l.status = none → x.phase = .exited → l.lrec.det = true → l.bead = tid.team → s.drainBuffer tid = (true, s1) →
    ∃ t y m, exec (.teamRetire tid) s = .next t ∧ t.team? tid = some y ∧ t.launch? tid.launch = some m
      ∧ y.phase = .retired ∧ m.retiredCount = l.retiredCount + 1 ∧ m.bead = l.bead + 1

/-- 08 R203 to R207: a pre-emption request becomes visible, its grace limit may expire, and the save engine writes the
image of a group that stands at pmark, or in full once its limit has expired, and frees its slot. -/
def Sys2Proof.Claims.GroupSaves : Prop :=
  ∀ (s : State) (gid : GroupId) (g : Group), s.group? gid = some g → g.phase = .running →
    ((s.ctx (s.ctxOf gid.launch)).preq = true → exec (.preemptionRequestVisible gid) s
      = .next (s.setGroup gid { g with preqVisible := true }))
    ∧ (g.preqVisible = true → exec (.graceLimitExpiry gid) s = .next (s.setGroup gid { g with graceOver := true }))
    ∧ ∀ pm, pm = (g.pmarkReady && !g.graceOver) → g.preqVisible = true → (pm = true ∨ g.graceOver = true) → g.acquiring = none →
      (g.p0 ≠ none ∨ g.p1 ≠ none ∨ g.stack ≠ []) → g.flight = [] → g.preTrap = [] →
      (∀ e ∈ (s.core g.core).resv, e.gid ≠ gid) → g.trap = none → g.imprecise = [] → l1Clean s → s.memoryOk = true →
      let a := imageAddr (s.ctx (s.ctxOf gid.launch)) gid g
      let img := saveImage g pm
      s.areaOk a img.length = true → apart s a img.length →
      ∃ t h, exec (.groupSave gid) s = .next t ∧ t.group? gid = some h ∧ h.phase = .saved pm ∧ h.image = img
        ∧ t.homeRead a img.length = img ∧ elsewhere s t a img.length
        ∧ h.regs = [] ∧ h.p0 = none ∧ h.p1 = none ∧ h.stack = [] ∧ h.preqVisible = false ∧ h.graceOver = false
        ∧ t.holds gid h = false ∧ othersStay s t gid

/-- 08 R199 to R202, R208: what a full save puts into the image is what a restore takes out of it. -/
def Sys2Proof.Claims.SaveRoundTrip : Prop :=
  ∀ (g : Group), g.width ∈ [8, 16, 32, 64] → 1 ≤ g.nr → g.nr ≤ 512 → g.stack.length < 512 → g.tidy = true →
    let h := loadImage { g with regs := [], preds := [], p0 := none, p1 := none, stack := [] } (saveImage g false)
    (∀ r, r < g.nr → (h.val r).tag = (g.val r).tag) ∧ (∀ r l, r < g.nr → l < g.width → (h.val r).lane l = (g.val r).lane l)
      ∧ (∀ q, h.pred q = g.pred q) ∧ (∀ n, n < 16 → h.slotDef n = g.slotDef n ∧ h.soffOf n = g.soffOf n)
      ∧ (∀ l, l < g.width → h.drawOf l = g.drawOf l) ∧ h.counts = g.counts ∧ h.exited = g.exited
      ∧ h.depth = g.depth ∧ (∀ n, n < 8 → h.perfCount n = g.perfCount n)
      ∧ ∀ slot p, g.path slot = some p → ∃ q, h.path slot = some q ∧ q.pc = p.pc ∧ q.mask = p.mask

/-- 08 R187, R192, R208, 11 R236, 13 R283, R285: the team whose turn it is becomes resident at the spot that the draw
gives: a new one with empty scratch, clasps and registers at KENTRY, a saved one as its image says; bytes that the cluster
has written go home first. `nextPlacement` is the front end's order. -/
def Sys2Proof.Claims.TeamsPlaced : Prop :=
  ∀ (s : State) (tid : TeamId) (l : Launch) (p : Spot), s.nextPlacement = some (tid.launch, l, .one tid.team p) →
    let s0 := s.wbCluster p.clus
    (s0.l1Dirty p.clus = true → ((∀ x, s.team? tid = some x → x.isSaved = false) → exec (.teamPlace tid) s = .next s0)
      ∧ ((∃ x, s.team? tid = some x ∧ x.isSaved = true) → exec (.teamRestore tid) s = .next s0))
    ∧ (s0.l1Dirty p.clus = false → (∀ x, s.team? tid = some x → x.isSaved = false) →
      ∃ t x, exec (.teamPlace tid) s = .next t ∧ t.team? tid = some x ∧ x.phase = .resident ∧ x.clus = p.clus
        ∧ x.scratch = [] ∧ x.clasps = [] ∧ x.tmpls = [] ∧ x.queues = [] ∧ x.part = true ∧ x.units = p.units
        ∧ (∀ n, n < l.lrec.groups → ∃ g, t.group? (groupOf tid n) = some g ∧ g.phase = .running ∧ g.core = p.coreOf n
            ∧ g.regs = [] ∧ g.preds = [] ∧ g.width = l.lrec.width ∧ g.nr = l.lrec.nr
            ∧ g.p0 = some (Path.start l.lrec.kentry (fullMask l.lrec.width) none) ∧ g.p1 = none ∧ g.stack = []
            ∧ ∀ i, i < 16 → g.slotDef i = if l.lrec.slotv.getLsbD i then l.lrec.fmts.getD i 0 else 0)
        ∧ (∀ o, tidOf o ≠ tid → t.group? o = s.group? o) ∧ (∀ o, o ≠ tid → t.team? o = s.team? o))
    ∧ ∀ x gid g, s0.l1Dirty p.clus = false → s.team? tid = some x → x.isSaved = true → s0.canRestore tid.launch l tid.team x = true →
      s.teamGroups tid = [(gid, g)] → g.isSaved = true → s.memoryOk = true →
      s0.areaRead (imageAddr (s.ctx (s.ctxOf gid.launch)) gid g) g.image.length = g.image →
      s0.areaPoisoned (imageAddr (s.ctx (s.ctxOf gid.launch)) gid g) g.image.length = false →
      ∃ t y h, exec (.teamRestore tid) s = .next t ∧ t.team? tid = some y ∧ y.phase = .resident ∧ y.clus = p.clus
        ∧ (x.phase = .saved → y.scratch = x.scratch)
        ∧ (x.phase = .evicted → ∀ k, k < 256 * l.lrec.scru → Memory.read y.scratch k
            = s0.homeByte (scratchAddr (s.ctx l.ctx) tid.team + k))
        ∧ t.group? gid = some h ∧ h.phase = .running ∧ h.core = p.coreOf gid.grp ∧ h.image = []
        ∧ h.counts = (Counts.ofWord (img8 g.image 0x90)).add g.lateSave
        ∧ (let seen (x : Option (BitVec 4 × Nat)) (p : Option Path) : Option Path :=
            p.map (fun p => { p with seenOver := if g.inHandler then none else x })
          h.p0 = seen g.overSeen.1 (imgPath g.image 0) ∧ h.p1 = seen g.overSeen.2 (imgPath g.image 32)) ∧ h.exited = img8 g.image 0x78
        ∧ (∀ o, tidOf o ≠ tid → t.group? o = s.group? o) ∧ (∀ o, o ≠ tid → t.team? o = s.team? o)

/-- 08 R207, 13 R283, R286: a saved team leaves its partition for its scratch image, zero but for the bytes its groups
keep; a team may wait too long, and a
quantum may expire. -/
def Sys2Proof.Claims.TeamTimers : Prop :=
  (∀ (s : State) (tid : TeamId) (l : Launch) (x : Team), s.launch? tid.launch = some l → s.team? tid = some x →
    x.phase = .saved → l.status = none → (∀ q ∈ x.queues, q.2.pending = []) → s.memoryOk = true →
    ((s.ctx l.ctx).cmd = 3 ∨ s.scratchWanted x.clus l.ctx = true) →
    let a := scratchAddr (s.ctx l.ctx) tid.team
    32768 ≤ a → s.areaOk (a - 32768) (32768 + 256 * l.lrec.scru) = true → l1Clean s →
    apart s (a - 32768) (32768 + 256 * l.lrec.scru) →
    let saved := ((s.teamGroups tid).map Prod.snd).filter Group.isSaved
    ∃ t y, exec (.teamEvict tid) s = .next t ∧ t.team? tid = some y ∧ y.phase = .evicted ∧ y.part = false ∧ y.units = []
      ∧ y.scratch = [] ∧ (∀ k, k < 256 * l.lrec.scru →
          t.homeByte (a + k) = if keepsByte saved k then Memory.read x.scratch k else 0)
      ∧ elsewhere s t (a - 32768) (32768 + 256 * l.lrec.scru)
      ∧ (∀ o, o ≠ tid → t.team? o = s.team? o) ∧ t.groups = s.groups ∧ t.hostMem = s.hostMem)
  ∧ (∀ (s : State) (tid : TeamId) (l : Launch), s.launch? tid.launch = some l → s.mayPlace l = true →
    s.nextTeam tid.launch l = some tid.team →
    ∃ t y, exec (.placementAgeExpiry tid) s = .next t ∧ t.team? tid = some y ∧ y.aged = true
      ∧ (∀ x, s.team? tid = some x → { y with aged := x.aged } = x) ∧ { t with teams := s.teams } = s)
  ∧ ∀ (s : State) (tid : TeamId) (l : Launch) (x : Team), s.launch? tid.launch = some l → s.team? tid = some x →
    l.lrec.quant = true → l.status = none → x.phase = .resident → (s.nextTeam tid.launch l).isSome = true →
    s.anyResident l.ctx = true → (s.ctx l.ctx).preq = false →
    ∃ t m, exec (.quantumExpiry tid) s = .next t ∧ (t.ctx l.ctx).preq = true ∧ (∀ c, c ≠ l.ctx → t.ctx c = s.ctx c)
      ∧ t.launch? tid.launch = some m ∧ (∀ k, k ∈ m.runq ↔ k ∈ l.runq)
      ∧ { t with ctxs := s.ctxs, launches := s.launches } = s

/-! ### The front end -/

/-- 13 R279, R280: a notify or a poll reads TAIL with a .sys acquire; commands it covers become visible, and more than the ring holds halts
the queue and tells the host. A queue that is not enabled, or halted, reads nothing. -/
def Sys2Proof.Claims.TailReads : Prop :=
  ∀ (s : State) (q : Nat) (i : Instr), i = .queueNotify q ∨ i = .tailPoll q → s.tidy = true →
    let x := s.queue q
    let tail : BitVec 32 := BitVec.ofNat 32 (ofBytes ((List.range 4).map (fun i =>
      Memory.read s.hostMem (s.bus (x.ptrs.toNat * 64 + i)))))
    let s1 := s.hubAcquire x.ctx.toNat
    let halts (s' t : State) : Prop := t.queue q = { x with halt := true }
      ∧ t.msix = (if s.qhv.toNat < 2048 then s.msix ++ [s.qhv.toNat] else s.msix)
      ∧ (∀ k, k ≠ q → t.queue k = s.queue k) ∧ { t with queues := s'.queues, msix := s'.msix } = s'
    let n := 2 ^ (min x.log2n.toNat 12 + 4)
    (x.en = false ∨ x.halt = true → exec i s = .next s)
    ∧ (x.en = true → x.halt = false → s.busRefused (x.ptrs.toNat * 64) = false → (tail - x.head).toNat ≤ n →
      ∃ t y, exec i s = .next t ∧ t.queue q = y ∧ y.tail = tail ∧ { y with tail := x.tail, visible := x.visible } = x
        ∧ (x.visible = [] → y.visible
            = (List.range (tail - x.head).toNat).map (fun i => .ring (x.head + BitVec.ofNat 32 i)))
        ∧ (∀ k, k ≠ q → t.queue k = s.queue k) ∧ { t with queues := s1.queues } = s1)
    ∧ (x.en = true → x.halt = false → s.busRefused (x.ptrs.toNat * 64) = true →
      ∃ t, exec i s = .next t ∧ halts s t)
    ∧ (x.en = true → x.halt = false → s.busRefused (x.ptrs.toNat * 64) = false → n < (tail - x.head).toNat →
      ∃ t, exec i s = .next t ∧ halts s1 t)

/-- 07 R176 to R178, 13 R280, R281: a LAUNCH of the ring is taken once the release that writing HEAD is has been made,
HEAD advances in the register and in host memory, and a record whose fields pass their checks becomes a launch with no
team placed. `s0` is the machine after that release, `s1` once the record has been read, `bs` its bytes. -/
def Sys2Proof.Claims.LaunchAccepted : Prop :=
  ∀ (s s0 s1 : State) (q : Nat) (c : RingCmd) (bs : List Byte), s.nextCmd q = .ring c → c.opc = 1 → s.tidy = true →
    s.hubRelease (s.queue q).ctx.toNat = (s0, []) → s0.l2Unsent = false →
    (let x := s0.takeCmd q true
     let y := x.startCmd q (.accepting (s.queue q).ctx.toNat (.at_ c.addr c.seg) false)
     y.2.hubRead (s.queue q).ctx.toNat c.seg c.addr.toNat 256 (frontRec q) false (.frontRead q) = (.ok bs, s1)) →
    let l := LaunchRec.ofWords (recordWords bs)
    launchBad (recordWords bs) l = none → l.depc = false → l.coop = false →
    s.busRefused ((s.queue q).ptrs.toNat * 64) = false → (∀ e ∈ s1.teams, e.1.launch ≠ s1.serial) →
    ∃ t m, exec (.launchCommand q) s = .next t ∧ t.launch? s1.serial = some m ∧ m.lrec = l ∧ m.queue = q
      ∧ m.ctx = (s.queue q).ctx.toNat ∧ m.status = none ∧ m.retiredCount = 0 ∧ m.bead = 0 ∧ m.killed = false
      ∧ (∀ i, i < 4 → Memory.read (s0.takeCmd q true).hostMem (s.bus ((s.queue q).ptrs.toNat * 64 + 8 + i))
          = ((s.queue q).head + 1).extractLsb' (8 * i) 8)
      ∧ (t.queue q).head = (s.queue q).head + 1 ∧ (t.queue q).visible = (s.queue q).visible.drop 1
      ∧ (∃ n, (n, ActiveCmd.launch s1.serial) ∈ (t.queue q).active) ∧ t.teams = s1.teams ∧ t.groups = s1.groups

/-- 13 R281: a WAIT ends once the 64-bit word at its address has reached its value, and is read again until then; a
SIGNAL stores its value once its release is done. The word is in local memory here. -/
def Sys2Proof.Claims.WaitSignal : Prop :=
  (∀ (s s0 s1 : State) (q : Nat) (c : RingCmd) (rs : List Region), s.nextCmd q = .ring c → c.opc = 2 → c.addr.toNat % 8 = 0 →
    s.busRefused ((s.queue q).ptrs.toNat * 64) = false → (s.queue q).active = [] → s.tidy = true →
    s.hubRelease (s.queue q).ctx.toNat = (s0, []) → s0.l2Unsent = false →
    (let y := (s0.takeCmd q true).startCmd q (.wait (s.queue q).ctx.toNat c.addr c.seg c.value false)
     y.2.hubTranslate (s.queue q).ctx.toNat .read [(c.seg, c.addr.toNat, 8)] (frontRec q) false
       = (.ok rs, s1)) →
    let p := placeIn rs c.seg c.addr.toNat
    isLocal p = true → s1.isPoisoned (sectorOf p) = false →
    ∃ t, exec (.wait q) s = .next t ∧ (t.queue q).head = (s.queue q).head + 1
      ∧ ((t.queue q).active = [] ↔ c.value.toNat ≤ ofBytes (s1.homeRead p 8)))
  ∧ (∀ (s s1 : State) (q n ctx : Nat) (addr value : Word) (seg : BitVec 8) (rs : List Region),
    (s.queue q).active = [(n, .wait ctx addr seg value false)] → addr.toNat % 8 = 0 →
    s.tidy = true →
    s.hubTranslate ctx .read [(seg, addr.toNat, 8)] (frontRec q) false = (.ok rs, s1) →
    let p := placeIn rs seg addr.toNat
    isLocal p = true → s1.isPoisoned (sectorOf p) = false →
    ∃ t, exec (.waitPoll q) s = .next t ∧ ((t.queue q).active = [] ↔ value.toNat ≤ ofBytes (s1.homeRead p 8)))
  ∧ ∀ (s s0 s1 s2 : State) (q : Nat) (c : RingCmd) (rs : List Region), s.nextCmd q = .ring c → c.opc = 3 →
    c.addr.toNat % 8 = 0 → s.busRefused ((s.queue q).ptrs.toNat * 64) = false → (s.queue q).active = [] →
    s.tidy = true → s.memoryOk = true → s.migrations = [] →
    s.hubRelease (s.queue q).ctx.toNat = (s0, []) → s0.l2Unsent = false →
    (let y := (s0.takeCmd q true).startCmd q (.write
        { ctx := (s.queue q).ctx.toNat, addr := c.addr, seg := c.seg, data := toBytes 8 c.value.toNat, record := none }
        .stopped)
     y.2.hubRelease (s.queue q).ctx.toNat = (s2, [])
       ∧ s2.hubTranslate (s.queue q).ctx.toNat .write [(c.seg, c.addr.toNat, 8)] (frontRec q) false = (.ok rs, s1)) →
    let p := placeIn rs c.seg c.addr.toNat
    s2.l2Unsent = false → isLocal p = true → p % 64 ≤ 56 →
    ∃ t, exec (.signal q) s = .next t ∧ (t.queue q).active = [] ∧ (t.queue q).head = (s.queue q).head + 1
      ∧ Memory.readN t.mem p 8 = toBytes 8 c.value.toNat
      ∧ ∀ a, a < p ∨ p + 8 ≤ a → Memory.read t.mem a = Memory.read s1.mem a

/-- 13 R291, R292: the stages of a queue's watchdog and KILL: stage 1 requests pre-emption, stage 2 and KILL end every
launch with a placed, unretired team with STATUS 4, and stage 3, T3 units after that, fences the cores that still hold
their groups. -/
def Obligations.Watchdog : Prop :=
  ∀ (s : State) (q : Nat), s.tidy = true →
    let x := s.queue q
    let kills (i : Instr) (w : BitVec 32) : Prop := ∃ t, exec i s = .next t ∧ (t.queue q).stage = 2
      ∧ (t.queue q).killedAt = (if x.stage = 2 ∧ s.lateCores q ≠ [] then x.killedAt else w)
      ∧ ∀ n ∈ s.busyLaunches q, ∃ l, t.launch? n = some l ∧ l.killed = true ∧ l.status = some 4
    (s.boot = 2 → kills (.kill q) x.w) ∧ (s.boot ≠ 2 → exec (.kill q) s = .next s)
    ∧ (x.t1 ≠ 0 → x.stage = 0 → s.counts q = true → ∃ t, exec (.watchdogStage1 q) s = .next t
        ∧ t.queue q = { x with w := x.t1, stage := 1 } ∧ (∀ k, k ≠ q → t.queue k = s.queue k)
        ∧ (s.anyResident x.ctx.toNat = true → (t.ctx x.ctx.toNat).preq = true) ∧ t.groups = s.groups)
    ∧ (x.t1 ≠ 0 → x.t2 ≠ 0 → x.stage = 1 → s.counts q = true → kills (.watchdogStage2 q) (x.t1 + x.t2))
    ∧ (x.t3 ≠ 0 → x.stage = 2 → s.lateCores q ≠ [] →
        ∃ t, exec (.watchdogStage3 q) s = .next t ∧ (t.queue q).stage = 3 ∧ (t.queue q).w = x.killedAt + x.t3
          ∧ (∀ c ∈ s.lateCores q, (t.core c).fenced = true ∧ (t.core c).resv = [])
          ∧ ∀ gid g, s.group? gid = some g → g.core ∈ s.lateCores q → g.phase = .running →
              ∃ h, t.group? gid = some h ∧ h.phase = .halted ∧ h.flight = [])

/-! ### Copies and banks -/

/-- 07 R169, R170, 10 R229: a store of 16 bytes to segment 0xFD posts a copy for each active lane, in lane order, after
a release at .dev; a start that fails a check traps with 0x08 and posts none. -/
def Sys2Proof.Claims.CopyStarts : Prop :=
  ∀ (g : Guard) (h : Hint) (m : Addr) (b : Src) (s s1 s2 : State) (cx : Cx) (rs : List Region) (tm : Team),
    let i : Instr := .st g .b128 .plain .grp h m b
    let u : Uses := stUses .b128 m b
    wellFormed cx.env i = true → Ready s g u cx → cx.eff ≠ 0 → s.team? (tidOf cx.gid) = some tm →
    let cx0 := cx.fetched u
    let accs := byteAccs cx m 16
    let cs := startsOf cx .b128 b accs
    (∀ a ∈ accs, a.seg = 0xFD) → (∀ a ∈ accs, a.off % 16 = 0) →
    (∀ c, cs.find? (fun c => (copyFault s cx tm c).isSome) = some c → ∀ d, copyFault s cx tm c = some d →
      exec i s = (s.fetched cx u).raise cx.gid
        { cx.precise 0x08 d 0 with lane := BitVec.ofNat 16 c.lane, addr := BitVec.ofNat 64 c.off, aseg := 0xFD })
    ∧ ((∀ c ∈ cs, copyFault s cx tm c = none) → (s.fetched cx u).probe cx0 .write accs = .ok rs s1 →
      s1.releaseAt cx0 .dev = (true, s2) → s2.team? (tidOf cx.gid) = some tm → copiesWait tm cs = false →
      ∃ t gt t1, exec i s = .next t ∧ t.group? cx.gid = some gt ∧ t.team? (tidOf cx.gid) = some t1
        ∧ (∃ p, gt.path cx.slot = some p ∧ p.pc = cx.p.pc + 16 ∧ p.mask = cx.p.mask)
        ∧ cx.g.keeps gt [] ∧ cx.g.onlyRegs gt
        ∧ (∀ q, q < 8 → (t1.queue q).pending.take (tm.queue q).pending.length = (tm.queue q).pending
          ∧ (t1.queue q).done = (tm.queue q).done
          ∧ ((t1.queue q).pending.drop (tm.queue q).pending.length).map (fun c => (c.gid, c.words, c.coords, c.doff, c.got, c.wrote))
            = (cs.filter (fun c => c.off / 256 == q)).map (fun c =>
                let y := copyOf cx tm c 0 false
                (cx.gid, y.words, y.coords, y.doff, [], 0)))
        ∧ { t1 with queues := tm.queues } = tm ∧ s2.sameMemory t cx ∧ s2.onlyTeams t)

/-- 07 R171, 10 R226 to R228: the copy engine of a cluster moves a granule of the next queue's head: it reads a source
sector that is missing, or writes the next bytes of the tile to scratch; a copy to a strand reserves its entries, and a
copy whose tile is written leaves its queue, is counted, and arrives at its clasp. -/
def Sys2Proof.Claims.CopyEngine : Prop :=
  (∀ (s s1 s2 : State) (clus : Nat) (x : TeamId × Nat) (c : Copy) (tm : Team) (off p : Nat) (ret : Hint) (bs : List Byte),
    (s.copyQueues clus).find? s.canMove = some x → s.headCopy x = some c → s.team? x.1 = some tm → x.2 < 8 →
    s.tidy = true →
    (c.unread = [off] → tmplXform c.words ≠ 6 →
      (s.modCluster clus (fun k => { k with rr := some x })).translate (.engine clus) (s.ctxOf x.1.launch)
        (tmplBaseSeg c.words) off .read = (.ok p ret, s1) →
      s1.devRead p 64 (some (l2Hint (tmplHint c.words) ret)) = (.bytes bs, s2) →
      ∃ t, exec (.copyGranule clus) s = .next t ∧ t.headCopy x = some { c with got := c.got ++ [(off, bs)] }
        ∧ t.mem = s2.mem ∧ t.groups = s.groups ∧ (t.cluster clus).rr = some x)
    ∧ (c.unread = [] → ∃ t y, exec (.copyGranule clus) s = .next t ∧ t.team? x.1 = some y
        ∧ t.headCopy x = some { c with wrote := c.wrote + min 512 (c.bytes.length - c.wrote) }
        ∧ (Memory.wf tm.scratch = true → ∀ a, Memory.read y.scratch a
            = if tmplToStrand c.words = false ∧ c.doff + c.wrote ≤ a ∧ a < c.doff + c.wrote + min 512 (c.bytes.length - c.wrote)
              then c.bytes.getD (a - c.doff) 0 else Memory.read tm.scratch a)
        ∧ { t with teams := s.teams, clusters := s.clusters } = s))
  ∧ (∀ (s : State) (tid : TeamId) (q : Nat) (c : Copy) (tm : Team), s.headCopy (tid, q) = some c →
    s.team? tid = some tm → q < 8 → s.tidy = true →
    let b := tmplStrand c.words
    let n := (tmplBytes c.words + 63) / 64
    (tmplToStrand c.words = true → c.reserved = false → c.unread = [] → c.faulted = false → c.late = false →
      s.strandOpen tm.clus b (s.ctxOf tid.launch) = true → (s.bank tm.clus b).strand.length + n ≤ 1024 →
      ∃ t, exec (.copyStrandPush tid q) s = .next t ∧ t.headCopy (tid, q) = some { c with reserved := true }
        ∧ t.bank tm.clus b = { s.bank tm.clus b with
            strand := (s.bank tm.clus b).strand ++ List.replicate n { owner := c.serial + 1, data := none } }
        ∧ { t with teams := s.teams, clusters := s.clusters } = s)
    ∧ (tmplToStrand c.words = false → c.unread = [] → tmplBytes c.words ≤ c.wrote → tmplClen c.words = false →
      ∃ t y, exec (.copyComplete tid q) s = .next t ∧ t.team? tid = some y
        ∧ y.queue q = { pending := (tm.queue q).pending.drop 1, done := (tm.queue q).done + 1 }
        ∧ (∀ k, k ≠ q → y.queue k = tm.queue k) ∧ { y with queues := tm.queues } = tm ∧ { t with teams := s.teams } = s)
    ∧ (tmplToStrand c.words = false → c.unread = [] → tmplBytes c.words ≤ c.wrote → tmplClen c.words = true →
      ∀ k, (tm.clasp (tmplClasp c.words).toNat).arrive 0 (BitVec.ofNat 32 (tmplBytes c.words)) false = some k →
      ∃ t y, exec (.copyComplete tid q) s = .next t ∧ t.team? tid = some y
        ∧ y.queue q = { pending := (tm.queue q).pending.drop 1, done := (tm.queue q).done + 1 }
        ∧ y.clasp (tmplClasp c.words).toNat = k
        ∧ { y with queues := tm.queues, clasps := tm.clasps } = tm ∧ { t with teams := s.teams } = s))
  ∧ ∀ (s : State) (clus b : Nat) (m : BankMode), (s.bank clus b).target = some m →
    s.drained clus b = true → s.tidy = true →
    ∃ t, exec (.bankModeChange clus b) s = .next t
      ∧ t.bank clus b = { s.bank clus b with mode := m, target := none, strand := [] }
      ∧ (∀ k, k ≠ b → t.bank clus k = s.bank clus k) ∧ { t with clusters := s.clusters } = s

/-! ### Collectives -/

/-- 07 R173, R174, 11 R244, 14 R316: a participant of a `.red` whose home is another device reads its elements, combines
them along the tree of 04 R92, and sends the root to the home by a KIND 3 request; a home whose time runs out ends the
slot with STATUS 2, a participant whose time runs out ends its own part so. The value is field 5 of the request in the
model's own layout (log entry 36). -/
def Sys2Proof.Claims.CollectiveSteps : Prop :=
  (∀ (s s1 : State) (n : Nat) (c : CollJob) (bs : List Byte), s.coll? n = some c → c.phase = .posted → c.faulted = false →
    c.bad = false → c.op = .red → c.home ≠ s.devnum.toNat →
    (s.dropL2.setColl n { c with phase := .reading, faulted := false }).hubRead c.ctx c.sseg c.src c.byteCount (s.collRec c)
      false (.engineRead n) = (.ok bs, s1) →
    s1.canSend c.ctx c.home 1 = true → Tab.get? s1.remotes s1.serial = none →
    ∃ t x r, exec (.collSubtree n) s = .next t ∧ t.coll? n = some x ∧ x.phase = .sent
      ∧ x.result = partitionValue c.fmt c.opc c.nelem (ofBytes bs) ∧ x.waits = [s1.serial]
      ∧ Tab.get? t.remotes s1.serial = some r ∧ r.owner = c.home ∧ r.ctx = c.ctx ∧ r.req.kind = 3
      ∧ r.req.rslot = BitVec.ofNat 12 c.tag.toNat ∧ r.req.coll.getD 5 0 = x.result ∧ t.groups = s1.groups)
  ∧ (∀ (s : State) (i : Nat) (x : RedSlot), s.slot? i = some x → x.stage = .gathering ∨ (x.stage = .storing ∧ x.writing = false) →
    ∃ t, exec (.collHomeTimeout i) s = .next t ∧ t.groups = s.groups
      ∧ (t.slot? i = none ∨ ∃ y, t.slot? i = some y ∧ y.status = 2 ∧ y.stage = .records))
  ∧ ∀ (s : State) (n : Nat) (c : CollJob), s.coll? n = some c → c.phase = .answered →
    ∃ t, exec (.collParticipantTimeout n) s = .next t ∧ t.groups = s.groups
      ∧ (t.coll? n = none ∨ ∃ y, t.coll? n = some y ∧ y.status = 2 ∧ y.recv = 0 ∧ y.result = 0)

/-! ### The fabric -/

/-- 14 R303, R304, R297: a write or an atomic with the extension that may be performed is performed once: it stores its
bytes, or the atomic's result, at its place and nowhere else, and the entry it leaves makes the owner answer a second
arrival with RSTAT 1 and the result it kept, changing nothing. -/
def Obligations.ExactlyOnce : Prop :=
  ∀ (s : State) (q : RemoteReq) (f : BitVec 32), s.memoryOk = true → q.ext = true → s.rfen = true → q.expinc = s.incarn →
    q.kind = 1 ∨ q.kind = 2 → s.malformed q = false → Tab.get? s.floors q.rqid = some f → precedes f q.rb = false →
    (q.hm - f).toNat < 65536 → s.locket.all (fun e => !(e.rqid == q.rqid && e.hm == q.hm)) = true →
    (s.locket.filter (fun e => e.slice == reqSlice q)).length < 4096 → s.isPoisoned (sectorOf q.pa) = false →
    let n := if q.rslot.getLsbD 6 then 8 else 4
    (q.kind = 2 → q.pa % n = 0) →
    let v : List Byte := if q.kind = 2 then s.homeRead q.pa n else []
    let stored (i : Nat) : Prop := if q.kind = 2 then i < n else i < 64 - q.pa % 64 ∧ q.mask.getD i false = true
    ∃ t u, exec (.receive q) s = .next t ∧ exec (.receive q) t = .next u
      ∧ sends s t [answerTo s q 0 v] ∧ sends t u [answerTo s q 1 v]
      ∧ { u with fabOut := t.fabOut, unacked := t.unacked, heldOut := t.heldOut } = t
      ∧ (q.kind = 1 → ∀ i, stored i → t.homeByte (q.pa + i) = q.data.getD i 0)
      ∧ (q.kind = 2 →
        let old := ofBytes v
        let new := ofBytes (t.homeRead q.pa n)
        let x := ofBytes (q.data.take n)
        (reqOp q = 16 → new = if old = x then ofBytes ((q.data.drop n).take n) else old)
        ∧ (∀ op, reqOp q ≤ 8 → opOfCode (reqOp q) = some op → new = onWord op (8 * n) old x)
        ∧ ∀ c op, (c, op) ∈ [(9, ScanOp.fadd), (10, .fmin), (11, .fmax)] → reqOp q = c →
            new = (combineNum (Fmt.ofWord q.fdef) (8 * n / (Fmt.ofWord q.fdef).w) op
              (fun j => { seed := 0, team := 0, lanet := 0, j := j, draw := 0, soff := 0 })
              (BitVec.ofNat 64 old) (BitVec.ofNat 64 x)).val.toNat)
      ∧ (∀ a, (∀ i, stored i → s.redirect (q.pa + i) ≠ a) → Memory.read t.mem a = Memory.read s.mem a)
      ∧ t.locket = s.locket.filter (entryLive s.floors) ++ [{ rqid := q.rqid, hm := q.hm, kind := q.kind
                                                              result := wordOf v, poisoned := false, slice := reqSlice q }]
      ∧ t.remoteLanes = s.remoteLanes + (if q.kind = 2 then BitVec.ofNat 64 (q.lanes.toNat + 1) else 0)
      ∧ t.migrations.map unfiltered = s.migrations.map unfiltered
      ∧ { t with mem := s.mem, migrations := s.migrations, locket := s.locket, remoteLanes := s.remoteLanes
                 fabOut := s.fabOut, unacked := s.unacked, heldOut := s.heldOut } = s

/-- 14 R303, R304: before the fabric is enabled requests are turned away with RSTAT 2, of another incarnation with 3;
below the floor with 4, far above it or malformed with 5; none of them is performed. -/
def Sys2Proof.Claims.RequestsRefused : Prop :=
  ∀ (s : State) (q : RemoteReq), q.ext = true →
    let only (n : BitVec 4) : Prop := ∃ t, exec (.receive q) s = .next t ∧ sends s t [answerTo s q n []]
      ∧ { t with fabOut := s.fabOut, unacked := s.unacked, heldOut := s.heldOut } = s
    (s.rfen = false → only 2) ∧ (s.rfen = true → q.expinc ≠ s.incarn → only 3)
    ∧ (s.rfen = true → q.expinc = s.incarn → s.malformed q = true → only 5)
    ∧ ∀ f, s.rfen = true → q.expinc = s.incarn → s.malformed q = false → q.kind ≠ 5 → q.kind ≠ 6 →
      Tab.get? s.floors q.rqid = some f → precedes f q.rb = false →
      let turned (n : BitVec 4) : Prop := ∃ t, exec (.receive q) s = .next t ∧ sends s t [answerTo s q n []]
        ∧ t.locket = s.locket.filter (entryLive s.floors)
        ∧ { t with fabOut := s.fabOut, unacked := s.unacked, heldOut := s.heldOut, locket := s.locket } = s
      (2 ^ 31 ≤ (q.hm - f).toNat → turned 4) ∧ (65536 ≤ (q.hm - f).toNat → (q.hm - f).toNat < 2 ^ 31 → turned 5)

/-- 14 R303, R305, R310: RETIRE moves a floor up to its retire-below and frees the entries below it; CLOSE forgets the
pair; a fabric reset forgets all, drops the responses not yet sent, those that wait for their port, and none that was
sent, and takes the next incarnation, which is never 0. -/
def Sys2Proof.Claims.FloorsMove : Prop :=
  (∀ (s : State) (q : RemoteReq) (f : BitVec 32), q.ext = true → s.rfen = true → q.expinc = s.incarn →
    s.malformed q = false → Tab.get? s.floors q.rqid = some f →
    let rest (t : State) : Prop := { t with
      floors := s.floors, locket := s.locket, fabOut := s.fabOut, unacked := s.unacked, heldOut := s.heldOut } = s
    (q.kind = 5 → ∃ t, exec (.retire q) s = .next t ∧ sends s t [answerTo s q 0 []]
      ∧ Tab.get? t.floors q.rqid = some (if precedes f q.rb then q.rb else f)
      ∧ (∀ e, e ∈ t.locket ↔ e ∈ s.locket ∧ entryLive t.floors e = true)
      ∧ (∀ r, r ≠ q.rqid → Tab.get? t.floors r = Tab.get? s.floors r) ∧ rest t)
    ∧ (q.kind = 6 → ∃ t, exec (.close q) s = .next t ∧ sends s t [answerTo s q 0 []]
      ∧ Tab.get? t.floors q.rqid = none ∧ (∀ e, e ∈ t.locket ↔ e ∈ s.locket ∧ entryLive t.floors e = true)
      ∧ (∀ e ∈ t.locket, e.rqid ≠ q.rqid) ∧ (∀ r, r ≠ q.rqid → Tab.get? t.floors r = Tab.get? s.floors r) ∧ rest t))
  ∧ (∀ s : State, s.boot = 2 → ∃ t, exec .frst s = .next t ∧ t.floors = [] ∧ t.locket = [] ∧ t.redSlots = []
      ∧ t.gathered = [] ∧ t.incarn = (if s.incarn = 0xFFFF then 1 else s.incarn + 1) ∧ t.groups = s.groups
      ∧ (∀ x ∈ s.fabOut, x ∈ t.fabOut) ∧ (∀ x ∈ s.unacked, x ∈ t.unacked)
      ∧ (∀ d m w, .resp d m w ∈ t.fabOut → .resp d m w ∈ s.fabOut) ∧ (∀ p d m w, (p, FabMsg.resp d m w) ∉ t.heldOut)
      ∧ ∀ p d k q w, (p, FabMsg.req d k q w) ∈ s.heldOut → (p, FabMsg.req d k q w) ∈ t.heldOut)
  ∧ ∀ s : State, s.boot ≠ 2 → exec .frst s = .next s

/-- 14 R301, R305, R306: an answer with RSTAT 0 or 1 ends a request and moves ANN to its retire-below; RSTAT 2 and 6
start a backoff; a request not answered, or whose backoff ends, is sent again with its hallmark; where it has been sent
as often as it may, it ends. An idle pair is retired, and closed once. When RLIM expires in a switch-out, what is
unresolved ends. -/
def Sys2Proof.Claims.RequesterSteps : Prop :=
  (∀ (s : State) (m : RemoteResp) (r : Remote), s.answered m = some r → m.ext = true → reqHasHm r.req = true →
    (m.rstat = 0 ∨ m.rstat = 1 → m.incarn = (s.pair r.ctx r.owner).expinc → m.tag < s.serial →
      (s.remotes.map Prod.fst).Nodup → s.tidy = true →
      ∃ t, exec (.remoteResponse m) s = .next t ∧ Tab.get? t.remotes m.tag = none
        ∧ (t.pair r.ctx r.owner).ann = r.req.rb)
    ∧ (m.rstat = 2 ∨ (m.rstat = 6 ∧ m.incarn = (s.pair r.ctx r.owner).expinc) →
        ∃ t, exec (.remoteResponse m) s = .next t
        ∧ Tab.get? t.remotes m.tag = some { r with backoff := true }
        ∧ (∀ k, k ≠ m.tag → Tab.get? t.remotes k = Tab.get? s.remotes k) ∧ { t with remotes := s.remotes } = s))
  ∧ (∀ (s : State) (m : RemoteResp), s.answered m = none → exec (.remoteResponse m) s = .next s)
  ∧ (∀ (s : State) (n : Nat) (r : Remote), Tab.get? s.remotes n = some r → r.sent ≠ [] → s.tidy = true →
    let again (i : Instr) (k : Nat) : Prop := ∃ t x, exec i s = .next t ∧ Tab.get? t.remotes n = some x
      ∧ x.retries = k ∧ x.backoff = false ∧ x.req.hm = r.req.hm ∧ x.req.kind = r.req.kind ∧ x.req.retx = true
      ∧ x.req.data = r.req.data ∧ x.req.pa = r.req.pa ∧ x.sent.length = r.sent.length + 1
      ∧ sends s t [.req r.owner n x.req (reqWire x.req)] ∧ t.mem = s.mem ∧ t.groups = s.groups
    (r.backoff = true → again (.busyBackoffExpiry n) r.retries)
    ∧ (r.backoff = false → (r.nonIdem = false ∨ r.req.ext = true) →
        r.retries < (if s.rmax = 0 then 8 else s.rmax.toNat) → again (.rtoExpiry n) (r.retries + 1))
    ∧ (r.backoff = false → (if s.rmax = 0 then 8 else s.rmax.toNat) ≤ r.retries → n < s.serial →
        (s.remotes.map Prod.fst).Nodup → ∃ t, exec (.rtoExpiry n) s = .next t ∧ Tab.get? t.remotes n = none))
  ∧ (∀ (s : State) (ctx owner : Nat), s.pairIdle ctx owner = true → s.isPeerx owner = true →
    Tab.get? s.remotes s.serial = none → s.tidy = true →
    let sent (i : Instr) (k : BitVec 4) (closed : Bool) : Prop := ∃ t r, exec i s = .next t
      ∧ Tab.get? t.remotes s.serial = some r ∧ r.ctx = ctx ∧ r.owner = owner ∧ r.req.kind = k
      ∧ (t.pair ctx owner).closed = closed ∧ t.mem = s.mem ∧ t.groups = s.groups
    ((s.pair ctx owner).low ≠ (s.pair ctx owner).ann → sent (.idleRetire ctx owner) 5 (s.pair ctx owner).closed)
      ∧ ((s.pair ctx owner).closed = false → sent (.drainClose ctx owner) 6 true)
      ∧ ((s.pair ctx owner).closed = true → exec (.drainClose ctx owner) s = .next s))
  ∧ ∀ (s : State) (ctx : Nat), (s.ctx ctx).cmd = 3 → (s.ctx ctx).quiet = true → (s.remotes.map Prod.fst).Nodup →
    (∀ e ∈ s.remotes, e.1 < s.serial) →
    ∃ t, exec (.rlimExpiry ctx) s = .next t ∧ ∀ e ∈ s.remotes, e.2.ctx = ctx → Tab.get? t.remotes e.1 = none

/-- 14 R313, R314: a port repairs a lane only with a fifth one; CRC errors count up to 65,535 and stop, tell the host at
NTHR, and at ABTHR abandon a replay, whose unacknowledged messages are lost; a repair waits until every flit is
acknowledged, holds what is sent meanwhile, and sends it at its end. The replay buffer and the messages that a port holds
are the model's (log entry 68). -/
def Sys2Proof.Claims.PortRepair : Prop :=
  ∀ (s : State) (port : Nat), Sparse.rising 0 s.ports = true →
    let p := s.port port
    let n : BitVec 16 := if p.crccnt = 0xFFFF then 0xFFFF else p.crccnt + 1
    let mine (m : Nat × FabMsg) : Bool := m.1 == port
    let others (t : State) : Prop := ∀ k, k ≠ port → t.port k = s.port k
    (∀ lane, s.boot = 2 → ∃ t, exec (.laneRepair port lane) s = .next t ∧ others t ∧ { t with ports := s.ports } = s
      ∧ t.port port = if p.spok = false then { p with lane := lane, req := false }
        else { p with lane := lane, req := true, state := if p.state = 1 ∨ p.state = 2 then p.state else 1 })
    ∧ (∀ lane, s.boot ≠ 2 → exec (.laneRepair port lane) s = .next s)
    ∧ (∃ t, exec (.crcError port) s = .next t ∧ others t
      ∧ (let gone := p.state == 1 && p.abthr != 0 && decide (p.abthr.toNat ≤ n.toNat)
         t.port port = { p with crccnt := n, abnd := gone || p.abnd, state := if gone then 2 else p.state }
         ∧ (if gone then t.unacked = s.unacked.filter (fun m => !mine m)
              ∧ t.fabOut = s.fabOut.diff ((s.unacked.filter mine).map Prod.snd)
            else t.unacked = s.unacked ∧ t.fabOut = s.fabOut))
      ∧ t.msix = s.msix ++ (if n = p.nthr ∧ n ≠ p.crccnt ∧ s.repv.toNat < 2048 then [s.repv.toNat] else [])
      ∧ { t with ports := s.ports, unacked := s.unacked, fabOut := s.fabOut, msix := s.msix } = s)
    ∧ (p.state = 1 → s.unacked.all (fun m => !mine m) = true → ∃ t, exec (.repairRetrain port) s = .next t ∧ others t
      ∧ t.port port = { p with state := 2 } ∧ { t with ports := s.ports } = s)
    ∧ (p.state ≠ 1 ∨ s.unacked.any mine = true → exec (.repairRetrain port) s = .next s)
    ∧ (p.state = 2 → ∃ t, exec (.retrainComplete port) s = .next t ∧ others t
      ∧ t.port port = { p with state := 3, req := false, crccnt := 0 }
      ∧ t.heldOut = s.heldOut.filter (fun m => !mine m) ∧ t.fabOut = s.fabOut ++ (s.heldOut.filter mine).map Prod.snd
      ∧ t.unacked = s.unacked ++ s.heldOut.filter mine
      ∧ { t with ports := s.ports, heldOut := s.heldOut, fabOut := s.fabOut, unacked := s.unacked } = s)
    ∧ (p.state ≠ 2 → exec (.retrainComplete port) s = .next s)

/-! ### Translation commands and quiescence -/

/-- 15 R326, R334, R335: REPLAY-ALL and FAULT-ABORT release the paths of the context that are parked on faults, the
second so that their next attempt does not park; INVAL drops TLB entries of the range in every TLB and no others. A
command while another is busy, or before the firmware runs, changes nothing; an argument it does not take gives RESULT
1. -/
def Sys2Proof.Claims.ReplayAndInval : Prop :=
  (∀ (s : State) (i : Instr) (k : BitVec 8), (i, k) ∈ [(Instr.replayAll, 1), (.faultAbort, 2), (.inval, 3), (.flush, 4),
      (.free, 5), (.migrate, 6)] →
    s.boot ≠ 2 ∨ (s.tbusy = true ∧ s.tcmd ≠ k) → exec i s = .next s)
  ∧ ∀ s : State, s.boot = 2 → s.tbusy = false → (∀ e ∈ s.groups, e.1.launch < s.serial) →
    (s.l2tlb.map Prod.fst).Nodup →
    let ctx := (s.tca1.extractLsb' 48 8).toNat
    let seg := s.tca1.extractLsb' 56 8
    let count := (s.tca1.extractLsb' 0 32).toNat
    (∀ abort i, i = (if abort then .faultAbort else .replayAll) → ∃ t, exec i s = .next t ∧ commandOver t ∧ t.tresult = 0
      ∧ ∀ gid g, s.group? gid = some g → s.ctxOf gid.launch = ctx → ∃ h, t.group? gid = some h
          ∧ unparked abort g.p0 h.p0 ∧ unparked abort g.p1 h.p1 ∧ { h with p0 := g.p0, p1 := g.p1 } = g)
    ∧ (s.tca0.toNat % 65536 = 0 ∨ count = 0 → ∃ t, exec .inval s = .next t ∧ commandOver t ∧ t.tresult = 0
      ∧ tlbsWithout s t ctx seg s.tca0.toNat count
      ∧ { t with cores := s.cores, l2tlb := s.l2tlb, targ := s.targ, tresult := s.tresult, tcmd := s.tcmd } = s)
    ∧ ∀ i : Instr, (i = .inval ∧ s.tca0.toNat % 65536 ≠ 0 ∧ count ≠ 0)
        ∨ (i ∈ [Instr.flush, .free, .migrate] ∧ (s.tca0.toNat % 65536 ≠ 0 ∨ count = 0)) →
      ∃ t, exec i s = .next t ∧ t.tresult = 1 ∧ { t with tresult := s.tresult, targ := s.targ } = s

/-- 12 R273 to R275, 15 R335: FLUSH ends once nothing of the range is cached or under way, and only then;
FREE puts the frames into their quarantine at its generation and reports it; a generation advances only when no access
stamped below it is out, and frames freed two generations ago leave. -/
def Sys2Proof.Claims.FlushAndFree : Prop :=
  (∀ s : State, s.boot = 2 → s.tbusy = false → s.tca0.toNat % 65536 = 0 →
    let ctx := (s.tca1.extractLsb' 48 8).toNat
    let count := (s.tca1.extractLsb' 0 32).toNat
    count ≠ 0 →
    (∃ t, exec .flush s = .next t ∧ t.tresult = 0 ∧ (t.tbusy = false ↔
      ∀ page ∈ s.mappedPages ctx (s.tca1.extractLsb' 56 8) s.tca0.toNat count, ∀ sec, sec / 1024 = page →
        t.l2Sector sec = none ∧ (∀ e ∈ t.clusters, Tab.get? e.2.l1 sec = none) ∧ t.wbOpen sec = false))
    ∧ ∀ i, s.oneQuarantine s.tca0.toNat count = some i → Sparse.rising 0 s.gens = true →
      ∃ t, exec .free s = .next t ∧ commandOver t ∧ t.tresult = 0 ∧ t.genf = (s.quar i).gen
        ∧ (t.quar i).gen = (s.quar i).gen
        ∧ (∀ f, f ∈ (t.quar i).frames ↔
          (f ∈ (s.quar i).frames ∧ (f.frame < s.tca0.toNat / 65536 ∨ s.tca0.toNat / 65536 + count ≤ f.frame))
          ∨ (∃ k, k < count ∧ f = { frame := s.tca0.toNat / 65536 + k, gen := (s.quar i).gen }))
        ∧ ∀ k, k ≠ i → t.quar k = s.quar k)
  ∧ (∀ (s : State) (i : Nat), Sparse.rising 0 s.gens = true →
    let g := (s.quar i).gen
    ((∀ x ∈ s.stamps, x.1 = i → precedes x.2 g = false) → ∃ t, exec (.genAdvance i) s = .next t
      ∧ t.quar i = { gen := g + 1, frames := (s.quar i).frames.filter (fun f => decide ((g + 1 - f.gen).toNat < 2)) }
      ∧ (∀ k, k ≠ i → t.quar k = s.quar k) ∧ { t with gens := s.gens } = s)
    ∧ ((∃ x ∈ s.stamps, x.1 = i ∧ precedes x.2 g = true) → exec (.genAdvance i) s = .next s))
  ∧ ∀ (s : State) (ctx : Nat), s.tidy = true →
    ((s.ctx ctx).notifyDue = true → ∃ t, exec (.faultNotify ctx) s = .next t
      ∧ t.msix = s.msix ++ (if (s.ctx ctx).vec.toNat < 2048 then [(s.ctx ctx).vec.toNat] else [])
      ∧ t.ctx ctx = { s.ctx ctx with notifyDue := false } ∧ (∀ c, c ≠ ctx → t.ctx c = s.ctx c)
      ∧ { t with ctxs := s.ctxs, msix := s.msix } = s)
    ∧ ((s.ctx ctx).notifyDue = false → exec (.faultNotify ctx) s = .next s)

/-- 15 R338: MIGRATE marks the leaf and takes a filter entry; a try copies the page with its poison, and commits where no
write was caught: the leaf names the destination, and what follows reads there. That the poison goes along is log entry
54. A fourth try with a write caught abandons
the move with STATUS 2; two generations after the commit the source enters its quarantine, with STATUS 1. -/
def Obligations.Migrates : Prop :=
  (∀ (s : State) (w : BitVec 128) (pte : Nat), s.boot = 2 → s.tbusy = false → s.tca0.toNat % 65536 = 0 →
    let ctx := (s.tca1.extractLsb' 48 8).toNat
    let seg := s.tca1.extractLsb' 56 8
    (s.tca1.extractLsb' 0 32).toNat ≠ 0 →
    s.memoryOk = true → s.walk ctx seg s.tca0.toNat = .leaf w pte 0 → (Pte.ofWord w).tier < 2 →
    (Pte.ofWord w).mig = false → s.frameOkAt s.tca2.toNat = true → s.migrations.length < 4096 → s.redirect (pte + 1) = pte + 1 →
    ∃ t, exec .migrate s = .next t ∧ commandOver t ∧ t.tresult = 0
      ∧ t.migrations.map unfiltered = s.migrations.map unfiltered ++ [(s.serial, {
          ctx := ctx, seg := seg, off := s.tca0, pte := pte
          src := (Pte.ofWord w).tier * 2 ^ 40 + (Pte.ofWord w).frame % 2 ^ 40
          dst := s.tca2.toNat / 65536, cpl := s.tca3 &&& ~~~15
          tries := 0, dirty := false, committed := false, gen := 0 })]
      ∧ Memory.read t.mem (pte + 1) = Memory.read s.mem (pte + 1) ||| 1
      ∧ (∀ a, a ≠ pte + 1 → Memory.read t.mem a = Memory.read s.mem a)
      ∧ { t with mem := s.mem, migrations := s.migrations, serial := s.serial, targ := s.targ, tresult := s.tresult
                 tcmd := s.tcmd } = s)
  ∧ (∀ (s : State) (n : Nat) (m : Migration), s.migrations = [(n, m)] → m.committed = false → m.dirty = false →
    s.memoryOk = true → l1Clean s → s.l2 = [] → m.src ≠ m.dst → (m.pte / 65536 ≠ m.src ∧ m.pte / 65536 ≠ m.dst) →
    m.pte % 16 = 0 →
    ∃ t x, exec (.migrateTry n) s = .next t ∧ t.migrations = [(n, x)] ∧ x.committed = true ∧ x.tries = m.tries + 1
      ∧ x.src = m.src ∧ x.dst = m.dst
      ∧ (∀ k, k < 65536 → Memory.read t.mem (m.dst * 65536 + k) = Memory.read s.mem (m.src * 65536 + k))
      ∧ (∀ k, k < 1024 → (m.dst * 1024 + k ∈ t.poison ↔ m.src * 1024 + k ∈ s.poison))
      ∧ (∀ k, k < 65536 → t.redirect (m.src * 65536 + k) = m.dst * 65536 + k)
      ∧ ofBytes (Memory.readN t.mem m.pte 16)
        = (movedPte (BitVec.ofNat 128 (ofBytes (Memory.readN s.mem m.pte 16))) m.dst).toNat)
  ∧ (∀ (s : State) (n : Nat) (m : Migration), Tab.get? s.migrations n = some m → m.committed = false → m.dirty = true →
    (s.migrations.map Prod.fst).Nodup →
    (m.tries < 3 → ∃ t, exec (.migrateTry n) s = .next t
      ∧ Tab.get? t.migrations n = some { m with dirty := false, tries := m.tries + 1 })
    ∧ (3 ≤ m.tries → m.cpl.toNat % 16 = 0 → s.busRefused m.cpl.toNat = false → (s.ctx m.ctx).fbEn = false →
      ∃ t, exec (.migrateTry n) s = .next t ∧ Tab.get? t.migrations n = none
        ∧ (Memory.wf s.hostMem = true → Memory.readN t.hostMem (s.bus m.cpl.toNat) 16
            = toBytes 8 m.off.toNat ++ toBytes 8 (2 + 4 * 256))))
  ∧ ∀ (s : State) (n : Nat) (m : Migration), Tab.get? s.migrations n = some m → m.committed = true →
    (s.migrations.map Prod.fst).Nodup → Sparse.rising 0 s.gens = true →
    (2 ≤ ((s.quar (quarOf (m.src * 65536))).gen - m.gen).toNat →
      ∃ t, exec (.migrateSourceRelease n) s = .next t ∧ Tab.get? t.migrations n = none
        ∧ ({ frame := m.src, gen := (s.quar (quarOf (m.src * 65536))).gen } : Quarantined)
          ∈ (t.quar (quarOf (m.src * 65536))).frames
        ∧ (m.cpl.toNat % 16 = 0 → s.busRefused m.cpl.toNat = false → Memory.wf s.hostMem = true →
          m.src * 65536 < 2 ^ 57 → Memory.readN t.hostMem (s.bus m.cpl.toNat) 16
            = toBytes 8 m.off.toNat ++ toBytes 8 (1 + m.tries * 256)))
    ∧ (((s.quar (quarOf (m.src * 65536))).gen - m.gen).toNat < 2 → exec (.migrateSourceRelease n) s = .next s)

/-! ### The host's side -/

/-- 12 R272, 16 R340, R341: a BAR2 read of bytes inside the window and tier 0 gives them and their poison, a write stores
them and clears the poison of whole sectors; outside both are Unsupported Requests and change no byte. Invalidations and
completions of translations. That BAR2 answers in every BOOT.STATE but 3 is log entry 39; that the first completion
shows ATS enabled, log entry 56. -/
def Sys2Proof.Claims.HostMemoryAccess : Prop :=
  (∀ (s : State) (off : Nat) (n : Nat),
    let p := s.wbase.toNat / 2 ^ 30 * 2 ^ 30 + off
    let ok := s.boot ≠ 3 ∧ off + n ≤ 2 ^ s.bar2Log ∧ p + n ≤ 2 ^ 40
    let rest (t : State) : Prop := { t with hostData := s.hostData, hostEp := s.hostEp, hostUr := s.hostUr } = s
    (ok → ∃ t, exec (.bar2Read off n) s = .next t ∧ t.hostUr = false
      ∧ t.hostData = (List.range n).map (fun i => Memory.read s.mem (s.redirect (p + i)))
      ∧ (0 < n → (t.hostEp = true ↔ ∃ i, i < n ∧ s.isPoisoned (sectorOf (p + i)) = true)) ∧ rest t)
    ∧ (¬ok → ∃ t, exec (.bar2Read off n) s = .next t ∧ t.hostUr = true ∧ t.hostData = [] ∧ t.hostEp = false ∧ rest t))
  ∧ (∀ (s : State) (off : Nat) (bs : List Byte), s.memoryOk = true →
    let p := s.wbase.toNat / 2 ^ 30 * 2 ^ 30 + off
    let ok := s.boot ≠ 3 ∧ off + bs.length ≤ 2 ^ s.bar2Log ∧ p + bs.length ≤ 2 ^ 40
    let covers (sec : Nat) : Prop := p ≤ 64 * sec ∧ 64 * sec + 64 ≤ p + bs.length
    (ok → ∃ t, exec (.bar2Write off bs) s = .next t ∧ t.hostUr = false
      ∧ (apart s p bs.length → t.homeRead p bs.length = bs) ∧ elsewhere s t p bs.length
      ∧ (∀ sec, covers sec → t.isPoisoned sec = false)
      ∧ (∀ x, x ∈ t.poison → x ∈ s.poison)
      ∧ (∀ x ∈ s.poison, (∀ sec, covers sec → sectorOf (s.redirect (64 * sec)) ≠ x) → x ∈ t.poison)
      ∧ t.migrations.map unfiltered = s.migrations.map unfiltered
      ∧ { t with mem := s.mem, poison := s.poison, migrations := s.migrations, hostUr := s.hostUr } = s)
    ∧ (¬ok → exec (.bar2Write off bs) s = .next { s with hostUr := true }))
  ∧ (∀ (s : State) (lo hi : Nat), ∃ t, exec (.atsInvalidation lo hi) s = .next t
    ∧ (∀ e, e ∈ t.atc ↔ e ∈ s.atc ∧ (e.1 < lo ∨ hi ≤ e.1))
    ∧ (∀ p, p ∈ t.atsRefused ↔ p ∈ s.atsRefused ∧ (p < lo ∨ hi ≤ p))
    ∧ { t with atc := s.atc, atsRefused := s.atsRefused } = s)
  ∧ ∀ (s : State) (page target : Nat) (ok : Bool), ∃ t, exec (.atsTranslationCompletion page ok target) s = .next t
    ∧ t.atsEn = true ∧ (page ∈ t.atsRefused ↔ ok = false) ∧ (∀ p, p ≠ page → (p ∈ t.atsRefused ↔ p ∈ s.atsRefused))
    ∧ (∀ x, (page, x) ∈ t.atc ↔ ok = true ∧ x = target) ∧ (∀ e, e ∈ t.atc → e.1 ≠ page → e ∈ s.atc)
    ∧ { t with atc := s.atc, atsRefused := s.atsRefused, atsEn := s.atsEn } = s

/-- The 16 bytes of a serial pair in the context save area (14 R312). -/
def savedPair (e : Nat × SerialPair) : List Byte :=
  toBytes 4 e.2.next.toNat ++ toBytes 4 e.2.next.toNat
    ++ toBytes 8 (1 + 2 ^ 6 * (e.1 % 1024) + 2 ^ 16 * e.2.expinc.toNat + 2 ^ 32 * e.2.ann.toNat)

/-- 16 R344, R345, 14 R305, R312, 08 R203: PREEMPT holds the context and asks its groups to stop; SWITCH-OUT sends nothing
more, and leaves the context OUT with its serial pairs saved once nothing of it is on the device; RESUME releases it (also
one that is not OUT, log entry 51) and takes the pairs of the records that stand with it; DESTROY, of an OUT context too,
clears EN once every pair is closed. A command while another runs, or before the firmware runs, changes nothing. The
records stand with the context, and the host brings those of another device (log entry 76). -/
def Sys2Proof.Claims.ContextCommands : Prop :=
  (∀ (s : State) (n : Nat) (i : Instr) (k : BitVec 8),
    (i, k) ∈ [(Instr.preempt n, 1), (.resume n, 2), (.switchOut n, 3), (.destroy n, 4)] →
    s.boot ≠ 2 ∨ ((s.ctx n).busy = true ∧ (s.ctx n).cmd ≠ k) → exec i s = .next s)
  ∧ (∀ (s : State) (n : Nat) (bs : List Byte) (ms : List Move), s.tidy = true → s.agenda = .bringPairs n bs :: ms →
    ∃ t, step s = .next t ∧ t.ctx n = { s.ctx n with saved := bs } ∧ (∀ k, k ≠ n → t.ctx k = s.ctx k)
      ∧ { t with ctxs := s.ctxs, agenda := s.agenda } = s)
  ∧ (∀ (owner : Nat) (p : SerialPair), owner < 1024 → recordPair (savedPair (owner, p))
      = (owner, { p with low := p.next, openHms := [], closed := false }))
  ∧ ∀ (s : State) (n : Nat), s.tidy = true → s.boot = 2 → (s.ctx n).busy = false →
    let c := s.ctx n
    let others (t : State) : Prop := ∀ k, k ≠ n → t.ctx k = s.ctx k
    let bare : Prop := ∀ r ∈ s.remotes, r.2.queued = false
    let taken (ps : List (Nat × SerialPair)) (t : State) : Prop := ∀ o, Tab.get? (t.ctx n).pairs o
      = match Tab.get? ps o with
        | some p => some { p with low := p.next, openHms := [], closed := false }
        | none => Tab.get? c.pairs o
    let records (ps : List (Nat × SerialPair)) : Prop :=
      c.saved = ps.flatMap savedPair ∧ (ps.map Prod.fst).Nodup ∧ ∀ e ∈ ps, e.1 < 1024
    (∃ t, exec (.preempt n) s = .next t ∧ others t ∧ (t.ctx n).held = true ∧ (t.ctx n).busy = s.anyResident n
        ∧ (s.anyResident n = true → (t.ctx n).preq = true ∧ (t.ctx n).cmd = 1) ∧ { t with ctxs := s.ctxs } = s)
    ∧ (c.out = false → c.saved = [] → ∃ t, exec (.resume n) s = .next t ∧ others t
        ∧ t.ctx n = { c with held := false, busy := false, cmd := 0 } ∧ { t with ctxs := s.ctxs } = s)
    ∧ (∀ ps, c.out = true ∨ c.saved ≠ [] → bare → records ps → ∃ t, exec (.resume n) s = .next t ∧ others t
        ∧ t.ctx n = { c with
            held := false, busy := false, cmd := 0, out := false, quiet := false, saved := [], pairs := (t.ctx n).pairs }
        ∧ taken ps t ∧ { t with ctxs := s.ctxs } = s)
    ∧ (s.anyResident n = false → (∀ r ∈ s.remotes, r.2.ctx ≠ n) → s.teamsLeft n = false →
      ∃ t, exec (.switchOut n) s = .next t ∧ others t ∧ { t with ctxs := s.ctxs } = s
        ∧ ∃ ps : List (Nat × SerialPair), ps.Perm c.pairs ∧ (ps.map Prod.fst).Pairwise (· ≤ ·)
          ∧ t.ctx n = { c with
              held := true, out := true, busy := false, cmd := 0, quiet := true, pairs := []
              saved := if c.pairs = [] then c.saved else ps.flatMap savedPair })
    ∧ (s.anyResident n = true → ∃ t, exec (.switchOut n) s = .next t ∧ others t
        ∧ t.ctx n = { c with held := true, busy := true, cmd := 3, preq := true } ∧ { t with ctxs := s.ctxs } = s)
    ∧ (s.anyResident n = false → (∃ r ∈ s.remotes, r.2.ctx = n) → ∃ t, exec (.switchOut n) s = .next t ∧ others t
        ∧ t.ctx n = { c with held := true, busy := true, cmd := 3, quiet := true } ∧ { t with ctxs := s.ctxs } = s)
    ∧ (c.out = true ∨ s.hasLaunch n = false → c.quiet = false → ∃ t, exec (.destroy n) s = .next t ∧ others t
        ∧ t.ctx n = (if ∃ e ∈ c.pairs, s.isPeerx e.1 = true ∧ e.2.closed = false then { c with busy := true, cmd := 4 }
          else { c with en := false, pairs := [], busy := false, cmd := 0 })
        ∧ { t with ctxs := s.ctxs } = s)
    ∧ (∀ ps, c.out = true ∨ s.hasLaunch n = false → c.quiet = true → bare → records ps → (c.pairs.map Prod.fst).Nodup →
      ∃ t, exec (.destroy n) s = .next t ∧ others t ∧ { t with ctxs := s.ctxs } = s
        ∧ (let waits : Prop := ∃ o, s.isPeerx o = true ∧ ((∃ p, Tab.get? ps o = some p)
             ∨ (Tab.get? ps o = none ∧ ∃ p, Tab.get? c.pairs o = some p ∧ p.closed = false))
           (waits → taken ps t ∧ t.ctx n = { c with
              busy := true, cmd := 4, quiet := false, saved := [], pairs := (t.ctx n).pairs })
           ∧ (¬waits → t.ctx n = { c with
              en := false, pairs := [], busy := false, cmd := 0, quiet := false, saved := [] })))
    ∧ (c.out = false → s.hasLaunch n = true → exec (.destroy n) s = .next s)

/-- 16 R347, R348, R343: a device reset keeps memory, the host's, poison, flash and fuses, and puts every register at its
reset value; verification starts the image or enters recovery with FAIL of the first check that fails; in recovery the
last chunk of an image that verifies is kept and started. A request in the mailbox gets its response there. What a reset
keeps is log entries 39 and 77, and the order of an image's checks log entry 25. -/
def Sys2Proof.Claims.BootSteps : Prop :=
  (∀ s : State, ∃ t, exec .deviceReset s = .next t ∧ t.boot = 1 ∧ t.mem = s.mem ∧ t.hostMem = s.hostMem
    ∧ t.poison = s.poison ∧ t.flash = s.flash ∧ t.fused = s.fused ∧ t.bar2Log = s.bar2Log
    ∧ { t with mem := [], hostMem := [], poison := [], flash := none, fused := State.reset.fused
               bar2Log := State.reset.bar2Log, fabOut := [], msix := [], cur := State.reset.cur
               agenda := [], fresh := 0, serial := 0, boot := 0 } = State.reset)
  ∧ (∀ s : State,
    let fails (img : List Byte) : BitVec 8 := if Config.ecdsaOk img = false then 1 else if Config.lmsOk img = false then 2
      else if Config.imageVersion img < s.fused then 3 else 0
    (s.boot = 1 → s.starting = true → exec .firmwareVerify s = .next { s with boot := 2, starting := false })
    ∧ (s.boot = 1 → s.starting = false → ∃ t, exec .firmwareVerify s = .next t
        ∧ (let r : BitVec 8 := if Config.flashFails s.fresh then 4 else fails (s.flash.getD Config.flashImage)
           t.boot = (if r = 0 then 2 else 3) ∧ t.bootFail = r)
        ∧ { t with boot := s.boot, bootFail := s.bootFail, fresh := s.fresh } = s)
    ∧ (s.boot ≠ 1 → exec .firmwareVerify s = .next s)
    ∧ (∀ len : BitVec 32, s.boot = 3 → len.getLsbD 31 = true →
      let img := s.chunks ++ s.mailBytes (len.toNat % 2 ^ 30)
      ∃ t, exec (.recoveryChunk len) s = .next t ∧ t.mboxDone = true ∧ t.mboxLen = len
        ∧ (len.getLsbD 30 = false → t.chunks = img ∧ t.boot = 3 ∧ t.bootFail = s.bootFail ∧ t.flash = s.flash)
        ∧ (len.getLsbD 30 = true → t.chunks = [] ∧ t.bootFail = fails img
            ∧ (fails img = 0 → t.flash = some img ∧ t.boot = 1 ∧ t.starting = true)
            ∧ (fails img ≠ 0 → t.flash = s.flash ∧ t.boot = 3 ∧ t.starting = s.starting))
        ∧ { t with mboxDone := s.mboxDone, mboxLen := s.mboxLen, chunks := s.chunks, flash := s.flash, boot := s.boot
                   bootFail := s.bootFail, starting := s.starting } = s)
    ∧ (∀ len : BitVec 32, s.boot ≠ 3 ∨ len.getLsbD 31 = false → exec (.recoveryChunk len) s = .next s))
  ∧ ∀ (s : State) (len : BitVec 32),
    (s.boot = 2 → Sparse.rising 0 s.mbox = true →
      let r := (s.spdmAnswer (s.mailBytes len.toNat)).take 3840
      ∃ t, exec (.spdmRequest len) s = .next t ∧ t.mboxDone = true ∧ t.mboxLen = len
        ∧ t.mboxRespLen = BitVec.ofNat 32 r.length
        ∧ (∀ i, Sparse.get 0 t.mbox i = if i < r.length then r.getD i 0 else Sparse.get 0 s.mbox i)
        ∧ { t with mbox := s.mbox, mboxLen := s.mboxLen, mboxDone := s.mboxDone, mboxRespLen := s.mboxRespLen
                   fresh := s.fresh } = s)
    ∧ (s.boot ≠ 2 → exec (.spdmRequest len) s = .next s)

/-- 16 R349 to R352: an island register takes a change it allows and sets CHG until CUR is the state asked for, and sets
REF and nothing else for one it does not; the clamp counts when it starts and tells the host; a row's count starts again
at its threshold. -/
def Sys2Proof.Claims.PowerSteps : Prop :=
  ∀ s : State, Sparse.rising 0 s.islands = true →
    (∀ (i : Nat) (v : Word), s.boot = 2 → i < 256 →
      let x := s.island i
      let vsel := v.extractLsb' 8 8
      let fdiv := v.extractLsb' 4 4
      let st := v.extractLsb' 0 2
      let bad := 90 < vsel.toNat ∨ st = 2 ∨ Config.fdivLimit vsel.toNat < fdiv.toNat
        ∨ (i < 192 ∧ st = 3 ∧ s.coreHolds (coreOfIsland i) = true) ∨ (224 ≤ i ∧ st ≠ 0)
        ∨ (192 ≤ i ∧ i < 224 ∧ st ≠ 0 ∧ s.dieOff (islandDie i) = false)
      ∃ t, exec (.islandWrite i v) s = .next t ∧ (∀ k, k ≠ i → t.island k = s.island k) ∧ { t with islands := s.islands } = s
        ∧ (bad → t.island i = { x with ref := true })
        ∧ (¬bad → t.island i = { x with ref := x.ref && !v.getLsbD 19, chg := true, vsel := vsel, fdiv := fdiv, state := st }))
    ∧ (∀ i v, s.boot ≠ 2 ∨ 256 ≤ i → exec (.islandWrite i v) s = .next s)
    ∧ (∀ i, (s.island i).chg = true → ∃ t, exec (.islandChangeComplete i) s = .next t
      ∧ t.island i = { s.island i with chg := false, cur := (s.island i).state }
      ∧ (∀ k, k ≠ i → t.island k = s.island k) ∧ { t with islands := s.islands } = s)
    ∧ (s.clampActive = false → ∃ t, exec .clampEnter s = .next t ∧ t.clampActive = true
      ∧ t.clampCnt = (if s.clampCnt = 0xFFFFFFFF then s.clampCnt else s.clampCnt + 1)
      ∧ t.msix = s.msix ++ (if s.clv.toNat < 2048 then [s.clv.toNat] else [])
      ∧ { t with clampActive := s.clampActive, clampCnt := s.clampCnt, msix := s.msix } = s)
    ∧ (s.clampActive = true → exec .clampEnter s = .next s)
    ∧ exec .clampExit s = .next { s with clampActive := false }
    ∧ ∀ stack bank row, ∃ t, exec (.rowPrecharge stack bank row) s = .next t
      ∧ (let k := (stack, bank, row)
         let n := (Tab.get? s.rows k).getD 0 + 1
         let limit := max 256 (Sparse.get 4096 s.rathr stack).toNat
         let bad := Config.parityFails s.fresh
         Tab.get? t.rows k = (if bad = true ∨ limit ≤ n then none else some n)
         ∧ t.badCnt = (if bad = true ∧ s.badCnt ≠ 0xFFFFFFFF then s.badCnt + 1 else s.badCnt)
         ∧ ∀ j, j ≠ k → Tab.get? t.rows j = Tab.get? s.rows j)
      ∧ { t with rows := s.rows, badCnt := s.badCnt, fresh := s.fresh } = s

/-- 16 R351: the check symbols that go with a sector make its word vanish at α^0 to α^3; whatever is added to symbols of
the word, the checker's four values are those of what was added, and with them, where the sector is poisoned, those of
the poison pattern (R352). -/
def Obligations.SectorCodeword : Prop :=
  ∀ (p : Nat) (bs : List Byte) (poisoned : Bool) (errs : List (Nat × BitVec 16)), (∀ e ∈ errs, e.1 < 40) →
    Ecc.check (Ecc.withErrors (Ecc.codeword p bs poisoned) errs)
      = Ecc.syndrome (errs ++ if poisoned then [(0, 0xFFFF), (1, 0xFFFF), (2, 0xFFFF), (3, 0xFFFF)] else [])

/-- 16 R351, R352: a stored sector that fails its code: what the checker finds to be the error is taken away and counts
in CE; a poisoned sector is reported as such; any other is rewritten as poisoned, counts in UE, and the host is told.
That a poisoned sector's report leaves UE alone, and that corrected data is kept, is log entry 60. -/
def Sys2Proof.Claims.SectorCode : Prop :=
  (∀ (s : State) (sec : Nat) (errs : List (Nat × BitVec 16)) (ms : List Move), s.agenda = .sectorError sec errs :: ms →
    step s = .next ({ s with agenda := ms }.sectorError sec errs))
  ∧ ∀ (s : State) (sec : Nat) (errs : List (Nat × BitVec 16)), isLocal (sectorBase sec) = true → s.memoryOk = true →
    let bs := Memory.readN s.mem (64 * sec) 64
    let syn := Ecc.check (Ecc.withErrors (Ecc.codeword (64 * sec) bs (s.poison.contains sec)) errs)
    let marked := if sec ∈ s.poison then s.poison else s.poison ++ [sec]
    let t := s.sectorError sec errs
    (syn = Ecc.syndrome [(0, 0xFFFF), (1, 0xFFFF), (2, 0xFFFF), (3, 0xFFFF)] → t = { s with poison := marked })
    ∧ (syn ≠ Ecc.syndrome [(0, 0xFFFF), (1, 0xFFFF), (2, 0xFFFF), (3, 0xFFFF)] →
      (∀ found, Ecc.correction syn = some found →
        (∀ k, k < 64 → Memory.read t.mem (64 * sec + k) = Memory.read s.mem (64 * sec + k)
            ^^^ ((Ecc.addedAt errs (k / 2 + 4) ^^^ Ecc.addedAt found (k / 2 + 4)).extractLsb' (8 * (k % 2)) 8))
          ∧ (∀ a, a < 64 * sec ∨ 64 * sec + 64 ≤ a → Memory.read t.mem a = Memory.read s.mem a)
          ∧ (∀ x, x ∈ t.poison ↔ x ∈ s.poison ∧ x ≠ sec)
          ∧ t.ceCnt = (if found = [] ∨ s.ceCnt = 0xFFFFFFFF then s.ceCnt else s.ceCnt + 1)
          ∧ { t with mem := s.mem, poison := s.poison, ceCnt := s.ceCnt } = s)
      ∧ (Ecc.correction syn = none →
        t = { s with
          poison := marked
          ueCnt := if s.ueCnt = 0xFFFFFFFF then s.ueCnt else s.ueCnt + 1
          ueAddr := BitVec.ofNat 58 (64 * sec)
          msix := s.msix ++ (if s.uev.toNat < 2048 then [s.uev.toNat] else []) }))

/-- 16 R353, R340: a spare command starts when none is in progress and none of its refusals holds, and its end puts the
spare in use; a cluster that is replaced gives back the spare cores that its cores had from earlier commands; a lane
reversal ends at the next training of the link. That a second spare for a unit stands beside the first is log entry 55. -/
def Sys2Proof.Claims.SpareSteps : Prop :=
  (∀ (s : State) (u0 u1 u2 : Nat) (i : Instr) (k : BitVec 8),
    (i, k) ∈ [(Instr.spareCore u0 u1, 1), (.spareCluster u0 u1, 2), (.spareSramRow u0 u1 u2, 3), (.spareHbmLane u0 u1 u2, 4),
      (.pcieLaneReversal, 6)] → s.spCmd = none →
    let c : SpareCmd := { kind := k, u0 := if k = 6 then 0 else u0, u1 := if k = 6 then 0 else u1
                          u2 := if k = 3 ∨ k = 4 then u2 else 0 }
    (s.spareRefuses c = none → exec i s = .next { s with spCmd := some c })
    ∧ ∀ r, s.spareRefuses c = some r → exec i s = .next { s with spResult := r })
  ∧ (∀ (s : State) (u0 u1 u2 : Nat), s.spCmd ≠ none → ∀ i ∈ [Instr.spareCore u0 u1, .spareCluster u0 u1,
      .spareSramRow u0 u1 u2, .spareHbmLane u0 u1 u2, .pcieLaneReversal], exec i s = .next s)
  ∧ (∀ (s : State) (c : SpareCmd), s.spCmd = some c → c.kind ≠ 6 → ∃ t, exec .spareComplete s = .next t ∧ t.spCmd = none
      ∧ t.spResult = 0
      ∧ (c.kind = 1 → t.spareCores = s.spareCores ++ [(c.u0, 4 * (c.u0 / 48) + c.u1)]
          ∧ (t.core (coreOfIsland c.u0)).fenced = false
          ∧ t.spareClusters = s.spareClusters)
      ∧ (c.kind = 2 → t.spareClusters = s.spareClusters ++ [(c.u0, 2 * (c.u0 / 24) + c.u1)]
          ∧ (∀ e, e ∈ t.spareCores ↔ e ∈ s.spareCores ∧ e.1 ≠ 2 * c.u0 ∧ e.1 ≠ 2 * c.u0 + 1)
          ∧ ∀ k, s.coreSpareUsed k = true → (∀ e ∈ s.spareCores, e.2 = k → e.1 / 2 = c.u0) →
              (∀ e ∈ t.spareClusters, e.2 ≠ k / 2) → t.coreSpareUsed k = false)
      ∧ (c.kind = 3 → t.spareRows = s.spareRows ++ [(c.u0, c.u1, c.u2)])
      ∧ (c.kind = 4 → t.spareLanes = s.spareLanes ++ [(c.u0, c.u1, c.u2)]))
  ∧ ∀ (s : State) (w : Nat), w ∈ [1, 2, 4, 8, 16] → ∃ t, exec (.linkTraining w) s = .next t ∧ t.linkWidth = w
      ∧ (∀ c, s.spCmd = some c → c.kind = 6 → t.reversed = !s.reversed ∧ t.spCmd = none ∧ t.spResult = 0)
      ∧ (s.spCmd = none → { t with linkWidth := s.linkWidth } = s)

/-- 12 R249, R253: a written sector of a cluster L1 may leave it at any time: its home then holds its written bytes, which
the cluster goes on seeing, and no other sector is touched. A written L2 copy of a sector of host memory leaves so too. A
clean sector leaves likewise (log entry 41). -/
def Sys2Proof.Claims.WritesPerformed : Prop :=
  (∀ (s : State) (clus sec : Nat) (x : Sector), s.tidy = true → s.memoryOk = true → unmoved s →
    s.l1Sector clus sec = some x → isLocal (sectorBase sec) = true →
    ∃ t, exec (.writePerformed false clus sec) s = .next t ∧ t.l1Sector clus sec = none
      ∧ (∀ k, k < 64 → Memory.read t.mem (64 * sec + k)
          = if laneIn x.mask k then x.bytes.getD k 0 else Memory.read s.mem (64 * sec + k))
      ∧ (∀ a, sectorOf a ≠ sec → Memory.read t.mem a = Memory.read s.mem a)
      ∧ (∀ k, k < 64 → laneIn x.mask k = true → seenAt t clus (64 * sec + k) = seenAt s clus (64 * sec + k))
      ∧ (∀ c y, c ≠ clus ∨ y ≠ sec → t.l1Sector c y = s.l1Sector c y)
      ∧ t.migrations.map unfiltered = s.migrations.map unfiltered
      ∧ { t with mem := s.mem, clusters := s.clusters, poison := s.poison, migrations := s.migrations } = s)
  ∧ ∀ (s : State) (clus sec : Nat) (x : Sector), s.tidy = true → s.memoryOk = true → s.l2Sector sec = some x →
    isHost (sectorBase sec) = true → s.wbOpen sec = false →
    ∃ t, exec (.writePerformed true clus sec) s = .next t ∧ t.l2Sector sec = none
      ∧ (∀ k, k < 64 → Memory.read t.hostMem (s.bus (placeAddr (sectorBase sec)) + k)
          = if laneIn x.mask k then x.bytes.getD k 0 else Memory.read s.hostMem (s.bus (placeAddr (sectorBase sec)) + k))
      ∧ (∀ a, (∀ k, k < 64 → a ≠ s.bus (placeAddr (sectorBase sec)) + k) → Memory.read t.hostMem a = Memory.read s.hostMem a)
      ∧ (∀ y, y ≠ sec → t.l2Sector y = s.l2Sector y)
      ∧ { t with hostMem := s.hostMem, l2 := s.l2, l2lines := s.l2lines } = s

/-- A context after the host has written v to one of its registers (16 R344, 15 R331). -/
def ctxWritten (c : Context) (off : Nat) (v : Word) : Option Context :=
  match off with
  | 0x00 => some { c with
      rqid := if c.en then c.rqid else v.extractLsb' 40 24, asid := if c.en then c.asid else v.extractLsb' 24 16
      en := v.getLsbD 0 }
  | 0x08 => some (if c.en then c else { c with t4base := v.extractLsb' 12 46 })
  | 0x10 => some (if c.en then c else { c with gcaBase := v })
  | 0x18 => some (if c.en then c else { c with gcaStr := v })
  | 0x20 => some (if c.en then c else { c with tcaBase := v })
  | 0x28 => some (if c.en then c else { c with tcaStr := v })
  | 0x30 => some (if c.en then c else { c with trapBase := v })
  | 0x38 => some (if c.en then c else { c with trapStr := v })
  | 0x40 => some { c with grace := v.extractLsb' 0 32 }
  | 0x48 => some { c with serbase := v.extractLsb' 0 32 }
  | 0x50 => some { c with clmask0 := v }
  | 0x58 => some { c with clmask1 := v.extractLsb' 0 32 }
  | 0x68 => some c
  | 0x80 => some (if c.fbEn then c else { c with fbBase := v.extractLsb' 12 52 })
  | 0x88 =>
    let rises := !c.fbEn && v.getLsbD 0
    some { c with
      drops := if rises then 0 else c.drops, vec := v.extractLsb' 16 16
      log2n := if c.fbEn then c.log2n else v.extractLsb' 8 5, nen := v.getLsbD 2
      dropped := c.dropped && !v.getLsbD 1, fbEn := v.getLsbD 0, put := if rises then c.get else c.put }
  | 0x90 => some c
  | 0x98 => some { c with get := v.extractLsb' 0 32 }
  | _ => none

/-- A queue after the host has written v to one of its registers, KILL apart (13 R279, R290). -/
def queueWritten (q : Queue) (off : Nat) (v : Word) : Option Queue :=
  match off with
  | 0x00 => some (if q.en then q else { q with ring := v.extractLsb' 12 52 })
  | 0x08 => some (if q.en then q else { q with ptrs := v.extractLsb' 6 58 })
  | 0x10 => some { q with
      ctx := if q.en then q.ctx else v.extractLsb' 32 8, log2n := if q.en then q.log2n else v.extractLsb' 16 4
      prio := v.extractLsb' 8 2, halt := q.halt && !v.getLsbD 2, en := v.getLsbD 0 }
  | 0x18 => some { q with t2 := v.extractLsb' 32 32, t1 := v.extractLsb' 0 32 }
  | 0x20 => some q
  | 0x28 => some { q with t3 := v.extractLsb' 0 32 }
  | _ => none

/-- 16 R342 to R345, 13 R279, R290, 15 R331: a host write of a register gives its fields the values written, and leaves
read-only fields and those that are fixed while EN is 1: queue ring, pointers, control and timers, context identity,
areas and fault buffer, DEVNUM, WBASE and CXLDEC among them; counters clear where a 1 is written; FBCTL's EN from 0 to 1
sets PUT to GET and DROPS to 0; a write of 4 bytes changes its half alone. An access that is not aligned changes
nothing. -/
def Obligations.RegistersWritten : Prop :=
  ∀ s : State, s.tidy = true →
    (∀ (off : Nat) (half : Bool) (v : Word), off % (if half then 4 else 8) ≠ 0 →
      exec (.registerWrite off half v) s = .next s)
    ∧ (∀ v, exec (.registerWrite 0x08 false v) s = .next { s with
        devnum := if (List.range 256).any (fun c => (s.ctx c).en) then s.devnum else v.extractLsb' 0 10 })
    ∧ (∀ v, exec (.registerWrite 0x10 false v) s = .next { s with
        repv := v.extractLsb' 48 16, qhv := v.extractLsb' 32 16, uev := v.extractLsb' 16 16, clv := v.extractLsb' 0 16 })
    ∧ (∀ v, exec (.registerWrite 0x18 false v) s = .next { s with
        ilim := v.extractLsb' 48 16, clampCnt := s.clampCnt &&& ~~~v.extractLsb' 16 32 })
    ∧ (∀ v, exec (.registerWrite 0x30 false v) s = .next { s with
        ueCnt := s.ueCnt &&& ~~~v.extractLsb' 32 32, ceCnt := s.ceCnt &&& ~~~v.extractLsb' 0 32 })
    ∧ (∀ v, exec (.registerWrite 0x30 true v) s = .next { s with ceCnt := s.ceCnt &&& ~~~v.extractLsb' 0 32 })
    ∧ (∀ v, exec (.registerWrite 0x34 true v) s = .next { s with ueCnt := s.ueCnt &&& ~~~v.extractLsb' 0 32 })
    ∧ (∀ v, exec (.registerWrite 0x38 false v) s = .next s)
    ∧ (∀ v, exec (.registerWrite 0x40 false v) s = .next { s with badCnt := s.badCnt &&& ~~~v.extractLsb' 0 32 })
    ∧ (∀ v, exec (.registerWrite 0x48 false v) s = .next { s with wbase := v.extractLsb' 0 40 })
    ∧ (s.boot = 2 →
      (∀ q off v w, q < 256 → queueWritten (s.queue q) off v = some w → (off = 0x10 → v.getLsbD 3 = false) →
        ∃ t, exec (.registerWrite (0x200000 + 64 * q + off) false v) s = .next t ∧ t.queue q = w
          ∧ (∀ k, k ≠ q → t.queue k = s.queue k) ∧ { t with queues := s.queues } = s)
      ∧ (∀ c off v x, c < 256 → ctxWritten (s.ctx c) off v = some x →
        ∃ t, exec (.registerWrite (0x300000 + 256 * c + off) false v) s = .next t ∧ t.ctx c = x
          ∧ (∀ k, k ≠ c → t.ctx k = s.ctx k) ∧ { t with ctxs := s.ctxs } = s)
      ∧ (∀ c v (up : Bool), c < 256 → (s.ctx c).en = false →
        let old := (s.ctx c).gcaBase
        ∃ t, exec (.registerWrite (0x300010 + 256 * c + if up then 4 else 0) true v) s = .next t
          ∧ t.ctx c = { s.ctx c with gcaBase :=
              if up then v.extractLsb' 0 32 ++ old.extractLsb' 0 32 else old.extractLsb' 32 32 ++ v.extractLsb' 0 32 }
          ∧ (∀ k, k ≠ c → t.ctx k = s.ctx k) ∧ { t with ctxs := s.ctxs } = s)
      ∧ (∀ c v x, ctxWritten (s.ctx c) 0x88 v = some x →
        ∃ t, exec (.faultBufferEnable c v) s = .next t ∧ t.ctx c = x
          ∧ (∀ k, k ≠ c → t.ctx k = s.ctx k) ∧ { t with ctxs := s.ctxs } = s)
      ∧ (∀ p v, p < 8 → Sparse.rising 0 s.cxlBase = true → Sparse.rising 0 s.cxlSize = true →
        (∃ t, exec (.registerWrite (0x40000 + 16 * p) false v) s = .next t
          ∧ (∀ k, Sparse.get 0 t.cxlBase k = if k = p then v else Sparse.get 0 s.cxlBase k)
          ∧ { t with cxlBase := s.cxlBase } = s)
        ∧ ∃ t, exec (.registerWrite (0x40008 + 16 * p) false v) s = .next t
          ∧ (∀ k, Sparse.get 0 t.cxlSize k = if k = p then v else Sparse.get 0 s.cxlSize k)
          ∧ { t with cxlSize := s.cxlSize } = s))

/-! ### Words and reset -/

/-- 01 R17, R31 and 02 R37: words that the manual writes out, and a few more from its field tables: the retained
`iadd.w` of 01, the word with three faults of 02 under three launches, a `bra` to OFF = −4 (01 R23), `tmpl #5, v6` of
07, the all-zero word, an unassigned opcode, and a load, an atomic and a matrix word. -/
def Obligations.SampleWords : Prop :=
  let e (n : Nat) : Env := { nr := n, width := 64, clasps := 16 }
  let g : Guard := { pg := 7, pn := false, k := false, rt := .none }
  let m : Addr := { base := .reg 6, seg := 4, pair := false, off := 0x10 }
  decode (e 64) 0x00000000000000400400FFC040537010
      = .iadd { pg := 3, pn := true, k := true, rt := .a } true 10 (.reg 4) (.imm 0x40)
    ∧ decode (e 4) 0x000001003011E940 = .illegalWord 6
    ∧ decode (e 5) 0x000001003011E940 = .illegalWord 8
    ∧ decode (e 5) 0x000001003010E940 = .fadd g 9 2 (.reg 3) (.reg 4)
    ∧ decode (e 64) 0xFFFFFFFC000000000000E002 = .bra g 0xFFFFFFFC
    ∧ decode (e 64) 0x5000000006000E0C0 = .tmpl g 5 0 (.reg 6)
    ∧ decode (e 64) 0 = .illegalWord 1
    ∧ decode (e 64) 0xE00F = .illegalWord 2
    ∧ decode (e 64) 0x204000000100C0000006028E070 = .ld g .b64 .plain .grp .strm 5 m
    ∧ decode (e 64) 0x700400000010840001C06028E090 = .atom g .exch true 0 .ar .dev 5 m (.reg 7)
    ∧ decode (e 64) 0xB00032000A02408010E1B0 = .mma g 1 2 3 2 8 9 10 11

/-- What reset leaves, of the values that the manual gives: 14 R307, R309, 15 R331, R334, 16 R343, R344, R349, R352,
13 R279, R290, 14 R313, R295, 10 R221, 12 R273, 07 R180. No launch, team, group or request is on the device. That memory
lists no byte is the model's choice (log entry 1), no value of the manual's. -/
def Obligations.ResetValues : Prop :=
  let s := State.reset
  s.boot = 0 ∧ s.bootFail = 0 ∧ s.devnum = 0 ∧ s.ilim = 9000 ∧ s.clampCnt = 0 ∧ s.clampActive = false ∧ s.ueCnt = 0
    ∧ s.ceCnt = 0 ∧ s.badCnt = 0 ∧ s.wbase = 0 ∧ s.rfen = false ∧ s.incarn = 0 ∧ s.rmax = 8 ∧ s.rto = 0
    ∧ s.rlim = 1024 ∧ s.drain = 16384 ∧ s.genf = 0 ∧ s.tbusy = false ∧ s.spResult = 0 ∧ s.spCmd = none
    ∧ (∀ i, s.island i = { ref := false, chg := false, cur := 0, vsel := 90, fdiv := 0, state := 0 })
    ∧ (∀ i, Sparse.get 4096 s.rathr i = 4096)
    ∧ (∀ c, (s.ctx c).en = false ∧ (s.ctx c).grace = 200000 ∧ (s.ctx c).log2n = 3 ∧ (s.ctx c).fbEn = false
      ∧ (s.ctx c).strict = false ∧ (s.ctx c).trapvec = 0 ∧ (s.ctx c).preq = false ∧ (s.ctx c).busy = false)
    ∧ (∀ q, (s.queue q).en = false ∧ (s.queue q).halt = false ∧ (s.queue q).ring = 0 ∧ (s.queue q).t1 = 0
      ∧ (s.queue q).t2 = 0 ∧ (s.queue q).t3 = 0 ∧ (s.queue q).stage = 0)
    ∧ (∀ p, (s.port p).crccnt = 0 ∧ (s.port p).state = 0 ∧ (s.port p).abthr = 0 ∧ (s.port p).nthr = 0)
    ∧ (∀ n, s.isPeerx n = false) ∧ (∀ c b, (s.bank c b).ownValid = false) ∧ (∀ i, (s.quar i).gen = 0)
    ∧ s.mem = [] ∧ s.launches = [] ∧ s.teams = [] ∧ s.groups = [] ∧ s.remotes = []

/-! ### The statements of several parts -/

/-- Words with a register result that are no arithmetic: cross-lane words, integer scans and reductions, and words that read machine state. -/
def Obligations.RegisterResults : Prop := Claims.CrossLaneResults ∧ Claims.ScanResults ∧ Claims.ReadResults

/-- Words that read counters or change a shape. -/
def Obligations.CounterWords : Prop := Claims.MatzResult ∧ Claims.PerfClears ∧ Claims.EventWord

/-- Floating-point words with a result in a slot. -/
def Obligations.FloatArithmetic : Prop := Claims.FloatResults ∧ Claims.FloatScan

/-- Floating-point words whose result or factors are of another kind. -/
def Obligations.FloatConversions : Prop := Claims.ClassResult ∧ Claims.ToIntegerResult ∧ Claims.BandScale

/-- fmtdef and fseed, and where they trap. -/
def Obligations.FormatSlots : Prop := Claims.SlotWords ∧ Claims.SlotWordTraps

/-- Paths split and meet. -/
def Obligations.BranchAndJoin : Prop := Claims.DivergentBranch ∧ Claims.JoinMeets

/-- Calls, returns and branches through tables. -/
def Obligations.CallsAndTables : Prop := Claims.CallReturn ∧ Claims.TableBranches

/-- Words that move, park or end a path. -/
def Obligations.PathWords : Prop := Claims.StraightWords ∧ Claims.PmarkParks ∧ Claims.ExitLeaves

/-- How a group enters its handler, and what stands in the frame. -/
def Obligations.HandlerEntry : Prop := Claims.TrapEntry ∧ Claims.FrameFields

/-- trap, a word that fails its checks, and rte. -/
def Obligations.TrapAndReturn : Prop := Claims.TrapWords ∧ Claims.ReturnFromTrap

/-- What a frame or a save image holds is what comes back out of it. -/
def Obligations.ImagesRoundTrip : Prop := Claims.TrapRoundTrip ∧ Claims.SaveRoundTrip

/-- Scaled-block sectors and the words on them. -/
def Obligations.ScaledBlocks : Prop := Claims.SectorFields ∧ Claims.QuantiseWord ∧ Claims.ResidualRun ∧ Claims.UnpackWords ∧ Claims.PackWord

/-- What a walk of the page tables gives. -/
def Obligations.Translation : Prop := Claims.TranslateLeaf ∧ Claims.TranslateRefuses

/-- Traps of addresses before translation. -/
def Obligations.AccessTraps : Prop := Claims.LoadStoreTraps ∧ Claims.OtherAccessTraps

/-- Reads and writes through a cluster L1. -/
def Obligations.MemoryCoherent : Prop := Claims.ReadSeesMemory ∧ Claims.WriteSeenBack ∧ Claims.RetentionRecord ∧ Claims.CacheVictim ∧ Claims.CacheEvicts

/-- ld, ldi and ldp. -/
def Obligations.Loads : Prop := Claims.LoadWords ∧ Claims.LoadWaits ∧ Claims.PackedLoad

/-- st, stp and stfr. -/
def Obligations.Stores : Prop := Claims.StoreWords ∧ Claims.BitStores

/-- The zero-mask form, stz and ldz. -/
def Obligations.ZeroMaskForms : Prop := Claims.FormRoundTrip ∧ Claims.FormStore ∧ Claims.FormLoad

/-- ldfr of packed rows and of sectors. -/
def Obligations.FragmentLoads : Prop := Claims.FragmentLoad ∧ Claims.FragmentSectors

/-- Words that may wait before issue. -/
def Obligations.StrandAndWaitWords : Prop := Claims.StrandWords ∧ Claims.WaitWords

/-- Contributions and atom.fadd under DET, and the bead. -/
def Obligations.DeterministicSums : Prop := Claims.Contributions ∧ Claims.AtomUnderDet ∧ Claims.BeadWords

/-- Clasps and the words on them. -/
def Obligations.Clasps : Prop := Claims.ClaspRules ∧ Claims.ClaspWords

/-- Matrix words as they issue. -/
def Obligations.MatrixWords : Prop := Claims.MatrixIssue ∧ Claims.MatrixTraps

/-- Records handed to engines, banks and control registers. -/
def Obligations.EngineAndSystemWords : Prop := Claims.EngineWords ∧ Claims.BankAndControl

/-- Results in flight come back, and the traps they leave are taken. -/
def Obligations.ResultsReturn : Prop := Claims.ResultsArrive ∧ Claims.MatrixEngine ∧ Claims.PendingTraps

/-- Groups retire or are saved, and teams end. -/
def Obligations.GroupsLeave : Prop := Claims.GroupRetires ∧ Claims.TeamsEnd ∧ Claims.GroupSaves

/-- Teams are placed, restored and evicted, and their timers expire. -/
def Obligations.TeamsMove : Prop := Claims.TeamsPlaced ∧ Claims.TeamTimers

/-- Commands become visible and are taken. -/
def Obligations.FrontEndCommands : Prop := Claims.TailReads ∧ Claims.LaunchAccepted ∧ Claims.WaitSignal

/-- Copies from their start to their end, and bank mode changes. -/
def Obligations.Copies : Prop := Claims.CopyStarts ∧ Claims.CopyEngine

/-- Collectives and requests to other devices. -/
def Obligations.OutstandingRequests : Prop := Claims.CollectiveSteps ∧ Claims.RequesterSteps

/-- What an owner turns away, and how floors move. -/
def Obligations.OwnerAnswers : Prop := Claims.RequestsRefused ∧ Claims.FloorsMove

/-- Commands of the host on faults, TLBs, caches and frames. -/
def Obligations.TranslationCommands : Prop := Claims.ReplayAndInval ∧ Claims.FlushAndFree

/-- Accesses of the host through BAR2, address translation, and written sectors going home. -/
def Obligations.DirectAccess : Prop := Claims.HostMemoryAccess ∧ Claims.WritesPerformed

/-- Context commands and boot. -/
def Obligations.ControllerSteps : Prop := Claims.ContextCommands ∧ Claims.BootSteps

/-- Islands, clamp, activation counts, spares, port repair and the sector code. -/
def Obligations.DeviceUpkeep : Prop := Claims.PowerSteps ∧ Claims.SpareSteps ∧ Claims.PortRepair ∧ Claims.SectorCode

/-- A step runs the decoded word at the program counter, and what it adds around that. -/
def Obligations.StepRunsWord : Prop := Claims.StepRunsDecoded ∧ Claims.PickChooses ∧ Claims.TurnFrame ∧ Claims.TurnSettles
end

