-- ==== Sys2Proof/Laws/Store.lean ====
section
/-! SUPPORT. Laws of the sparse tables, and of the canonical form they keep. -/

namespace Sys2Proof.Machine

variable {β : Type}

theorem Sparse.get_put_same [DecidableEq β] (d : β) (t : List (Nat × β)) (k : Nat) (v : β) :
    Sparse.rising 0 t = true → Sparse.get d (Sparse.put d t k v) k = v := by
  suffices h : ∀ lo, Sparse.rising lo t = true → Sparse.get d (Sparse.put d t k v) k = v from h 0
  induction t with
  | nil => intro lo _; by_cases hv : v = d <;> simp [Sparse.put, Sparse.get, hv]
  | cons e t ih =>
    intro lo h
    obtain ⟨a, x⟩ := e
    simp only [Sparse.rising, Bool.and_eq_true, decide_eq_true_eq] at h
    have hd : ∀ (u : List (Nat × β)) lo', Sparse.rising lo' u = true → k < lo' → Sparse.get d u k = d := by
      intro u lo' hu hk
      cases u with
      | nil => rfl
      | cons e u =>
        obtain ⟨b, y⟩ := e
        simp only [Sparse.rising, Bool.and_eq_true, decide_eq_true_eq] at hu
        simp only [Sparse.get]
        rw [if_neg (by omega), if_pos (by omega)]
    simp only [Sparse.put]
    by_cases h1 : k < a
    · by_cases hv : v = d
      · simp only [h1, hv, if_true, Sparse.get]
        rw [if_neg (by omega)]
      · simp [h1, hv, Sparse.get]
    · by_cases h2 : k = a
      · by_cases hv : v = d
        · simp only [h2, hv, Nat.lt_irrefl, if_true, if_false]
          subst h2
          exact hd t _ h.2 (by omega)
        · subst h2
          simp [hv, Sparse.get]
      · simp only [h1, h2, if_false, Sparse.get]
        rw [if_neg (by omega)]
        exact ih _ h.2

theorem Sparse.get_put_other [DecidableEq β] (d : β) (t : List (Nat × β)) (k j : Nat) (v : β) (hj : j ≠ k) :
    Sparse.rising 0 t = true → Sparse.get d (Sparse.put d t k v) j = Sparse.get d t j := by
  suffices h : ∀ lo, Sparse.rising lo t = true → Sparse.get d (Sparse.put d t k v) j = Sparse.get d t j from h 0
  induction t with
  | nil =>
    intro lo _
    by_cases hv : v = d
    · simp [Sparse.put, hv]
    · simp only [Sparse.put, hv, if_false, Sparse.get]
      rw [if_neg (by omega)]
      split <;> rfl
  | cons e t ih =>
    intro lo h
    obtain ⟨a, x⟩ := e
    simp only [Sparse.rising, Bool.and_eq_true, decide_eq_true_eq] at h
    have hd : ∀ (u : List (Nat × β)) lo', Sparse.rising lo' u = true → j < lo' → Sparse.get d u j = d := by
      intro u lo' hu hk
      cases u with
      | nil => rfl
      | cons e u =>
        obtain ⟨b, y⟩ := e
        simp only [Sparse.rising, Bool.and_eq_true, decide_eq_true_eq] at hu
        simp only [Sparse.get]
        rw [if_neg (by omega), if_pos (by omega)]
    simp only [Sparse.put]
    by_cases h1 : k < a
    · by_cases hv : v = d
      · simp [h1, hv]
      · simp only [h1, hv, if_true, if_false, Sparse.get]
        rw [if_neg (by omega)]
        by_cases hlt : j < k
        · rw [if_pos hlt, if_neg (by omega), if_pos (by omega)]
        · rw [if_neg hlt]
    · by_cases h2 : k = a
      · subst h2
        by_cases hv : v = d
        · simp only [hv, Nat.lt_irrefl, if_true, if_false, Sparse.get]
          rw [if_neg (by omega)]
          by_cases hlt : j < k
          · rw [if_pos hlt]
            exact hd t _ h.2 (by omega)
          · rw [if_neg hlt]
        · simp only [hv, Nat.lt_irrefl, if_true, if_false, Sparse.get]
          simp [Ne.symm hj]
      · simp only [h1, h2, if_false, Sparse.get]
        split
        · rfl
        · split
          · rfl
          · exact ih _ h.2

/-- A canonical table has rising keys. -/
theorem Sparse.rising_of_wfFrom [DecidableEq β] (d : β) (t : List (Nat × β)) :
    ∀ lo, Sparse.wfFrom d lo t = true → Sparse.rising lo t = true := by
  induction t with
  | nil => intros; rfl
  | cons e t ih =>
    intro lo h
    simp only [Sparse.wfFrom, Sparse.rising, Bool.and_eq_true] at h ⊢
    exact ⟨h.1.1, ih _ h.2⟩

theorem Sparse.rising_of_wf [DecidableEq β] (d : β) (t : List (Nat × β)) (h : Sparse.wf d t = true) :
    Sparse.rising 0 t = true := Sparse.rising_of_wfFrom d t 0 h

theorem Sparse.wfFrom_mono [DecidableEq β] (d : β) (t : List (Nat × β)) {a b : Nat} (hab : a ≤ b) :
    Sparse.wfFrom d b t = true → Sparse.wfFrom d a t = true := by
  cases t with
  | nil => intro; rfl
  | cons e t =>
    simp only [Sparse.wfFrom, Bool.and_eq_true, decide_eq_true_eq]
    rintro ⟨⟨h1, h2⟩, h3⟩
    exact ⟨⟨by omega, h2⟩, h3⟩

theorem Sparse.wfFrom_put [DecidableEq β] (d : β) (t : List (Nat × β)) (k : Nat) (v : β) :
    ∀ lo, lo ≤ k → Sparse.wfFrom d lo t = true → Sparse.wfFrom d lo (Sparse.put d t k v) = true := by
  induction t with
  | nil =>
    intro lo hk _
    by_cases hv : v = d
    · simp [Sparse.put, hv, Sparse.wfFrom]
    · simp [Sparse.put, hv, Sparse.wfFrom, hk]
  | cons e t ih =>
    intro lo hk h
    obtain ⟨a, x⟩ := e
    have h' := h
    simp only [Sparse.wfFrom, Bool.and_eq_true, decide_eq_true_eq] at h
    simp only [Sparse.put]
    by_cases h1 : k < a
    · by_cases hv : v = d
      · simpa [h1, hv] using h'
      · simp only [h1, hv, if_true, if_false, Sparse.wfFrom, Bool.and_eq_true, decide_eq_true_eq]
        exact ⟨⟨hk, by simp⟩, ⟨h1, h.1.2⟩, h.2⟩
    · by_cases h2 : k = a
      · by_cases hv : v = d
        · simp only [h2, hv, Nat.lt_irrefl, if_true, if_false]
          exact Sparse.wfFrom_mono d t (by omega) h.2
        · simp only [h2, hv, Nat.lt_irrefl, if_true, if_false, Sparse.wfFrom, Bool.and_eq_true, decide_eq_true_eq]
          exact ⟨⟨h.1.1, by simp⟩, h.2⟩
      · simp only [h1, h2, if_false, Sparse.wfFrom, Bool.and_eq_true, decide_eq_true_eq]
        exact ⟨h.1, ih _ (by omega) h.2⟩

theorem Sparse.wf_put [DecidableEq β] (d : β) (t : List (Nat × β)) (k : Nat) (v : β) (h : Sparse.wf d t = true) :
    Sparse.wf d (Sparse.put d t k v) = true := Sparse.wfFrom_put d t k v 0 (Nat.zero_le _) h

theorem Sparse.rising_mono (t : List (Nat × β)) {a b : Nat} (hab : a ≤ b) :
    Sparse.rising b t = true → Sparse.rising a t = true := by
  cases t with
  | nil => intro; rfl
  | cons e t =>
    simp only [Sparse.rising, Bool.and_eq_true, decide_eq_true_eq]
    rintro ⟨h1, h2⟩
    exact ⟨by omega, h2⟩

theorem Sparse.rising_putFrom [DecidableEq β] (d : β) (t : List (Nat × β)) (k : Nat) (v : β) :
    ∀ lo, lo ≤ k → Sparse.rising lo t = true → Sparse.rising lo (Sparse.put d t k v) = true := by
  induction t with
  | nil =>
    intro lo hk _
    by_cases hv : v = d
    · simp [Sparse.put, hv, Sparse.rising]
    · simp [Sparse.put, hv, Sparse.rising, hk]
  | cons e t ih =>
    intro lo hk h
    obtain ⟨a, x⟩ := e
    have h' := h
    simp only [Sparse.rising, Bool.and_eq_true, decide_eq_true_eq] at h
    simp only [Sparse.put]
    by_cases h1 : k < a
    · by_cases hv : v = d
      · simpa [h1, hv] using h'
      · simp only [h1, hv, if_true, if_false, Sparse.rising, Bool.and_eq_true, decide_eq_true_eq]
        exact ⟨hk, h1, h.2⟩
    · by_cases h2 : k = a
      · by_cases hv : v = d
        · simp only [h2, hv, Nat.lt_irrefl, if_true, if_false]
          exact Sparse.rising_mono t (by omega) h.2
        · simp only [h2, hv, Nat.lt_irrefl, if_true, if_false, Sparse.rising, Bool.and_eq_true, decide_eq_true_eq]
          exact h
      · simp only [h1, h2, if_false, Sparse.rising, Bool.and_eq_true, decide_eq_true_eq]
        exact ⟨h.1, ih _ (by omega) h.2⟩

theorem Sparse.rising_put [DecidableEq β] (d : β) (t : List (Nat × β)) (k : Nat) (v : β)
    (h : Sparse.rising 0 t = true) : Sparse.rising 0 (Sparse.put d t k v) = true :=
  Sparse.rising_putFrom d t k v 0 (Nat.zero_le _) h

/-! ### Tables without order -/

theorem Tab.get?_put_same {κ : Type} [DecidableEq κ] (t : List (κ × β)) (k : κ) (v : β) :
    Tab.get? (Tab.put t k v) k = some v := by
  induction t with
  | nil => simp [Tab.put, Tab.get?]
  | cons e t ih =>
    obtain ⟨a, x⟩ := e
    by_cases h : a = k
    · simp [Tab.put, Tab.get?, h]
    · simp only [Tab.put, h, if_false]
      simpa [Tab.get?, List.find?, h] using ih

theorem Tab.get?_put_other {κ : Type} [DecidableEq κ] (t : List (κ × β)) (k j : κ) (v : β) (hj : j ≠ k) :
    Tab.get? (Tab.put t k v) j = Tab.get? t j := by
  induction t with
  | nil => simp [Tab.put, Tab.get?, hj.symm]
  | cons e t ih =>
    obtain ⟨a, x⟩ := e
    by_cases h : a = k
    · subst h
      simp [Tab.put, Tab.get?, List.find?, hj.symm]
    · simp only [Tab.put, h, if_false]
      by_cases ha : a = j
      · simp [Tab.get?, List.find?, ha]
      · simpa [Tab.get?, List.find?, ha] using ih

/-- An entry after a put is the one put, or was there before. -/
theorem Tab.mem_put {κ : Type} [DecidableEq κ] (t : List (κ × β)) (k : κ) (v : β) (e : κ × β) :
    e ∈ Tab.put t k v → e = (k, v) ∨ e ∈ t := by
  induction t with
  | nil => simp [Tab.put]
  | cons x t ih =>
    obtain ⟨a, y⟩ := x
    by_cases h : a = k
    · subst h
      simp only [Tab.put, if_true, List.mem_cons]
      rintro (h | h)
      · exact .inl h
      · exact .inr (.inr h)
    · simp only [Tab.put, h, if_false, List.mem_cons]
      rintro (h | h)
      · exact .inr (.inl h)
      · exact (ih h).imp id .inr

theorem Tab.get?_mem {κ : Type} [DecidableEq κ] (t : List (κ × β)) (k : κ) (v : β) (h : Tab.get? t k = some v) :
    (k, v) ∈ t := by
  unfold Tab.get? at h
  cases hf : t.find? (fun e => decide (e.1 = k)) with
  | none => simp [hf] at h
  | some e =>
    simp only [hf, Option.map_some, Option.some.injEq] at h
    have hm := List.mem_of_find?_eq_some hf
    have hk := List.find?_some hf
    simp only [decide_eq_true_eq] at hk
    rw [← hk, ← h]
    exact hm

/-! ### Byte memory (log entries 1, 2) -/

theorem Memory.wf_write (m : List Host.Cell) (a : Nat) (v : Byte) (h : Memory.wf m = true) :
    Memory.wf (Memory.write m a v) = true := Sparse.wf_put _ _ _ _ h

theorem Memory.read_write_same (m : List Host.Cell) (a : Nat) (v : Byte) (h : Memory.wf m = true) :
    Memory.read (Memory.write m a v) a = v := Sparse.get_put_same _ _ _ _ (Sparse.rising_of_wf _ _ h)

theorem Memory.read_write_other (m : List Host.Cell) (a b : Nat) (v : Byte) (h : Memory.wf m = true) (hb : b ≠ a) :
    Memory.read (Memory.write m a v) b = Memory.read m b :=
  Sparse.get_put_other _ _ _ _ _ hb (Sparse.rising_of_wf _ _ h)

theorem Memory.wf_writeN (bs : List Byte) : ∀ (m : List Host.Cell) (a : Nat), Memory.wf m = true →
    Memory.wf (Memory.writeN m a bs) = true := by
  induction bs with
  | nil => intro m a h; exact h
  | cons b bs ih => intro m a h; exact ih _ _ (Memory.wf_write _ _ _ h)

/-- What stands at an address after a write of bytes from a up. -/
theorem Memory.read_writeN (bs : List Byte) : ∀ (m : List Host.Cell) (a x : Nat), Memory.wf m = true →
    Memory.read (Memory.writeN m a bs) x = if a ≤ x ∧ x < a + bs.length then bs.getD (x - a) 0 else Memory.read m x := by
  induction bs with
  | nil =>
    intro m a x _
    rw [if_neg (by rintro ⟨h1, h2⟩; simp at h2; omega)]
    rfl
  | cons b bs ih =>
    intro m a x h
    simp only [Memory.writeN, List.length_cons]
    rw [ih _ _ _ (Memory.wf_write _ _ _ h)]
    by_cases hx : x = a
    · subst hx
      rw [if_neg (by omega), if_pos (by omega), Memory.read_write_same _ _ _ h]
      simp
    · rw [Memory.read_write_other _ _ _ _ h hx]
      by_cases hr : a + 1 ≤ x ∧ x < a + 1 + bs.length
      · rw [if_pos hr, if_pos (by omega), show x - a = (x - (a + 1)) + 1 by omega]
        simp
      · rw [if_neg hr, if_neg (by omega)]

theorem Memory.wf_writeMasked (bs : List Byte) : ∀ (m : List Host.Cell) (a k : Nat), Memory.wf m = true →
    Memory.wf (writeMasked m a bs k) = true := by
  induction bs with
  | nil => intro m a k h; exact h
  | cons b bs ih =>
    intro m a k h
    simp only [writeMasked]
    split
    · exact ih _ _ _ (Memory.wf_write _ _ _ h)
    · exact ih _ _ _ h

/-- What stands at an address after a masked write. -/
theorem Memory.read_writeMasked (bs : List Byte) : ∀ (m : List Host.Cell) (a k x : Nat), Memory.wf m = true →
    Memory.read (writeMasked m a bs k) x
      = if a ≤ x ∧ x < a + bs.length ∧ k.testBit (x - a) then bs.getD (x - a) 0 else Memory.read m x := by
  induction bs with
  | nil =>
    intro m a k x _
    rw [if_neg (by rintro ⟨h1, h2, _⟩; simp at h2; omega)]
    rfl
  | cons b bs ih =>
    intro m a k x h
    simp only [writeMasked, List.length_cons]
    have hw : Memory.wf (if k % 2 = 1 then Memory.write m a b else m) = true := by
      split
      · exact Memory.wf_write _ _ _ h
      · exact h
    rw [ih _ _ _ _ hw]
    by_cases hx : x = a
    · subst hx
      rw [if_neg (by omega)]
      by_cases hk : k % 2 = 1
      · rw [if_pos hk, Memory.read_write_same _ _ _ h, if_pos ⟨by omega, by omega, by simp [Nat.testBit_zero, hk]⟩]
        simp
      · rw [if_neg hk, if_neg (by simp [Nat.testBit_zero, hk])]
    · have hr : Memory.read (if k % 2 = 1 then Memory.write m a b else m) x = Memory.read m x := by
        split
        · exact Memory.read_write_other _ _ _ _ h hx
        · rfl
      rw [hr]
      by_cases hge : a + 1 ≤ x
      · have e : x - a = (x - (a + 1)) + 1 := by omega
        rw [e, Nat.testBit_add_one]
        simp only [List.getD_cons_succ]
        congr 1
        simp only [eq_iff_iff]
        constructor
        · rintro ⟨_, h2, h3⟩
          exact ⟨by omega, by omega, h3⟩
        · rintro ⟨_, h2, h3⟩
          exact ⟨hge, by omega, h3⟩
      · rw [if_neg (by omega), if_neg (by omega)]

end Sys2Proof.Machine
end

