-- ==== Sys2Proof/Laws/Memory.lean ====
section
/-! SUPPORT. Every operation that writes memory keeps the canonical form (log entries 1, 2), and what each leaves as it
was. -/

namespace Sys2Proof.Machine

/-! ### Lookups after updates -/

theorem State.group?_setGroup_same (s : State) (gid : GroupId) (g : Group) :
    (s.setGroup gid g).group? gid = some g := Tab.get?_put_same _ _ _

theorem State.group?_setGroup_other (s : State) (gid o : GroupId) (g : Group) (h : o ≠ gid) :
    (s.setGroup gid g).group? o = s.group? o := Tab.get?_put_other _ _ _ _ h

theorem State.team?_setTeam_same (s : State) (tid : TeamId) (t : Team) :
    (s.setTeam tid t).team? tid = some t := Tab.get?_put_same _ _ _

theorem State.team?_setTeam_other (s : State) (tid o : TeamId) (t : Team) (h : o ≠ tid) :
    (s.setTeam tid t).team? o = s.team? o := Tab.get?_put_other _ _ _ _ h

theorem State.core_modCore_same (s : State) (c : CoreId) (f : Core → Core) : (s.modCore c f).core c = f (s.core c) := by
  simp [State.core, State.modCore, Tab.get?_put_same]

theorem State.core_modCore_other (s : State) (c o : CoreId) (f : Core → Core) (h : o ≠ c) :
    (s.modCore c f).core o = s.core o := by
  simp [State.core, State.modCore, Tab.get?_put_other _ _ _ _ h]

/-! ### The form -/

theorem State.memoryOk_iff (s : State) : s.memoryOk = true ↔
    Memory.wf s.mem = true ∧ Memory.wf s.hostMem = true ∧ ∀ e ∈ s.teams, Memory.wf e.2.scratch = true := by
  simp [State.memoryOk, and_assoc]

/-- Updates of other fields keep the form. -/
theorem State.memoryOk_same {s t : State} (h : s.memoryOk = true) (h1 : t.mem = s.mem) (h2 : t.hostMem = s.hostMem)
    (h3 : t.teams = s.teams) : t.memoryOk = true := by
  simpa [State.memoryOk, h1, h2, h3] using h

theorem State.memoryOk_setGroup (s : State) (gid : GroupId) (g : Group) (h : s.memoryOk = true) :
    (s.setGroup gid g).memoryOk = true := State.memoryOk_same h rfl rfl rfl

theorem State.memoryOk_modCore (s : State) (c : CoreId) (f : Core → Core) (h : s.memoryOk = true) :
    (s.modCore c f).memoryOk = true := State.memoryOk_same h rfl rfl rfl

theorem State.memoryOk_modCluster (s : State) (c : Nat) (f : Cluster → Cluster) (h : s.memoryOk = true) :
    (s.modCluster c f).memoryOk = true := State.memoryOk_same h rfl rfl rfl

theorem State.memoryOk_modCtx (s : State) (c : Nat) (f : Context → Context) (h : s.memoryOk = true) :
    (s.modCtx c f).memoryOk = true := State.memoryOk_same h rfl rfl rfl

theorem State.memoryOk_modQueue (s : State) (q : Nat) (f : Queue → Queue) (h : s.memoryOk = true) :
    (s.modQueue q f).memoryOk = true := State.memoryOk_same h rfl rfl rfl

theorem State.memoryOk_modGroup (s : State) (gid : GroupId) (f : Group → Group) (h : s.memoryOk = true) :
    (s.modGroup gid f).memoryOk = true := by
  unfold State.modGroup
  split
  · exact State.memoryOk_setGroup _ _ _ h
  · exact h

theorem State.memoryOk_setTeam (s : State) (tid : TeamId) (t : Team) (h : s.memoryOk = true)
    (ht : Memory.wf t.scratch = true) : (s.setTeam tid t).memoryOk = true := by
  rw [State.memoryOk_iff] at h ⊢
  refine ⟨h.1, h.2.1, fun e he => ?_⟩
  obtain rfl | he := Tab.mem_put _ _ _ _ he
  · exact ht
  · exact h.2.2 e he

/-- An update of a team that keeps its scratch memory's form. -/
theorem State.memoryOk_modTeam (s : State) (tid : TeamId) (f : Team → Team) (h : s.memoryOk = true)
    (hf : ∀ t, Memory.wf t.scratch = true → Memory.wf (f t).scratch = true) : (s.modTeam tid f).memoryOk = true := by
  unfold State.modTeam
  split
  · rename_i t ht
    exact State.memoryOk_setTeam _ _ _ h (hf t (((State.memoryOk_iff s).mp h).2.2 _ (Tab.get?_mem _ _ _ ht)))
  · exact h

/-! ### Home slices, host memory, context areas and scratch -/

theorem State.memoryOk_homeWrite (s : State) (sec : Nat) (bs : List Byte) (m : Word) (w : Bool) (h : s.memoryOk = true) :
    (s.homeWrite sec bs m w).memoryOk = true := by
  rw [State.memoryOk_iff] at h ⊢
  exact ⟨Memory.wf_writeMasked _ _ _ _ h.1, h.2⟩

theorem State.memoryOk_homeWriteAt (s : State) (p : Nat) (bs : List Byte) (h : s.memoryOk = true) :
    (s.homeWriteAt p bs).memoryOk = true := State.memoryOk_homeWrite _ _ _ _ _ h

theorem State.memoryOk_homeWriteN (s : State) (p : Nat) (bs : List Byte) (h : s.memoryOk = true) :
    (s.homeWriteN p bs).memoryOk = true := by
  unfold State.homeWriteN
  generalize pieces (bs.length + 1) p bs = xs
  induction xs generalizing s with
  | nil => exact h
  | cons x xs ih => exact ih _ (State.memoryOk_homeWriteAt _ _ _ h)

theorem State.memoryOk_hostWrite (s : State) (a : Nat) (bs : List Byte) (m : Word) (h : s.memoryOk = true) :
    (s.hostWrite a bs m).memoryOk = true := by
  rw [State.memoryOk_iff] at h ⊢
  exact ⟨h.1, Memory.wf_writeMasked _ _ _ _ h.2.1, h.2.2⟩

theorem State.memoryOk_hostWriteN (s : State) (a : Nat) (bs : List Byte) (h : s.memoryOk = true) :
    (s.hostWriteN a bs).memoryOk = true := by
  unfold State.hostWriteN
  generalize pieces (bs.length + 1) a bs = xs
  induction xs generalizing s with
  | nil => exact h
  | cons x xs ih =>
    refine ih _ ?_
    rw [State.memoryOk_iff] at h ⊢
    exact ⟨h.1, Memory.wf_writeN _ _ _ h.2.1, h.2.2⟩

theorem State.memoryOk_areaWrite (s : State) (p : Nat) (bs : List Byte) (h : s.memoryOk = true) :
    (s.areaWrite p bs).memoryOk = true := State.memoryOk_homeWriteN _ _ _ h

theorem State.memoryOk_scratchWrite (s : State) (tid : TeamId) (o : Nat) (bs : List Byte) (h : s.memoryOk = true) :
    (s.scratchWrite tid o bs).memoryOk = true :=
  State.memoryOk_modTeam _ _ _ h (fun _ ht => Memory.wf_writeN _ _ _ ht)

/-- Dropping bytes of scratch that no saved range covers keeps the form (08 R207). -/
theorem Memory.wf_filter (f : Host.Cell → Bool) (m : List Host.Cell) (h : Memory.wf m = true) :
    Memory.wf (m.filter f) = true := by
  suffices hs : ∀ (m : List Host.Cell) lo, Sparse.wfFrom Memory.unlisted lo m = true →
      Sparse.wfFrom Memory.unlisted lo (m.filter f) = true from hs m 0 h
  intro m
  induction m with
  | nil => intros; rfl
  | cons e t ih =>
    intro lo h
    simp only [Sparse.wfFrom, Bool.and_eq_true, decide_eq_true_eq] at h
    by_cases hf : f e = true
    · simp only [List.filter_cons, hf, if_true, Sparse.wfFrom, Bool.and_eq_true, decide_eq_true_eq]
      exact ⟨h.1, ih _ h.2⟩
    · simp only [List.filter_cons, hf, if_false, Bool.false_eq_true]
      exact Sparse.wfFrom_mono _ _ (Nat.le_succ_of_le h.1.1) (ih _ h.2)

/-! ### What writes leave as it was -/

/-- A home write changes memory, poison and dirty-filter entries, and nothing else. -/
theorem State.homeWrite_frame (s : State) (sec : Nat) (bs : List Byte) (m : Word) (w : Bool) :
    { s.homeWrite sec bs m w with mem := s.mem, poison := s.poison, migrations := s.migrations } = s := rfl

/-- A dirty-filter entry moves no frame. -/
theorem markDirty_same (frame : Nat) (e : Nat × Migration) : unfiltered (markDirty frame e) = unfiltered e := by
  unfold markDirty
  split <;> rfl

theorem State.homeWrite_migrations (s : State) (sec : Nat) (bs : List Byte) (m : Word) (w : Bool) :
    (s.homeWrite sec bs m w).migrations.map unfiltered = s.migrations.map unfiltered := by
  simp only [State.homeWrite, List.map_map]
  exact List.map_congr_left (fun e _ => markDirty_same _ e)

/-- Following migrations does not look at their filter entries (15 R338). -/
theorem redirectBy_unfiltered (ms : List (Nat × Migration)) (n p : Nat) :
    redirectBy (ms.map unfiltered) n p = redirectBy ms n p := by
  induction n generalizing p with
  | zero => rfl
  | succ n ih =>
    have hf : (ms.map unfiltered).find? (fun e => e.2.committed && e.2.src == p / 65536)
        = (ms.find? (fun e => e.2.committed && e.2.src == p / 65536)).map unfiltered := by
      rw [List.find?_map]; rfl
    simp only [redirectBy, hf]
    cases ms.find? (fun e => e.2.committed && e.2.src == p / 65536) with
    | none => rfl
    | some e => exact ih _

/-- Redirection follows from the migrations without their filter entries (15 R338). -/
theorem State.redirect_of_migrations {s t : State} (h : t.migrations.map unfiltered = s.migrations.map unfiltered) (p : Nat) :
    t.redirect p = s.redirect p := by
  have hl : t.migrations.length = s.migrations.length := by simpa using congrArg List.length h
  simp only [State.redirect, hl]
  rw [← redirectBy_unfiltered t.migrations, h, redirectBy_unfiltered]

/-- Where no page has moved, every byte lies where its address says. -/
@[simp] theorem State.redirect_none {s : State} (h : s.migrations = []) (p : Nat) : s.redirect p = p := by
  simp [State.redirect, redirectBy, h]

@[simp] theorem State.redirect_homeWrite (s : State) (sec : Nat) (bs : List Byte) (m : Word) (w : Bool) (p : Nat) :
    (s.homeWrite sec bs m w).redirect p = s.redirect p :=
  State.redirect_of_migrations (State.homeWrite_migrations s sec bs m w) p

/-- A byte of memory after a home write (12 R250). -/
theorem State.read_homeWrite (s : State) (sec : Nat) (bs : List Byte) (m : Word) (w : Bool) (h : Memory.wf s.mem = true)
    (a : Nat) :
    let b := s.redirect (sectorBase sec)
    Memory.read (s.homeWrite sec bs m w).mem a
      = if b ≤ a ∧ a < b + bs.length ∧ m.toNat.testBit (a - b) then bs.getD (a - b) 0 else Memory.read s.mem a :=
  Memory.read_writeMasked _ _ _ _ _ h

/-- A write to host memory changes host memory alone. -/
theorem State.hostWriteN_frame (s : State) (a : Nat) (bs : List Byte) :
    { s.hostWriteN a bs with hostMem := s.hostMem } = s := by
  unfold State.hostWriteN
  generalize pieces (bs.length + 1) a bs = xs
  have h : ∀ (xs : List (Nat × List Byte)) (t : State), { t with hostMem := s.hostMem } = s →
      { xs.foldl (fun t x => { t with hostMem := Memory.writeN t.hostMem (t.bus x.1) x.2 }) t with hostMem := s.hostMem }
        = s := by
    intro xs
    induction xs with
    | nil => exact fun t ht => ht
    | cons x xs ih => exact fun t ht => ih _ ht
  exact h xs s rfl

/-- A message goes to its port, and nothing else changes (14 R293, R314). -/
theorem State.putOut_frame (s : State) (m : FabMsg) :
    { s.putOut m with fabOut := s.fabOut, unacked := s.unacked, heldOut := s.heldOut } = s := by
  unfold State.putOut
  dsimp only
  split <;> rfl

/-- An interrupt adds at most one message (16 R340). -/
theorem State.interrupt_frame (s : State) (v : Nat) : { s.interrupt v with msix := s.msix } = s := by
  unfold State.interrupt
  split <;> rfl

/-- Setting or dropping a package copy changes the copies and their lines alone. -/
theorem State.setL2_frame (s : State) (sec : Nat) (x : Option Sector) :
    { s.setL2 sec x with l2 := s.l2, l2lines := s.l2lines } = s := rfl

/-! ### Reset -/

theorem State.reset_memoryWf : Memory.wf State.reset.mem = true ∧ Memory.wf State.reset.hostMem = true := ⟨rfl, rfl⟩

/-- A word for `withFetchWord` stands in memory in the canonical form. -/
theorem State.withFetchWord_memoryOk (s : State) (n w : Nat) (h : Memory.wf s.mem = true)
    (hh : Memory.wf s.hostMem = true) : (s.withFetchWord n w).memoryOk = true := by
  rw [State.memoryOk_iff]
  refine ⟨Memory.wf_writeN _ _ _ h, hh, fun e he => ?_⟩
  simp only [State.withFetchWord, List.mem_singleton] at he
  subst he
  rfl

end Sys2Proof.Machine
end

