-- ==== Sys2Proof/Laws/Issue.lean ====
section
/-! SUPPORT. What the shared operations can do, said once: registers, residency, issue, traps. -/

namespace Sys2Proof.Machine

/-! ### Registers (08 R192, R193, R195) -/

theorem RegVal.lane_general (w : Nat) (f : Nat → Word) (l : Nat) (h : l < w) :
    (RegVal.general ((List.range w).map f)).lane l = f l := by
  simp [RegVal.lane, h]

/-- A materialised register reads as before in the lanes of its group. -/
theorem RegVal.lane_lanes (v : RegVal) (w l : Nat) (h : l < w) : (RegVal.general (v.lanes w)).lane l = v.lane l :=
  RegVal.lane_general w v.lane l h

theorem Group.val_setVal_same (g : Group) (r : Nat) (v : RegVal) (h : Sparse.rising 0 g.regs = true) :
    (g.setVal r v).val r = v := Sparse.get_put_same _ _ _ _ h

theorem Group.val_setVal_other (g : Group) (r q : Nat) (v : RegVal) (h : Sparse.rising 0 g.regs = true) (hq : q ≠ r) :
    (g.setVal r v).val q = g.val q := Sparse.get_put_other _ _ _ _ _ hq h

/-- What a spill changes: residency and its count, no register. -/
theorem Group.spillVictim_frame (g : Group) (named : List Nat) :
    { g.spillVictim named with resident := g.resident, perf := g.perf } = g := by
  unfold Group.spillVictim
  split <;> rfl

theorem Group.regs_spillVictim (g : Group) (named : List Nat) : (g.spillVictim named).regs = g.regs := by
  unfold Group.spillVictim
  split <;> rfl

theorem Group.allocate_frame (g : Group) (named : List Nat) (run : Bool) (v : Nat) :
    { g.allocate named run v with resident := g.resident, perf := g.perf } = g := by
  unfold Group.allocate Group.spillVictim
  repeat' split
  all_goals rfl

theorem Group.regs_allocate (g : Group) (named : List Nat) (run : Bool) (v : Nat) :
    (g.allocate named run v).regs = g.regs := by
  unfold Group.allocate Group.spillVictim
  repeat' split
  all_goals rfl

theorem Group.width_allocate (g : Group) (named : List Nat) (run : Bool) (v : Nat) :
    (g.allocate named run v).width = g.width := by
  unfold Group.allocate Group.spillVictim
  repeat' split
  all_goals rfl

/-- What each step of a fold keeps, the fold keeps. -/
theorem foldl_keeps {α σ : Type} (P : σ → Prop) (f : σ → α → σ) (h : ∀ b x, P b → P (f b x)) :
    ∀ (xs : List α) (b : σ), P b → P (xs.foldl f b) := by
  intro xs
  induction xs with
  | nil => intro b hb; exact hb
  | cons x xs ih => intro b hb; exact ih _ (h b x hb)

/-- What making operands resident changes: residency and counts, no register (08 R195). -/
theorem Group.refill_frame (g : Group) (named outside : List Nat) :
    { g.refill named outside with resident := g.resident, perf := g.perf } = g := by
  unfold Group.refill
  refine foldl_keeps (fun h : Group => { h with resident := g.resident, perf := g.perf } = g) _ ?_ outside g rfl
  intro h r hh
  dsimp only at hh ⊢
  by_cases hs : h.isSpilled r = true
  · by_cases hb : h.budget ≤ h.resident.length
    · simp only [hs, hb, if_true]
      rw [← hh]
      unfold Group.spillVictim
      split <;> rfl
    · simp only [hs, hb, if_true, if_false]
      exact hh
  · simp only [hs, if_false, Bool.false_eq_true]
    exact hh

theorem Group.val_refill (g : Group) (named outside : List Nat) (r : Nat) : (g.refill named outside).val r = g.val r := by
  have h := congrArg (fun x : Group => x.val r) (Group.refill_frame g named outside)
  exact h

theorem Group.path_refill (g : Group) (named outside : List Nat) (n : Nat) : (g.refill named outside).path n = g.path n := by
  have h := congrArg (fun x : Group => x.path n) (Group.refill_frame g named outside)
  exact h

/-- 08 R193: what a result does to registers. With an empty mask nothing; with a full one it is the value; else the
value in the lanes of the mask over what the register held, general. -/
theorem Group.regs_writeResult (g : Group) (named : List Nat) (run : Bool) (v : Nat) (m : Word) (r : RegVal) :
    (g.writeResult named run v m r).regs =
      if m = 0 then g.regs
      else if m = g.full then
        Sparse.put .unwritten g.regs v (match r with
          | .general xs => .general ((RegVal.general xs).lanes g.width)
          | _ => r)
      else
        Sparse.put .unwritten
          (if (g.val v).isGeneral then g.regs else Sparse.put .unwritten g.regs v (.general ((g.val v).lanes g.width))) v
          (.general ((List.range g.width).map (fun l => if laneIn m l then r.lane l else (g.val v).lane l))) := by
  unfold Group.writeResult
  by_cases h0 : m = 0
  · simp [h0]
  · by_cases hf : m = g.full
    · rw [if_neg h0, if_pos hf, if_neg h0, if_pos hf]
      cases r with
      | general xs =>
        cases hc : run && (g.val v).isGeneral <;> simp [Group.setVal, Group.regs_allocate]
      | unwritten => rfl
      | uniform u => rfl
      | affine b s => rfl
    · rw [if_neg h0, if_neg hf, if_neg h0, if_neg hf]
      by_cases hg : (g.val v).isGeneral = true
      · simp [hg, Group.materialise, Group.setVal]
      · have hb : ((g.bump 7 1).val v).isGeneral = (g.val v).isGeneral := rfl
        simp only [Bool.not_eq_true] at hg
        simp only [hg, Bool.false_eq_true, if_false, Group.materialise, hb, Group.setVal, Group.regs_allocate]
        rfl

/-! ### Issue (01 R27 to R31, 02 R38, R39) -/

/-- Where the words come from: the current path of its group. -/
theorem State.cx?_spec {s : State} {w : Guard} {u : Uses} {cx : Cx} (h : s.cx? w u = some cx) :
    cx.gid = s.cur.gid ∧ cx.slot = s.cur.slot ∧ s.group? cx.gid = some cx.g ∧ cx.g.path cx.slot = some cx.p
      ∧ cx.eff = effMask cx.g cx.p w ∧ cx.named = u.named
      ∧ ∃ l, s.launch? cx.gid.launch = some l ∧ cx.l = l.lrec ∧ cx.ctx = l.ctx := by
  unfold State.cx? at h
  split at h
  · rename_i g l hg hl
    split at h
    · rename_i p hp
      simp only [Option.some.injEq] at h
      subst h
      exact ⟨rfl, rfl, hg, hp, rfl, rfl, l, hl, rfl, rfl⟩
    · simp at h
  · simp at h

/-- A word without runs names what it names (01 R29). -/
@[simp] theorem Uses.with_none (u : Uses) : u.with Members.none = u := by
  simp [Uses.with, Members.none]

@[simp] theorem Uses.names_none (u : Uses) : u.names Members.none = u := by
  simp [Uses.names, Members.none, Uses.with]

/-- A ready word comes to what its effect comes to. -/
theorem issueWord_ready {s : State} {w : Guard} {u : Uses} {cx : Cx} (body : State → Cx → Ans) (h : Ready s w u cx) :
    issueWord w u body s = (s.fetched cx u).conclude (cx.fetched u) w u (body (s.fetched cx u) (cx.fetched u)) := by
  simp [issueWord, issueRuns, h.here, h.slots, h.free, h.uncaptured, State.fetched, Cx.fetched]

/-- A ready word with an empty mask only goes on (01 R27). -/
theorem issueMasked_empty {s : State} {w : Guard} {u : Uses} {cx : Cx} (body : State → Cx → Ans) (h : Ready s w u cx)
    (he : cx.eff = 0) :
    issueMasked w u body s = .next ((s.fetched cx u).finish (cx.fetched u) w u (some (cx.p.pc + 16))) := by
  unfold issueMasked
  rw [issueWord_ready _ h]
  rw [if_pos (show (cx.fetched u).eff = 0 from he)]
  rfl

/-- A ready word with some lane comes to what its effect comes to. -/
theorem issueMasked_ready {s : State} {w : Guard} {u : Uses} {cx : Cx} (body : State → Cx → Ans) (h : Ready s w u cx)
    (he : cx.eff ≠ 0) :
    issueMasked w u body s = (s.fetched cx u).conclude (cx.fetched u) w u (body (s.fetched cx u) (cx.fetched u)) := by
  unfold issueMasked
  rw [issueWord_ready _ h]
  rw [if_neg (show (cx.fetched u).eff ≠ 0 from he)]

/-- A register list is free of hazards where each of its parts is. -/
theorem Group.hazard_none (g : Group) (rs : List Nat) : g.hazard rs = none ↔ ∀ r ∈ rs, g.inFlightTo r = false := by
  simp [Group.hazard]

/-- A ready word with runs comes to what its effect comes to (01 R29, 06 R161, R162). -/
theorem issueRuns_ready {s : State} {w : Guard} {u : Uses} {cx : Cx} (members : Cx → Members) (body : State → Cx → Ans)
    (h : ReadyRuns s w u (members cx) cx) :
    issueRuns w u members body s = (s.fetched cx u (members cx)).conclude (cx.fetched u (members cx)) w
      (u.names (members cx)) (body (s.fetched cx u (members cx)) (cx.fetched u (members cx))) := by
  have hz : cx.g.hazard (u.with (members cx)).named = none := by
    rw [Group.hazard_none]
    intro r hr
    have h1 := (Group.hazard_none _ _).mp h.free r
    have h2 := (Group.hazard_none _ _).mp h.runsFree r
    simp only [Uses.named, Uses.with, Members.all, List.mem_append] at hr h1 h2
    tauto
  have hc : (u.with (members cx)).writes.any (s.capturing cx.gid cx.g) = false := by
    simp only [Uses.with, List.any_append, h.uncaptured, h.runsUncaptured, Bool.or_self]
  simp only [issueRuns, h.here, h.slots, hz, hc, Bool.false_eq_true, if_false]
  rfl

/-- All that issuing a word can come to: no path, a trap for a slot, a hold, or its effect. -/
theorem issueWord_cases (w : Guard) (u : Uses) (body : State → Cx → Ans) (s : State) :
    (s.cx? w u = none ∧ issueWord w u body s = .next s)
      ∨ ∃ cx, s.cx? w u = some cx ∧
        ((∃ d, badSlot cx.g u.slots = some d ∧ issueWord w u body s = s.raise cx.gid (cx.info (cause 0x02 d) cx.p.pc))
          ∨ (∃ r, cx.g.hazard u.named = some r ∧ issueWord w u body s = s.holdFor cx u.named)
          ∨ issueWord w u body s = .next (s.holdCapture cx)
          ∨ issueWord w u body s = (s.fetched cx u).conclude (cx.fetched u) w u (body (s.fetched cx u) (cx.fetched u))) := by
  cases hc : s.cx? w u with
  | none => exact .inl ⟨rfl, by simp [issueWord, issueRuns, hc]⟩
  | some cx =>
    refine .inr ⟨cx, rfl, ?_⟩
    cases hb : badSlot cx.g u.slots with
    | some d => exact .inl ⟨d, rfl, by simp [issueWord, issueRuns, hc, hb]⟩
    | none =>
      cases hh : cx.g.hazard u.named with
      | some r => exact .inr (.inl ⟨r, rfl, by simp [issueWord, issueRuns, hc, hb, hh]⟩)
      | none =>
        by_cases hk : u.writes.any (s.capturing cx.gid cx.g) = true
        · exact .inr (.inr (.inl (by simp only [issueWord, issueRuns, Uses.with_none, hc, hb, hh, hk, if_true])))
        · exact .inr (.inr (.inr (by
            simp only [Bool.not_eq_true] at hk
            simp [issueWord, issueRuns, hc, hb, hh, hk, State.fetched, Cx.fetched])))

/-- The next word's address is where a completed effect leaves the path. -/
theorem State.conclude_done (s t : State) (cx : Cx) (w : Guard) (u : Uses) :
    s.conclude cx w u (.done t) = .next (t.finish cx w u (some (cx.p.pc + 16))) := rfl

/-- A trap is due, is taken, or has no group (01 R30). -/
theorem State.raise_cases (s : State) (gid : GroupId) (t : TrapInfo) :
    (s.group? gid = none ∧ s.raise gid t = .next s)
      ∨ ∃ g, s.group? gid = some g ∧
        ((g.settled = true ∧ s.raise gid t = s.takeTrap gid g t)
          ∨ (g.settled = false ∧ s.raise gid t = .next (s.setGroup gid { g with trap := some t }))) := by
  cases hg : s.group? gid with
  | none => exact .inl ⟨rfl, by simp [State.raise, hg]⟩
  | some g =>
    refine .inr ⟨g, rfl, ?_⟩
    cases hs : g.settled with
    | true => exact .inl ⟨rfl, by simp [State.raise, hg, hs]⟩
    | false => exact .inr ⟨rfl, by simp [State.raise, hg, hs]⟩

/-- A register named by a held word counts for STRICT and HAZPARK if a result in flight to it is not covered (01 R29). -/
theorem Group.bareHazard_none (g : Group) (rs : List Nat) :
    g.bareHazard rs = none ↔ ∀ r ∈ rs, ∀ f ∈ g.flight, r ∈ f.dests → f.covered = true := by
  simp [Group.bareHazard]

/-- A word that is held traps under STRICT, or leaves its path where it is (01 R29). -/
theorem State.holdFor_cases (s : State) (cx : Cx) (rs : List Nat) :
    (∃ ti, s.holdFor cx rs = s.raise cx.gid ti) ∨ (∃ f, s.holdFor cx rs = .next (s.modGroup cx.gid f))
      ∨ (cx.g.bareHazard rs = none ∧ s.holdFor cx rs = .next s) := by
  cases hb : cx.g.bareHazard rs with
  | none => exact .inr (.inr ⟨rfl, by simp only [State.holdFor, hb]⟩)
  | some r =>
    by_cases hs : (s.ctx cx.ctx).strict = true
    · exact .inl ⟨_, by simp only [State.holdFor, hb, hs, if_true]; rfl⟩
    · exact .inr (.inl ⟨_, by simp only [State.holdFor, hb, hs]; rfl⟩)

/-- A step of the host's registers completes, and changes nothing before the firmware runs (16 R348). -/
theorem State.hostStep_cases (s t : State) : s.hostStep t = .next t ∨ s.hostStep t = .next s := by
  unfold State.hostStep
  split
  · exact .inl rfl
  · exact .inr rfl

end Sys2Proof.Machine
end

