-- ==== Sys2Proof/Laws/PerInstr.lean ====
section
/-! SUPPORT. A statement for every constructor of Instr: a well-formed instruction that is a word
has an encoding. -/

namespace Sys2Proof.Laws

/-- A well-formed instruction has an encoding (02 R32 to R35). -/
def Encodes.Statement (i : Instr) : Prop := ∀ e : Env, Machine.isEvent i = false → wellFormed e i = true → (encode i).isSome = true

namespace Encodes

theorem illegalWord (x0 : BitVec 8) : Statement (.illegalWord x0) := fun _ _ h => Bool.noConfusion (show false = true from h)
theorem nop (x0 : Guard) : Statement (.nop x0) := fun _ _ _ => rfl
theorem bra (x0 : Guard) (x1 : BitVec 32) : Statement (.bra x0 x1) := fun _ _ _ => rfl
theorem brc (x0 : Guard) (x1 : Src) (x2 : BitVec 32) : Statement (.brc x0 x1 x2) := fun _ _ _ => rfl
theorem brd (x0 : Guard) (x1 : BitVec 32) (x2 : BitVec 32) : Statement (.brd x0 x1 x2) := fun _ _ _ => rfl
theorem join (x0 : Guard) : Statement (.join x0) := fun _ _ _ => rfl
theorem brx (x0 : Guard) (x1 : Src) (x2 : BitVec 32) : Statement (.brx x0 x1 x2) := fun _ _ _ => rfl
theorem call (x0 : Guard) (x1 : RegIx) (x2 : BitVec 32) : Statement (.call x0 x1 x2) := fun _ _ _ => rfl
theorem callTbl (x0 : Guard) (x1 : RegIx) (x2 : Src) (x3 : BitVec 32) : Statement (.callTbl x0 x1 x2 x3) := fun _ _ _ => rfl
theorem ret (x0 : Guard) (x1 : Src) : Statement (.ret x0 x1) := fun _ _ _ => rfl
theorem exit (x0 : Guard) : Statement (.exit x0) := fun _ _ _ => rfl
theorem trap (x0 : Guard) (x1 : BitVec 32) : Statement (.trap x0 x1) := fun _ _ _ => rfl
theorem pmark (x0 : Guard) (x1 : Word) (x2 : Src) : Statement (.pmark x0 x1 x2) := fun _ _ _ => rfl
theorem prog (x0 : Guard) : Statement (.prog x0) := fun _ _ _ => rfl
theorem yield (x0 : Guard) : Statement (.yield x0) := fun _ _ _ => rfl
theorem rte (x0 : Guard) : Statement (.rte x0) := fun _ _ _ => rfl
theorem iadd (x0 : Guard) (x1 : Bool) (x2 : RegIx) (x3 : Src) (x4 : Src) : Statement (.iadd x0 x1 x2 x3 x4) := fun _ _ _ => rfl
theorem isub (x0 : Guard) (x1 : Bool) (x2 : RegIx) (x3 : Src) (x4 : Src) : Statement (.isub x0 x1 x2 x3 x4) := fun _ _ _ => rfl
theorem imul (x0 : Guard) (x1 : Bool) (x2 : RegIx) (x3 : Src) (x4 : Src) : Statement (.imul x0 x1 x2 x3 x4) := fun _ _ _ => rfl
theorem imulh (x0 : Guard) (x1 : Bool) (x2 : Bool) (x3 : RegIx) (x4 : Src) (x5 : Src) : Statement (.imulh x0 x1 x2 x3 x4 x5) := fun _ _ _ => rfl
theorem imad (x0 : Guard) (x1 : Bool) (x2 : RegIx) (x3 : Src) (x4 : Src) (x5 : Src) : Statement (.imad x0 x1 x2 x3 x4 x5) := fun _ _ _ => rfl
theorem idiv (x0 : Guard) (x1 : Bool) (x2 : Bool) (x3 : RegIx) (x4 : Src) (x5 : Src) : Statement (.idiv x0 x1 x2 x3 x4 x5) := fun _ _ _ => rfl
theorem irem (x0 : Guard) (x1 : Bool) (x2 : Bool) (x3 : RegIx) (x4 : Src) (x5 : Src) : Statement (.irem x0 x1 x2 x3 x4 x5) := fun _ _ _ => rfl
theorem imin (x0 : Guard) (x1 : Bool) (x2 : Bool) (x3 : RegIx) (x4 : Src) (x5 : Src) : Statement (.imin x0 x1 x2 x3 x4 x5) := fun _ _ _ => rfl
theorem imax (x0 : Guard) (x1 : Bool) (x2 : Bool) (x3 : RegIx) (x4 : Src) (x5 : Src) : Statement (.imax x0 x1 x2 x3 x4 x5) := fun _ _ _ => rfl
theorem iabs (x0 : Guard) (x1 : Bool) (x2 : RegIx) (x3 : Src) : Statement (.iabs x0 x1 x2 x3) := fun _ _ _ => rfl
theorem ineg (x0 : Guard) (x1 : Bool) (x2 : RegIx) (x3 : Src) : Statement (.ineg x0 x1 x2 x3) := fun _ _ _ => rfl
theorem and (x0 : Guard) (x1 : Bool) (x2 : RegIx) (x3 : Src) (x4 : Src) : Statement (.and x0 x1 x2 x3 x4) := fun _ _ _ => rfl
theorem or (x0 : Guard) (x1 : Bool) (x2 : RegIx) (x3 : Src) (x4 : Src) : Statement (.or x0 x1 x2 x3 x4) := fun _ _ _ => rfl
theorem xor (x0 : Guard) (x1 : Bool) (x2 : RegIx) (x3 : Src) (x4 : Src) : Statement (.xor x0 x1 x2 x3 x4) := fun _ _ _ => rfl
theorem andn (x0 : Guard) (x1 : Bool) (x2 : RegIx) (x3 : Src) (x4 : Src) : Statement (.andn x0 x1 x2 x3 x4) := fun _ _ _ => rfl
theorem not (x0 : Guard) (x1 : Bool) (x2 : RegIx) (x3 : Src) : Statement (.not x0 x1 x2 x3) := fun _ _ _ => rfl
theorem shl (x0 : Guard) (x1 : Bool) (x2 : RegIx) (x3 : Src) (x4 : Src) : Statement (.shl x0 x1 x2 x3 x4) := fun _ _ _ => rfl
theorem shr (x0 : Guard) (x1 : Bool) (x2 : RegIx) (x3 : Src) (x4 : Src) : Statement (.shr x0 x1 x2 x3 x4) := fun _ _ _ => rfl
theorem sar (x0 : Guard) (x1 : Bool) (x2 : RegIx) (x3 : Src) (x4 : Src) : Statement (.sar x0 x1 x2 x3 x4) := fun _ _ _ => rfl
theorem rot (x0 : Guard) (x1 : Bool) (x2 : RegIx) (x3 : Src) (x4 : Src) : Statement (.rot x0 x1 x2 x3 x4) := fun _ _ _ => rfl
theorem clz (x0 : Guard) (x1 : Bool) (x2 : RegIx) (x3 : Src) : Statement (.clz x0 x1 x2 x3) := fun _ _ _ => rfl
theorem popc (x0 : Guard) (x1 : Bool) (x2 : RegIx) (x3 : Src) : Statement (.popc x0 x1 x2 x3) := fun _ _ _ => rfl
theorem brev (x0 : Guard) (x1 : Bool) (x2 : RegIx) (x3 : Src) : Statement (.brev x0 x1 x2 x3) := fun _ _ _ => rfl
theorem bfx (x0 : Guard) (x1 : Bool) (x2 : RegIx) (x3 : Src) (x4 : Src) : Statement (.bfx x0 x1 x2 x3 x4) := fun _ _ _ => rfl
theorem bfi (x0 : Guard) (x1 : Bool) (x2 : RegIx) (x3 : Src) (x4 : Src) (x5 : Src) : Statement (.bfi x0 x1 x2 x3 x4 x5) := fun _ _ _ => rfl
theorem icmp (x0 : Guard) (x1 : Cond) (x2 : Bool) (x3 : Bool) (x4 : PredIx) (x5 : Src) (x6 : Src) : Statement (.icmp x0 x1 x2 x3 x4 x5 x6) := fun _ _ _ => rfl
theorem sel (x0 : Guard) (x1 : Bool) (x2 : RegIx) (x3 : Src) (x4 : Src) (x5 : PredIx) : Statement (.sel x0 x1 x2 x3 x4 x5) := fun _ _ _ => rfl
theorem mov (x0 : Guard) (x1 : Bool) (x2 : RegIx) (x3 : Src) : Statement (.mov x0 x1 x2 x3) := fun _ _ _ => rfl
theorem movi (x0 : Guard) (x1 : Bool) (x2 : RegIx) (x3 : Word) : Statement (.movi x0 x1 x2 x3) := fun _ _ _ => rfl
theorem lea (x0 : Guard) (x1 : RegIx) (x2 : Src) (x3 : BitVec 32) : Statement (.lea x0 x1 x2 x3) := fun _ _ _ => rfl
theorem iaddc (x0 : Guard) (x1 : Bool) (x2 : RegIx) (x3 : Src) (x4 : Src) (x5 : Src) : Statement (.iaddc x0 x1 x2 x3 x4 x5) := fun _ _ _ => rfl
theorem isat (x0 : Guard) (x1 : Bool) (x2 : Bool) (x3 : RegIx) (x4 : Src) (x5 : Src) : Statement (.isat x0 x1 x2 x3 x4 x5) := fun _ _ _ => rfl
theorem vote (x0 : Guard) (x1 : BitVec 3) (x2 : VoteForm) : Statement (.vote x0 x1 x2) := by
  intro e _ _; cases x2 <;> rfl
theorem shfl (x0 : Guard) (x1 : BitVec 3) (x2 : RegIx) (x3 : ShflForm) : Statement (.shfl x0 x1 x2 x3) := by
  intro e _ _; cases x3 <;> rfl
theorem scan (x0 : Guard) (x1 : BitVec 3) (x2 : ScanOp) (x3 : BitVec 4) (x4 : Bool) (x5 : RegIx) (x6 : Src) : Statement (.scan x0 x1 x2 x3 x4 x5 x6) := fun _ _ _ => rfl
theorem redl (x0 : Guard) (x1 : BitVec 3) (x2 : ScanOp) (x3 : BitVec 4) (x4 : RegIx) (x5 : Src) : Statement (.redl x0 x1 x2 x3 x4 x5) := fun _ _ _ => rfl
theorem pmov (x0 : Guard) (x1 : RegIx) (x2 : PredIx) : Statement (.pmov x0 x1 x2) := fun _ _ _ => rfl
theorem pset (x0 : Guard) (x1 : PsetOp) (x2 : PredIx) (x3 : PredIx) (x4 : PredIx) : Statement (.pset x0 x1 x2 x3 x4) := fun _ _ _ => rfl
theorem shape (x0 : Guard) (x1 : RegIx) (x2 : Src) : Statement (.shape x0 x1 x2) := fun _ _ _ => rfl
theorem matz (x0 : Guard) (x1 : RegIx) : Statement (.matz x0 x1) := fun _ _ _ => rfl
theorem getx (x0 : Guard) (x1 : GetxKind) (x2 : RegIx) : Statement (.getx x0 x1 x2) := fun _ _ _ => rfl
theorem fadd (x0 : Guard) (x1 : BitVec 4) (x2 : RegIx) (x3 : Src) (x4 : Src) : Statement (.fadd x0 x1 x2 x3 x4) := fun _ _ _ => rfl
theorem fsub (x0 : Guard) (x1 : BitVec 4) (x2 : RegIx) (x3 : Src) (x4 : Src) : Statement (.fsub x0 x1 x2 x3 x4) := fun _ _ _ => rfl
theorem fmul (x0 : Guard) (x1 : BitVec 4) (x2 : RegIx) (x3 : Src) (x4 : Src) : Statement (.fmul x0 x1 x2 x3 x4) := fun _ _ _ => rfl
theorem ffma (x0 : Guard) (x1 : BitVec 4) (x2 : RegIx) (x3 : Src) (x4 : Src) (x5 : Src) : Statement (.ffma x0 x1 x2 x3 x4 x5) := fun _ _ _ => rfl
theorem fmin (x0 : Guard) (x1 : BitVec 4) (x2 : RegIx) (x3 : Src) (x4 : Src) : Statement (.fmin x0 x1 x2 x3 x4) := fun _ _ _ => rfl
theorem fmax (x0 : Guard) (x1 : BitVec 4) (x2 : RegIx) (x3 : Src) (x4 : Src) : Statement (.fmax x0 x1 x2 x3 x4) := fun _ _ _ => rfl
theorem fcmp (x0 : Guard) (x1 : FCond) (x2 : BitVec 4) (x3 : PredIx) (x4 : Src) (x5 : Src) : Statement (.fcmp x0 x1 x2 x3 x4 x5) := fun _ _ _ => rfl
theorem fclass (x0 : Guard) (x1 : BitVec 4) (x2 : RegIx) (x3 : Src) (x4 : Src) : Statement (.fclass x0 x1 x2 x3 x4) := fun _ _ _ => rfl
theorem fcvt (x0 : Guard) (x1 : BitVec 4) (x2 : BitVec 4) (x3 : RegIx) (x4 : Src) (x5 : Src) (x6 : Src) : Statement (.fcvt x0 x1 x2 x3 x4 x5 x6) := fun _ _ _ => rfl
theorem f2i (x0 : Guard) (x1 : BitVec 4) (x2 : Bool) (x3 : Bool) (x4 : RegIx) (x5 : Src) : Statement (.f2i x0 x1 x2 x3 x4 x5) := fun _ _ _ => rfl
theorem i2f (x0 : Guard) (x1 : BitVec 4) (x2 : Bool) (x3 : Bool) (x4 : RegIx) (x5 : Src) : Statement (.i2f x0 x1 x2 x3 x4 x5) := fun _ _ _ => rfl
theorem frnd (x0 : Guard) (x1 : BitVec 4) (x2 : RegIx) (x3 : Src) : Statement (.frnd x0 x1 x2 x3) := fun _ _ _ => rfl
theorem fdiv (x0 : Guard) (x1 : BitVec 4) (x2 : RegIx) (x3 : Src) (x4 : Src) : Statement (.fdiv x0 x1 x2 x3 x4) := fun _ _ _ => rfl
theorem fsqrt (x0 : Guard) (x1 : BitVec 4) (x2 : RegIx) (x3 : Src) : Statement (.fsqrt x0 x1 x2 x3) := fun _ _ _ => rfl
theorem frcp (x0 : Guard) (x1 : BitVec 4) (x2 : RegIx) (x3 : Src) : Statement (.frcp x0 x1 x2 x3) := fun _ _ _ => rfl
theorem frsq (x0 : Guard) (x1 : BitVec 4) (x2 : RegIx) (x3 : Src) : Statement (.frsq x0 x1 x2 x3) := fun _ _ _ => rfl
theorem fex2 (x0 : Guard) (x1 : BitVec 4) (x2 : RegIx) (x3 : Src) : Statement (.fex2 x0 x1 x2 x3) := fun _ _ _ => rfl
theorem flg2 (x0 : Guard) (x1 : BitVec 4) (x2 : RegIx) (x3 : Src) : Statement (.flg2 x0 x1 x2 x3) := fun _ _ _ => rfl
theorem fscl (x0 : Guard) (x1 : BitVec 4) (x2 : RegIx) (x3 : Src) (x4 : Src) : Statement (.fscl x0 x1 x2 x3 x4) := fun _ _ _ => rfl
theorem fdot (x0 : Guard) (x1 : BitVec 4) (x2 : BitVec 4) (x3 : BitVec 4) (x4 : RegIx) (x5 : Src) (x6 : Src) (x7 : Src) : Statement (.fdot x0 x1 x2 x3 x4 x5 x6 x7) := fun _ _ _ => rfl
theorem fsum (x0 : Guard) (x1 : BitVec 4) (x2 : RegIx) (x3 : Src) : Statement (.fsum x0 x1 x2 x3) := fun _ _ _ => rfl
theorem fmtdef (x0 : Guard) (x1 : BitVec 4) (x2 : Src) : Statement (.fmtdef x0 x1 x2) := fun _ _ _ => rfl
theorem fmtrd (x0 : Guard) (x1 : BitVec 4) (x2 : RegIx) : Statement (.fmtrd x0 x1 x2) := fun _ _ _ => rfl
theorem fseed (x0 : Guard) (x1 : BitVec 4) (x2 : Src) : Statement (.fseed x0 x1 x2) := fun _ _ _ => rfl
theorem fstat (x0 : Guard) (x1 : Bool) (x2 : RegIx) : Statement (.fstat x0 x1 x2) := fun _ _ _ => rfl
theorem scq (x0 : Guard) (x1 : BitVec 4) (x2 : BitVec 4) (x3 : BitVec 4) (x4 : BlockSize) (x5 : Option RegIx) (x6 : RegIx) (x7 : RegIx) : Statement (.scq x0 x1 x2 x3 x4 x5 x6 x7) := fun _ _ _ => rfl
theorem scdq (x0 : Guard) (x1 : BitVec 4) (x2 : BitVec 4) (x3 : RegIx) (x4 : Src) (x5 : Src) : Statement (.scdq x0 x1 x2 x3 x4 x5) := fun _ _ _ => rfl
theorem scpk (x0 : Guard) (x1 : BitVec 4) (x2 : BitVec 4) (x3 : BlockSize) (x4 : RegIx) (x5 : RegIx) (x6 : Src) : Statement (.scpk x0 x1 x2 x3 x4 x5 x6) := fun _ _ _ => rfl
theorem scup (x0 : Guard) (x1 : BitVec 4) (x2 : RegIx) (x3 : RegIx) (x4 : Src) (x5 : Src) : Statement (.scup x0 x1 x2 x3 x4 x5) := fun _ _ _ => rfl
theorem bscl (x0 : Guard) (x1 : BitVec 4) (x2 : BitVec 4) (x3 : BitVec 4) (x4 : RegIx) (x5 : Src) (x6 : Src) : Statement (.bscl x0 x1 x2 x3 x4 x5 x6) := fun _ _ _ => rfl
theorem ld (x0 : Guard) (x1 : Width) (x2 : Order) (x3 : Scope) (x4 : Hint) (x5 : RegIx) (x6 : Addr) : Statement (.ld x0 x1 x2 x3 x4 x5 x6) := fun _ _ _ => rfl
theorem st (x0 : Guard) (x1 : Width) (x2 : Order) (x3 : Scope) (x4 : Hint) (x5 : Addr) (x6 : Src) : Statement (.st x0 x1 x2 x3 x4 x5 x6) := fun _ _ _ => rfl
theorem ldp (x0 : Guard) (x1 : Bool) (x2 : BitVec 6) (x3 : Hint) (x4 : RegIx) (x5 : Addr) (x6 : Src) : Statement (.ldp x0 x1 x2 x3 x4 x5 x6) := fun _ _ _ => rfl
theorem stp (x0 : Guard) (x1 : BitVec 6) (x2 : Hint) (x3 : Addr) (x4 : Src) (x5 : Src) : Statement (.stp x0 x1 x2 x3 x4 x5) := fun _ _ _ => rfl
theorem ldi (x0 : Guard) (x1 : Width) (x2 : BitVec 4) (x3 : Hint) (x4 : RegIx) (x5 : Addr) : Statement (.ldi x0 x1 x2 x3 x4 x5) := fun _ _ _ => rfl
theorem waitac (x0 : Guard) (x1 : BitVec 4) (x2 : BitVec 6) : Statement (.waitac x0 x1 x2) := fun _ _ _ => rfl
theorem pref (x0 : Guard) (x1 : Scope) (x2 : Hint) (x3 : Addr) : Statement (.pref x0 x1 x2 x3) := fun _ _ _ => rfl
theorem cinv (x0 : Guard) (x1 : Scope) (x2 : Addr) : Statement (.cinv x0 x1 x2) := fun _ _ _ => rfl
theorem cwb (x0 : Guard) (x1 : Scope) (x2 : Addr) : Statement (.cwb x0 x1 x2) := fun _ _ _ => rfl
theorem stz (x0 : Guard) (x1 : BitVec 4) (x2 : Hint) (x3 : Addr) (x4 : RegIx) (x5 : Src) : Statement (.stz x0 x1 x2 x3 x4 x5) := fun _ _ _ => rfl
theorem ldz (x0 : Guard) (x1 : BitVec 4) (x2 : Hint) (x3 : RegIx) (x4 : Addr) (x5 : Src) : Statement (.ldz x0 x1 x2 x3 x4 x5) := fun _ _ _ => rfl
theorem ldq (x0 : Guard) (x1 : Width) (x2 : RegIx) (x3 : Src) (x4 : BitVec 32) : Statement (.ldq x0 x1 x2 x3 x4) := fun _ _ _ => rfl
theorem stq (x0 : Guard) (x1 : Width) (x2 : Src) (x3 : BitVec 32) (x4 : Src) : Statement (.stq x0 x1 x2 x3 x4) := fun _ _ _ => rfl
theorem fence (x0 : Guard) (x1 : Order) (x2 : Scope) : Statement (.fence x0 x1 x2) := fun _ _ _ => rfl
theorem qfence (x0 : Guard) (x1 : BitVec 8) : Statement (.qfence x0 x1) := fun _ _ _ => rfl
theorem ldfr (x0 : Guard) (x1 : BitVec 4) (x2 : Hint) (x3 : RegIx) (x4 : Addr) (x5 : Src) : Statement (.ldfr x0 x1 x2 x3 x4 x5) := fun _ _ _ => rfl
theorem atom (x0 : Guard) (x1 : AtomOp) (x2 : Bool) (x3 : BitVec 4) (x4 : Order) (x5 : Scope) (x6 : RegIx) (x7 : Addr) (x8 : Src) : Statement (.atom x0 x1 x2 x3 x4 x5 x6 x7 x8) := fun _ _ _ => rfl
theorem red (x0 : Guard) (x1 : AtomOp) (x2 : Bool) (x3 : BitVec 4) (x4 : Order) (x5 : Scope) (x6 : Addr) (x7 : Src) : Statement (.red x0 x1 x2 x3 x4 x5 x6 x7) := fun _ _ _ => rfl
theorem acas (x0 : Guard) (x1 : Bool) (x2 : Order) (x3 : Scope) (x4 : RegIx) (x5 : Addr) (x6 : Src) (x7 : Src) : Statement (.acas x0 x1 x2 x3 x4 x5 x6 x7) := fun _ _ _ => rfl
theorem bead (x0 : Guard) (x1 : Bool) : Statement (.bead x0 x1) := fun _ _ _ => rfl
theorem clinit (x0 : Guard) (x1 : BitVec 4) (x2 : Src) : Statement (.clinit x0 x1 x2) := fun _ _ _ => rfl
theorem clarr (x0 : Guard) (x1 : RegIx) (x2 : BitVec 4) (x3 : Src) : Statement (.clarr x0 x1 x2 x3) := fun _ _ _ => rfl
theorem clwait (x0 : Guard) (x1 : BitVec 4) (x2 : Src) : Statement (.clwait x0 x1 x2) := fun _ _ _ => rfl
theorem clsync (x0 : Guard) (x1 : BitVec 4) (x2 : Src) : Statement (.clsync x0 x1 x2) := fun _ _ _ => rfl
theorem clexp (x0 : Guard) (x1 : BitVec 4) (x2 : Src) : Statement (.clexp x0 x1 x2) := fun _ _ _ => rfl
theorem clrd (x0 : Guard) (x1 : RegIx) (x2 : BitVec 4) (x3 : Bool) : Statement (.clrd x0 x1 x2 x3) := fun _ _ _ => rfl
theorem mma (x0 : Guard) (x1 : BitVec 4) (x2 : BitVec 4) (x3 : BitVec 4) (x4 : RegIx) (x5 : RegIx) (x6 : RegIx) (x7 : RegIx) (x8 : RegIx) : Statement (.mma x0 x1 x2 x3 x4 x5 x6 x7 x8) := fun _ _ _ => rfl
theorem mmas (x0 : Guard) (x1 : BitVec 4) (x2 : BitVec 4) (x3 : BitVec 4) (x4 : BlockSize) (x5 : RegIx) (x6 : RegIx) (x7 : RegIx) (x8 : RegIx) (x9 : RegIx) : Statement (.mmas x0 x1 x2 x3 x4 x5 x6 x7 x8 x9) := fun _ _ _ => rfl
theorem mmaz (x0 : Guard) (x1 : BitVec 4) (x2 : BitVec 4) (x3 : BitVec 4) (x4 : RegIx) (x5 : RegIx) (x6 : RegIx) (x7 : RegIx) : Statement (.mmaz x0 x1 x2 x3 x4 x5 x6 x7) := fun _ _ _ => rfl
theorem stfr (x0 : Guard) (x1 : BitVec 4) (x2 : Hint) (x3 : Addr) (x4 : RegIx) (x5 : Src) : Statement (.stfr x0 x1 x2 x3 x4 x5) := fun _ _ _ => rfl
theorem tmpl (x0 : Guard) (x1 : BitVec 6) (x2 : BitVec 8) (x3 : Src) : Statement (.tmpl x0 x1 x2 x3) := fun _ _ _ => rfl
theorem coll (x0 : Guard) (x1 : CollOp) (x2 : Bool) (x3 : BitVec 8) (x4 : Src) : Statement (.coll x0 x1 x2 x3 x4) := fun _ _ _ => rfl
theorem launch (x0 : Guard) (x1 : BitVec 8) (x2 : BitVec 8) (x3 : Src) : Statement (.launch x0 x1 x2 x3) := fun _ _ _ => rfl
theorem bankm (x0 : Guard) (x1 : BankMode) (x2 : RegIx) (x3 : BitVec 5) : Statement (.bankm x0 x1 x2 x3) := fun _ _ _ => rfl
theorem engst (x0 : Guard) (x1 : RegIx) (x2 : BitVec 16) : Statement (.engst x0 x1 x2) := fun _ _ _ => rfl
theorem ctlr (x0 : Guard) (x1 : RegIx) (x2 : BitVec 16) : Statement (.ctlr x0 x1 x2) := fun _ _ _ => rfl
theorem ctlw (x0 : Guard) (x1 : BitVec 16) (x2 : Src) : Statement (.ctlw x0 x1 x2) := fun _ _ _ => rfl
theorem rdcyc (x0 : Guard) (x1 : RegIx) : Statement (.rdcyc x0 x1) := fun _ _ _ => rfl
theorem perf (x0 : Guard) (x1 : Bool) (x2 : RegIx) (x3 : BitVec 16) : Statement (.perf x0 x1 x2 x3) := fun _ _ _ => rfl
theorem loadReply (x0 : GroupId) (x1 : Nat) : Statement (.loadReply x0 x1) := fun _ h _ => Bool.noConfusion (show true = false from h)
theorem ldiArrival (x0 : GroupId) (x1 : Nat) : Statement (.ldiArrival x0 x1) := fun _ h _ => Bool.noConfusion (show true = false from h)
theorem captureEnd (x0 : CoreId) : Statement (.captureEnd x0) := fun _ h _ => Bool.noConfusion (show true = false from h)
theorem matrixComplete (x0 : CoreId) : Statement (.matrixComplete x0) := fun _ h _ => Bool.noConfusion (show true = false from h)
theorem matrixPriorityRaise (x0 : GroupId) (x1 : Nat) : Statement (.matrixPriorityRaise x0 x1) := fun _ h _ => Bool.noConfusion (show true = false from h)
theorem trapTaken (x0 : GroupId) : Statement (.trapTaken x0) := fun _ h _ => Bool.noConfusion (show true = false from h)
theorem groupRetire (x0 : GroupId) : Statement (.groupRetire x0) := fun _ h _ => Bool.noConfusion (show true = false from h)
theorem teamRetire (x0 : TeamId) : Statement (.teamRetire x0) := fun _ h _ => Bool.noConfusion (show true = false from h)
theorem teamComplete (x0 : TeamId) : Statement (.teamComplete x0) := fun _ h _ => Bool.noConfusion (show true = false from h)
theorem preemptionRequestVisible (x0 : GroupId) : Statement (.preemptionRequestVisible x0) := fun _ h _ => Bool.noConfusion (show true = false from h)
theorem groupSave (x0 : GroupId) : Statement (.groupSave x0) := fun _ h _ => Bool.noConfusion (show true = false from h)
theorem graceLimitExpiry (x0 : GroupId) : Statement (.graceLimitExpiry x0) := fun _ h _ => Bool.noConfusion (show true = false from h)
theorem teamEvict (x0 : TeamId) : Statement (.teamEvict x0) := fun _ h _ => Bool.noConfusion (show true = false from h)
theorem teamRestore (x0 : TeamId) : Statement (.teamRestore x0) := fun _ h _ => Bool.noConfusion (show true = false from h)
theorem teamPlace (x0 : TeamId) : Statement (.teamPlace x0) := fun _ h _ => Bool.noConfusion (show true = false from h)
theorem placementAgeExpiry (x0 : TeamId) : Statement (.placementAgeExpiry x0) := fun _ h _ => Bool.noConfusion (show true = false from h)
theorem quantumExpiry (x0 : TeamId) : Statement (.quantumExpiry x0) := fun _ h _ => Bool.noConfusion (show true = false from h)
theorem launchCommand (x0 : Nat) : Statement (.launchCommand x0) := fun _ h _ => Bool.noConfusion (show true = false from h)
theorem wait (x0 : Nat) : Statement (.wait x0) := fun _ h _ => Bool.noConfusion (show true = false from h)
theorem waitPoll (x0 : Nat) : Statement (.waitPoll x0) := fun _ h _ => Bool.noConfusion (show true = false from h)
theorem signal (x0 : Nat) : Statement (.signal x0) := fun _ h _ => Bool.noConfusion (show true = false from h)
theorem queueNotify (x0 : Nat) : Statement (.queueNotify x0) := fun _ h _ => Bool.noConfusion (show true = false from h)
theorem tailPoll (x0 : Nat) : Statement (.tailPoll x0) := fun _ h _ => Bool.noConfusion (show true = false from h)
theorem kill (x0 : Nat) : Statement (.kill x0) := fun _ h _ => Bool.noConfusion (show true = false from h)
theorem watchdogStage1 (x0 : Nat) : Statement (.watchdogStage1 x0) := fun _ h _ => Bool.noConfusion (show true = false from h)
theorem watchdogStage2 (x0 : Nat) : Statement (.watchdogStage2 x0) := fun _ h _ => Bool.noConfusion (show true = false from h)
theorem watchdogStage3 (x0 : Nat) : Statement (.watchdogStage3 x0) := fun _ h _ => Bool.noConfusion (show true = false from h)
theorem copyGranule (x0 : Nat) : Statement (.copyGranule x0) := fun _ h _ => Bool.noConfusion (show true = false from h)
theorem copyStrandPush (x0 : TeamId) (x1 : Nat) : Statement (.copyStrandPush x0 x1) := fun _ h _ => Bool.noConfusion (show true = false from h)
theorem copyComplete (x0 : TeamId) (x1 : Nat) : Statement (.copyComplete x0 x1) := fun _ h _ => Bool.noConfusion (show true = false from h)
theorem bankModeChange (x0 : Nat) (x1 : Nat) : Statement (.bankModeChange x0 x1) := fun _ h _ => Bool.noConfusion (show true = false from h)
theorem collSubtree (x0 : Nat) : Statement (.collSubtree x0) := fun _ h _ => Bool.noConfusion (show true = false from h)
theorem collHomeTimeout (x0 : Nat) : Statement (.collHomeTimeout x0) := fun _ h _ => Bool.noConfusion (show true = false from h)
theorem collParticipantTimeout (x0 : Nat) : Statement (.collParticipantTimeout x0) := fun _ h _ => Bool.noConfusion (show true = false from h)
theorem receive (x0 : RemoteReq) : Statement (.receive x0) := fun _ h _ => Bool.noConfusion (show true = false from h)
theorem retire (x0 : RemoteReq) : Statement (.retire x0) := fun _ h _ => Bool.noConfusion (show true = false from h)
theorem close (x0 : RemoteReq) : Statement (.close x0) := fun _ h _ => Bool.noConfusion (show true = false from h)
theorem remoteResponse (x0 : RemoteResp) : Statement (.remoteResponse x0) := fun _ h _ => Bool.noConfusion (show true = false from h)
theorem rtoExpiry (x0 : Nat) : Statement (.rtoExpiry x0) := fun _ h _ => Bool.noConfusion (show true = false from h)
theorem busyBackoffExpiry (x0 : Nat) : Statement (.busyBackoffExpiry x0) := fun _ h _ => Bool.noConfusion (show true = false from h)
theorem idleRetire (x0 : Nat) (x1 : Nat) : Statement (.idleRetire x0 x1) := fun _ h _ => Bool.noConfusion (show true = false from h)
theorem drainClose (x0 : Nat) (x1 : Nat) : Statement (.drainClose x0 x1) := fun _ h _ => Bool.noConfusion (show true = false from h)
theorem rlimExpiry (x0 : Nat) : Statement (.rlimExpiry x0) := fun _ h _ => Bool.noConfusion (show true = false from h)
theorem frst : Statement (.frst) := fun _ h _ => Bool.noConfusion (show true = false from h)
theorem laneRepair (x0 : Nat) (x1 : BitVec 2) : Statement (.laneRepair x0 x1) := fun _ h _ => Bool.noConfusion (show true = false from h)
theorem crcError (x0 : Nat) : Statement (.crcError x0) := fun _ h _ => Bool.noConfusion (show true = false from h)
theorem repairRetrain (x0 : Nat) : Statement (.repairRetrain x0) := fun _ h _ => Bool.noConfusion (show true = false from h)
theorem retrainComplete (x0 : Nat) : Statement (.retrainComplete x0) := fun _ h _ => Bool.noConfusion (show true = false from h)
theorem faultNotify (x0 : Nat) : Statement (.faultNotify x0) := fun _ h _ => Bool.noConfusion (show true = false from h)
theorem replayAll : Statement (.replayAll) := fun _ h _ => Bool.noConfusion (show true = false from h)
theorem faultAbort : Statement (.faultAbort) := fun _ h _ => Bool.noConfusion (show true = false from h)
theorem inval : Statement (.inval) := fun _ h _ => Bool.noConfusion (show true = false from h)
theorem flush : Statement (.flush) := fun _ h _ => Bool.noConfusion (show true = false from h)
theorem free : Statement (.free) := fun _ h _ => Bool.noConfusion (show true = false from h)
theorem migrate : Statement (.migrate) := fun _ h _ => Bool.noConfusion (show true = false from h)
theorem migrateTry (x0 : Nat) : Statement (.migrateTry x0) := fun _ h _ => Bool.noConfusion (show true = false from h)
theorem migrateSourceRelease (x0 : Nat) : Statement (.migrateSourceRelease x0) := fun _ h _ => Bool.noConfusion (show true = false from h)
theorem genAdvance (x0 : Nat) : Statement (.genAdvance x0) := fun _ h _ => Bool.noConfusion (show true = false from h)
theorem atsInvalidation (x0 : Nat) (x1 : Nat) : Statement (.atsInvalidation x0 x1) := fun _ h _ => Bool.noConfusion (show true = false from h)
theorem atsTranslationCompletion (x0 : Nat) (x1 : Bool) (x2 : Nat) : Statement (.atsTranslationCompletion x0 x1 x2) := fun _ h _ => Bool.noConfusion (show true = false from h)
theorem bar2Read (x0 : Nat) (x1 : Nat) : Statement (.bar2Read x0 x1) := fun _ h _ => Bool.noConfusion (show true = false from h)
theorem bar2Write (x0 : Nat) (x1 : List Byte) : Statement (.bar2Write x0 x1) := fun _ h _ => Bool.noConfusion (show true = false from h)
theorem preempt (x0 : Nat) : Statement (.preempt x0) := fun _ h _ => Bool.noConfusion (show true = false from h)
theorem resume (x0 : Nat) : Statement (.resume x0) := fun _ h _ => Bool.noConfusion (show true = false from h)
theorem switchOut (x0 : Nat) : Statement (.switchOut x0) := fun _ h _ => Bool.noConfusion (show true = false from h)
theorem destroy (x0 : Nat) : Statement (.destroy x0) := fun _ h _ => Bool.noConfusion (show true = false from h)
theorem spareCore (x0 : Nat) (x1 : Nat) : Statement (.spareCore x0 x1) := fun _ h _ => Bool.noConfusion (show true = false from h)
theorem spareCluster (x0 : Nat) (x1 : Nat) : Statement (.spareCluster x0 x1) := fun _ h _ => Bool.noConfusion (show true = false from h)
theorem spareSramRow (x0 : Nat) (x1 : Nat) (x2 : Nat) : Statement (.spareSramRow x0 x1 x2) := fun _ h _ => Bool.noConfusion (show true = false from h)
theorem spareHbmLane (x0 : Nat) (x1 : Nat) (x2 : Nat) : Statement (.spareHbmLane x0 x1 x2) := fun _ h _ => Bool.noConfusion (show true = false from h)
theorem pcieLaneReversal : Statement (.pcieLaneReversal) := fun _ h _ => Bool.noConfusion (show true = false from h)
theorem linkTraining (x0 : Nat) : Statement (.linkTraining x0) := fun _ h _ => Bool.noConfusion (show true = false from h)
theorem faultBufferEnable (x0 : Nat) (x1 : Word) : Statement (.faultBufferEnable x0 x1) := fun _ h _ => Bool.noConfusion (show true = false from h)
theorem islandWrite (x0 : Nat) (x1 : Word) : Statement (.islandWrite x0 x1) := fun _ h _ => Bool.noConfusion (show true = false from h)
theorem islandChangeComplete (x0 : Nat) : Statement (.islandChangeComplete x0) := fun _ h _ => Bool.noConfusion (show true = false from h)
theorem clampEnter : Statement (.clampEnter) := fun _ h _ => Bool.noConfusion (show true = false from h)
theorem clampExit : Statement (.clampExit) := fun _ h _ => Bool.noConfusion (show true = false from h)
theorem spdmRequest (x0 : BitVec 32) : Statement (.spdmRequest x0) := fun _ h _ => Bool.noConfusion (show true = false from h)
theorem recoveryChunk (x0 : BitVec 32) : Statement (.recoveryChunk x0) := fun _ h _ => Bool.noConfusion (show true = false from h)
theorem deviceReset : Statement (.deviceReset) := fun _ h _ => Bool.noConfusion (show true = false from h)
theorem firmwareVerify : Statement (.firmwareVerify) := fun _ h _ => Bool.noConfusion (show true = false from h)
theorem rowPrecharge (x0 : Nat) (x1 : Nat) (x2 : Nat) : Statement (.rowPrecharge x0 x1 x2) := fun _ h _ => Bool.noConfusion (show true = false from h)
theorem registerWrite (x0 : Nat) (x1 : Bool) (x2 : Word) : Statement (.registerWrite x0 x1 x2) := fun _ h _ => Bool.noConfusion (show true = false from h)
theorem writePerformed (x0 : Bool) (x1 : Nat) (x2 : Nat) : Statement (.writePerformed x0 x1 x2) := fun _ h _ => Bool.noConfusion (show true = false from h)
theorem spareComplete : Statement (.spareComplete) := fun _ h _ => Bool.noConfusion (show true = false from h)

end Encodes

end Sys2Proof.Laws
end

