-- ==== Sys2Proof/Laws/State.lean ====
section
/-! SUPPORT. What each update of the tables and of a group leaves as it was: one lemma a field. -/

namespace Sys2Proof.Machine

/-! ### setGroup -/

section
variable (s : State) (gid : GroupId) (g : Group)
@[simp] theorem State.setGroup_mem : (s.setGroup gid g).mem = s.mem := rfl
@[simp] theorem State.setGroup_hostMem : (s.setGroup gid g).hostMem = s.hostMem := rfl
@[simp] theorem State.setGroup_poison : (s.setGroup gid g).poison = s.poison := rfl
@[simp] theorem State.setGroup_l2 : (s.setGroup gid g).l2 = s.l2 := rfl
@[simp] theorem State.setGroup_clusters : (s.setGroup gid g).clusters = s.clusters := rfl
@[simp] theorem State.setGroup_cores : (s.setGroup gid g).cores = s.cores := rfl
@[simp] theorem State.setGroup_l2tlb : (s.setGroup gid g).l2tlb = s.l2tlb := rfl
@[simp] theorem State.setGroup_keys : (s.setGroup gid g).keys = s.keys := rfl
@[simp] theorem State.setGroup_ctxs : (s.setGroup gid g).ctxs = s.ctxs := rfl
@[simp] theorem State.setGroup_queues : (s.setGroup gid g).queues = s.queues := rfl
@[simp] theorem State.setGroup_launches : (s.setGroup gid g).launches = s.launches := rfl
@[simp] theorem State.setGroup_teams : (s.setGroup gid g).teams = s.teams := rfl
@[simp] theorem State.setGroup_colls : (s.setGroup gid g).colls = s.colls := rfl
@[simp] theorem State.setGroup_migrations : (s.setGroup gid g).migrations = s.migrations := rfl
@[simp] theorem State.setGroup_gens : (s.setGroup gid g).gens = s.gens := rfl
@[simp] theorem State.setGroup_remotes : (s.setGroup gid g).remotes = s.remotes := rfl
@[simp] theorem State.setGroup_floors : (s.setGroup gid g).floors = s.floors := rfl
@[simp] theorem State.setGroup_locket : (s.setGroup gid g).locket = s.locket := rfl
@[simp] theorem State.setGroup_redSlots : (s.setGroup gid g).redSlots = s.redSlots := rfl
@[simp] theorem State.setGroup_gathered : (s.setGroup gid g).gathered = s.gathered := rfl
@[simp] theorem State.setGroup_remoteLanes : (s.setGroup gid g).remoteLanes = s.remoteLanes := rfl
@[simp] theorem State.setGroup_fabOut : (s.setGroup gid g).fabOut = s.fabOut := rfl
@[simp] theorem State.setGroup_ports : (s.setGroup gid g).ports = s.ports := rfl
@[simp] theorem State.setGroup_peerx : (s.setGroup gid g).peerx = s.peerx := rfl
@[simp] theorem State.setGroup_peerInc : (s.setGroup gid g).peerInc = s.peerInc := rfl
@[simp] theorem State.setGroup_rfen : (s.setGroup gid g).rfen = s.rfen := rfl
@[simp] theorem State.setGroup_incarn : (s.setGroup gid g).incarn = s.incarn := rfl
@[simp] theorem State.setGroup_rmax : (s.setGroup gid g).rmax = s.rmax := rfl
@[simp] theorem State.setGroup_rto : (s.setGroup gid g).rto = s.rto := rfl
@[simp] theorem State.setGroup_rlim : (s.setGroup gid g).rlim = s.rlim := rfl
@[simp] theorem State.setGroup_drain : (s.setGroup gid g).drain = s.drain := rfl
@[simp] theorem State.setGroup_tca0 : (s.setGroup gid g).tca0 = s.tca0 := rfl
@[simp] theorem State.setGroup_tca1 : (s.setGroup gid g).tca1 = s.tca1 := rfl
@[simp] theorem State.setGroup_tca2 : (s.setGroup gid g).tca2 = s.tca2 := rfl
@[simp] theorem State.setGroup_tca3 : (s.setGroup gid g).tca3 = s.tca3 := rfl
@[simp] theorem State.setGroup_genf : (s.setGroup gid g).genf = s.genf := rfl
@[simp] theorem State.setGroup_tresult : (s.setGroup gid g).tresult = s.tresult := rfl
@[simp] theorem State.setGroup_tbusy : (s.setGroup gid g).tbusy = s.tbusy := rfl
@[simp] theorem State.setGroup_tcmd : (s.setGroup gid g).tcmd = s.tcmd := rfl
@[simp] theorem State.setGroup_boot : (s.setGroup gid g).boot = s.boot := rfl
@[simp] theorem State.setGroup_bootFail : (s.setGroup gid g).bootFail = s.bootFail := rfl
@[simp] theorem State.setGroup_devnum : (s.setGroup gid g).devnum = s.devnum := rfl
@[simp] theorem State.setGroup_repv : (s.setGroup gid g).repv = s.repv := rfl
@[simp] theorem State.setGroup_qhv : (s.setGroup gid g).qhv = s.qhv := rfl
@[simp] theorem State.setGroup_uev : (s.setGroup gid g).uev = s.uev := rfl
@[simp] theorem State.setGroup_clv : (s.setGroup gid g).clv = s.clv := rfl
@[simp] theorem State.setGroup_ilim : (s.setGroup gid g).ilim = s.ilim := rfl
@[simp] theorem State.setGroup_clampCnt : (s.setGroup gid g).clampCnt = s.clampCnt := rfl
@[simp] theorem State.setGroup_clampActive : (s.setGroup gid g).clampActive = s.clampActive := rfl
@[simp] theorem State.setGroup_spArg : (s.setGroup gid g).spArg = s.spArg := rfl
@[simp] theorem State.setGroup_spResult : (s.setGroup gid g).spResult = s.spResult := rfl
@[simp] theorem State.setGroup_spCmd : (s.setGroup gid g).spCmd = s.spCmd := rfl
@[simp] theorem State.setGroup_ueCnt : (s.setGroup gid g).ueCnt = s.ueCnt := rfl
@[simp] theorem State.setGroup_ceCnt : (s.setGroup gid g).ceCnt = s.ceCnt := rfl
@[simp] theorem State.setGroup_ueAddr : (s.setGroup gid g).ueAddr = s.ueAddr := rfl
@[simp] theorem State.setGroup_badCnt : (s.setGroup gid g).badCnt = s.badCnt := rfl
@[simp] theorem State.setGroup_wbase : (s.setGroup gid g).wbase = s.wbase := rfl
@[simp] theorem State.setGroup_cxlBase : (s.setGroup gid g).cxlBase = s.cxlBase := rfl
@[simp] theorem State.setGroup_cxlSize : (s.setGroup gid g).cxlSize = s.cxlSize := rfl
@[simp] theorem State.setGroup_rathr : (s.setGroup gid g).rathr = s.rathr := rfl
@[simp] theorem State.setGroup_rows : (s.setGroup gid g).rows = s.rows := rfl
@[simp] theorem State.setGroup_islands : (s.setGroup gid g).islands = s.islands := rfl
@[simp] theorem State.setGroup_mboxLen : (s.setGroup gid g).mboxLen = s.mboxLen := rfl
@[simp] theorem State.setGroup_mboxDone : (s.setGroup gid g).mboxDone = s.mboxDone := rfl
@[simp] theorem State.setGroup_mboxRespLen : (s.setGroup gid g).mboxRespLen = s.mboxRespLen := rfl
@[simp] theorem State.setGroup_mbox : (s.setGroup gid g).mbox = s.mbox := rfl
@[simp] theorem State.setGroup_chunks : (s.setGroup gid g).chunks = s.chunks := rfl
@[simp] theorem State.setGroup_flash : (s.setGroup gid g).flash = s.flash := rfl
@[simp] theorem State.setGroup_starting : (s.setGroup gid g).starting = s.starting := rfl
@[simp] theorem State.setGroup_spareCores : (s.setGroup gid g).spareCores = s.spareCores := rfl
@[simp] theorem State.setGroup_spareClusters : (s.setGroup gid g).spareClusters = s.spareClusters := rfl
@[simp] theorem State.setGroup_spareRows : (s.setGroup gid g).spareRows = s.spareRows := rfl
@[simp] theorem State.setGroup_spareLanes : (s.setGroup gid g).spareLanes = s.spareLanes := rfl
@[simp] theorem State.setGroup_linkWidth : (s.setGroup gid g).linkWidth = s.linkWidth := rfl
@[simp] theorem State.setGroup_reversed : (s.setGroup gid g).reversed = s.reversed := rfl
@[simp] theorem State.setGroup_atsEn : (s.setGroup gid g).atsEn = s.atsEn := rfl
@[simp] theorem State.setGroup_atc : (s.setGroup gid g).atc = s.atc := rfl
@[simp] theorem State.setGroup_atsRefused : (s.setGroup gid g).atsRefused = s.atsRefused := rfl
@[simp] theorem State.setGroup_msix : (s.setGroup gid g).msix = s.msix := rfl
@[simp] theorem State.setGroup_hostData : (s.setGroup gid g).hostData = s.hostData := rfl
@[simp] theorem State.setGroup_hostEp : (s.setGroup gid g).hostEp = s.hostEp := rfl
@[simp] theorem State.setGroup_hostUr : (s.setGroup gid g).hostUr = s.hostUr := rfl
@[simp] theorem State.setGroup_cur : (s.setGroup gid g).cur = s.cur := rfl
@[simp] theorem State.setGroup_agenda : (s.setGroup gid g).agenda = s.agenda := rfl
@[simp] theorem State.setGroup_fresh : (s.setGroup gid g).fresh = s.fresh := rfl
@[simp] theorem State.setGroup_serial : (s.setGroup gid g).serial = s.serial := rfl
@[simp] theorem State.setGroup_l2lines : (s.setGroup gid g).l2lines = s.l2lines := rfl
@[simp] theorem State.setGroup_unacked : (s.setGroup gid g).unacked = s.unacked := rfl
@[simp] theorem State.setGroup_heldOut : (s.setGroup gid g).heldOut = s.heldOut := rfl
@[simp] theorem State.setGroup_targ : (s.setGroup gid g).targ = s.targ := rfl
@[simp] theorem State.setGroup_bar2Log : (s.setGroup gid g).bar2Log = s.bar2Log := rfl
@[simp] theorem State.setGroup_fused : (s.setGroup gid g).fused = s.fused := rfl
@[simp] theorem State.setGroup_l2bad : (s.setGroup gid g).l2bad = s.l2bad := rfl
end

/-! ### setTeam -/

section
variable (s : State) (tid : TeamId) (x : Team)
@[simp] theorem State.setTeam_mem : (s.setTeam tid x).mem = s.mem := rfl
@[simp] theorem State.setTeam_hostMem : (s.setTeam tid x).hostMem = s.hostMem := rfl
@[simp] theorem State.setTeam_poison : (s.setTeam tid x).poison = s.poison := rfl
@[simp] theorem State.setTeam_l2 : (s.setTeam tid x).l2 = s.l2 := rfl
@[simp] theorem State.setTeam_clusters : (s.setTeam tid x).clusters = s.clusters := rfl
@[simp] theorem State.setTeam_cores : (s.setTeam tid x).cores = s.cores := rfl
@[simp] theorem State.setTeam_l2tlb : (s.setTeam tid x).l2tlb = s.l2tlb := rfl
@[simp] theorem State.setTeam_keys : (s.setTeam tid x).keys = s.keys := rfl
@[simp] theorem State.setTeam_ctxs : (s.setTeam tid x).ctxs = s.ctxs := rfl
@[simp] theorem State.setTeam_queues : (s.setTeam tid x).queues = s.queues := rfl
@[simp] theorem State.setTeam_launches : (s.setTeam tid x).launches = s.launches := rfl
@[simp] theorem State.setTeam_groups : (s.setTeam tid x).groups = s.groups := rfl
@[simp] theorem State.setTeam_colls : (s.setTeam tid x).colls = s.colls := rfl
@[simp] theorem State.setTeam_migrations : (s.setTeam tid x).migrations = s.migrations := rfl
@[simp] theorem State.setTeam_gens : (s.setTeam tid x).gens = s.gens := rfl
@[simp] theorem State.setTeam_remotes : (s.setTeam tid x).remotes = s.remotes := rfl
@[simp] theorem State.setTeam_floors : (s.setTeam tid x).floors = s.floors := rfl
@[simp] theorem State.setTeam_locket : (s.setTeam tid x).locket = s.locket := rfl
@[simp] theorem State.setTeam_redSlots : (s.setTeam tid x).redSlots = s.redSlots := rfl
@[simp] theorem State.setTeam_gathered : (s.setTeam tid x).gathered = s.gathered := rfl
@[simp] theorem State.setTeam_remoteLanes : (s.setTeam tid x).remoteLanes = s.remoteLanes := rfl
@[simp] theorem State.setTeam_fabOut : (s.setTeam tid x).fabOut = s.fabOut := rfl
@[simp] theorem State.setTeam_ports : (s.setTeam tid x).ports = s.ports := rfl
@[simp] theorem State.setTeam_peerx : (s.setTeam tid x).peerx = s.peerx := rfl
@[simp] theorem State.setTeam_peerInc : (s.setTeam tid x).peerInc = s.peerInc := rfl
@[simp] theorem State.setTeam_rfen : (s.setTeam tid x).rfen = s.rfen := rfl
@[simp] theorem State.setTeam_incarn : (s.setTeam tid x).incarn = s.incarn := rfl
@[simp] theorem State.setTeam_rmax : (s.setTeam tid x).rmax = s.rmax := rfl
@[simp] theorem State.setTeam_rto : (s.setTeam tid x).rto = s.rto := rfl
@[simp] theorem State.setTeam_rlim : (s.setTeam tid x).rlim = s.rlim := rfl
@[simp] theorem State.setTeam_drain : (s.setTeam tid x).drain = s.drain := rfl
@[simp] theorem State.setTeam_tca0 : (s.setTeam tid x).tca0 = s.tca0 := rfl
@[simp] theorem State.setTeam_tca1 : (s.setTeam tid x).tca1 = s.tca1 := rfl
@[simp] theorem State.setTeam_tca2 : (s.setTeam tid x).tca2 = s.tca2 := rfl
@[simp] theorem State.setTeam_tca3 : (s.setTeam tid x).tca3 = s.tca3 := rfl
@[simp] theorem State.setTeam_genf : (s.setTeam tid x).genf = s.genf := rfl
@[simp] theorem State.setTeam_tresult : (s.setTeam tid x).tresult = s.tresult := rfl
@[simp] theorem State.setTeam_tbusy : (s.setTeam tid x).tbusy = s.tbusy := rfl
@[simp] theorem State.setTeam_tcmd : (s.setTeam tid x).tcmd = s.tcmd := rfl
@[simp] theorem State.setTeam_boot : (s.setTeam tid x).boot = s.boot := rfl
@[simp] theorem State.setTeam_bootFail : (s.setTeam tid x).bootFail = s.bootFail := rfl
@[simp] theorem State.setTeam_devnum : (s.setTeam tid x).devnum = s.devnum := rfl
@[simp] theorem State.setTeam_repv : (s.setTeam tid x).repv = s.repv := rfl
@[simp] theorem State.setTeam_qhv : (s.setTeam tid x).qhv = s.qhv := rfl
@[simp] theorem State.setTeam_uev : (s.setTeam tid x).uev = s.uev := rfl
@[simp] theorem State.setTeam_clv : (s.setTeam tid x).clv = s.clv := rfl
@[simp] theorem State.setTeam_ilim : (s.setTeam tid x).ilim = s.ilim := rfl
@[simp] theorem State.setTeam_clampCnt : (s.setTeam tid x).clampCnt = s.clampCnt := rfl
@[simp] theorem State.setTeam_clampActive : (s.setTeam tid x).clampActive = s.clampActive := rfl
@[simp] theorem State.setTeam_spArg : (s.setTeam tid x).spArg = s.spArg := rfl
@[simp] theorem State.setTeam_spResult : (s.setTeam tid x).spResult = s.spResult := rfl
@[simp] theorem State.setTeam_spCmd : (s.setTeam tid x).spCmd = s.spCmd := rfl
@[simp] theorem State.setTeam_ueCnt : (s.setTeam tid x).ueCnt = s.ueCnt := rfl
@[simp] theorem State.setTeam_ceCnt : (s.setTeam tid x).ceCnt = s.ceCnt := rfl
@[simp] theorem State.setTeam_ueAddr : (s.setTeam tid x).ueAddr = s.ueAddr := rfl
@[simp] theorem State.setTeam_badCnt : (s.setTeam tid x).badCnt = s.badCnt := rfl
@[simp] theorem State.setTeam_wbase : (s.setTeam tid x).wbase = s.wbase := rfl
@[simp] theorem State.setTeam_cxlBase : (s.setTeam tid x).cxlBase = s.cxlBase := rfl
@[simp] theorem State.setTeam_cxlSize : (s.setTeam tid x).cxlSize = s.cxlSize := rfl
@[simp] theorem State.setTeam_rathr : (s.setTeam tid x).rathr = s.rathr := rfl
@[simp] theorem State.setTeam_rows : (s.setTeam tid x).rows = s.rows := rfl
@[simp] theorem State.setTeam_islands : (s.setTeam tid x).islands = s.islands := rfl
@[simp] theorem State.setTeam_mboxLen : (s.setTeam tid x).mboxLen = s.mboxLen := rfl
@[simp] theorem State.setTeam_mboxDone : (s.setTeam tid x).mboxDone = s.mboxDone := rfl
@[simp] theorem State.setTeam_mboxRespLen : (s.setTeam tid x).mboxRespLen = s.mboxRespLen := rfl
@[simp] theorem State.setTeam_mbox : (s.setTeam tid x).mbox = s.mbox := rfl
@[simp] theorem State.setTeam_chunks : (s.setTeam tid x).chunks = s.chunks := rfl
@[simp] theorem State.setTeam_flash : (s.setTeam tid x).flash = s.flash := rfl
@[simp] theorem State.setTeam_starting : (s.setTeam tid x).starting = s.starting := rfl
@[simp] theorem State.setTeam_spareCores : (s.setTeam tid x).spareCores = s.spareCores := rfl
@[simp] theorem State.setTeam_spareClusters : (s.setTeam tid x).spareClusters = s.spareClusters := rfl
@[simp] theorem State.setTeam_spareRows : (s.setTeam tid x).spareRows = s.spareRows := rfl
@[simp] theorem State.setTeam_spareLanes : (s.setTeam tid x).spareLanes = s.spareLanes := rfl
@[simp] theorem State.setTeam_linkWidth : (s.setTeam tid x).linkWidth = s.linkWidth := rfl
@[simp] theorem State.setTeam_reversed : (s.setTeam tid x).reversed = s.reversed := rfl
@[simp] theorem State.setTeam_atsEn : (s.setTeam tid x).atsEn = s.atsEn := rfl
@[simp] theorem State.setTeam_atc : (s.setTeam tid x).atc = s.atc := rfl
@[simp] theorem State.setTeam_atsRefused : (s.setTeam tid x).atsRefused = s.atsRefused := rfl
@[simp] theorem State.setTeam_msix : (s.setTeam tid x).msix = s.msix := rfl
@[simp] theorem State.setTeam_hostData : (s.setTeam tid x).hostData = s.hostData := rfl
@[simp] theorem State.setTeam_hostEp : (s.setTeam tid x).hostEp = s.hostEp := rfl
@[simp] theorem State.setTeam_hostUr : (s.setTeam tid x).hostUr = s.hostUr := rfl
@[simp] theorem State.setTeam_cur : (s.setTeam tid x).cur = s.cur := rfl
@[simp] theorem State.setTeam_agenda : (s.setTeam tid x).agenda = s.agenda := rfl
@[simp] theorem State.setTeam_fresh : (s.setTeam tid x).fresh = s.fresh := rfl
@[simp] theorem State.setTeam_serial : (s.setTeam tid x).serial = s.serial := rfl
@[simp] theorem State.setTeam_l2lines : (s.setTeam tid x).l2lines = s.l2lines := rfl
@[simp] theorem State.setTeam_unacked : (s.setTeam tid x).unacked = s.unacked := rfl
@[simp] theorem State.setTeam_heldOut : (s.setTeam tid x).heldOut = s.heldOut := rfl
@[simp] theorem State.setTeam_targ : (s.setTeam tid x).targ = s.targ := rfl
@[simp] theorem State.setTeam_bar2Log : (s.setTeam tid x).bar2Log = s.bar2Log := rfl
@[simp] theorem State.setTeam_fused : (s.setTeam tid x).fused = s.fused := rfl
@[simp] theorem State.setTeam_l2bad : (s.setTeam tid x).l2bad = s.l2bad := rfl
end

/-! ### setLaunch -/

section
variable (s : State) (n : Nat) (l : Launch)
@[simp] theorem State.setLaunch_mem : (s.setLaunch n l).mem = s.mem := rfl
@[simp] theorem State.setLaunch_hostMem : (s.setLaunch n l).hostMem = s.hostMem := rfl
@[simp] theorem State.setLaunch_poison : (s.setLaunch n l).poison = s.poison := rfl
@[simp] theorem State.setLaunch_l2 : (s.setLaunch n l).l2 = s.l2 := rfl
@[simp] theorem State.setLaunch_clusters : (s.setLaunch n l).clusters = s.clusters := rfl
@[simp] theorem State.setLaunch_cores : (s.setLaunch n l).cores = s.cores := rfl
@[simp] theorem State.setLaunch_l2tlb : (s.setLaunch n l).l2tlb = s.l2tlb := rfl
@[simp] theorem State.setLaunch_keys : (s.setLaunch n l).keys = s.keys := rfl
@[simp] theorem State.setLaunch_ctxs : (s.setLaunch n l).ctxs = s.ctxs := rfl
@[simp] theorem State.setLaunch_queues : (s.setLaunch n l).queues = s.queues := rfl
@[simp] theorem State.setLaunch_teams : (s.setLaunch n l).teams = s.teams := rfl
@[simp] theorem State.setLaunch_groups : (s.setLaunch n l).groups = s.groups := rfl
@[simp] theorem State.setLaunch_colls : (s.setLaunch n l).colls = s.colls := rfl
@[simp] theorem State.setLaunch_migrations : (s.setLaunch n l).migrations = s.migrations := rfl
@[simp] theorem State.setLaunch_gens : (s.setLaunch n l).gens = s.gens := rfl
@[simp] theorem State.setLaunch_remotes : (s.setLaunch n l).remotes = s.remotes := rfl
@[simp] theorem State.setLaunch_floors : (s.setLaunch n l).floors = s.floors := rfl
@[simp] theorem State.setLaunch_locket : (s.setLaunch n l).locket = s.locket := rfl
@[simp] theorem State.setLaunch_redSlots : (s.setLaunch n l).redSlots = s.redSlots := rfl
@[simp] theorem State.setLaunch_gathered : (s.setLaunch n l).gathered = s.gathered := rfl
@[simp] theorem State.setLaunch_remoteLanes : (s.setLaunch n l).remoteLanes = s.remoteLanes := rfl
@[simp] theorem State.setLaunch_fabOut : (s.setLaunch n l).fabOut = s.fabOut := rfl
@[simp] theorem State.setLaunch_ports : (s.setLaunch n l).ports = s.ports := rfl
@[simp] theorem State.setLaunch_peerx : (s.setLaunch n l).peerx = s.peerx := rfl
@[simp] theorem State.setLaunch_peerInc : (s.setLaunch n l).peerInc = s.peerInc := rfl
@[simp] theorem State.setLaunch_rfen : (s.setLaunch n l).rfen = s.rfen := rfl
@[simp] theorem State.setLaunch_incarn : (s.setLaunch n l).incarn = s.incarn := rfl
@[simp] theorem State.setLaunch_rmax : (s.setLaunch n l).rmax = s.rmax := rfl
@[simp] theorem State.setLaunch_rto : (s.setLaunch n l).rto = s.rto := rfl
@[simp] theorem State.setLaunch_rlim : (s.setLaunch n l).rlim = s.rlim := rfl
@[simp] theorem State.setLaunch_drain : (s.setLaunch n l).drain = s.drain := rfl
@[simp] theorem State.setLaunch_tca0 : (s.setLaunch n l).tca0 = s.tca0 := rfl
@[simp] theorem State.setLaunch_tca1 : (s.setLaunch n l).tca1 = s.tca1 := rfl
@[simp] theorem State.setLaunch_tca2 : (s.setLaunch n l).tca2 = s.tca2 := rfl
@[simp] theorem State.setLaunch_tca3 : (s.setLaunch n l).tca3 = s.tca3 := rfl
@[simp] theorem State.setLaunch_genf : (s.setLaunch n l).genf = s.genf := rfl
@[simp] theorem State.setLaunch_tresult : (s.setLaunch n l).tresult = s.tresult := rfl
@[simp] theorem State.setLaunch_tbusy : (s.setLaunch n l).tbusy = s.tbusy := rfl
@[simp] theorem State.setLaunch_tcmd : (s.setLaunch n l).tcmd = s.tcmd := rfl
@[simp] theorem State.setLaunch_boot : (s.setLaunch n l).boot = s.boot := rfl
@[simp] theorem State.setLaunch_bootFail : (s.setLaunch n l).bootFail = s.bootFail := rfl
@[simp] theorem State.setLaunch_devnum : (s.setLaunch n l).devnum = s.devnum := rfl
@[simp] theorem State.setLaunch_repv : (s.setLaunch n l).repv = s.repv := rfl
@[simp] theorem State.setLaunch_qhv : (s.setLaunch n l).qhv = s.qhv := rfl
@[simp] theorem State.setLaunch_uev : (s.setLaunch n l).uev = s.uev := rfl
@[simp] theorem State.setLaunch_clv : (s.setLaunch n l).clv = s.clv := rfl
@[simp] theorem State.setLaunch_ilim : (s.setLaunch n l).ilim = s.ilim := rfl
@[simp] theorem State.setLaunch_clampCnt : (s.setLaunch n l).clampCnt = s.clampCnt := rfl
@[simp] theorem State.setLaunch_clampActive : (s.setLaunch n l).clampActive = s.clampActive := rfl
@[simp] theorem State.setLaunch_spArg : (s.setLaunch n l).spArg = s.spArg := rfl
@[simp] theorem State.setLaunch_spResult : (s.setLaunch n l).spResult = s.spResult := rfl
@[simp] theorem State.setLaunch_spCmd : (s.setLaunch n l).spCmd = s.spCmd := rfl
@[simp] theorem State.setLaunch_ueCnt : (s.setLaunch n l).ueCnt = s.ueCnt := rfl
@[simp] theorem State.setLaunch_ceCnt : (s.setLaunch n l).ceCnt = s.ceCnt := rfl
@[simp] theorem State.setLaunch_ueAddr : (s.setLaunch n l).ueAddr = s.ueAddr := rfl
@[simp] theorem State.setLaunch_badCnt : (s.setLaunch n l).badCnt = s.badCnt := rfl
@[simp] theorem State.setLaunch_wbase : (s.setLaunch n l).wbase = s.wbase := rfl
@[simp] theorem State.setLaunch_cxlBase : (s.setLaunch n l).cxlBase = s.cxlBase := rfl
@[simp] theorem State.setLaunch_cxlSize : (s.setLaunch n l).cxlSize = s.cxlSize := rfl
@[simp] theorem State.setLaunch_rathr : (s.setLaunch n l).rathr = s.rathr := rfl
@[simp] theorem State.setLaunch_rows : (s.setLaunch n l).rows = s.rows := rfl
@[simp] theorem State.setLaunch_islands : (s.setLaunch n l).islands = s.islands := rfl
@[simp] theorem State.setLaunch_mboxLen : (s.setLaunch n l).mboxLen = s.mboxLen := rfl
@[simp] theorem State.setLaunch_mboxDone : (s.setLaunch n l).mboxDone = s.mboxDone := rfl
@[simp] theorem State.setLaunch_mboxRespLen : (s.setLaunch n l).mboxRespLen = s.mboxRespLen := rfl
@[simp] theorem State.setLaunch_mbox : (s.setLaunch n l).mbox = s.mbox := rfl
@[simp] theorem State.setLaunch_chunks : (s.setLaunch n l).chunks = s.chunks := rfl
@[simp] theorem State.setLaunch_flash : (s.setLaunch n l).flash = s.flash := rfl
@[simp] theorem State.setLaunch_starting : (s.setLaunch n l).starting = s.starting := rfl
@[simp] theorem State.setLaunch_spareCores : (s.setLaunch n l).spareCores = s.spareCores := rfl
@[simp] theorem State.setLaunch_spareClusters : (s.setLaunch n l).spareClusters = s.spareClusters := rfl
@[simp] theorem State.setLaunch_spareRows : (s.setLaunch n l).spareRows = s.spareRows := rfl
@[simp] theorem State.setLaunch_spareLanes : (s.setLaunch n l).spareLanes = s.spareLanes := rfl
@[simp] theorem State.setLaunch_linkWidth : (s.setLaunch n l).linkWidth = s.linkWidth := rfl
@[simp] theorem State.setLaunch_reversed : (s.setLaunch n l).reversed = s.reversed := rfl
@[simp] theorem State.setLaunch_atsEn : (s.setLaunch n l).atsEn = s.atsEn := rfl
@[simp] theorem State.setLaunch_atc : (s.setLaunch n l).atc = s.atc := rfl
@[simp] theorem State.setLaunch_atsRefused : (s.setLaunch n l).atsRefused = s.atsRefused := rfl
@[simp] theorem State.setLaunch_msix : (s.setLaunch n l).msix = s.msix := rfl
@[simp] theorem State.setLaunch_hostData : (s.setLaunch n l).hostData = s.hostData := rfl
@[simp] theorem State.setLaunch_hostEp : (s.setLaunch n l).hostEp = s.hostEp := rfl
@[simp] theorem State.setLaunch_hostUr : (s.setLaunch n l).hostUr = s.hostUr := rfl
@[simp] theorem State.setLaunch_cur : (s.setLaunch n l).cur = s.cur := rfl
@[simp] theorem State.setLaunch_agenda : (s.setLaunch n l).agenda = s.agenda := rfl
@[simp] theorem State.setLaunch_fresh : (s.setLaunch n l).fresh = s.fresh := rfl
@[simp] theorem State.setLaunch_serial : (s.setLaunch n l).serial = s.serial := rfl
@[simp] theorem State.setLaunch_l2lines : (s.setLaunch n l).l2lines = s.l2lines := rfl
@[simp] theorem State.setLaunch_unacked : (s.setLaunch n l).unacked = s.unacked := rfl
@[simp] theorem State.setLaunch_heldOut : (s.setLaunch n l).heldOut = s.heldOut := rfl
@[simp] theorem State.setLaunch_targ : (s.setLaunch n l).targ = s.targ := rfl
@[simp] theorem State.setLaunch_bar2Log : (s.setLaunch n l).bar2Log = s.bar2Log := rfl
@[simp] theorem State.setLaunch_fused : (s.setLaunch n l).fused = s.fused := rfl
@[simp] theorem State.setLaunch_l2bad : (s.setLaunch n l).l2bad = s.l2bad := rfl
end

/-! ### modCore -/

section
variable (s : State) (c : CoreId) (f : Core → Core)
@[simp] theorem State.modCore_mem : (s.modCore c f).mem = s.mem := rfl
@[simp] theorem State.modCore_hostMem : (s.modCore c f).hostMem = s.hostMem := rfl
@[simp] theorem State.modCore_poison : (s.modCore c f).poison = s.poison := rfl
@[simp] theorem State.modCore_l2 : (s.modCore c f).l2 = s.l2 := rfl
@[simp] theorem State.modCore_clusters : (s.modCore c f).clusters = s.clusters := rfl
@[simp] theorem State.modCore_l2tlb : (s.modCore c f).l2tlb = s.l2tlb := rfl
@[simp] theorem State.modCore_keys : (s.modCore c f).keys = s.keys := rfl
@[simp] theorem State.modCore_ctxs : (s.modCore c f).ctxs = s.ctxs := rfl
@[simp] theorem State.modCore_queues : (s.modCore c f).queues = s.queues := rfl
@[simp] theorem State.modCore_launches : (s.modCore c f).launches = s.launches := rfl
@[simp] theorem State.modCore_teams : (s.modCore c f).teams = s.teams := rfl
@[simp] theorem State.modCore_groups : (s.modCore c f).groups = s.groups := rfl
@[simp] theorem State.modCore_colls : (s.modCore c f).colls = s.colls := rfl
@[simp] theorem State.modCore_migrations : (s.modCore c f).migrations = s.migrations := rfl
@[simp] theorem State.modCore_gens : (s.modCore c f).gens = s.gens := rfl
@[simp] theorem State.modCore_remotes : (s.modCore c f).remotes = s.remotes := rfl
@[simp] theorem State.modCore_floors : (s.modCore c f).floors = s.floors := rfl
@[simp] theorem State.modCore_locket : (s.modCore c f).locket = s.locket := rfl
@[simp] theorem State.modCore_redSlots : (s.modCore c f).redSlots = s.redSlots := rfl
@[simp] theorem State.modCore_gathered : (s.modCore c f).gathered = s.gathered := rfl
@[simp] theorem State.modCore_remoteLanes : (s.modCore c f).remoteLanes = s.remoteLanes := rfl
@[simp] theorem State.modCore_fabOut : (s.modCore c f).fabOut = s.fabOut := rfl
@[simp] theorem State.modCore_ports : (s.modCore c f).ports = s.ports := rfl
@[simp] theorem State.modCore_peerx : (s.modCore c f).peerx = s.peerx := rfl
@[simp] theorem State.modCore_peerInc : (s.modCore c f).peerInc = s.peerInc := rfl
@[simp] theorem State.modCore_rfen : (s.modCore c f).rfen = s.rfen := rfl
@[simp] theorem State.modCore_incarn : (s.modCore c f).incarn = s.incarn := rfl
@[simp] theorem State.modCore_rmax : (s.modCore c f).rmax = s.rmax := rfl
@[simp] theorem State.modCore_rto : (s.modCore c f).rto = s.rto := rfl
@[simp] theorem State.modCore_rlim : (s.modCore c f).rlim = s.rlim := rfl
@[simp] theorem State.modCore_drain : (s.modCore c f).drain = s.drain := rfl
@[simp] theorem State.modCore_tca0 : (s.modCore c f).tca0 = s.tca0 := rfl
@[simp] theorem State.modCore_tca1 : (s.modCore c f).tca1 = s.tca1 := rfl
@[simp] theorem State.modCore_tca2 : (s.modCore c f).tca2 = s.tca2 := rfl
@[simp] theorem State.modCore_tca3 : (s.modCore c f).tca3 = s.tca3 := rfl
@[simp] theorem State.modCore_genf : (s.modCore c f).genf = s.genf := rfl
@[simp] theorem State.modCore_tresult : (s.modCore c f).tresult = s.tresult := rfl
@[simp] theorem State.modCore_tbusy : (s.modCore c f).tbusy = s.tbusy := rfl
@[simp] theorem State.modCore_tcmd : (s.modCore c f).tcmd = s.tcmd := rfl
@[simp] theorem State.modCore_boot : (s.modCore c f).boot = s.boot := rfl
@[simp] theorem State.modCore_bootFail : (s.modCore c f).bootFail = s.bootFail := rfl
@[simp] theorem State.modCore_devnum : (s.modCore c f).devnum = s.devnum := rfl
@[simp] theorem State.modCore_repv : (s.modCore c f).repv = s.repv := rfl
@[simp] theorem State.modCore_qhv : (s.modCore c f).qhv = s.qhv := rfl
@[simp] theorem State.modCore_uev : (s.modCore c f).uev = s.uev := rfl
@[simp] theorem State.modCore_clv : (s.modCore c f).clv = s.clv := rfl
@[simp] theorem State.modCore_ilim : (s.modCore c f).ilim = s.ilim := rfl
@[simp] theorem State.modCore_clampCnt : (s.modCore c f).clampCnt = s.clampCnt := rfl
@[simp] theorem State.modCore_clampActive : (s.modCore c f).clampActive = s.clampActive := rfl
@[simp] theorem State.modCore_spArg : (s.modCore c f).spArg = s.spArg := rfl
@[simp] theorem State.modCore_spResult : (s.modCore c f).spResult = s.spResult := rfl
@[simp] theorem State.modCore_spCmd : (s.modCore c f).spCmd = s.spCmd := rfl
@[simp] theorem State.modCore_ueCnt : (s.modCore c f).ueCnt = s.ueCnt := rfl
@[simp] theorem State.modCore_ceCnt : (s.modCore c f).ceCnt = s.ceCnt := rfl
@[simp] theorem State.modCore_ueAddr : (s.modCore c f).ueAddr = s.ueAddr := rfl
@[simp] theorem State.modCore_badCnt : (s.modCore c f).badCnt = s.badCnt := rfl
@[simp] theorem State.modCore_wbase : (s.modCore c f).wbase = s.wbase := rfl
@[simp] theorem State.modCore_cxlBase : (s.modCore c f).cxlBase = s.cxlBase := rfl
@[simp] theorem State.modCore_cxlSize : (s.modCore c f).cxlSize = s.cxlSize := rfl
@[simp] theorem State.modCore_rathr : (s.modCore c f).rathr = s.rathr := rfl
@[simp] theorem State.modCore_rows : (s.modCore c f).rows = s.rows := rfl
@[simp] theorem State.modCore_islands : (s.modCore c f).islands = s.islands := rfl
@[simp] theorem State.modCore_mboxLen : (s.modCore c f).mboxLen = s.mboxLen := rfl
@[simp] theorem State.modCore_mboxDone : (s.modCore c f).mboxDone = s.mboxDone := rfl
@[simp] theorem State.modCore_mboxRespLen : (s.modCore c f).mboxRespLen = s.mboxRespLen := rfl
@[simp] theorem State.modCore_mbox : (s.modCore c f).mbox = s.mbox := rfl
@[simp] theorem State.modCore_chunks : (s.modCore c f).chunks = s.chunks := rfl
@[simp] theorem State.modCore_flash : (s.modCore c f).flash = s.flash := rfl
@[simp] theorem State.modCore_starting : (s.modCore c f).starting = s.starting := rfl
@[simp] theorem State.modCore_spareCores : (s.modCore c f).spareCores = s.spareCores := rfl
@[simp] theorem State.modCore_spareClusters : (s.modCore c f).spareClusters = s.spareClusters := rfl
@[simp] theorem State.modCore_spareRows : (s.modCore c f).spareRows = s.spareRows := rfl
@[simp] theorem State.modCore_spareLanes : (s.modCore c f).spareLanes = s.spareLanes := rfl
@[simp] theorem State.modCore_linkWidth : (s.modCore c f).linkWidth = s.linkWidth := rfl
@[simp] theorem State.modCore_reversed : (s.modCore c f).reversed = s.reversed := rfl
@[simp] theorem State.modCore_atsEn : (s.modCore c f).atsEn = s.atsEn := rfl
@[simp] theorem State.modCore_atc : (s.modCore c f).atc = s.atc := rfl
@[simp] theorem State.modCore_atsRefused : (s.modCore c f).atsRefused = s.atsRefused := rfl
@[simp] theorem State.modCore_msix : (s.modCore c f).msix = s.msix := rfl
@[simp] theorem State.modCore_hostData : (s.modCore c f).hostData = s.hostData := rfl
@[simp] theorem State.modCore_hostEp : (s.modCore c f).hostEp = s.hostEp := rfl
@[simp] theorem State.modCore_hostUr : (s.modCore c f).hostUr = s.hostUr := rfl
@[simp] theorem State.modCore_cur : (s.modCore c f).cur = s.cur := rfl
@[simp] theorem State.modCore_agenda : (s.modCore c f).agenda = s.agenda := rfl
@[simp] theorem State.modCore_fresh : (s.modCore c f).fresh = s.fresh := rfl
@[simp] theorem State.modCore_serial : (s.modCore c f).serial = s.serial := rfl
@[simp] theorem State.modCore_l2lines : (s.modCore c f).l2lines = s.l2lines := rfl
@[simp] theorem State.modCore_unacked : (s.modCore c f).unacked = s.unacked := rfl
@[simp] theorem State.modCore_heldOut : (s.modCore c f).heldOut = s.heldOut := rfl
@[simp] theorem State.modCore_targ : (s.modCore c f).targ = s.targ := rfl
@[simp] theorem State.modCore_bar2Log : (s.modCore c f).bar2Log = s.bar2Log := rfl
@[simp] theorem State.modCore_fused : (s.modCore c f).fused = s.fused := rfl
@[simp] theorem State.modCore_l2bad : (s.modCore c f).l2bad = s.l2bad := rfl
end

/-! ### modCluster -/

section
variable (s : State) (c : Nat) (f : Cluster → Cluster)
@[simp] theorem State.modCluster_mem : (s.modCluster c f).mem = s.mem := rfl
@[simp] theorem State.modCluster_hostMem : (s.modCluster c f).hostMem = s.hostMem := rfl
@[simp] theorem State.modCluster_poison : (s.modCluster c f).poison = s.poison := rfl
@[simp] theorem State.modCluster_l2 : (s.modCluster c f).l2 = s.l2 := rfl
@[simp] theorem State.modCluster_cores : (s.modCluster c f).cores = s.cores := rfl
@[simp] theorem State.modCluster_l2tlb : (s.modCluster c f).l2tlb = s.l2tlb := rfl
@[simp] theorem State.modCluster_keys : (s.modCluster c f).keys = s.keys := rfl
@[simp] theorem State.modCluster_ctxs : (s.modCluster c f).ctxs = s.ctxs := rfl
@[simp] theorem State.modCluster_queues : (s.modCluster c f).queues = s.queues := rfl
@[simp] theorem State.modCluster_launches : (s.modCluster c f).launches = s.launches := rfl
@[simp] theorem State.modCluster_teams : (s.modCluster c f).teams = s.teams := rfl
@[simp] theorem State.modCluster_groups : (s.modCluster c f).groups = s.groups := rfl
@[simp] theorem State.modCluster_colls : (s.modCluster c f).colls = s.colls := rfl
@[simp] theorem State.modCluster_migrations : (s.modCluster c f).migrations = s.migrations := rfl
@[simp] theorem State.modCluster_gens : (s.modCluster c f).gens = s.gens := rfl
@[simp] theorem State.modCluster_remotes : (s.modCluster c f).remotes = s.remotes := rfl
@[simp] theorem State.modCluster_floors : (s.modCluster c f).floors = s.floors := rfl
@[simp] theorem State.modCluster_locket : (s.modCluster c f).locket = s.locket := rfl
@[simp] theorem State.modCluster_redSlots : (s.modCluster c f).redSlots = s.redSlots := rfl
@[simp] theorem State.modCluster_gathered : (s.modCluster c f).gathered = s.gathered := rfl
@[simp] theorem State.modCluster_remoteLanes : (s.modCluster c f).remoteLanes = s.remoteLanes := rfl
@[simp] theorem State.modCluster_fabOut : (s.modCluster c f).fabOut = s.fabOut := rfl
@[simp] theorem State.modCluster_ports : (s.modCluster c f).ports = s.ports := rfl
@[simp] theorem State.modCluster_peerx : (s.modCluster c f).peerx = s.peerx := rfl
@[simp] theorem State.modCluster_peerInc : (s.modCluster c f).peerInc = s.peerInc := rfl
@[simp] theorem State.modCluster_rfen : (s.modCluster c f).rfen = s.rfen := rfl
@[simp] theorem State.modCluster_incarn : (s.modCluster c f).incarn = s.incarn := rfl
@[simp] theorem State.modCluster_rmax : (s.modCluster c f).rmax = s.rmax := rfl
@[simp] theorem State.modCluster_rto : (s.modCluster c f).rto = s.rto := rfl
@[simp] theorem State.modCluster_rlim : (s.modCluster c f).rlim = s.rlim := rfl
@[simp] theorem State.modCluster_drain : (s.modCluster c f).drain = s.drain := rfl
@[simp] theorem State.modCluster_tca0 : (s.modCluster c f).tca0 = s.tca0 := rfl
@[simp] theorem State.modCluster_tca1 : (s.modCluster c f).tca1 = s.tca1 := rfl
@[simp] theorem State.modCluster_tca2 : (s.modCluster c f).tca2 = s.tca2 := rfl
@[simp] theorem State.modCluster_tca3 : (s.modCluster c f).tca3 = s.tca3 := rfl
@[simp] theorem State.modCluster_genf : (s.modCluster c f).genf = s.genf := rfl
@[simp] theorem State.modCluster_tresult : (s.modCluster c f).tresult = s.tresult := rfl
@[simp] theorem State.modCluster_tbusy : (s.modCluster c f).tbusy = s.tbusy := rfl
@[simp] theorem State.modCluster_tcmd : (s.modCluster c f).tcmd = s.tcmd := rfl
@[simp] theorem State.modCluster_boot : (s.modCluster c f).boot = s.boot := rfl
@[simp] theorem State.modCluster_bootFail : (s.modCluster c f).bootFail = s.bootFail := rfl
@[simp] theorem State.modCluster_devnum : (s.modCluster c f).devnum = s.devnum := rfl
@[simp] theorem State.modCluster_repv : (s.modCluster c f).repv = s.repv := rfl
@[simp] theorem State.modCluster_qhv : (s.modCluster c f).qhv = s.qhv := rfl
@[simp] theorem State.modCluster_uev : (s.modCluster c f).uev = s.uev := rfl
@[simp] theorem State.modCluster_clv : (s.modCluster c f).clv = s.clv := rfl
@[simp] theorem State.modCluster_ilim : (s.modCluster c f).ilim = s.ilim := rfl
@[simp] theorem State.modCluster_clampCnt : (s.modCluster c f).clampCnt = s.clampCnt := rfl
@[simp] theorem State.modCluster_clampActive : (s.modCluster c f).clampActive = s.clampActive := rfl
@[simp] theorem State.modCluster_spArg : (s.modCluster c f).spArg = s.spArg := rfl
@[simp] theorem State.modCluster_spResult : (s.modCluster c f).spResult = s.spResult := rfl
@[simp] theorem State.modCluster_spCmd : (s.modCluster c f).spCmd = s.spCmd := rfl
@[simp] theorem State.modCluster_ueCnt : (s.modCluster c f).ueCnt = s.ueCnt := rfl
@[simp] theorem State.modCluster_ceCnt : (s.modCluster c f).ceCnt = s.ceCnt := rfl
@[simp] theorem State.modCluster_ueAddr : (s.modCluster c f).ueAddr = s.ueAddr := rfl
@[simp] theorem State.modCluster_badCnt : (s.modCluster c f).badCnt = s.badCnt := rfl
@[simp] theorem State.modCluster_wbase : (s.modCluster c f).wbase = s.wbase := rfl
@[simp] theorem State.modCluster_cxlBase : (s.modCluster c f).cxlBase = s.cxlBase := rfl
@[simp] theorem State.modCluster_cxlSize : (s.modCluster c f).cxlSize = s.cxlSize := rfl
@[simp] theorem State.modCluster_rathr : (s.modCluster c f).rathr = s.rathr := rfl
@[simp] theorem State.modCluster_rows : (s.modCluster c f).rows = s.rows := rfl
@[simp] theorem State.modCluster_islands : (s.modCluster c f).islands = s.islands := rfl
@[simp] theorem State.modCluster_mboxLen : (s.modCluster c f).mboxLen = s.mboxLen := rfl
@[simp] theorem State.modCluster_mboxDone : (s.modCluster c f).mboxDone = s.mboxDone := rfl
@[simp] theorem State.modCluster_mboxRespLen : (s.modCluster c f).mboxRespLen = s.mboxRespLen := rfl
@[simp] theorem State.modCluster_mbox : (s.modCluster c f).mbox = s.mbox := rfl
@[simp] theorem State.modCluster_chunks : (s.modCluster c f).chunks = s.chunks := rfl
@[simp] theorem State.modCluster_flash : (s.modCluster c f).flash = s.flash := rfl
@[simp] theorem State.modCluster_starting : (s.modCluster c f).starting = s.starting := rfl
@[simp] theorem State.modCluster_spareCores : (s.modCluster c f).spareCores = s.spareCores := rfl
@[simp] theorem State.modCluster_spareClusters : (s.modCluster c f).spareClusters = s.spareClusters := rfl
@[simp] theorem State.modCluster_spareRows : (s.modCluster c f).spareRows = s.spareRows := rfl
@[simp] theorem State.modCluster_spareLanes : (s.modCluster c f).spareLanes = s.spareLanes := rfl
@[simp] theorem State.modCluster_linkWidth : (s.modCluster c f).linkWidth = s.linkWidth := rfl
@[simp] theorem State.modCluster_reversed : (s.modCluster c f).reversed = s.reversed := rfl
@[simp] theorem State.modCluster_atsEn : (s.modCluster c f).atsEn = s.atsEn := rfl
@[simp] theorem State.modCluster_atc : (s.modCluster c f).atc = s.atc := rfl
@[simp] theorem State.modCluster_atsRefused : (s.modCluster c f).atsRefused = s.atsRefused := rfl
@[simp] theorem State.modCluster_msix : (s.modCluster c f).msix = s.msix := rfl
@[simp] theorem State.modCluster_hostData : (s.modCluster c f).hostData = s.hostData := rfl
@[simp] theorem State.modCluster_hostEp : (s.modCluster c f).hostEp = s.hostEp := rfl
@[simp] theorem State.modCluster_hostUr : (s.modCluster c f).hostUr = s.hostUr := rfl
@[simp] theorem State.modCluster_cur : (s.modCluster c f).cur = s.cur := rfl
@[simp] theorem State.modCluster_agenda : (s.modCluster c f).agenda = s.agenda := rfl
@[simp] theorem State.modCluster_fresh : (s.modCluster c f).fresh = s.fresh := rfl
@[simp] theorem State.modCluster_serial : (s.modCluster c f).serial = s.serial := rfl
@[simp] theorem State.modCluster_l2lines : (s.modCluster c f).l2lines = s.l2lines := rfl
@[simp] theorem State.modCluster_unacked : (s.modCluster c f).unacked = s.unacked := rfl
@[simp] theorem State.modCluster_heldOut : (s.modCluster c f).heldOut = s.heldOut := rfl
@[simp] theorem State.modCluster_targ : (s.modCluster c f).targ = s.targ := rfl
@[simp] theorem State.modCluster_bar2Log : (s.modCluster c f).bar2Log = s.bar2Log := rfl
@[simp] theorem State.modCluster_fused : (s.modCluster c f).fused = s.fused := rfl
@[simp] theorem State.modCluster_l2bad : (s.modCluster c f).l2bad = s.l2bad := rfl
end

/-! ### modCtx -/

section
variable (s : State) (c : Nat) (f : Context → Context)
@[simp] theorem State.modCtx_mem : (s.modCtx c f).mem = s.mem := rfl
@[simp] theorem State.modCtx_hostMem : (s.modCtx c f).hostMem = s.hostMem := rfl
@[simp] theorem State.modCtx_poison : (s.modCtx c f).poison = s.poison := rfl
@[simp] theorem State.modCtx_l2 : (s.modCtx c f).l2 = s.l2 := rfl
@[simp] theorem State.modCtx_clusters : (s.modCtx c f).clusters = s.clusters := rfl
@[simp] theorem State.modCtx_cores : (s.modCtx c f).cores = s.cores := rfl
@[simp] theorem State.modCtx_l2tlb : (s.modCtx c f).l2tlb = s.l2tlb := rfl
@[simp] theorem State.modCtx_keys : (s.modCtx c f).keys = s.keys := rfl
@[simp] theorem State.modCtx_queues : (s.modCtx c f).queues = s.queues := rfl
@[simp] theorem State.modCtx_launches : (s.modCtx c f).launches = s.launches := rfl
@[simp] theorem State.modCtx_teams : (s.modCtx c f).teams = s.teams := rfl
@[simp] theorem State.modCtx_groups : (s.modCtx c f).groups = s.groups := rfl
@[simp] theorem State.modCtx_colls : (s.modCtx c f).colls = s.colls := rfl
@[simp] theorem State.modCtx_migrations : (s.modCtx c f).migrations = s.migrations := rfl
@[simp] theorem State.modCtx_gens : (s.modCtx c f).gens = s.gens := rfl
@[simp] theorem State.modCtx_remotes : (s.modCtx c f).remotes = s.remotes := rfl
@[simp] theorem State.modCtx_floors : (s.modCtx c f).floors = s.floors := rfl
@[simp] theorem State.modCtx_locket : (s.modCtx c f).locket = s.locket := rfl
@[simp] theorem State.modCtx_redSlots : (s.modCtx c f).redSlots = s.redSlots := rfl
@[simp] theorem State.modCtx_gathered : (s.modCtx c f).gathered = s.gathered := rfl
@[simp] theorem State.modCtx_remoteLanes : (s.modCtx c f).remoteLanes = s.remoteLanes := rfl
@[simp] theorem State.modCtx_fabOut : (s.modCtx c f).fabOut = s.fabOut := rfl
@[simp] theorem State.modCtx_ports : (s.modCtx c f).ports = s.ports := rfl
@[simp] theorem State.modCtx_peerx : (s.modCtx c f).peerx = s.peerx := rfl
@[simp] theorem State.modCtx_peerInc : (s.modCtx c f).peerInc = s.peerInc := rfl
@[simp] theorem State.modCtx_rfen : (s.modCtx c f).rfen = s.rfen := rfl
@[simp] theorem State.modCtx_incarn : (s.modCtx c f).incarn = s.incarn := rfl
@[simp] theorem State.modCtx_rmax : (s.modCtx c f).rmax = s.rmax := rfl
@[simp] theorem State.modCtx_rto : (s.modCtx c f).rto = s.rto := rfl
@[simp] theorem State.modCtx_rlim : (s.modCtx c f).rlim = s.rlim := rfl
@[simp] theorem State.modCtx_drain : (s.modCtx c f).drain = s.drain := rfl
@[simp] theorem State.modCtx_tca0 : (s.modCtx c f).tca0 = s.tca0 := rfl
@[simp] theorem State.modCtx_tca1 : (s.modCtx c f).tca1 = s.tca1 := rfl
@[simp] theorem State.modCtx_tca2 : (s.modCtx c f).tca2 = s.tca2 := rfl
@[simp] theorem State.modCtx_tca3 : (s.modCtx c f).tca3 = s.tca3 := rfl
@[simp] theorem State.modCtx_genf : (s.modCtx c f).genf = s.genf := rfl
@[simp] theorem State.modCtx_tresult : (s.modCtx c f).tresult = s.tresult := rfl
@[simp] theorem State.modCtx_tbusy : (s.modCtx c f).tbusy = s.tbusy := rfl
@[simp] theorem State.modCtx_tcmd : (s.modCtx c f).tcmd = s.tcmd := rfl
@[simp] theorem State.modCtx_boot : (s.modCtx c f).boot = s.boot := rfl
@[simp] theorem State.modCtx_bootFail : (s.modCtx c f).bootFail = s.bootFail := rfl
@[simp] theorem State.modCtx_devnum : (s.modCtx c f).devnum = s.devnum := rfl
@[simp] theorem State.modCtx_repv : (s.modCtx c f).repv = s.repv := rfl
@[simp] theorem State.modCtx_qhv : (s.modCtx c f).qhv = s.qhv := rfl
@[simp] theorem State.modCtx_uev : (s.modCtx c f).uev = s.uev := rfl
@[simp] theorem State.modCtx_clv : (s.modCtx c f).clv = s.clv := rfl
@[simp] theorem State.modCtx_ilim : (s.modCtx c f).ilim = s.ilim := rfl
@[simp] theorem State.modCtx_clampCnt : (s.modCtx c f).clampCnt = s.clampCnt := rfl
@[simp] theorem State.modCtx_clampActive : (s.modCtx c f).clampActive = s.clampActive := rfl
@[simp] theorem State.modCtx_spArg : (s.modCtx c f).spArg = s.spArg := rfl
@[simp] theorem State.modCtx_spResult : (s.modCtx c f).spResult = s.spResult := rfl
@[simp] theorem State.modCtx_spCmd : (s.modCtx c f).spCmd = s.spCmd := rfl
@[simp] theorem State.modCtx_ueCnt : (s.modCtx c f).ueCnt = s.ueCnt := rfl
@[simp] theorem State.modCtx_ceCnt : (s.modCtx c f).ceCnt = s.ceCnt := rfl
@[simp] theorem State.modCtx_ueAddr : (s.modCtx c f).ueAddr = s.ueAddr := rfl
@[simp] theorem State.modCtx_badCnt : (s.modCtx c f).badCnt = s.badCnt := rfl
@[simp] theorem State.modCtx_wbase : (s.modCtx c f).wbase = s.wbase := rfl
@[simp] theorem State.modCtx_cxlBase : (s.modCtx c f).cxlBase = s.cxlBase := rfl
@[simp] theorem State.modCtx_cxlSize : (s.modCtx c f).cxlSize = s.cxlSize := rfl
@[simp] theorem State.modCtx_rathr : (s.modCtx c f).rathr = s.rathr := rfl
@[simp] theorem State.modCtx_rows : (s.modCtx c f).rows = s.rows := rfl
@[simp] theorem State.modCtx_islands : (s.modCtx c f).islands = s.islands := rfl
@[simp] theorem State.modCtx_mboxLen : (s.modCtx c f).mboxLen = s.mboxLen := rfl
@[simp] theorem State.modCtx_mboxDone : (s.modCtx c f).mboxDone = s.mboxDone := rfl
@[simp] theorem State.modCtx_mboxRespLen : (s.modCtx c f).mboxRespLen = s.mboxRespLen := rfl
@[simp] theorem State.modCtx_mbox : (s.modCtx c f).mbox = s.mbox := rfl
@[simp] theorem State.modCtx_chunks : (s.modCtx c f).chunks = s.chunks := rfl
@[simp] theorem State.modCtx_flash : (s.modCtx c f).flash = s.flash := rfl
@[simp] theorem State.modCtx_starting : (s.modCtx c f).starting = s.starting := rfl
@[simp] theorem State.modCtx_spareCores : (s.modCtx c f).spareCores = s.spareCores := rfl
@[simp] theorem State.modCtx_spareClusters : (s.modCtx c f).spareClusters = s.spareClusters := rfl
@[simp] theorem State.modCtx_spareRows : (s.modCtx c f).spareRows = s.spareRows := rfl
@[simp] theorem State.modCtx_spareLanes : (s.modCtx c f).spareLanes = s.spareLanes := rfl
@[simp] theorem State.modCtx_linkWidth : (s.modCtx c f).linkWidth = s.linkWidth := rfl
@[simp] theorem State.modCtx_reversed : (s.modCtx c f).reversed = s.reversed := rfl
@[simp] theorem State.modCtx_atsEn : (s.modCtx c f).atsEn = s.atsEn := rfl
@[simp] theorem State.modCtx_atc : (s.modCtx c f).atc = s.atc := rfl
@[simp] theorem State.modCtx_atsRefused : (s.modCtx c f).atsRefused = s.atsRefused := rfl
@[simp] theorem State.modCtx_msix : (s.modCtx c f).msix = s.msix := rfl
@[simp] theorem State.modCtx_hostData : (s.modCtx c f).hostData = s.hostData := rfl
@[simp] theorem State.modCtx_hostEp : (s.modCtx c f).hostEp = s.hostEp := rfl
@[simp] theorem State.modCtx_hostUr : (s.modCtx c f).hostUr = s.hostUr := rfl
@[simp] theorem State.modCtx_cur : (s.modCtx c f).cur = s.cur := rfl
@[simp] theorem State.modCtx_agenda : (s.modCtx c f).agenda = s.agenda := rfl
@[simp] theorem State.modCtx_fresh : (s.modCtx c f).fresh = s.fresh := rfl
@[simp] theorem State.modCtx_serial : (s.modCtx c f).serial = s.serial := rfl
@[simp] theorem State.modCtx_l2lines : (s.modCtx c f).l2lines = s.l2lines := rfl
@[simp] theorem State.modCtx_unacked : (s.modCtx c f).unacked = s.unacked := rfl
@[simp] theorem State.modCtx_heldOut : (s.modCtx c f).heldOut = s.heldOut := rfl
@[simp] theorem State.modCtx_targ : (s.modCtx c f).targ = s.targ := rfl
@[simp] theorem State.modCtx_bar2Log : (s.modCtx c f).bar2Log = s.bar2Log := rfl
@[simp] theorem State.modCtx_fused : (s.modCtx c f).fused = s.fused := rfl
@[simp] theorem State.modCtx_l2bad : (s.modCtx c f).l2bad = s.l2bad := rfl
end

/-! ### modQueue -/

section
variable (s : State) (q : Nat) (f : Queue → Queue)
@[simp] theorem State.modQueue_mem : (s.modQueue q f).mem = s.mem := rfl
@[simp] theorem State.modQueue_hostMem : (s.modQueue q f).hostMem = s.hostMem := rfl
@[simp] theorem State.modQueue_poison : (s.modQueue q f).poison = s.poison := rfl
@[simp] theorem State.modQueue_l2 : (s.modQueue q f).l2 = s.l2 := rfl
@[simp] theorem State.modQueue_clusters : (s.modQueue q f).clusters = s.clusters := rfl
@[simp] theorem State.modQueue_cores : (s.modQueue q f).cores = s.cores := rfl
@[simp] theorem State.modQueue_l2tlb : (s.modQueue q f).l2tlb = s.l2tlb := rfl
@[simp] theorem State.modQueue_keys : (s.modQueue q f).keys = s.keys := rfl
@[simp] theorem State.modQueue_ctxs : (s.modQueue q f).ctxs = s.ctxs := rfl
@[simp] theorem State.modQueue_launches : (s.modQueue q f).launches = s.launches := rfl
@[simp] theorem State.modQueue_teams : (s.modQueue q f).teams = s.teams := rfl
@[simp] theorem State.modQueue_groups : (s.modQueue q f).groups = s.groups := rfl
@[simp] theorem State.modQueue_colls : (s.modQueue q f).colls = s.colls := rfl
@[simp] theorem State.modQueue_migrations : (s.modQueue q f).migrations = s.migrations := rfl
@[simp] theorem State.modQueue_gens : (s.modQueue q f).gens = s.gens := rfl
@[simp] theorem State.modQueue_remotes : (s.modQueue q f).remotes = s.remotes := rfl
@[simp] theorem State.modQueue_floors : (s.modQueue q f).floors = s.floors := rfl
@[simp] theorem State.modQueue_locket : (s.modQueue q f).locket = s.locket := rfl
@[simp] theorem State.modQueue_redSlots : (s.modQueue q f).redSlots = s.redSlots := rfl
@[simp] theorem State.modQueue_gathered : (s.modQueue q f).gathered = s.gathered := rfl
@[simp] theorem State.modQueue_remoteLanes : (s.modQueue q f).remoteLanes = s.remoteLanes := rfl
@[simp] theorem State.modQueue_fabOut : (s.modQueue q f).fabOut = s.fabOut := rfl
@[simp] theorem State.modQueue_ports : (s.modQueue q f).ports = s.ports := rfl
@[simp] theorem State.modQueue_peerx : (s.modQueue q f).peerx = s.peerx := rfl
@[simp] theorem State.modQueue_peerInc : (s.modQueue q f).peerInc = s.peerInc := rfl
@[simp] theorem State.modQueue_rfen : (s.modQueue q f).rfen = s.rfen := rfl
@[simp] theorem State.modQueue_incarn : (s.modQueue q f).incarn = s.incarn := rfl
@[simp] theorem State.modQueue_rmax : (s.modQueue q f).rmax = s.rmax := rfl
@[simp] theorem State.modQueue_rto : (s.modQueue q f).rto = s.rto := rfl
@[simp] theorem State.modQueue_rlim : (s.modQueue q f).rlim = s.rlim := rfl
@[simp] theorem State.modQueue_drain : (s.modQueue q f).drain = s.drain := rfl
@[simp] theorem State.modQueue_tca0 : (s.modQueue q f).tca0 = s.tca0 := rfl
@[simp] theorem State.modQueue_tca1 : (s.modQueue q f).tca1 = s.tca1 := rfl
@[simp] theorem State.modQueue_tca2 : (s.modQueue q f).tca2 = s.tca2 := rfl
@[simp] theorem State.modQueue_tca3 : (s.modQueue q f).tca3 = s.tca3 := rfl
@[simp] theorem State.modQueue_genf : (s.modQueue q f).genf = s.genf := rfl
@[simp] theorem State.modQueue_tresult : (s.modQueue q f).tresult = s.tresult := rfl
@[simp] theorem State.modQueue_tbusy : (s.modQueue q f).tbusy = s.tbusy := rfl
@[simp] theorem State.modQueue_tcmd : (s.modQueue q f).tcmd = s.tcmd := rfl
@[simp] theorem State.modQueue_boot : (s.modQueue q f).boot = s.boot := rfl
@[simp] theorem State.modQueue_bootFail : (s.modQueue q f).bootFail = s.bootFail := rfl
@[simp] theorem State.modQueue_devnum : (s.modQueue q f).devnum = s.devnum := rfl
@[simp] theorem State.modQueue_repv : (s.modQueue q f).repv = s.repv := rfl
@[simp] theorem State.modQueue_qhv : (s.modQueue q f).qhv = s.qhv := rfl
@[simp] theorem State.modQueue_uev : (s.modQueue q f).uev = s.uev := rfl
@[simp] theorem State.modQueue_clv : (s.modQueue q f).clv = s.clv := rfl
@[simp] theorem State.modQueue_ilim : (s.modQueue q f).ilim = s.ilim := rfl
@[simp] theorem State.modQueue_clampCnt : (s.modQueue q f).clampCnt = s.clampCnt := rfl
@[simp] theorem State.modQueue_clampActive : (s.modQueue q f).clampActive = s.clampActive := rfl
@[simp] theorem State.modQueue_spArg : (s.modQueue q f).spArg = s.spArg := rfl
@[simp] theorem State.modQueue_spResult : (s.modQueue q f).spResult = s.spResult := rfl
@[simp] theorem State.modQueue_spCmd : (s.modQueue q f).spCmd = s.spCmd := rfl
@[simp] theorem State.modQueue_ueCnt : (s.modQueue q f).ueCnt = s.ueCnt := rfl
@[simp] theorem State.modQueue_ceCnt : (s.modQueue q f).ceCnt = s.ceCnt := rfl
@[simp] theorem State.modQueue_ueAddr : (s.modQueue q f).ueAddr = s.ueAddr := rfl
@[simp] theorem State.modQueue_badCnt : (s.modQueue q f).badCnt = s.badCnt := rfl
@[simp] theorem State.modQueue_wbase : (s.modQueue q f).wbase = s.wbase := rfl
@[simp] theorem State.modQueue_cxlBase : (s.modQueue q f).cxlBase = s.cxlBase := rfl
@[simp] theorem State.modQueue_cxlSize : (s.modQueue q f).cxlSize = s.cxlSize := rfl
@[simp] theorem State.modQueue_rathr : (s.modQueue q f).rathr = s.rathr := rfl
@[simp] theorem State.modQueue_rows : (s.modQueue q f).rows = s.rows := rfl
@[simp] theorem State.modQueue_islands : (s.modQueue q f).islands = s.islands := rfl
@[simp] theorem State.modQueue_mboxLen : (s.modQueue q f).mboxLen = s.mboxLen := rfl
@[simp] theorem State.modQueue_mboxDone : (s.modQueue q f).mboxDone = s.mboxDone := rfl
@[simp] theorem State.modQueue_mboxRespLen : (s.modQueue q f).mboxRespLen = s.mboxRespLen := rfl
@[simp] theorem State.modQueue_mbox : (s.modQueue q f).mbox = s.mbox := rfl
@[simp] theorem State.modQueue_chunks : (s.modQueue q f).chunks = s.chunks := rfl
@[simp] theorem State.modQueue_flash : (s.modQueue q f).flash = s.flash := rfl
@[simp] theorem State.modQueue_starting : (s.modQueue q f).starting = s.starting := rfl
@[simp] theorem State.modQueue_spareCores : (s.modQueue q f).spareCores = s.spareCores := rfl
@[simp] theorem State.modQueue_spareClusters : (s.modQueue q f).spareClusters = s.spareClusters := rfl
@[simp] theorem State.modQueue_spareRows : (s.modQueue q f).spareRows = s.spareRows := rfl
@[simp] theorem State.modQueue_spareLanes : (s.modQueue q f).spareLanes = s.spareLanes := rfl
@[simp] theorem State.modQueue_linkWidth : (s.modQueue q f).linkWidth = s.linkWidth := rfl
@[simp] theorem State.modQueue_reversed : (s.modQueue q f).reversed = s.reversed := rfl
@[simp] theorem State.modQueue_atsEn : (s.modQueue q f).atsEn = s.atsEn := rfl
@[simp] theorem State.modQueue_atc : (s.modQueue q f).atc = s.atc := rfl
@[simp] theorem State.modQueue_atsRefused : (s.modQueue q f).atsRefused = s.atsRefused := rfl
@[simp] theorem State.modQueue_msix : (s.modQueue q f).msix = s.msix := rfl
@[simp] theorem State.modQueue_hostData : (s.modQueue q f).hostData = s.hostData := rfl
@[simp] theorem State.modQueue_hostEp : (s.modQueue q f).hostEp = s.hostEp := rfl
@[simp] theorem State.modQueue_hostUr : (s.modQueue q f).hostUr = s.hostUr := rfl
@[simp] theorem State.modQueue_cur : (s.modQueue q f).cur = s.cur := rfl
@[simp] theorem State.modQueue_agenda : (s.modQueue q f).agenda = s.agenda := rfl
@[simp] theorem State.modQueue_fresh : (s.modQueue q f).fresh = s.fresh := rfl
@[simp] theorem State.modQueue_serial : (s.modQueue q f).serial = s.serial := rfl
@[simp] theorem State.modQueue_l2lines : (s.modQueue q f).l2lines = s.l2lines := rfl
@[simp] theorem State.modQueue_unacked : (s.modQueue q f).unacked = s.unacked := rfl
@[simp] theorem State.modQueue_heldOut : (s.modQueue q f).heldOut = s.heldOut := rfl
@[simp] theorem State.modQueue_targ : (s.modQueue q f).targ = s.targ := rfl
@[simp] theorem State.modQueue_bar2Log : (s.modQueue q f).bar2Log = s.bar2Log := rfl
@[simp] theorem State.modQueue_fused : (s.modQueue q f).fused = s.fused := rfl
@[simp] theorem State.modQueue_l2bad : (s.modQueue q f).l2bad = s.l2bad := rfl
end

/-! ### Group.setVal -/

section
variable (g : Group) (r : Nat) (v : RegVal)
@[simp] theorem Group.setVal_phase : (g.setVal r v).phase = g.phase := rfl
@[simp] theorem Group.setVal_core : (g.setVal r v).core = g.core := rfl
@[simp] theorem Group.setVal_gslot : (g.setVal r v).gslot = g.gslot := rfl
@[simp] theorem Group.setVal_width : (g.setVal r v).width = g.width := rfl
@[simp] theorem Group.setVal_nr : (g.setVal r v).nr = g.nr := rfl
@[simp] theorem Group.setVal_budget : (g.setVal r v).budget = g.budget := rfl
@[simp] theorem Group.setVal_divdepth : (g.setVal r v).divdepth = g.divdepth := rfl
@[simp] theorem Group.setVal_resident : (g.setVal r v).resident = g.resident := rfl
@[simp] theorem Group.setVal_preds : (g.setVal r v).preds = g.preds := rfl
@[simp] theorem Group.setVal_exited : (g.setVal r v).exited = g.exited := rfl
@[simp] theorem Group.setVal_p0 : (g.setVal r v).p0 = g.p0 := rfl
@[simp] theorem Group.setVal_p1 : (g.setVal r v).p1 = g.p1 := rfl
@[simp] theorem Group.setVal_stack : (g.setVal r v).stack = g.stack := rfl
@[simp] theorem Group.setVal_nextId : (g.setVal r v).nextId = g.nextId := rfl
@[simp] theorem Group.setVal_slots : (g.setVal r v).slots = g.slots := rfl
@[simp] theorem Group.setVal_soff : (g.setVal r v).soff = g.soff := rfl
@[simp] theorem Group.setVal_draw : (g.setVal r v).draw = g.draw := rfl
@[simp] theorem Group.setVal_counts : (g.setVal r v).counts = g.counts := rfl
@[simp] theorem Group.setVal_acs : (g.setVal r v).acs = g.acs := rfl
@[simp] theorem Group.setVal_perf : (g.setVal r v).perf = g.perf := rfl
@[simp] theorem Group.setVal_flight : (g.setVal r v).flight = g.flight := rfl
@[simp] theorem Group.setVal_trap : (g.setVal r v).trap = g.trap := rfl
@[simp] theorem Group.setVal_imprecise : (g.setVal r v).imprecise = g.imprecise := rfl
@[simp] theorem Group.setVal_inHandler : (g.setVal r v).inHandler = g.inHandler := rfl
@[simp] theorem Group.setVal_tframe : (g.setVal r v).tframe = g.tframe := rfl
@[simp] theorem Group.setVal_frame : (g.setVal r v).frame = g.frame := rfl
@[simp] theorem Group.setVal_preTrap : (g.setVal r v).preTrap = g.preTrap := rfl
@[simp] theorem Group.setVal_late : (g.setVal r v).late = g.late := rfl
@[simp] theorem Group.setVal_laterTraps : (g.setVal r v).laterTraps = g.laterTraps := rfl
@[simp] theorem Group.setVal_preqVisible : (g.setVal r v).preqVisible = g.preqVisible := rfl
@[simp] theorem Group.setVal_graceOver : (g.setVal r v).graceOver = g.graceOver := rfl
@[simp] theorem Group.setVal_image : (g.setVal r v).image = g.image := rfl
@[simp] theorem Group.setVal_used : (g.setVal r v).used = g.used := rfl
@[simp] theorem Group.setVal_useNo : (g.setVal r v).useNo = g.useNo := rfl
@[simp] theorem Group.setVal_lastSlot : (g.setVal r v).lastSlot = g.lastSlot := rfl
@[simp] theorem Group.setVal_lateTrap : (g.setVal r v).lateTrap = g.lateTrap := rfl
@[simp] theorem Group.setVal_lateSave : (g.setVal r v).lateSave = g.lateSave := rfl
@[simp] theorem Group.setVal_overSeen : (g.setVal r v).overSeen = g.overSeen := rfl
@[simp] theorem Group.setVal_beadSave : (g.setVal r v).beadSave = g.beadSave := rfl
@[simp] theorem Group.setVal_left : (g.setVal r v).left = g.left := rfl
end

/-! ### Group.setPred -/

section
variable (g : Group) (p : PredIx) (m v : Word)
@[simp] theorem Group.setPred_phase : (g.setPred p m v).phase = g.phase := rfl
@[simp] theorem Group.setPred_core : (g.setPred p m v).core = g.core := rfl
@[simp] theorem Group.setPred_gslot : (g.setPred p m v).gslot = g.gslot := rfl
@[simp] theorem Group.setPred_width : (g.setPred p m v).width = g.width := rfl
@[simp] theorem Group.setPred_nr : (g.setPred p m v).nr = g.nr := rfl
@[simp] theorem Group.setPred_budget : (g.setPred p m v).budget = g.budget := rfl
@[simp] theorem Group.setPred_divdepth : (g.setPred p m v).divdepth = g.divdepth := rfl
@[simp] theorem Group.setPred_regs : (g.setPred p m v).regs = g.regs := rfl
@[simp] theorem Group.setPred_resident : (g.setPred p m v).resident = g.resident := rfl
@[simp] theorem Group.setPred_exited : (g.setPred p m v).exited = g.exited := rfl
@[simp] theorem Group.setPred_p0 : (g.setPred p m v).p0 = g.p0 := rfl
@[simp] theorem Group.setPred_p1 : (g.setPred p m v).p1 = g.p1 := rfl
@[simp] theorem Group.setPred_stack : (g.setPred p m v).stack = g.stack := rfl
@[simp] theorem Group.setPred_nextId : (g.setPred p m v).nextId = g.nextId := rfl
@[simp] theorem Group.setPred_slots : (g.setPred p m v).slots = g.slots := rfl
@[simp] theorem Group.setPred_soff : (g.setPred p m v).soff = g.soff := rfl
@[simp] theorem Group.setPred_draw : (g.setPred p m v).draw = g.draw := rfl
@[simp] theorem Group.setPred_counts : (g.setPred p m v).counts = g.counts := rfl
@[simp] theorem Group.setPred_acs : (g.setPred p m v).acs = g.acs := rfl
@[simp] theorem Group.setPred_perf : (g.setPred p m v).perf = g.perf := rfl
@[simp] theorem Group.setPred_flight : (g.setPred p m v).flight = g.flight := rfl
@[simp] theorem Group.setPred_trap : (g.setPred p m v).trap = g.trap := rfl
@[simp] theorem Group.setPred_imprecise : (g.setPred p m v).imprecise = g.imprecise := rfl
@[simp] theorem Group.setPred_inHandler : (g.setPred p m v).inHandler = g.inHandler := rfl
@[simp] theorem Group.setPred_tframe : (g.setPred p m v).tframe = g.tframe := rfl
@[simp] theorem Group.setPred_frame : (g.setPred p m v).frame = g.frame := rfl
@[simp] theorem Group.setPred_preTrap : (g.setPred p m v).preTrap = g.preTrap := rfl
@[simp] theorem Group.setPred_late : (g.setPred p m v).late = g.late := rfl
@[simp] theorem Group.setPred_laterTraps : (g.setPred p m v).laterTraps = g.laterTraps := rfl
@[simp] theorem Group.setPred_preqVisible : (g.setPred p m v).preqVisible = g.preqVisible := rfl
@[simp] theorem Group.setPred_graceOver : (g.setPred p m v).graceOver = g.graceOver := rfl
@[simp] theorem Group.setPred_image : (g.setPred p m v).image = g.image := rfl
@[simp] theorem Group.setPred_used : (g.setPred p m v).used = g.used := rfl
@[simp] theorem Group.setPred_useNo : (g.setPred p m v).useNo = g.useNo := rfl
@[simp] theorem Group.setPred_lastSlot : (g.setPred p m v).lastSlot = g.lastSlot := rfl
@[simp] theorem Group.setPred_lateTrap : (g.setPred p m v).lateTrap = g.lateTrap := rfl
@[simp] theorem Group.setPred_lateSave : (g.setPred p m v).lateSave = g.lateSave := rfl
@[simp] theorem Group.setPred_overSeen : (g.setPred p m v).overSeen = g.overSeen := rfl
@[simp] theorem Group.setPred_beadSave : (g.setPred p m v).beadSave = g.beadSave := rfl
@[simp] theorem Group.setPred_left : (g.setPred p m v).left = g.left := rfl
end

/-! ### Group.bump -/

section
variable (g : Group) (n k : Nat)
@[simp] theorem Group.bump_phase : (g.bump n k).phase = g.phase := rfl
@[simp] theorem Group.bump_core : (g.bump n k).core = g.core := rfl
@[simp] theorem Group.bump_gslot : (g.bump n k).gslot = g.gslot := rfl
@[simp] theorem Group.bump_width : (g.bump n k).width = g.width := rfl
@[simp] theorem Group.bump_nr : (g.bump n k).nr = g.nr := rfl
@[simp] theorem Group.bump_budget : (g.bump n k).budget = g.budget := rfl
@[simp] theorem Group.bump_divdepth : (g.bump n k).divdepth = g.divdepth := rfl
@[simp] theorem Group.bump_regs : (g.bump n k).regs = g.regs := rfl
@[simp] theorem Group.bump_resident : (g.bump n k).resident = g.resident := rfl
@[simp] theorem Group.bump_preds : (g.bump n k).preds = g.preds := rfl
@[simp] theorem Group.bump_exited : (g.bump n k).exited = g.exited := rfl
@[simp] theorem Group.bump_p0 : (g.bump n k).p0 = g.p0 := rfl
@[simp] theorem Group.bump_p1 : (g.bump n k).p1 = g.p1 := rfl
@[simp] theorem Group.bump_stack : (g.bump n k).stack = g.stack := rfl
@[simp] theorem Group.bump_nextId : (g.bump n k).nextId = g.nextId := rfl
@[simp] theorem Group.bump_slots : (g.bump n k).slots = g.slots := rfl
@[simp] theorem Group.bump_soff : (g.bump n k).soff = g.soff := rfl
@[simp] theorem Group.bump_draw : (g.bump n k).draw = g.draw := rfl
@[simp] theorem Group.bump_counts : (g.bump n k).counts = g.counts := rfl
@[simp] theorem Group.bump_acs : (g.bump n k).acs = g.acs := rfl
@[simp] theorem Group.bump_flight : (g.bump n k).flight = g.flight := rfl
@[simp] theorem Group.bump_trap : (g.bump n k).trap = g.trap := rfl
@[simp] theorem Group.bump_imprecise : (g.bump n k).imprecise = g.imprecise := rfl
@[simp] theorem Group.bump_inHandler : (g.bump n k).inHandler = g.inHandler := rfl
@[simp] theorem Group.bump_tframe : (g.bump n k).tframe = g.tframe := rfl
@[simp] theorem Group.bump_frame : (g.bump n k).frame = g.frame := rfl
@[simp] theorem Group.bump_preTrap : (g.bump n k).preTrap = g.preTrap := rfl
@[simp] theorem Group.bump_late : (g.bump n k).late = g.late := rfl
@[simp] theorem Group.bump_laterTraps : (g.bump n k).laterTraps = g.laterTraps := rfl
@[simp] theorem Group.bump_preqVisible : (g.bump n k).preqVisible = g.preqVisible := rfl
@[simp] theorem Group.bump_graceOver : (g.bump n k).graceOver = g.graceOver := rfl
@[simp] theorem Group.bump_image : (g.bump n k).image = g.image := rfl
@[simp] theorem Group.bump_used : (g.bump n k).used = g.used := rfl
@[simp] theorem Group.bump_useNo : (g.bump n k).useNo = g.useNo := rfl
@[simp] theorem Group.bump_lastSlot : (g.bump n k).lastSlot = g.lastSlot := rfl
@[simp] theorem Group.bump_lateTrap : (g.bump n k).lateTrap = g.lateTrap := rfl
@[simp] theorem Group.bump_lateSave : (g.bump n k).lateSave = g.lateSave := rfl
@[simp] theorem Group.bump_overSeen : (g.bump n k).overSeen = g.overSeen := rfl
@[simp] theorem Group.bump_beadSave : (g.bump n k).beadSave = g.beadSave := rfl
@[simp] theorem Group.bump_left : (g.bump n k).left = g.left := rfl
end

/-! ### Group.setAc -/

section
variable (g : Group) (n v : Nat)
@[simp] theorem Group.setAc_phase : (g.setAc n v).phase = g.phase := rfl
@[simp] theorem Group.setAc_core : (g.setAc n v).core = g.core := rfl
@[simp] theorem Group.setAc_gslot : (g.setAc n v).gslot = g.gslot := rfl
@[simp] theorem Group.setAc_width : (g.setAc n v).width = g.width := rfl
@[simp] theorem Group.setAc_nr : (g.setAc n v).nr = g.nr := rfl
@[simp] theorem Group.setAc_budget : (g.setAc n v).budget = g.budget := rfl
@[simp] theorem Group.setAc_divdepth : (g.setAc n v).divdepth = g.divdepth := rfl
@[simp] theorem Group.setAc_regs : (g.setAc n v).regs = g.regs := rfl
@[simp] theorem Group.setAc_resident : (g.setAc n v).resident = g.resident := rfl
@[simp] theorem Group.setAc_preds : (g.setAc n v).preds = g.preds := rfl
@[simp] theorem Group.setAc_exited : (g.setAc n v).exited = g.exited := rfl
@[simp] theorem Group.setAc_p0 : (g.setAc n v).p0 = g.p0 := rfl
@[simp] theorem Group.setAc_p1 : (g.setAc n v).p1 = g.p1 := rfl
@[simp] theorem Group.setAc_stack : (g.setAc n v).stack = g.stack := rfl
@[simp] theorem Group.setAc_nextId : (g.setAc n v).nextId = g.nextId := rfl
@[simp] theorem Group.setAc_slots : (g.setAc n v).slots = g.slots := rfl
@[simp] theorem Group.setAc_soff : (g.setAc n v).soff = g.soff := rfl
@[simp] theorem Group.setAc_draw : (g.setAc n v).draw = g.draw := rfl
@[simp] theorem Group.setAc_counts : (g.setAc n v).counts = g.counts := rfl
@[simp] theorem Group.setAc_perf : (g.setAc n v).perf = g.perf := rfl
@[simp] theorem Group.setAc_flight : (g.setAc n v).flight = g.flight := rfl
@[simp] theorem Group.setAc_trap : (g.setAc n v).trap = g.trap := rfl
@[simp] theorem Group.setAc_imprecise : (g.setAc n v).imprecise = g.imprecise := rfl
@[simp] theorem Group.setAc_inHandler : (g.setAc n v).inHandler = g.inHandler := rfl
@[simp] theorem Group.setAc_tframe : (g.setAc n v).tframe = g.tframe := rfl
@[simp] theorem Group.setAc_frame : (g.setAc n v).frame = g.frame := rfl
@[simp] theorem Group.setAc_preTrap : (g.setAc n v).preTrap = g.preTrap := rfl
@[simp] theorem Group.setAc_late : (g.setAc n v).late = g.late := rfl
@[simp] theorem Group.setAc_laterTraps : (g.setAc n v).laterTraps = g.laterTraps := rfl
@[simp] theorem Group.setAc_preqVisible : (g.setAc n v).preqVisible = g.preqVisible := rfl
@[simp] theorem Group.setAc_graceOver : (g.setAc n v).graceOver = g.graceOver := rfl
@[simp] theorem Group.setAc_image : (g.setAc n v).image = g.image := rfl
@[simp] theorem Group.setAc_used : (g.setAc n v).used = g.used := rfl
@[simp] theorem Group.setAc_useNo : (g.setAc n v).useNo = g.useNo := rfl
@[simp] theorem Group.setAc_lastSlot : (g.setAc n v).lastSlot = g.lastSlot := rfl
@[simp] theorem Group.setAc_lateTrap : (g.setAc n v).lateTrap = g.lateTrap := rfl
@[simp] theorem Group.setAc_lateSave : (g.setAc n v).lateSave = g.lateSave := rfl
@[simp] theorem Group.setAc_overSeen : (g.setAc n v).overSeen = g.overSeen := rfl
@[simp] theorem Group.setAc_beadSave : (g.setAc n v).beadSave = g.beadSave := rfl
@[simp] theorem Group.setAc_left : (g.setAc n v).left = g.left := rfl
end

/-! ### Group.addCounts -/

section
variable (g : Group) (c : Counts)
@[simp] theorem Group.addCounts_phase : (g.addCounts c).phase = g.phase := rfl
@[simp] theorem Group.addCounts_core : (g.addCounts c).core = g.core := rfl
@[simp] theorem Group.addCounts_gslot : (g.addCounts c).gslot = g.gslot := rfl
@[simp] theorem Group.addCounts_width : (g.addCounts c).width = g.width := rfl
@[simp] theorem Group.addCounts_nr : (g.addCounts c).nr = g.nr := rfl
@[simp] theorem Group.addCounts_budget : (g.addCounts c).budget = g.budget := rfl
@[simp] theorem Group.addCounts_divdepth : (g.addCounts c).divdepth = g.divdepth := rfl
@[simp] theorem Group.addCounts_regs : (g.addCounts c).regs = g.regs := rfl
@[simp] theorem Group.addCounts_resident : (g.addCounts c).resident = g.resident := rfl
@[simp] theorem Group.addCounts_preds : (g.addCounts c).preds = g.preds := rfl
@[simp] theorem Group.addCounts_exited : (g.addCounts c).exited = g.exited := rfl
@[simp] theorem Group.addCounts_p0 : (g.addCounts c).p0 = g.p0 := rfl
@[simp] theorem Group.addCounts_p1 : (g.addCounts c).p1 = g.p1 := rfl
@[simp] theorem Group.addCounts_stack : (g.addCounts c).stack = g.stack := rfl
@[simp] theorem Group.addCounts_nextId : (g.addCounts c).nextId = g.nextId := rfl
@[simp] theorem Group.addCounts_slots : (g.addCounts c).slots = g.slots := rfl
@[simp] theorem Group.addCounts_soff : (g.addCounts c).soff = g.soff := rfl
@[simp] theorem Group.addCounts_draw : (g.addCounts c).draw = g.draw := rfl
@[simp] theorem Group.addCounts_acs : (g.addCounts c).acs = g.acs := rfl
@[simp] theorem Group.addCounts_perf : (g.addCounts c).perf = g.perf := rfl
@[simp] theorem Group.addCounts_flight : (g.addCounts c).flight = g.flight := rfl
@[simp] theorem Group.addCounts_trap : (g.addCounts c).trap = g.trap := rfl
@[simp] theorem Group.addCounts_imprecise : (g.addCounts c).imprecise = g.imprecise := rfl
@[simp] theorem Group.addCounts_inHandler : (g.addCounts c).inHandler = g.inHandler := rfl
@[simp] theorem Group.addCounts_tframe : (g.addCounts c).tframe = g.tframe := rfl
@[simp] theorem Group.addCounts_frame : (g.addCounts c).frame = g.frame := rfl
@[simp] theorem Group.addCounts_preTrap : (g.addCounts c).preTrap = g.preTrap := rfl
@[simp] theorem Group.addCounts_late : (g.addCounts c).late = g.late := rfl
@[simp] theorem Group.addCounts_laterTraps : (g.addCounts c).laterTraps = g.laterTraps := rfl
@[simp] theorem Group.addCounts_preqVisible : (g.addCounts c).preqVisible = g.preqVisible := rfl
@[simp] theorem Group.addCounts_graceOver : (g.addCounts c).graceOver = g.graceOver := rfl
@[simp] theorem Group.addCounts_image : (g.addCounts c).image = g.image := rfl
@[simp] theorem Group.addCounts_used : (g.addCounts c).used = g.used := rfl
@[simp] theorem Group.addCounts_useNo : (g.addCounts c).useNo = g.useNo := rfl
@[simp] theorem Group.addCounts_lastSlot : (g.addCounts c).lastSlot = g.lastSlot := rfl
@[simp] theorem Group.addCounts_lateTrap : (g.addCounts c).lateTrap = g.lateTrap := rfl
@[simp] theorem Group.addCounts_lateSave : (g.addCounts c).lateSave = g.lateSave := rfl
@[simp] theorem Group.addCounts_overSeen : (g.addCounts c).overSeen = g.overSeen := rfl
@[simp] theorem Group.addCounts_beadSave : (g.addCounts c).beadSave = g.beadSave := rfl
@[simp] theorem Group.addCounts_left : (g.addCounts c).left = g.left := rfl
end

/-! ### Group.advanceDraw -/

section
variable (g : Group) (m : Word)
@[simp] theorem Group.advanceDraw_phase : (g.advanceDraw m).phase = g.phase := rfl
@[simp] theorem Group.advanceDraw_core : (g.advanceDraw m).core = g.core := rfl
@[simp] theorem Group.advanceDraw_gslot : (g.advanceDraw m).gslot = g.gslot := rfl
@[simp] theorem Group.advanceDraw_width : (g.advanceDraw m).width = g.width := rfl
@[simp] theorem Group.advanceDraw_nr : (g.advanceDraw m).nr = g.nr := rfl
@[simp] theorem Group.advanceDraw_budget : (g.advanceDraw m).budget = g.budget := rfl
@[simp] theorem Group.advanceDraw_divdepth : (g.advanceDraw m).divdepth = g.divdepth := rfl
@[simp] theorem Group.advanceDraw_regs : (g.advanceDraw m).regs = g.regs := rfl
@[simp] theorem Group.advanceDraw_resident : (g.advanceDraw m).resident = g.resident := rfl
@[simp] theorem Group.advanceDraw_preds : (g.advanceDraw m).preds = g.preds := rfl
@[simp] theorem Group.advanceDraw_exited : (g.advanceDraw m).exited = g.exited := rfl
@[simp] theorem Group.advanceDraw_p0 : (g.advanceDraw m).p0 = g.p0 := rfl
@[simp] theorem Group.advanceDraw_p1 : (g.advanceDraw m).p1 = g.p1 := rfl
@[simp] theorem Group.advanceDraw_stack : (g.advanceDraw m).stack = g.stack := rfl
@[simp] theorem Group.advanceDraw_nextId : (g.advanceDraw m).nextId = g.nextId := rfl
@[simp] theorem Group.advanceDraw_slots : (g.advanceDraw m).slots = g.slots := rfl
@[simp] theorem Group.advanceDraw_soff : (g.advanceDraw m).soff = g.soff := rfl
@[simp] theorem Group.advanceDraw_counts : (g.advanceDraw m).counts = g.counts := rfl
@[simp] theorem Group.advanceDraw_acs : (g.advanceDraw m).acs = g.acs := rfl
@[simp] theorem Group.advanceDraw_perf : (g.advanceDraw m).perf = g.perf := rfl
@[simp] theorem Group.advanceDraw_flight : (g.advanceDraw m).flight = g.flight := rfl
@[simp] theorem Group.advanceDraw_trap : (g.advanceDraw m).trap = g.trap := rfl
@[simp] theorem Group.advanceDraw_imprecise : (g.advanceDraw m).imprecise = g.imprecise := rfl
@[simp] theorem Group.advanceDraw_inHandler : (g.advanceDraw m).inHandler = g.inHandler := rfl
@[simp] theorem Group.advanceDraw_tframe : (g.advanceDraw m).tframe = g.tframe := rfl
@[simp] theorem Group.advanceDraw_frame : (g.advanceDraw m).frame = g.frame := rfl
@[simp] theorem Group.advanceDraw_preTrap : (g.advanceDraw m).preTrap = g.preTrap := rfl
@[simp] theorem Group.advanceDraw_late : (g.advanceDraw m).late = g.late := rfl
@[simp] theorem Group.advanceDraw_laterTraps : (g.advanceDraw m).laterTraps = g.laterTraps := rfl
@[simp] theorem Group.advanceDraw_preqVisible : (g.advanceDraw m).preqVisible = g.preqVisible := rfl
@[simp] theorem Group.advanceDraw_graceOver : (g.advanceDraw m).graceOver = g.graceOver := rfl
@[simp] theorem Group.advanceDraw_image : (g.advanceDraw m).image = g.image := rfl
@[simp] theorem Group.advanceDraw_used : (g.advanceDraw m).used = g.used := rfl
@[simp] theorem Group.advanceDraw_useNo : (g.advanceDraw m).useNo = g.useNo := rfl
@[simp] theorem Group.advanceDraw_lastSlot : (g.advanceDraw m).lastSlot = g.lastSlot := rfl
@[simp] theorem Group.advanceDraw_lateTrap : (g.advanceDraw m).lateTrap = g.lateTrap := rfl
@[simp] theorem Group.advanceDraw_lateSave : (g.advanceDraw m).lateSave = g.lateSave := rfl
@[simp] theorem Group.advanceDraw_overSeen : (g.advanceDraw m).overSeen = g.overSeen := rfl
@[simp] theorem Group.advanceDraw_beadSave : (g.advanceDraw m).beadSave = g.beadSave := rfl
@[simp] theorem Group.advanceDraw_left : (g.advanceDraw m).left = g.left := rfl
end

/-! ### Group.fly -/

section
variable (g : Group) (f : InFlight)
@[simp] theorem Group.fly_phase : (g.fly f).phase = g.phase := rfl
@[simp] theorem Group.fly_core : (g.fly f).core = g.core := rfl
@[simp] theorem Group.fly_gslot : (g.fly f).gslot = g.gslot := rfl
@[simp] theorem Group.fly_width : (g.fly f).width = g.width := rfl
@[simp] theorem Group.fly_nr : (g.fly f).nr = g.nr := rfl
@[simp] theorem Group.fly_budget : (g.fly f).budget = g.budget := rfl
@[simp] theorem Group.fly_divdepth : (g.fly f).divdepth = g.divdepth := rfl
@[simp] theorem Group.fly_regs : (g.fly f).regs = g.regs := rfl
@[simp] theorem Group.fly_resident : (g.fly f).resident = g.resident := rfl
@[simp] theorem Group.fly_preds : (g.fly f).preds = g.preds := rfl
@[simp] theorem Group.fly_exited : (g.fly f).exited = g.exited := rfl
@[simp] theorem Group.fly_p0 : (g.fly f).p0 = g.p0 := rfl
@[simp] theorem Group.fly_p1 : (g.fly f).p1 = g.p1 := rfl
@[simp] theorem Group.fly_stack : (g.fly f).stack = g.stack := rfl
@[simp] theorem Group.fly_nextId : (g.fly f).nextId = g.nextId := rfl
@[simp] theorem Group.fly_slots : (g.fly f).slots = g.slots := rfl
@[simp] theorem Group.fly_soff : (g.fly f).soff = g.soff := rfl
@[simp] theorem Group.fly_draw : (g.fly f).draw = g.draw := rfl
@[simp] theorem Group.fly_counts : (g.fly f).counts = g.counts := rfl
@[simp] theorem Group.fly_acs : (g.fly f).acs = g.acs := rfl
@[simp] theorem Group.fly_perf : (g.fly f).perf = g.perf := rfl
@[simp] theorem Group.fly_trap : (g.fly f).trap = g.trap := rfl
@[simp] theorem Group.fly_imprecise : (g.fly f).imprecise = g.imprecise := rfl
@[simp] theorem Group.fly_inHandler : (g.fly f).inHandler = g.inHandler := rfl
@[simp] theorem Group.fly_tframe : (g.fly f).tframe = g.tframe := rfl
@[simp] theorem Group.fly_frame : (g.fly f).frame = g.frame := rfl
@[simp] theorem Group.fly_preTrap : (g.fly f).preTrap = g.preTrap := rfl
@[simp] theorem Group.fly_late : (g.fly f).late = g.late := rfl
@[simp] theorem Group.fly_laterTraps : (g.fly f).laterTraps = g.laterTraps := rfl
@[simp] theorem Group.fly_preqVisible : (g.fly f).preqVisible = g.preqVisible := rfl
@[simp] theorem Group.fly_graceOver : (g.fly f).graceOver = g.graceOver := rfl
@[simp] theorem Group.fly_image : (g.fly f).image = g.image := rfl
@[simp] theorem Group.fly_used : (g.fly f).used = g.used := rfl
@[simp] theorem Group.fly_useNo : (g.fly f).useNo = g.useNo := rfl
@[simp] theorem Group.fly_lastSlot : (g.fly f).lastSlot = g.lastSlot := rfl
@[simp] theorem Group.fly_lateTrap : (g.fly f).lateTrap = g.lateTrap := rfl
@[simp] theorem Group.fly_lateSave : (g.fly f).lateSave = g.lateSave := rfl
@[simp] theorem Group.fly_overSeen : (g.fly f).overSeen = g.overSeen := rfl
@[simp] theorem Group.fly_beadSave : (g.fly f).beadSave = g.beadSave := rfl
@[simp] theorem Group.fly_left : (g.fly f).left = g.left := rfl
end

/-! ### Group.land -/

section
variable (g : Group) (n : Nat)
@[simp] theorem Group.land_phase : (g.land n).phase = g.phase := rfl
@[simp] theorem Group.land_core : (g.land n).core = g.core := rfl
@[simp] theorem Group.land_gslot : (g.land n).gslot = g.gslot := rfl
@[simp] theorem Group.land_width : (g.land n).width = g.width := rfl
@[simp] theorem Group.land_nr : (g.land n).nr = g.nr := rfl
@[simp] theorem Group.land_budget : (g.land n).budget = g.budget := rfl
@[simp] theorem Group.land_divdepth : (g.land n).divdepth = g.divdepth := rfl
@[simp] theorem Group.land_regs : (g.land n).regs = g.regs := rfl
@[simp] theorem Group.land_resident : (g.land n).resident = g.resident := rfl
@[simp] theorem Group.land_preds : (g.land n).preds = g.preds := rfl
@[simp] theorem Group.land_exited : (g.land n).exited = g.exited := rfl
@[simp] theorem Group.land_p0 : (g.land n).p0 = g.p0 := rfl
@[simp] theorem Group.land_p1 : (g.land n).p1 = g.p1 := rfl
@[simp] theorem Group.land_stack : (g.land n).stack = g.stack := rfl
@[simp] theorem Group.land_nextId : (g.land n).nextId = g.nextId := rfl
@[simp] theorem Group.land_slots : (g.land n).slots = g.slots := rfl
@[simp] theorem Group.land_soff : (g.land n).soff = g.soff := rfl
@[simp] theorem Group.land_draw : (g.land n).draw = g.draw := rfl
@[simp] theorem Group.land_counts : (g.land n).counts = g.counts := rfl
@[simp] theorem Group.land_acs : (g.land n).acs = g.acs := rfl
@[simp] theorem Group.land_perf : (g.land n).perf = g.perf := rfl
@[simp] theorem Group.land_trap : (g.land n).trap = g.trap := rfl
@[simp] theorem Group.land_imprecise : (g.land n).imprecise = g.imprecise := rfl
@[simp] theorem Group.land_inHandler : (g.land n).inHandler = g.inHandler := rfl
@[simp] theorem Group.land_tframe : (g.land n).tframe = g.tframe := rfl
@[simp] theorem Group.land_frame : (g.land n).frame = g.frame := rfl
@[simp] theorem Group.land_preTrap : (g.land n).preTrap = g.preTrap := rfl
@[simp] theorem Group.land_late : (g.land n).late = g.late := rfl
@[simp] theorem Group.land_laterTraps : (g.land n).laterTraps = g.laterTraps := rfl
@[simp] theorem Group.land_preqVisible : (g.land n).preqVisible = g.preqVisible := rfl
@[simp] theorem Group.land_graceOver : (g.land n).graceOver = g.graceOver := rfl
@[simp] theorem Group.land_image : (g.land n).image = g.image := rfl
@[simp] theorem Group.land_used : (g.land n).used = g.used := rfl
@[simp] theorem Group.land_useNo : (g.land n).useNo = g.useNo := rfl
@[simp] theorem Group.land_lastSlot : (g.land n).lastSlot = g.lastSlot := rfl
@[simp] theorem Group.land_lateTrap : (g.land n).lateTrap = g.lateTrap := rfl
@[simp] theorem Group.land_lateSave : (g.land n).lateSave = g.lateSave := rfl
@[simp] theorem Group.land_overSeen : (g.land n).overSeen = g.overSeen := rfl
@[simp] theorem Group.land_beadSave : (g.land n).beadSave = g.beadSave := rfl
@[simp] theorem Group.land_left : (g.land n).left = g.left := rfl
end

/-! ### Group.touch -/

section
variable (g : Group) (rs : List Nat)
@[simp] theorem Group.touch_phase : (g.touch rs).phase = g.phase := by
  unfold Group.touch; split <;> rfl
@[simp] theorem Group.touch_core : (g.touch rs).core = g.core := by
  unfold Group.touch; split <;> rfl
@[simp] theorem Group.touch_gslot : (g.touch rs).gslot = g.gslot := by
  unfold Group.touch; split <;> rfl
@[simp] theorem Group.touch_width : (g.touch rs).width = g.width := by
  unfold Group.touch; split <;> rfl
@[simp] theorem Group.touch_nr : (g.touch rs).nr = g.nr := by
  unfold Group.touch; split <;> rfl
@[simp] theorem Group.touch_budget : (g.touch rs).budget = g.budget := by
  unfold Group.touch; split <;> rfl
@[simp] theorem Group.touch_divdepth : (g.touch rs).divdepth = g.divdepth := by
  unfold Group.touch; split <;> rfl
@[simp] theorem Group.touch_regs : (g.touch rs).regs = g.regs := by
  unfold Group.touch; split <;> rfl
@[simp] theorem Group.touch_preds : (g.touch rs).preds = g.preds := by
  unfold Group.touch; split <;> rfl
@[simp] theorem Group.touch_exited : (g.touch rs).exited = g.exited := by
  unfold Group.touch; split <;> rfl
@[simp] theorem Group.touch_p0 : (g.touch rs).p0 = g.p0 := by
  unfold Group.touch; split <;> rfl
@[simp] theorem Group.touch_p1 : (g.touch rs).p1 = g.p1 := by
  unfold Group.touch; split <;> rfl
@[simp] theorem Group.touch_stack : (g.touch rs).stack = g.stack := by
  unfold Group.touch; split <;> rfl
@[simp] theorem Group.touch_nextId : (g.touch rs).nextId = g.nextId := by
  unfold Group.touch; split <;> rfl
@[simp] theorem Group.touch_slots : (g.touch rs).slots = g.slots := by
  unfold Group.touch; split <;> rfl
@[simp] theorem Group.touch_soff : (g.touch rs).soff = g.soff := by
  unfold Group.touch; split <;> rfl
@[simp] theorem Group.touch_draw : (g.touch rs).draw = g.draw := by
  unfold Group.touch; split <;> rfl
@[simp] theorem Group.touch_counts : (g.touch rs).counts = g.counts := by
  unfold Group.touch; split <;> rfl
@[simp] theorem Group.touch_acs : (g.touch rs).acs = g.acs := by
  unfold Group.touch; split <;> rfl
@[simp] theorem Group.touch_perf : (g.touch rs).perf = g.perf := by
  unfold Group.touch; split <;> rfl
@[simp] theorem Group.touch_flight : (g.touch rs).flight = g.flight := by
  unfold Group.touch; split <;> rfl
@[simp] theorem Group.touch_trap : (g.touch rs).trap = g.trap := by
  unfold Group.touch; split <;> rfl
@[simp] theorem Group.touch_imprecise : (g.touch rs).imprecise = g.imprecise := by
  unfold Group.touch; split <;> rfl
@[simp] theorem Group.touch_inHandler : (g.touch rs).inHandler = g.inHandler := by
  unfold Group.touch; split <;> rfl
@[simp] theorem Group.touch_tframe : (g.touch rs).tframe = g.tframe := by
  unfold Group.touch; split <;> rfl
@[simp] theorem Group.touch_frame : (g.touch rs).frame = g.frame := by
  unfold Group.touch; split <;> rfl
@[simp] theorem Group.touch_preTrap : (g.touch rs).preTrap = g.preTrap := by
  unfold Group.touch; split <;> rfl
@[simp] theorem Group.touch_late : (g.touch rs).late = g.late := by
  unfold Group.touch; split <;> rfl
@[simp] theorem Group.touch_laterTraps : (g.touch rs).laterTraps = g.laterTraps := by
  unfold Group.touch; split <;> rfl
@[simp] theorem Group.touch_preqVisible : (g.touch rs).preqVisible = g.preqVisible := by
  unfold Group.touch; split <;> rfl
@[simp] theorem Group.touch_graceOver : (g.touch rs).graceOver = g.graceOver := by
  unfold Group.touch; split <;> rfl
@[simp] theorem Group.touch_image : (g.touch rs).image = g.image := by
  unfold Group.touch; split <;> rfl
@[simp] theorem Group.touch_resident : (g.touch rs).resident = g.resident := by
  unfold Group.touch; split <;> rfl
@[simp] theorem Group.touch_lastSlot : (g.touch rs).lastSlot = g.lastSlot := by
  unfold Group.touch; split <;> rfl
@[simp] theorem Group.touch_lateTrap : (g.touch rs).lateTrap = g.lateTrap := by
  unfold Group.touch; split <;> rfl
@[simp] theorem Group.touch_lateSave : (g.touch rs).lateSave = g.lateSave := by
  unfold Group.touch; split <;> rfl
@[simp] theorem Group.touch_overSeen : (g.touch rs).overSeen = g.overSeen := by
  unfold Group.touch; split <;> rfl
@[simp] theorem Group.touch_beadSave : (g.touch rs).beadSave = g.beadSave := by
  unfold Group.touch; split <;> rfl
@[simp] theorem Group.touch_left : (g.touch rs).left = g.left := by
  unfold Group.touch; split <;> rfl
end

/-! ### Team.setClasp -/

section
variable (t : Team) (n : Nat) (c : Clasp)
@[simp] theorem Team.setClasp_phase : (t.setClasp n c).phase = t.phase := rfl
@[simp] theorem Team.setClasp_clus : (t.setClasp n c).clus = t.clus := rfl
@[simp] theorem Team.setClasp_core : (t.setClasp n c).core = t.core := rfl
@[simp] theorem Team.setClasp_part : (t.setClasp n c).part = t.part := rfl
@[simp] theorem Team.setClasp_scratch : (t.setClasp n c).scratch = t.scratch := rfl
@[simp] theorem Team.setClasp_tmpls : (t.setClasp n c).tmpls = t.tmpls := rfl
@[simp] theorem Team.setClasp_queues : (t.setClasp n c).queues = t.queues := rfl
@[simp] theorem Team.setClasp_contrib : (t.setClasp n c).contrib = t.contrib := rfl
@[simp] theorem Team.setClasp_discarded : (t.setClasp n c).discarded = t.discarded := rfl
@[simp] theorem Team.setClasp_aged : (t.setClasp n c).aged = t.aged := rfl
@[simp] theorem Team.setClasp_completed : (t.setClasp n c).completed = t.completed := rfl
@[simp] theorem Team.setClasp_units : (t.setClasp n c).units = t.units := rfl
end

/-! ### Team.setQueue -/

section
variable (t : Team) (q : Nat) (c : CopyQueue)
@[simp] theorem Team.setQueue_phase : (t.setQueue q c).phase = t.phase := rfl
@[simp] theorem Team.setQueue_clus : (t.setQueue q c).clus = t.clus := rfl
@[simp] theorem Team.setQueue_core : (t.setQueue q c).core = t.core := rfl
@[simp] theorem Team.setQueue_part : (t.setQueue q c).part = t.part := rfl
@[simp] theorem Team.setQueue_scratch : (t.setQueue q c).scratch = t.scratch := rfl
@[simp] theorem Team.setQueue_clasps : (t.setQueue q c).clasps = t.clasps := rfl
@[simp] theorem Team.setQueue_tmpls : (t.setQueue q c).tmpls = t.tmpls := rfl
@[simp] theorem Team.setQueue_contrib : (t.setQueue q c).contrib = t.contrib := rfl
@[simp] theorem Team.setQueue_discarded : (t.setQueue q c).discarded = t.discarded := rfl
@[simp] theorem Team.setQueue_aged : (t.setQueue q c).aged = t.aged := rfl
@[simp] theorem Team.setQueue_completed : (t.setQueue q c).completed = t.completed := rfl
@[simp] theorem Team.setQueue_units : (t.setQueue q c).units = t.units := rfl
end

/-! ### Group.setPath -/

@[simp] theorem Group.setPath_phase (g : Group) (n : Nat) (p : Option Path) : (g.setPath n p).phase = g.phase := by
  by_cases h : n = 0 <;> simp only [Group.setPath, h, if_true, if_false]
@[simp] theorem Group.setPath_core (g : Group) (n : Nat) (p : Option Path) : (g.setPath n p).core = g.core := by
  by_cases h : n = 0 <;> simp only [Group.setPath, h, if_true, if_false]
@[simp] theorem Group.setPath_gslot (g : Group) (n : Nat) (p : Option Path) : (g.setPath n p).gslot = g.gslot := by
  by_cases h : n = 0 <;> simp only [Group.setPath, h, if_true, if_false]
@[simp] theorem Group.setPath_width (g : Group) (n : Nat) (p : Option Path) : (g.setPath n p).width = g.width := by
  by_cases h : n = 0 <;> simp only [Group.setPath, h, if_true, if_false]
@[simp] theorem Group.setPath_nr (g : Group) (n : Nat) (p : Option Path) : (g.setPath n p).nr = g.nr := by
  by_cases h : n = 0 <;> simp only [Group.setPath, h, if_true, if_false]
@[simp] theorem Group.setPath_budget (g : Group) (n : Nat) (p : Option Path) : (g.setPath n p).budget = g.budget := by
  by_cases h : n = 0 <;> simp only [Group.setPath, h, if_true, if_false]
@[simp] theorem Group.setPath_divdepth (g : Group) (n : Nat) (p : Option Path) : (g.setPath n p).divdepth = g.divdepth := by
  by_cases h : n = 0 <;> simp only [Group.setPath, h, if_true, if_false]
@[simp] theorem Group.setPath_regs (g : Group) (n : Nat) (p : Option Path) : (g.setPath n p).regs = g.regs := by
  by_cases h : n = 0 <;> simp only [Group.setPath, h, if_true, if_false]
@[simp] theorem Group.setPath_resident (g : Group) (n : Nat) (p : Option Path) : (g.setPath n p).resident = g.resident := by
  by_cases h : n = 0 <;> simp only [Group.setPath, h, if_true, if_false]
@[simp] theorem Group.setPath_preds (g : Group) (n : Nat) (p : Option Path) : (g.setPath n p).preds = g.preds := by
  by_cases h : n = 0 <;> simp only [Group.setPath, h, if_true, if_false]
@[simp] theorem Group.setPath_exited (g : Group) (n : Nat) (p : Option Path) : (g.setPath n p).exited = g.exited := by
  by_cases h : n = 0 <;> simp only [Group.setPath, h, if_true, if_false]
@[simp] theorem Group.setPath_stack (g : Group) (n : Nat) (p : Option Path) : (g.setPath n p).stack = g.stack := by
  by_cases h : n = 0 <;> simp only [Group.setPath, h, if_true, if_false]
@[simp] theorem Group.setPath_nextId (g : Group) (n : Nat) (p : Option Path) : (g.setPath n p).nextId = g.nextId := by
  by_cases h : n = 0 <;> simp only [Group.setPath, h, if_true, if_false]
@[simp] theorem Group.setPath_slots (g : Group) (n : Nat) (p : Option Path) : (g.setPath n p).slots = g.slots := by
  by_cases h : n = 0 <;> simp only [Group.setPath, h, if_true, if_false]
@[simp] theorem Group.setPath_soff (g : Group) (n : Nat) (p : Option Path) : (g.setPath n p).soff = g.soff := by
  by_cases h : n = 0 <;> simp only [Group.setPath, h, if_true, if_false]
@[simp] theorem Group.setPath_draw (g : Group) (n : Nat) (p : Option Path) : (g.setPath n p).draw = g.draw := by
  by_cases h : n = 0 <;> simp only [Group.setPath, h, if_true, if_false]
@[simp] theorem Group.setPath_counts (g : Group) (n : Nat) (p : Option Path) : (g.setPath n p).counts = g.counts := by
  by_cases h : n = 0 <;> simp only [Group.setPath, h, if_true, if_false]
@[simp] theorem Group.setPath_acs (g : Group) (n : Nat) (p : Option Path) : (g.setPath n p).acs = g.acs := by
  by_cases h : n = 0 <;> simp only [Group.setPath, h, if_true, if_false]
@[simp] theorem Group.setPath_perf (g : Group) (n : Nat) (p : Option Path) : (g.setPath n p).perf = g.perf := by
  by_cases h : n = 0 <;> simp only [Group.setPath, h, if_true, if_false]
@[simp] theorem Group.setPath_flight (g : Group) (n : Nat) (p : Option Path) : (g.setPath n p).flight = g.flight := by
  by_cases h : n = 0 <;> simp only [Group.setPath, h, if_true, if_false]
@[simp] theorem Group.setPath_trap (g : Group) (n : Nat) (p : Option Path) : (g.setPath n p).trap = g.trap := by
  by_cases h : n = 0 <;> simp only [Group.setPath, h, if_true, if_false]
@[simp] theorem Group.setPath_imprecise (g : Group) (n : Nat) (p : Option Path) : (g.setPath n p).imprecise = g.imprecise := by
  by_cases h : n = 0 <;> simp only [Group.setPath, h, if_true, if_false]
@[simp] theorem Group.setPath_inHandler (g : Group) (n : Nat) (p : Option Path) : (g.setPath n p).inHandler = g.inHandler := by
  by_cases h : n = 0 <;> simp only [Group.setPath, h, if_true, if_false]
@[simp] theorem Group.setPath_tframe (g : Group) (n : Nat) (p : Option Path) : (g.setPath n p).tframe = g.tframe := by
  by_cases h : n = 0 <;> simp only [Group.setPath, h, if_true, if_false]
@[simp] theorem Group.setPath_frame (g : Group) (n : Nat) (p : Option Path) : (g.setPath n p).frame = g.frame := by
  by_cases h : n = 0 <;> simp only [Group.setPath, h, if_true, if_false]
@[simp] theorem Group.setPath_preTrap (g : Group) (n : Nat) (p : Option Path) : (g.setPath n p).preTrap = g.preTrap := by
  by_cases h : n = 0 <;> simp only [Group.setPath, h, if_true, if_false]
@[simp] theorem Group.setPath_late (g : Group) (n : Nat) (p : Option Path) : (g.setPath n p).late = g.late := by
  by_cases h : n = 0 <;> simp only [Group.setPath, h, if_true, if_false]
@[simp] theorem Group.setPath_laterTraps (g : Group) (n : Nat) (p : Option Path) : (g.setPath n p).laterTraps = g.laterTraps := by
  by_cases h : n = 0 <;> simp only [Group.setPath, h, if_true, if_false]
@[simp] theorem Group.setPath_preqVisible (g : Group) (n : Nat) (p : Option Path) : (g.setPath n p).preqVisible = g.preqVisible := by
  by_cases h : n = 0 <;> simp only [Group.setPath, h, if_true, if_false]
@[simp] theorem Group.setPath_graceOver (g : Group) (n : Nat) (p : Option Path) : (g.setPath n p).graceOver = g.graceOver := by
  by_cases h : n = 0 <;> simp only [Group.setPath, h, if_true, if_false]
@[simp] theorem Group.setPath_image (g : Group) (n : Nat) (p : Option Path) : (g.setPath n p).image = g.image := by
  by_cases h : n = 0 <;> simp only [Group.setPath, h, if_true, if_false]
@[simp] theorem Group.setPath_used (g : Group) (n : Nat) (p : Option Path) : (g.setPath n p).used = g.used := by
  by_cases h : n = 0 <;> simp only [Group.setPath, h, if_true, if_false]
@[simp] theorem Group.setPath_useNo (g : Group) (n : Nat) (p : Option Path) : (g.setPath n p).useNo = g.useNo := by
  by_cases h : n = 0 <;> simp only [Group.setPath, h, if_true, if_false]
@[simp] theorem Group.setPath_lastSlot (g : Group) (n : Nat) (p : Option Path) : (g.setPath n p).lastSlot = g.lastSlot := by
  by_cases h : n = 0 <;> simp only [Group.setPath, h, if_true, if_false]
@[simp] theorem Group.setPath_lateTrap (g : Group) (n : Nat) (p : Option Path) : (g.setPath n p).lateTrap = g.lateTrap := by
  by_cases h : n = 0 <;> simp only [Group.setPath, h, if_true, if_false]
@[simp] theorem Group.setPath_lateSave (g : Group) (n : Nat) (p : Option Path) : (g.setPath n p).lateSave = g.lateSave := by
  by_cases h : n = 0 <;> simp only [Group.setPath, h, if_true, if_false]
@[simp] theorem Group.setPath_overSeen (g : Group) (n : Nat) (p : Option Path) : (g.setPath n p).overSeen = g.overSeen := by
  by_cases h : n = 0 <;> simp only [Group.setPath, h, if_true, if_false]
@[simp] theorem Group.setPath_beadSave (g : Group) (n : Nat) (p : Option Path) : (g.setPath n p).beadSave = g.beadSave := by
  by_cases h : n = 0 <;> simp only [Group.setPath, h, if_true, if_false]
@[simp] theorem Group.setPath_left (g : Group) (n : Nat) (p : Option Path) : (g.setPath n p).left = g.left := by
  by_cases h : n = 0 <;> simp only [Group.setPath, h, if_true, if_false]

end Sys2Proof.Machine
end

