-- ==== Sys2Proof/Tests/Slice0.lean ====
section
/-! SUPPORT. Tests: words written out from the manual's tables decode, ill-formed terms are refused, single steps, and
for every statement with hypotheses a state and operands that meet them. -/

namespace Sys2Proof.Tests

-- one theorem after another: each evaluates a machine
set_option Elab.async false

open Sys2Proof.Machine Sys2Proof.Claims

def g0 : Guard := { pg := 7, pn := false, k := false, rt := .none }
/-- guarded by p1 -/
def g1 : Guard := { g0 with pg := 1 }
def env0 : Env := { nr := 64, width := 64, clasps := 16 }

/-! ### Decoding: words written out bit by bit from 01 R18 to R26 and 02 R32 to R35 -/

theorem test_decode_control :
    decode env0 0x0 = .illegalWord 1
    ∧ decode env0 0xE00F = .illegalWord 2
    ∧ decode env0 0xE001 = .nop g0
    ∧ decode env0 0xFFFFFFFC0000000000014002 = .bra { pg := 2, pn := true, k := false, rt := .none } 0xFFFFFFFC
    ∧ decode env0 0x5000000003000E003 = .brc g0 (.reg 3) 5
    ∧ decode env0 0xC000000080000000000002004 = .brd { pg := 1, pn := false, k := false, rt := .none } 8 12
    ∧ decode env0 0xE005 = .join g0
    ∧ decode env0 0x20000000004000E006 = .brx g0 (.reg 4) 32
    ∧ decode env0 0xFFFFFFFE000000000030E007 = .call g0 6 0xFFFFFFFE
    ∧ decode env0 0x10040000007030E007 = .callTbl g0 6 (.reg 7) 16
    ∧ decode env0 0x6000E008 = .ret g0 (.reg 6)
    ∧ decode env0 0x6009 = .exit { pg := 3, pn := false, k := false, rt := .none }
    ∧ decode env0 0x123400000000000000000000E00A = .trap g0 0x1234
    ∧ decode env0 0xFF0000027FF000E00B = .pmark g0 0xFF (.reg 9)
    ∧ decode env0 0xE00C = .prog g0
    ∧ decode env0 0xE00D = .yield g0
    ∧ decode env0 0xE00E = .rte g0 := by decide +kernel

theorem test_decode_integer :
    decode env0 0x40001C06028E010 = .iadd g0 true 5 (.reg 6) (.reg 7)
    ∧ decode env0 0x40001C06028E011 = .isub g0 true 5 (.reg 6) (.reg 7)
    ∧ decode env0 0x40001C06028E012 = .imul g0 true 5 (.reg 6) (.reg 7)
    ∧ decode env0 0x40001C06028E01B = .and g0 true 5 (.reg 6) (.reg 7)
    ∧ decode env0 0x40001C06028E01C = .or g0 true 5 (.reg 6) (.reg 7)
    ∧ decode env0 0x40001C06028E01D = .xor g0 true 5 (.reg 6) (.reg 7)
    ∧ decode env0 0x40001C06028E01E = .andn g0 true 5 (.reg 6) (.reg 7)
    ∧ decode env0 0x40001C06028E020 = .shl g0 true 5 (.reg 6) (.reg 7)
    ∧ decode env0 0x40001C06028E021 = .shr g0 true 5 (.reg 6) (.reg 7)
    ∧ decode env0 0x40001C06028E022 = .sar g0 true 5 (.reg 6) (.reg 7)
    ∧ decode env0 0x40001C06028E023 = .rot g0 true 5 (.reg 6) (.reg 7)
    ∧ decode env0 0x40001C06028E027 = .bfx g0 true 5 (.reg 6) (.reg 7)
    ∧ decode env0 0x80001C06028E013 = .imulh g0 false true 5 (.reg 6) (.reg 7)
    ∧ decode env0 0x80001C06028E015 = .idiv g0 false true 5 (.reg 6) (.reg 7)
    ∧ decode env0 0x80001C06028E016 = .irem g0 false true 5 (.reg 6) (.reg 7)
    ∧ decode env0 0x80001C06028E017 = .imin g0 false true 5 (.reg 6) (.reg 7)
    ∧ decode env0 0x80001C06028E018 = .imax g0 false true 5 (.reg 6) (.reg 7)
    ∧ decode env0 0x80001C06028E02F = .isat g0 false true 5 (.reg 6) (.reg 7)
    ∧ decode env0 0x801C06028E014 = .imad g0 false 5 (.reg 6) (.reg 7) (.reg 8)
    ∧ decode env0 0x801C06028E028 = .bfi g0 false 5 (.reg 6) (.reg 7) (.reg 8)
    ∧ decode env0 0x801C06028E02E = .iaddc g0 false 5 (.reg 6) (.reg 7) (.reg 8)
    ∧ decode env0 0x201028E019 = .iabs g0 false 5 (.spec .lane)
    ∧ decode env0 0x201028E01A = .ineg g0 false 5 (.spec .lane)
    ∧ decode env0 0x201028E01F = .not g0 false 5 (.spec .lane)
    ∧ decode env0 0x201028E024 = .clz g0 false 5 (.spec .lane)
    ∧ decode env0 0x201028E025 = .popc g0 false 5 (.spec .lane)
    ∧ decode env0 0x201028E026 = .brev g0 false 5 (.spec .lane)
    ∧ decode env0 0x201028E02B = .mov g0 false 5 (.spec .lane)
    ∧ decode env0 0x123456789ABCDEF00800FFC06020E329 = .icmp g0 .le false true 4 (.reg 6) (.imm 0x123456789ABCDEF0)
    ∧ decode env0 0x201C06028E02A = .sel g0 false 5 (.reg 6) (.reg 7) 2
    ∧ decode env0 0x123456789ABCDEF00000003FF028E02C = .movi g0 false 5 0x123456789ABCDEF0
    ∧ decode env0 0xFFFFFFF8000000006028E02D = .lea g0 5 (.reg 6) 0xFFFFFFF8 := by decide +kernel

theorem test_decode_cross_lane :
    decode env0 0x5000000002008E030 = .vote g0 5 (.every 1 2)
    ∧ decode env0 0x4000000002008E130 = .vote g0 4 (.some 1 2)
    ∧ decode env0 0x3000000002048E230 = .vote g0 3 (.mask 9 2)
    ∧ decode env0 0x2000000009008E330 = .vote g0 2 (.same 1 (.reg 9))
    ∧ decode env0 0x1000000002048E430 = .vote g0 1 (.count 9 2)
    ∧ decode env0 0x5000000C02048E031 = .shfl g0 5 9 (.get (.reg 2) (.reg 3))
    ∧ decode env0 0x705000000002048E131 = .shfl g0 5 9 (.rot (.reg 2) 7)
    ∧ decode env0 0x105000300002048E231 = .shfl g0 5 9 (.slup (.reg 2) 1 (.reg 3))
    ∧ decode env0 0x3F05000300002048E331 = .shfl g0 5 9 (.sldn (.reg 2) 63 (.reg 3))
    ∧ decode env0 0x702000000002048E431 = .shfl g0 2 9 (.xor (.reg 2) 7)
    ∧ decode env0 0x60005040000002048E032 = .scan g0 5 .umin 0 true 9 (.reg 2)
    ∧ decode env0 0x80000000000002048E433 = .redl g0 0 .fadd 4 9 (.reg 2)
    ∧ decode env0 0x7048E034 = .pmov g0 9 7
    ∧ decode env0 0xC02008E335 = .pset g0 .andn 1 2 3
    ∧ decode env0 0x2048E036 = .shape g0 9 (.reg 2)
    ∧ decode env0 0x48E037 = .matz g0 9
    ∧ decode env0 0x48E238 = .getx g0 .depth 9 := by decide +kernel

theorem test_decode_floating_point :
    decode env0 0x1003010E940 = .fadd g0 9 2 (.reg 3) (.reg 4)
    ∧ decode env0 0x1003010E941 = .fsub g0 9 2 (.reg 3) (.reg 4)
    ∧ decode env0 0x1003010E942 = .fmul g0 9 2 (.reg 3) (.reg 4)
    ∧ decode env0 0x1003010E944 = .fmin g0 9 2 (.reg 3) (.reg 4)
    ∧ decode env0 0x1003010E945 = .fmax g0 9 2 (.reg 3) (.reg 4)
    ∧ decode env0 0x1003010E947 = .fclass g0 9 2 (.reg 3) (.reg 4)
    ∧ decode env0 0x1003010E94C = .fdiv g0 9 2 (.reg 3) (.reg 4)
    ∧ decode env0 0x1003010E952 = .fscl g0 9 2 (.reg 3) (.reg 4)
    ∧ decode env0 0x3010E94B = .frnd g0 9 2 (.reg 3)
    ∧ decode env0 0x3010E94D = .fsqrt g0 9 2 (.reg 3)
    ∧ decode env0 0x3010E94E = .frcp g0 9 2 (.reg 3)
    ∧ decode env0 0x3010E94F = .frsq g0 9 2 (.reg 3)
    ∧ decode env0 0x3010E950 = .fex2 g0 9 2 (.reg 3)
    ∧ decode env0 0x3010E951 = .flg2 g0 9 2 (.reg 3)
    ∧ decode env0 0x3010E954 = .fsum g0 9 2 (.reg 3)
    ∧ decode env0 0x501003010E943 = .ffma g0 9 2 (.reg 3) (.reg 4) (.reg 5)
    ∧ decode env0 0x180001003010E946 = .fcmp g0 .un 9 2 (.reg 3) (.reg 4)
    ∧ decode env0 0x20020080003010E148 = .fcvt g0 1 2 2 (.reg 3) (.spec .zero) (.spec .zero)
    ∧ decode env0 0x40000003010E149 = .f2i g0 1 true false 2 (.reg 3)
    ∧ decode env0 0x80000003010E14A = .i2f g0 1 false true 2 (.reg 3)
    ∧ decode env0 0x32000501003010E153 = .fdot g0 1 2 3 2 (.reg 3) (.reg 4) (.reg 5)
    ∧ decode env0 0x3000E755 = .fmtdef g0 7 (.reg 3)
    ∧ decode env0 0x18E756 = .fmtrd g0 7 3
    ∧ decode env0 0x3000E757 = .fseed g0 7 (.reg 3)
    ∧ decode env0 0x40000000018E058 = .fstat g0 true 3 := by decide +kernel

theorem test_decode_scaled_and_matrix :
    decode env0 0x8632000000008010E160 = .scq g0 1 2 3 .bk32 (some 16) 2 8
    ∧ decode env0 0x30000900008010E161 = .scdq g0 1 3 2 (.reg 8) (.reg 9)
    ∧ decode env0 0x103000002408010E162 = .scpk g0 1 3 .bk16 2 8 (.reg 9)
    ∧ decode env0 0xA400000900008010E163 = .scup g0 1 20 2 (.reg 8) (.reg 9)
    ∧ decode env0 0x32000002408010E164 = .bscl g0 1 2 3 2 (.reg 8) (.reg 9)
    ∧ decode env0 0xB00032000A02408010E1B0 = .mma g0 1 2 3 2 8 9 10 11
    ∧ decode env0 0xB00132000A02408010E1B1 = .mmas g0 1 2 3 .bk16 2 8 9 10 11
    ∧ decode env0 0xB00032000002408010E1B2 = .mmaz g0 1 2 3 2 8 9 11 := by decide +kernel

theorem test_decode_memory :
    decode env0 0x204000000100C0000006028E070 = .ld g0 .b64 .plain .grp .strm 5 { base := .reg 6, seg := 4, pair := false, off := 0x10 }
    ∧ decode env0 0x3100FFFFFFF0100000006040E070 = .ld g0 .b128 .acq .dev .dflt 8 { base := .reg 6, seg := 0, pair := true, off := 0xFFFFFFF0 }
    ∧ decode env0 0x5E0400000010040001C06000E071 = .st g0 .b16 .rel .sys .byp { base := .reg 6, seg := 4, pair := false, off := 0x10 } (.reg 7)
    ∧ decode env0 0x58000400000010040700006028E072 = .ldp g0 true 11 .dflt 5 { base := .reg 6, seg := 4, pair := false, off := 0x10 } (.reg 7)
    ∧ decode env0 0x58000400000010000702006000E073 = .stp g0 11 .dflt { base := .reg 6, seg := 4, pair := false, off := 0x10 } (.reg 8) (.reg 7)
    ∧ decode env0 0x68004000000101C0000006028E074 = .ldi g0 .x32 13 .dflt 5 { base := .reg 6, seg := 4, pair := false, off := 0x10 }
    ∧ decode env0 0x3F0000000D000000000000E075 = .waitac g0 13 63
    ∧ decode env0 0x140400000010000000006000E076 = .pref g0 .dev .stky { base := .reg 6, seg := 4, pair := false, off := 0x10 }
    ∧ decode env0 0x180400000010000000006000E077 = .cinv g0 .sys { base := .reg 6, seg := 4, pair := false, off := 0x10 }
    ∧ decode env0 0x80400000010000000006000E078 = .cwb g0 .team { base := .reg 6, seg := 4, pair := false, off := 0x10 }
    ∧ decode env0 0x400000010000704006000E279 = .stz g0 2 .dflt { base := .reg 6, seg := 4, pair := false, off := 0x10 } 16 (.reg 7)
    ∧ decode env0 0x400000010000700006080E27A = .ldz g0 2 .dflt 16 { base := .reg 6, seg := 4, pair := false, off := 0x10 } (.reg 7)
    ∧ decode env0 0x3080000006080E07B = .ldq g0 .b32 16 (.reg 6) 3
    ∧ decode env0 0x3080001C06000E07C = .stq g0 .b32 (.reg 6) 3 (.reg 7)
    ∧ decode env0 0x680000000000000000000000E07D = .fence g0 .ar .team
    ∧ decode env0 0x810000000000000000E07E = .qfence g0 0x81
    ∧ decode env0 0x400000010000700006080E27F = .ldfr g0 2 .dflt 16 { base := .reg 6, seg := 4, pair := false, off := 0x10 } (.reg 7)
    ∧ decode env0 0x400000010000704006000E2B3 = .stfr g0 2 .dflt { base := .reg 6, seg := 4, pair := false, off := 0x10 } 16 (.reg 7) := by decide +kernel

theorem test_decode_atomic_and_clasp :
    decode env0 0x700400000010840001C06028E090 = .atom g0 .exch true 0 .ar .dev 5 { base := .reg 6, seg := 4, pair := false, off := 0x10 } (.reg 7)
    ∧ decode env0 0x400000010900001C06000E291 = .red g0 .fadd false 2 .plain .grp { base := .reg 6, seg := 4, pair := false, off := 0x10 } (.reg 7)
    ∧ decode env0 0x200400000010040801C06028E092 = .acas g0 true .acq .grp 5 { base := .reg 6, seg := 4, pair := false, off := 0x10 } (.reg 7) (.reg 8)
    ∧ decode env0 0xE193 = .bead g0 true
    ∧ decode env0 0x3000000006000E0A0 = .clinit g0 3 (.reg 6)
    ∧ decode env0 0x3000000006000E0A2 = .clwait g0 3 (.reg 6)
    ∧ decode env0 0x3000000006000E0A3 = .clsync g0 3 (.reg 6)
    ∧ decode env0 0x3000000006000E0A4 = .clexp g0 3 (.reg 6)
    ∧ decode env0 0x3000000006028E0A1 = .clarr g0 5 3 (.reg 6)
    ∧ decode env0 0x100000003000000000028E0A5 = .clrd g0 5 3 true := by decide +kernel

theorem test_decode_engine_and_system :
    decode env0 0x40000003F000000006000E0C0 = .tmpl g0 63 4 (.reg 6)
    ∧ decode env0 0x400000000040000006000E0C1 = .coll g0 .red true 4 (.reg 6)
    ∧ decode env0 0x400000000040000006000E1C1 = .illegalWord 5
    ∧ decode env0 0x70400000000000000006000E0C2 = .launch g0 4 7 (.reg 6)
    ∧ decode env0 0x1F000000000028E3C3 = .bankm g0 .strand 5 31
    ∧ decode env0 0x20000000000028E0C4 = .engst g0 5 0x20
    ∧ decode env0 0x7000000000028E0E0 = .ctlr g0 5 7
    ∧ decode env0 0x1000000006000E0E1 = .ctlw g0 1 (.reg 6)
    ∧ decode env0 0x28E0E2 = .rdcyc g0 5
    ∧ decode env0 0x100040000000028E0E3 = .perf g0 true 5 0x100 := by decide +kernel

/-! ### Ill-formed terms, one for each check of WellFormed.lean -/

def mem0 : Addr := { base := .reg 6, seg := 4, pair := false, off := 0x10 }

theorem test_wellFormed_registers :
    wellFormed env0 (.iadd g0 false 1 (.reg 2) (.reg 63)) = true
    ∧ wellFormed env0 (.iadd g0 false 64 (.reg 2) (.reg 3)) = false
    ∧ wellFormed env0 (.iadd g0 false 1 (.reg 64) (.reg 3)) = false
    ∧ wellFormed env0 (.iadd g0 false 1 (.imm 2) (.imm 3)) = false
    ∧ wellFormed env0 (.mov g0 false 1 (.imm 2)) = false
    ∧ wellFormed env0 (.icmp g0 .eq false false 7 (.reg 2) (.reg 3)) = false
    ∧ wellFormed env0 (.illegalWord 1) = false := by decide +kernel

theorem test_wellFormed_guard :
    wellFormed env0 (.nop { g0 with pn := true }) = false
    ∧ wellFormed env0 (.nop { g0 with rt := .a }) = false
    ∧ wellFormed env0 (.iadd { g0 with rt := .c } false 1 (.reg 2) (.reg 3)) = false
    ∧ wellFormed env0 (.iabs { g0 with rt := .b } false 1 (.reg 2)) = false
    ∧ wellFormed env0 (.join g1) = false
    ∧ wellFormed env0 (.shfl { g0 with rt := .b } 5 9 (.rot (.reg 2) 7)) = false := by decide +kernel

theorem test_wellFormed_lanes :
    wellFormed env0 (.vote g0 6 (.every 1 2)) = false
    ∧ wellFormed { env0 with width := 8 } (.vote g0 3 (.every 1 2)) = false
    ∧ wellFormed env0 (.vote g0 5 (.every 7 2)) = false
    ∧ wellFormed env0 (.shfl g0 5 9 (.rot (.reg 2) 64)) = false
    ∧ wellFormed env0 (.shfl g0 1 9 (.xor (.reg 2) 4)) = false
    ∧ wellFormed env0 (.scan g0 5 .add 1 true 9 (.reg 2)) = false := by decide +kernel

theorem test_wellFormed_memory :
    wellFormed env0 (.ld g0 .b128 .plain .grp .dflt 5 mem0) = false
    ∧ wellFormed env0 (.ld g0 .b64 .plain .grp .dflt 5 { mem0 with pair := true }) = false
    ∧ wellFormed env0 (.ld g0 .b64 .plain .grp .dflt 5 { mem0 with pair := true, seg := 0, base := .reg 63 }) = false
    ∧ wellFormed env0 (.ld g0 .b64 .plain .dev .dflt 5 mem0) = false
    ∧ wellFormed env0 (.ld g0 .b64 .rel .dev .dflt 5 mem0) = false
    ∧ wellFormed env0 (.st g0 .x8 .plain .grp .dflt mem0 (.reg 7)) = false
    ∧ wellFormed env0 (.st g0 .b128 .plain .grp .dflt mem0 (.spec .zero)) = false
    ∧ wellFormed env0 (.ldi g0 .b128 3 .dflt 6 mem0) = false
    ∧ wellFormed env0 (.pref g0 .sys .dflt mem0) = false
    ∧ wellFormed env0 (.cwb g0 .grp mem0) = false
    ∧ wellFormed env0 (.stq g0 .x32 (.reg 6) 3 (.reg 7)) = false
    ∧ wellFormed env0 (.fence g0 .plain .dev) = false
    ∧ wellFormed env0 (.qfence g0 0) = false := by decide +kernel

theorem test_wellFormed_other :
    wellFormed env0 (.red g0 .exch true 0 .plain .grp mem0 (.reg 7)) = false
    ∧ wellFormed env0 (.red g0 .add true 1 .plain .grp mem0 (.reg 7)) = false
    ∧ wellFormed env0 (.red g0 .add true 0 .acq .grp mem0 (.reg 7)) = false
    ∧ wellFormed { env0 with clasps := 3 } (.clinit g0 3 (.reg 6)) = false
    ∧ wellFormed env0 (.coll g0 .gath true 4 (.reg 6)) = false
    ∧ wellFormed env0 (.engst g0 5 8) = false
    ∧ wellFormed env0 (.ctlr g0 5 8) = false
    ∧ wellFormed env0 (.perf g0 false 5 0x103) = false := by decide +kernel

/-! ### A small machine: one group of eight lanes -/

/-- A page-table leaf of a 64 KiB page that permits all, with ACC and DIRTY set (15 R321). -/
def leaf (tier frame : Nat) : BitVec 128 := BitVec.ofNat 128 (frame * 65536 + 0x600 + 0xF + tier * 16)

def page (seg : BitVec 8) (n tier frame : Nat) : TlbEntry where
  ctx := 0
  asid := 0
  seg := seg
  base := 65536 * n
  size := 65536
  leaf := leaf tier frame

def rec8 : LaunchRec := { oneLaunch with width := 8, nr := 64, budget := 16, scru := 4, divdepth := 4 }

def launch8 : Launch where
  ctx := 0
  queue := 0
  lrec := rec8
  npred := []
  succs := []
  retiredCount := 0
  bead := 0
  runq := []
  status := none
  killed := false

def ramp (n k : Nat) : RegVal := .general ((List.range 8).map (fun i => BitVec.ofNat 64 (n + k * i)))

/-- v1 is 64, v2 is 8 · lane, v3 differs in every lane, v4 is 5, v5 is 0; p1 holds in lanes 0 to 3, p2 in none. -/
def group8 : Group :=
  { newGroup rec8 oneCore 0 with
    regs := [(1, .uniform 64), (2, .affine 0 8), (3, ramp 3 5), (4, .uniform 5)]
    resident := [3]
    preds := [(1, 0x0F)] }

def ctx8 : Context := { Context.reset with trapvec := 0x10, trapBase := 0x200000, gcaBase := 0x300000, tcaBase := 0x400000 }

/-- Segment 0x10 maps page 0 to frame 1 of tier 0 and page 1 to host memory; code lies at 0 of segment 0. -/
def core8 : Core := { Core.reset with tlb := [page 0 0 0 0, page 0x10 0 0 1, page 0x10 1 3 2] }

def base : State :=
  { State.reset with
    boot := 2
    mem := [(0x10000, 0x11), (0x10041, 0x22)]
    ctxs := [(0, ctx8)]
    launches := [(0, launch8)]
    teams := [(oneTeam, newTeam { clus := 0, cores := [0], units := [(0, 0, 4)] })]
    groups := [(oneGroup, group8)]
    cores := [(oneCore, core8)] }

def withG (f : Group → Group) : State := base.modGroup oneGroup f
def withP (f : Path → Path) : State := withG (fun g => { g with p0 := g.p0.map f })
def withT (f : Team → Team) : State := base.modTeam oneTeam f
def withL (f : LaunchRec → LaunchRec) : State := base.modLaunch 0 (fun l => { l with lrec := f l.lrec })

def Outcome.next? : Host.Outcome State Fault Refusal → Option State
  | .next t => some t
  | .fault _ => none
  | .refused _ => none

/-- What holds of the group after the step. -/
def after (i : Instr) (s : State) (p : Group → Bool) : Bool :=
  match Outcome.next? (exec i s) with
  | some t => (t.group? oneGroup).any p
  | none => false

/-- What holds of the state after the step. -/
def next (i : Instr) (s : State) (p : State → Bool) : Bool := (Outcome.next? (exec i s)).any p

/-- `Ready`, and p of the word's surroundings. -/
def ready (s : State) (w : Guard) (u : Uses) (p : Cx → Bool) : Bool :=
  match s.cx? w u with
  | some cx => (badSlot cx.g u.slots).isNone && (cx.g.hazard u.named).isNone
      && !u.writes.any (s.capturing cx.gid cx.g) && s.memoryOk && s.tidy && p cx
  | none => false

/-- `ready` is what it says: it gives surroundings in which `Ready` and p hold. -/
theorem ready_sound {s : State} {w : Guard} {u : Uses} {p : Cx → Bool} (h : ready s w u p = true) :
    ∃ cx, Ready s w u cx ∧ p cx = true := by
  unfold ready at h
  split at h
  · rename_i cx hc
    simp only [Bool.and_eq_true, Option.isNone_iff_eq_none, Bool.not_eq_true'] at h
    exact ⟨cx, ⟨hc, h.1.1.1.1.1, h.1.1.1.1.2, h.1.1.1.2, h.1.1.2, h.1.2⟩, h.2⟩
  · cases h

/-- Where no page has moved, every byte lies where its address says. -/
theorem redirect_still {s : State} (h : s.migrations = []) (p : Nat) : s.redirect p = p := by
  simp [State.redirect, redirectBy, h]

theorem apart_still {s : State} (h : s.migrations = []) (a n : Nat) : Claims.apart s a n := by
  intro x y _ _ _ _ hxy
  simpa [redirect_still h] using hxy

/-- `ReadyRuns`, and p of the word's surroundings. -/
def readyRuns (s : State) (w : Guard) (u : Uses) (m : Cx → Members) (p : Cx → Bool) : Bool :=
  ready s w u (fun cx => (cx.g.hazard (m cx).all).isNone && !(m cx).writes.any (s.capturing cx.gid cx.g) && p cx)

/-- `readyRuns` is what it says: it gives surroundings in which `ReadyRuns` and p hold. -/
theorem readyRuns_sound {s : State} {w : Guard} {u : Uses} {m : Cx → Members} {p : Cx → Bool}
    (h : readyRuns s w u m p = true) : ∃ cx, ReadyRuns s w u (m cx) cx ∧ p cx = true := by
  obtain ⟨cx, hr, hp⟩ := ready_sound h
  simp only [Bool.and_eq_true, Option.isNone_iff_eq_none, Bool.not_eq_true'] at hp
  exact ⟨cx, { toReady := hr, runsFree := hp.1.1, runsUncaptured := hp.1.2 }, hp.2⟩

/-! ### Single steps -/

def v (g : Group) (r l : Nat) : Word := (g.val r).lane l

/-- 03 R41, R44: .w adds modulo 2^32 and sign-extends; a register may be source and destination. -/
theorem test_iadd_w_wraps :
    after (.iadd g0 true 1 (.reg 1) (.imm 0x7FFFFFC0)) base (fun g => v g 1 0 == 0xFFFFFFFF80000000) = true := by decide +kernel

/-- 03 R42: uniform times affine stays affine. -/
theorem test_imul_affine :
    after (.imul g0 false 9 (.reg 2) (.reg 4)) base (fun g => g.val 9 == .affine 0 40) = true := by decide +kernel

/-- 03 R44: division by 0 gives 0, and the remainder the dividend; the most negative number by −1 wraps. -/
theorem test_division_corners :
    after (.idiv g0 false false 9 (.reg 1) (.spec .zero)) base (fun g => v g 9 3 == 0) = true
    ∧ after (.irem g0 false false 9 (.reg 1) (.spec .zero)) base (fun g => v g 9 3 == 64) = true
    ∧ after (.idiv g0 false false 9 (.spec .sign) (.spec .ones)) base (fun g => v g 9 3 == 0x8000000000000000) = true := by
  decide +kernel

/-- 03 R46: a shift by the width or more gives 0, an arithmetic one the sign. -/
theorem test_wide_shifts :
    after (.shl g0 true 9 (.reg 4) (.imm 32)) base (fun g => v g 9 0 == 0) = true
    ∧ after (.sar g0 false 9 (.spec .sign) (.imm 64)) base (fun g => v g 9 0 == 0xFFFFFFFFFFFFFFFF) = true
    ∧ after (.rot g0 true 9 (.imm 0x80000001) (.reg 4)) base (fun g => v g 9 0 == 0x30) = true := by decide +kernel

/-- 08 R193: a guarded write keeps the other lanes and makes the register general; 03 R53: exit under a guard. -/
theorem test_guarded_write :
    after (.mov g1 false 4 (.reg 1)) base (fun g => v g 4 3 == 64 && v g 4 4 == 5 && (g.val 4).isGeneral) = true
    ∧ after (.exit g1) base (fun g => g.exited == 0x0F && g.p0.any (fun p => p.mask == 0xF0 && p.pc == 16)) = true := by
  decide +kernel

/-- 03 R52, R56: brd splits; the lanes not taken go on. -/
theorem test_brd_splits :
    after (.brd g1 8 12) base (fun g => g.p0.any (fun p => p.pc == 16 && p.mask == 0xF0)
      && g.p1.any (fun p => p.pc == 128 && p.mask == 0x0F) && g.stack == [.reconv 0 192 0xFF 0 none]) = true := by decide +kernel

/-- 03 R63, R65: vote.count over a span of 4, and an exclusive integer scan. -/
theorem test_cross_lane :
    after (.vote g0 1 (.count 9 1)) base (fun g => v g 9 0 == 4 && v g 9 4 == 0) = true
    ∧ after (.scan g0 1 .add 0 true 9 (.reg 3)) base (fun g => v g 9 2 == 11 && v g 9 4 == 0) = true := by decide +kernel

/-- 04 R86: 1.5 + 0.25 in binary64, and 1/0 is infinite and counted (R86, R81). -/
theorem test_float :
    after (.fadd g0 0 9 (.imm 0x3FF8000000000000) (.reg 10))
      (withG (fun g => g.setVal 10 (.uniform 0x3FD0000000000000))) (fun g => v g 9 7 == 0x3FFC000000000000) = true
    ∧ after (.frcp g0 0 9 (.spec .zero)) base (fun g => v g 9 0 == 0x7FF0000000000000) = true := by decide +kernel

/-- 05 R105, 01 R28: a load is in flight until its reply. -/
theorem test_load :
    after (.ld g0 .b8 .plain .grp .dflt 9 { base := .reg 1, seg := 0x10, pair := false, off := 1 }) base
      (fun g => g.val 9 == .unwritten && (g.flight.any (fun f => f.kind == .load && f.dests == [9]
        && f.writes.any (fun w => w.val.lane 0 == 0x22)))) = true := by decide +kernel

/-- 12 R249: a store shows to the cluster at once; 05 R102: a misaligned one traps. -/
theorem test_store :
    next (.st g0 .b16 .plain .grp .dflt { base := .reg 2, seg := 0x10, pair := false, off := 0 } (.reg 3)) base
      (fun t => seenAt t 0 0x10008 == 8 && seenAt t 0 0x10009 == 0 && seenAt t 0 0x10041 == 0x22) = true
    ∧ after (.st g0 .b16 .plain .grp .dflt { base := .reg 2, seg := 0x10, pair := false, off := 1 } (.reg 3)) base
      (fun g => g.inHandler && g.p0.any (fun p => p.pc == 0x100)) = true := by decide +kernel

/-- 05 R125, R126: eight lanes add to one word. -/
theorem test_red :
    next (.red g0 .add true 0 .plain .grp { base := .reg 1, seg := 0xFE, pair := false, off := 0 } (.reg 4)) base
      (fun t => (t.team? oneTeam).any (fun x => Memory.read x.scratch 64 == 40)) = true := by decide +kernel

/-- 05 R133 to R135: the last arrival flips the phase. -/
theorem test_clasp :
    next (.clarr g0 9 3 (.spec .one)) base (fun t => (t.team? oneTeam).any (fun x => (x.clasp 3).phase)
      && (t.group? oneGroup).any (fun g => v g 9 0 == 0)) = true := by decide +kernel

/-- 07 R182, R184: without TRAPVEC a trap halts the group. -/
theorem test_halt :
    after (.trap g0 7) { base with ctxs := [] } (fun g => g.phase == .halted) = true := by decide +kernel

/-- 16 R348, R349, 13 R279: registers of the host. -/
theorem test_host_registers :
    next (.registerWrite 0x48 false 0x12345) base (fun t => t.wbase == 0x12345) = true
    ∧ next (.registerWrite 0x200000 false 0x12345000) State.reset (fun t => (t.queue 0).ring == 0) = true
    ∧ next (.registerWrite 0x200000 false 0x12345000) base (fun t => (t.queue 0).ring == 0x12345) = true
    ∧ next (.islandWrite 3 0x5B00) base (fun t => (t.island 3).ref && (t.island 3).vsel == 90) = true := by decide +kernel

/-- A word placed by withFetchWord is fetched and run by the next step: nop, and an unassigned opcode. -/
theorem test_step_runs_word :
    (Outcome.next? (step (State.reset.withFetchWord 128 0xE001))).any
      (fun t => (t.group? oneGroup).any (fun g => g.p0.any (fun p => p.pc == 16))) = true
    ∧ (Outcome.next? (step (State.reset.withFetchWord 64 0xE00F))).any
      (fun t => (t.group? oneGroup).any (fun g => g.phase == .halted)) = true := by decide +kernel

/-! ### Witnesses: for every statement with hypotheses, for each of its clauses, a state and operands that meet them -/

theorem wit_DecodeEncode : isEvent (.nop g0) = false ∧ wellFormed env0 (.nop g0) = true := by decide +kernel

/-- A machine about to fetch a `nop`, by its agenda or by the default schedule. -/
def sFetch : State := State.reset.withFetchWord 128 0xE001

/-- The hypotheses of `StepRunsDecoded` on a slot that the arbiter chooses. -/
def fetchHyps (sa : State) : Bool :=
  match sa.group? oneGroup with
  | some g => sa.pick g.core == some (oneGroup, 0) && match (sa.turn oneGroup g 0).cx? Guard.every Uses.none with
    | some cx => cx.l.kseg.toNat < 0xFC && cx.p.pc.toNat % 16 == 0 && !cx.p.abortNext
        && match (sa.turn oneGroup g 0).translate (.core cx.g.core) cx.ctx cx.l.kseg (cx.p.pc.toNat / 65536 * 65536) .fetch with
          | (.ok p _, s1) => isLocal (p + cx.p.pc.toNat % 65536) && p % 65536 == 0
              && !s1.isPoisoned (sectorOf (p + cx.p.pc.toNat % 65536))
          | _ => false
    | none => false
  | none => false

theorem wit_StepRunsDecoded :
    sFetch.agenda = [.issue oneGroup 0] ∧ fetchHyps { sFetch with agenda := [] } = true
    ∧ ({ sFetch with agenda := [] } : State).nextMove = some (.issue oneGroup 0)
    ∧ ({ sFetch with agenda := [] } : State).pick oneCore ≠ some (oneGroup, 1) := by decide +kernel

/-- and another group of the core whose path is deferred by `yield` -/
theorem wit_TurnFrame : (base.group? oneGroup).isSome = true
    ∧ (let s := base.setGroup { oneGroup with grp := 1 } { group8 with p0 := group8.p0.map (fun p =>
          { p with deferral := some ([(oneGroup, 0), (oneGroup, 1)], 5) }) }
       (s.group? { oneGroup with grp := 1 }).any (fun h => h.core == oneCore && h.p0.any (fun p => p.deferral.isSome))) = true := by
  decide +kernel

/-- a core that chooses a slot, and one that runs and has none to choose -/
theorem wit_PickChooses : ({ sFetch with agenda := [] } : State).pick oneCore = some (oneGroup, 0)
    ∧ (withG (fun g => { g with phase := .halted })).pick oneCore = none
    ∧ (withG (fun g => { g with phase := .halted })).clockOn oneCore = true := by decide +kernel

/-- a word that issued, its port free or taken; one that waited; a group that entered its handler -/
theorem wit_TurnSettles :
    (let h := { group8 with perf := [(3, 1)] }
     group8.hasIssued h = true ∧ base.group? oneGroup = some group8 ∧ (withG (fun _ => h)).group? oneGroup = some h
      ∧ h.onScalar 0 = false ∧ (base.core oneCore).vec < 2
      ∧ ¬ ((base.modCore oneCore (fun c => { c with vec := 2 })).core oneCore).vec < 2)
    ∧ group8.hasIssued group8 = false
    ∧ (let h := { group8 with inHandler := true }
       group8.hasIssued h = false ∧ ¬ ((h.path 0).map Path.pc = (group8.path 0).map Path.pc ∧ h.inHandler = group8.inHandler)) := by
  decide +kernel

theorem wit_StepRunsEvent :
    ({ base with agenda := [.ev .clampEnter] } : State).agenda = [.ev .clampEnter] ∧ isEvent .clampEnter = true := by decide +kernel

theorem wit_StepKeeps :
    base.memoryOk = true ∧ base.tidy = true ∧ (Outcome.next? (step { base with agenda := [.ev .clampEnter] })).isSome = true := by
  decide +kernel

theorem wit_WordsLeaveDevice : isEvent (.nop g0) = false ∧ next (.nop g0) base (fun _ => true) = true := by decide +kernel

def intWords : List Instr :=
  [.iadd g1 false 9 (.reg 1) (.reg 2), .isub g0 true 9 (.reg 3) (.reg 2), .imul g0 false 9 (.reg 3) (.reg 2)
  , .imulh g0 false true 9 (.reg 1) (.reg 3), .imad g0 true 9 (.reg 1) (.reg 2) (.reg 3), .idiv g0 true false 9 (.reg 1) (.reg 4)
  , .irem g0 false true 9 (.reg 1) (.reg 4), .imin g0 false false 9 (.reg 1) (.reg 3), .imax g0 true true 9 (.reg 1) (.reg 3)
  , .iabs g0 true 9 (.reg 3), .ineg g0 false 9 (.reg 2), .and g0 false 9 (.reg 1) (.reg 3), .or g0 true 9 (.reg 1) (.reg 3)
  , .xor g0 false 9 (.reg 1) (.imm 7), .andn g0 false 9 (.reg 1) (.reg 3), .not g0 true 9 (.reg 3), .shl g0 false 9 (.reg 2) (.reg 4)
  , .shr g0 true 9 (.reg 3) (.reg 4), .sar g0 false 9 (.spec .sign) (.reg 3), .rot g0 true 9 (.reg 3) (.reg 4)
  , .clz g0 false 9 (.reg 3), .popc g0 false 9 (.reg 3), .brev g0 true 9 (.reg 3), .bfx g0 false 9 (.reg 3) (.imm 0x302)
  , .bfi g0 false 9 (.reg 3) (.reg 1) (.imm 0x302), .mov g1 false 9 (.reg 2), .movi g0 true 9 77, .lea g0 9 (.reg 2) 0x10
  , .iaddc g0 false 9 (.reg 1) (.reg 2) (.reg 4), .isat g0 false false 9 (.reg 3) (.reg 4)]

theorem wit_IntegerResults : intWords.length = 30 ∧ intWords.all (fun i => (intForm i).any (fun f =>
    ready base f.w (usesOf f.srcs [f.d]) (fun cx => wellFormed cx.env i))) = true := by decide +kernel

def shapeHyps (i : Instr) (p : Cx → IntForm → Bool) : Bool := (intForm i).any (fun f =>
  ready base f.w (usesOf f.srcs [f.d]) (fun cx => wellFormed cx.env i && cx.eff == cx.g.full && p cx f))

/-- all uniform; an affine row that gives a line; one that does not, for a general source; no affine row -/
theorem wit_IntegerShapes :
    shapeHyps (.iadd g0 false 9 (.reg 1) (.reg 4)) (fun cx f => f.srcs.all (fun x => Claims.shapeOf (cx.src x) == .uniform)) = true
    ∧ shapeHyps (.iadd g0 true 9 (.reg 1) (.reg 2)) (fun cx _ =>
        (affineRow (.iadd g0 true 9 (.reg 1) (.reg 2)) cx) == some (true, 64, 8) && allS32 64 8 8) = true
    ∧ shapeHyps (.iadd g0 false 9 (.reg 3) (.reg 2)) (fun cx _ =>
        (affineRow (.iadd g0 false 9 (.reg 3) (.reg 2)) cx).any (fun x => x.1 == false)) = true
    ∧ shapeHyps (.xor g0 false 9 (.reg 1) (.reg 2)) (fun cx f => !f.srcs.all (fun x => Claims.shapeOf (cx.src x) == .uniform)
        && (affineRow (.xor g0 false 9 (.reg 1) (.reg 2)) cx).isNone) = true := by decide +kernel

def inAlu (r : Nat) (cov : Bool) : InFlight where
  serial := 7
  slot := 0
  kind := .alu
  covered := cov
  dests := [r]
  writes := []
  counts := Counts.zero
  due := []
  waits := []
  job := none
  stamps := []

def sHaz (cov : Bool) : State := withG (fun g => g.fly (inAlu 1 cov))

/-- The hypotheses of `HazardHolds` for a word with the names of `u`, of which register r has a result in flight. -/
def hazHyps (s : State) (i : Instr) (u : Uses) (r : Nat) : Bool := match s.cx? g0 u with
  | some cx => s.tidy && (badSlot cx.g u.slots).isNone && (namesOf cx i).any (fun x => x.2.1 == u
      && ((u.reads ++ x.2.2.reads) ++ (u.writes ++ x.2.2.writes)).contains r && cx.g.flight.any (fun f => f.dests.contains r))
  | none => false

def hazWords (s : State) : Bool :=
  let m : Addr := { base := .reg 1, seg := 0x10, pair := false, off := 0 }
  hazHyps s (.iadd g0 false 9 (.reg 1) (.reg 2)) (usesOf [.reg 1, .reg 2] [9]) 1
    && hazHyps s (.fadd g0 0 9 (.reg 1) (.reg 2)) ((usesOf [.reg 1, .reg 2] [9]).withSlots [(0, 1)]) 1
    && hazHyps s (.st g0 .b64 .plain .grp .dflt m (.reg 3)) { Uses.none with reads := [1, 3] } 1
    && hazHyps s (.clinit g0 3 (.reg 1)) (usesOf [.reg 1] []) 1

/-- a result that a park marker has covered or has not, without STRICT and with it, under words of several families; a
member of a run that no field names -/
theorem wit_HazardHolds : hazWords (sHaz false) = true ∧ hazWords (sHaz true) = true
    ∧ hazWords ((sHaz false).modCtx 0 (fun c => { c with strict := true })) = true
    ∧ (let s := withG (fun g => ((g.setVal 5 (.uniform 40)).fly (inAlu 25 false)))
       let m : Addr := { base := .reg 1, seg := 0x10, pair := false, off := 0 }
       hazHyps s (.ldz g0 0 .dflt 20 m (.reg 5)) (runMemUses m [] (.reg 5) [20] [20] 0) 25 = false
       ∧ hazHyps s (.ldfr g0 0 .dflt 24 m (.reg 4)) (runMemUses m [] (.reg 4) [24] [24] 0) 25 = true) := by decide +kernel

def predWords : List Instr :=
  [.icmp g0 .lt false true 3 (.reg 1) (.reg 3), .pset g1 .andn 3 7 1, .vote g0 1 (.every 3 1), .vote g0 2 (.some 3 1)
  , .vote g0 0 (.same 3 (.reg 2))]

theorem wit_PredicateResults : predWords.all (fun i => (predForm i).any (fun f =>
    ready base f.w f.u (fun cx => wellFormed cx.env i))) = true := by decide +kernel

def crossWords : List Instr :=
  [.shfl g0 2 9 (.get (.reg 3) (.reg 2)), .shfl g0 1 9 (.rot (.reg 3) 1), .shfl g0 2 9 (.slup (.reg 3) 2 (.reg 1))
  , .shfl g0 2 9 (.sldn (.reg 3) 7 (.reg 1)), .shfl g0 2 9 (.xor (.reg 3) 5), .vote g0 1 (.mask 9 1), .vote g1 2 (.count 9 7)
  , .pmov g0 9 1, .shape g0 9 (.reg 2), .getx g0 .mask 9]

theorem wit_CrossLaneResults : crossWords.all (fun i => (crossForm i).any (fun f =>
    ready base f.w f.u (fun cx => wellFormed cx.env i))) = true := by decide +kernel

theorem wit_ScanResults : [Instr.scan g1 2 .umin 0 true 9 (.reg 3), .redl g0 1 .add 0 9 (.reg 3)].all (fun i =>
    (scanForm i).any (fun f => ready base f.w f.u (fun cx => wellFormed cx.env i))) = true := by decide +kernel

def readWords : List Instr :=
  [.sel g0 true 9 (.reg 1) (.reg 3) 1, .fmtrd g0 3 9, .rdcyc g0 9, .ctlr g0 9 4, .engst g0 9 0x40, .clrd g0 9 2 true, .perf g0 false 9 3]

theorem wit_ReadResults : readWords.all (fun i => (readForm i).any (fun f =>
    ready base f.w f.u (fun cx => wellFormed cx.env i))) = true := by decide +kernel

/-- with lanes, and with none (p2 holds nowhere) -/
theorem wit_MatzResult : ready base g0 (usesOf [] [2]) (fun cx => wellFormed cx.env (.matz g0 2) && cx.eff != 0) = true
    ∧ ready base { g0 with pg := 2 } (usesOf [] [2]) (fun cx => wellFormed cx.env (.matz { g0 with pg := 2 } 2) && cx.eff == 0) = true := by
  decide +kernel

theorem wit_PerfClears : ready base g0 (usesOf [] [9]) (fun cx => wellFormed cx.env (.perf g0 true 9 5) && cx.eff != 0) = true
    ∧ ready base g0 (usesOf [] [9]) (fun cx => wellFormed cx.env (.perf g0 true 9 0x102) && cx.eff != 0) = true := by decide +kernel

def floatWords : List Instr :=
  [.fadd g0 1 9 (.reg 3) (.reg 2), .fsub g1 1 9 (.reg 3) (.reg 2), .fmul g0 1 9 (.reg 3) (.reg 2), .ffma g0 1 9 (.reg 3) (.reg 2) (.reg 1)
  , .fmin g0 1 9 (.reg 3) (.reg 2), .fmax g0 1 9 (.reg 3) (.reg 2), .fdiv g0 1 9 (.reg 3) (.reg 2), .fsqrt g0 1 9 (.reg 3)
  , .frcp g0 1 9 (.reg 3), .frsq g0 1 9 (.reg 3), .fex2 g0 1 9 (.reg 3), .flg2 g0 1 9 (.reg 3), .frnd g0 1 9 (.reg 3)
  , .fscl g0 1 9 (.reg 3) (.reg 4), .fcvt g0 1 2 9 (.reg 3) (.spec .zero) (.spec .one), .i2f g0 1 false false 9 (.reg 3)
  , .fdot g0 1 1 2 9 (.reg 3) (.reg 2) (.reg 1), .fsum g0 1 9 (.reg 3)]

theorem wit_FloatResults : floatWords.all (fun i => (floatForm i).any (fun f =>
    ready base f.w ((usesOf f.srcs [f.d]).withSlots f.slots) (fun cx => wellFormed cx.env i))) = true := by decide +kernel

theorem wit_ClassResult : ready base g0 ((usesOf [.reg 3, .reg 2] [9]).withSlots [(1, 1)])
    (fun cx => wellFormed cx.env (.fclass g0 1 9 (.reg 3) (.reg 2))) = true := by decide +kernel

theorem wit_ToIntegerResult : ready base g0 ((usesOf [.reg 3] [9]).withSlots [(1, 1)])
    (fun cx => wellFormed cx.env (.f2i g0 1 true false 9 (.reg 3))) = true := by decide +kernel

theorem wit_FloatCompare : ready base g0 ((usesOf [.reg 3, .reg 2] []).withSlots [(1, 1)])
    (fun cx => wellFormed cx.env (.fcmp g0 .un 1 3 (.reg 3) (.reg 2))) = true := by decide +kernel

theorem wit_FloatScan : [Instr.scan g0 2 .fadd 1 true 9 (.reg 3), .redl g0 2 .fmax 1 9 (.reg 3)].all (fun i =>
    ready base g0 ((usesOf [.reg 3] [9]).withSlots [(1, 1)]) (fun cx => wellFormed cx.env i)) = true
    ∧ isFloatOp .fadd = true ∧ isFloatOp .fmax = true := by decide +kernel

/-- binary64, as in every slot of the launch -/
def b64def : Word := 0x10A1FFE97

theorem wit_SlotWords : ready base g0 (usesOf [.imm b64def] [])
      (fun cx => wellFormed cx.env (.fmtdef g0 1 (.imm b64def)) && cx.eff == cx.g.live && cx.eff != 0 && (Fmt.invalid b64def).isNone) = true
    ∧ ready base g0 ((usesOf [.reg 4] []).withSlots [(1, 1)])
      (fun cx => wellFormed cx.env (.fseed g0 1 (.reg 4)) && cx.eff == cx.g.live && (cx.src (.reg 4)).equalIn cx.eff) = true := by decide +kernel

/-- some lanes only; lanes that differ, for both words; no lane; an invalid definition -/
theorem wit_SlotWordTraps :
    ready base g1 ((usesOf [.reg 4] []).withSlots [(1, 1)]) (fun cx => wellFormed cx.env (.fseed g1 1 (.reg 4)) && cx.eff != cx.g.live) = true
    ∧ ready base g0 ((usesOf [.reg 3] []).withSlots [(1, 1)]) (fun cx => wellFormed cx.env (.fseed g0 1 (.reg 3))
        && (cx.src (.reg 3)).lane 0 != (cx.src (.reg 3)).lane 1 && laneIn cx.eff 0 && laneIn cx.eff 1) = true
    ∧ ready base { g0 with pg := 2 } (usesOf [.reg 4] []) (fun cx => wellFormed cx.env (.fmtdef { g0 with pg := 2 } 1 (.reg 4))
        && cx.eff == 0 && cx.g.live != 0) = true
    ∧ ready base { g0 with pg := 2 } ((usesOf [.reg 4] []).withSlots [(1, 1)])
        (fun cx => wellFormed cx.env (.fseed { g0 with pg := 2 } 1 (.reg 4)) && cx.eff == 0 && cx.g.live != 0) = true
    ∧ ready base g1 (usesOf [.reg 4] []) (fun cx => wellFormed cx.env (.fmtdef g1 1 (.reg 4)) && cx.eff != cx.g.live) = true
    ∧ ready base g0 (usesOf [.reg 3] []) (fun cx => wellFormed cx.env (.fmtdef g0 1 (.reg 3)) && !(cx.src (.reg 3)).equalIn cx.eff) = true
    ∧ ready base g0 (usesOf [.imm 0] []) (fun cx => wellFormed cx.env (.fmtdef g0 1 (.imm 0)) && cx.eff == cx.g.live
        && (cx.src (.imm 0)).equalIn cx.eff && (Fmt.invalid ((cx.src (.imm 0)).firstIn cx.eff)).isSome) = true := by decide +kernel

theorem wit_EventWord : ready base g0 (usesOf [] [9]) (fun cx => wellFormed cx.env (.fstat g0 true 9) && cx.eff != 0) = true := by decide +kernel

/-! Control (03 R51 to R61) -/

theorem wit_StraightWords : ready base g0 Uses.none (fun cx => wellFormed cx.env (.nop g0)) = true
    ∧ ready base g0 Uses.none (fun cx => wellFormed cx.env (.yield g0)) = true
    ∧ ready base g0 Uses.none (fun cx => wellFormed cx.env (.prog g0) && !cx.l.pers && (base.launch? cx.gid.launch).isSome) = true
    ∧ ready (withL (fun l => { l with pers := true })) g0 Uses.none (fun cx => wellFormed cx.env (.prog g0) && cx.l.pers
        && (base.queue 0).stage != 2) = true := by decide +kernel

/-- taken (p7), not taken (p2), and in some lanes (p1); brc by v1, v5 and v2, which is 0 in lane 0 only -/
theorem wit_UniformBranches :
    ready base g0 Uses.none (fun cx => wellFormed cx.env (.bra g0 4) && cx.eff == cx.p.mask) = true
    ∧ ready base { g0 with pg := 2 } Uses.none (fun cx => wellFormed cx.env (.bra { g0 with pg := 2 } 4) && cx.eff == 0) = true
    ∧ ready base g1 Uses.none (fun cx => wellFormed cx.env (.bra g1 4) && cx.eff != 0 && cx.eff != cx.p.mask) = true
    ∧ [1, 5, 2].all (fun r => ready base g0 (usesOf [.reg r] []) (fun cx => wellFormed cx.env (.brc g0 (.reg r) 4))) = true := by
  decide +kernel

def sTwo : State := withG (fun g => { g with
  p0 := some (Path.start 0 0x0F (some 0)), p1 := some (Path.start 0x200 0x30 (some 0)),
  stack := [.reconv 0 0x40 0xFF 0 none, .path 0x80 0xC0 (some 0)] })
/-- v1 as p3: lanes 0 and 1 -/
def g3 : Guard := { g0 with pg := 3 }
def withP3 (s : State) : State := s.modGroup oneGroup (fun g => { g with preds := [(1, 0x0F), (3, 0x03)] })

/-- taken, not taken, split into a free slot, split beside an occupied one, past `.divdepth` -/
theorem wit_DivergentBranch :
    ready base g0 Uses.none (fun cx => wellFormed cx.env (.brd g0 8 12) && cx.eff == cx.p.mask) = true
    ∧ ready base { g0 with pg := 2 } Uses.none (fun cx => wellFormed cx.env (.brd { g0 with pg := 2 } 8 12) && cx.eff == 0) = true
    ∧ ready base g1 Uses.none (fun cx => wellFormed cx.env (.brd g1 8 12) && cx.eff != 0 && cx.eff != cx.p.mask
        && (cx.g.path (1 - cx.slot)).isNone && cx.g.depth + 1 ≤ cx.g.divdepth) = true
    ∧ ready (withP3 sTwo) g3 Uses.none (fun cx => wellFormed cx.env (.brd g3 8 12) && cx.eff != 0 && cx.eff != cx.p.mask
        && (cx.g.path (1 - cx.slot)).isSome && cx.g.depth + 2 ≤ cx.g.divdepth) = true
    ∧ ready ((withP3 sTwo).modGroup oneGroup (fun g => { g with divdepth := 3 })) g3 Uses.none (fun cx => wellFormed cx.env (.brd g3 8 12)
        && cx.eff != 0 && cx.eff != cx.p.mask && cx.g.divdepth < cx.g.depth + 2) = true := by decide +kernel

def sJoin (pc : Word) (arr : Word) (stack : List Entry) : State := sTwo.modGroup oneGroup (fun g => { g with
  p0 := some (Path.start pc 0x0F (some 0)), stack := .reconv 0 0x40 0xFF arr none :: stack })

def joinHyps (s : State) (p : Cx → Word → Word → Word → Bool) : Bool :=
  ready s g0 Uses.none (fun cx => wellFormed cx.env (.join g0) && (cx.p.jx).any (fun n =>
    match cx.g.stack.find? (Entry.hasId n) with
    | some (.reconv _ rpc e arr _) => p cx rpc e arr
    | _ => false))

/-- no entry; another address; the last to arrive; an earlier one with a PATH entry to go on with, and with none -/
theorem wit_JoinMeets :
    ready base g0 Uses.none (fun cx => wellFormed cx.env (.join g0) && cx.p.jx.isNone) = true
    ∧ joinHyps (sJoin 0 0 []) (fun cx rpc _ _ => rpc != cx.p.pc) = true
    ∧ joinHyps (sJoin 0x40 0xF0 []) (fun cx rpc e arr => rpc == cx.p.pc && (arr ||| cx.p.mask) == e) = true
    ∧ joinHyps (sJoin 0x40 0 [.path 0x80 0xC0 (some 0)]) (fun cx rpc e arr => rpc == cx.p.pc && (arr ||| cx.p.mask) != e) = true
    ∧ joinHyps (sJoin 0x40 0xC0 []) (fun cx rpc e arr => rpc == cx.p.pc && (arr ||| cx.p.mask) != e) = true := by decide +kernel

/-- call; ret to an aligned address (v1), to a misaligned one (v4), and where lanes differ (v3) -/
theorem wit_CallReturn :
    ready base g0 (usesOf [] [9]) (fun cx => wellFormed cx.env (.call g0 9 4)) = true
    ∧ ready base g0 (usesOf [.reg 1] []) (fun cx => wellFormed cx.env (.ret g0 (.reg 1)) && cx.p.mask != 0
        && (cx.src (.reg 1)).equalIn cx.p.mask && ((cx.src (.reg 1)).firstIn cx.p.mask).toNat % 16 == 0) = true
    ∧ ready base g0 (usesOf [.reg 4] []) (fun cx => wellFormed cx.env (.ret g0 (.reg 4)) && cx.p.mask != 0
        && (cx.src (.reg 4)).equalIn cx.p.mask && ((cx.src (.reg 4)).firstIn cx.p.mask).toNat % 16 != 0) = true
    ∧ ready base g0 (usesOf [.reg 3] []) (fun cx => wellFormed cx.env (.ret g0 (.reg 3)) && (cx.src (.reg 3)).lane 0 != (cx.src (.reg 3)).lane 1) = true := by
  decide +kernel

/-- A table of two entries at 0x100: header {0, 2, 6, 0}, entries 8 and 9; v6 is lane & 1, v7 is 1, v8 is 2. -/
def sTable : State := { withG (fun g => ((g.setVal 6 (.general [0, 1, 0, 1, 0, 1, 0, 1])).setVal 7 (.uniform 1)).setVal 8 (.uniform 2)) with
  mem := Memory.writeN [] 0x100 (toBytes 16 (2 * 2 ^ 32 + 6 * 2 ^ 64) ++ toBytes 8 (8 + 9 * 2 ^ 32)) }

/-- The hypotheses on the fetches of a table at 16 · 16, with what the header and entries must be. -/
def tableHyps (s : State) (a : Src) (u : Uses) (i : Cx → Bool) (k : Cx → Nat → List Nat → Bool → List (Nat × Word) → Bool) : Bool :=
  ready s g0 u (fun cx => i cx &&
    let cx0 := cx.fetched u
    match (s.fetched cx u).fetch16 cx0 0x100 false with
    | .ok bs s1 => k cx (ofBytes bs / 2 ^ 32 % 2 ^ 32) (tableIndices cx a) (headerOk (BitVec.ofNat 128 (ofBytes bs)))
        (match readEntries cx0 0x100 (tableIndices cx a) s1 [] (.inl s1) with
          | (es, .inl _) => es
          | _ => [])
    | _ => false)

/-- `sTable` with two paths, under an entry and a waiting path. -/
def sTable2 : State := sTable.modGroup oneGroup (fun g => { g with
  p0 := some (Path.start 0 0x0F (some 0)), p1 := some (Path.start 0x200 0x30 (some 0)),
  stack := [.reconv 0 0x40 0xFF 0 none, .path 0x80 0xC0 (some 0)] })

/-- one index by brx and call.tbl; two by brx, beside an empty slot and a taken one, and past `.divdepth`; two by call.tbl;
an index past the table; a header of another form -/
theorem wit_TableBranches :
    [(4, true), (3, false)].all (fun x => tableHyps (sTable2.modGroup oneGroup (fun g => { g with divdepth := x.1 })) (.reg 6)
        (usesOf [.reg 6] []) (fun cx => wellFormed cx.env (.brx g0 (.reg 6) 16))
      (fun cx c is ok es => is == [0, 1] && ok && 1 < c && es.length == 2 && (cx.g.path (1 - cx.slot)).isSome
        && (decide (cx.g.depth + 1 + (es.drop 1).length ≤ cx.g.divdepth) == x.2))) = true
    ∧ ready sTable g0 (usesOf [.reg 6] [9]) (fun cx => wellFormed cx.env (.callTbl g0 9 (.reg 6) 16) && laneIn cx.p.mask 0
        && laneIn cx.p.mask 1 && ((cx.src (.reg 6)).lane 0).toNat % 2 ^ 32 != ((cx.src (.reg 6)).lane 1).toNat % 2 ^ 32) = true
    ∧
    tableHyps sTable (.reg 7) (usesOf [.reg 7] []) (fun cx => wellFormed cx.env (.brx g0 (.reg 7) 16))
      (fun _ c is ok es => is == [1] && ok && 1 < c && es.length == 1) = true
    ∧ tableHyps sTable (.reg 7) (usesOf [.reg 7] [9]) (fun cx => wellFormed cx.env (.callTbl g0 9 (.reg 7) 16))
      (fun _ c is ok es => is == [1] && ok && 1 < c && es.length == 1) = true
    ∧ tableHyps sTable (.reg 6) (usesOf [.reg 6] []) (fun cx => wellFormed cx.env (.brx g0 (.reg 6) 16))
      (fun cx c is ok es => is == [0, 1] && ok && 1 < c && es.length == 2 && (cx.g.path (1 - cx.slot)).isNone
        && cx.g.depth + 1 + (es.drop 2).length ≤ cx.g.divdepth) = true
    ∧ tableHyps sTable (.reg 8) (usesOf [.reg 8] []) (fun cx => wellFormed cx.env (.brx g0 (.reg 8) 16))
      (fun _ c is _ _ => is == [2] && c ≤ 2) = true
    ∧ tableHyps base (.reg 1) (usesOf [.reg 1] [9]) (fun cx => wellFormed cx.env (.callTbl g0 9 (.reg 1) 16))
      (fun _ _ is ok _ => is == [64] && !ok) = true := by decide +kernel

theorem wit_ExitLeaves : ready (withP3 sTwo) g3 Uses.none (fun cx => wellFormed cx.env (.exit g3) && cx.eff != 0) = true
    ∧ ready sTwo g0 Uses.none (fun cx => wellFormed cx.env (.exit g0) && cx.eff != 0) = true := by decide +kernel

def frameFits (s : State) (cx : Cx) : Bool :=
  cx.g.width ≤ 64 && cx.g.nr ≤ 512 && cx.g.stack.length ≤ 512 && s.areaOk (frameAddr (s.ctx cx.ctx) cx.gid) 1048576

theorem wit_TrapWords :
    ready base g0 Uses.none (fun cx => wellFormed cx.env (.trap g0 5) && frameFits base cx && cx.eff != 0) = true
    ∧ ready base { g0 with pg := 2 } Uses.none (fun cx => wellFormed cx.env (.trap { g0 with pg := 2 } 5) && cx.eff == 0) = true
    ∧ ready base Guard.every Uses.none (frameFits base) = true := by decide +kernel

def tinfo : TrapInfo where
  code := 0x11
  detail := 0
  lane := 0xFFFF
  prec := true
  pc := 0
  rpc := 16
  addr := 0
  aseg := 0
  mask := 0xFF
  info := 5
  slot := 0

/-- Nothing has moved, so that the bytes of the frame lie apart (`apart_still`). -/
def entryHyps (s : State) (p : Group → Context → Bool) : Bool :=
  s.memoryOk && s.migrations.isEmpty && (s.group? oneGroup).any (fun g => p g (s.ctx 0) && s.areaOk (frameAddr (s.ctx 0) oneGroup) (frameBytes g tinfo).length)

/-- results out; entered; no TRAPVEC; in a handler -/
theorem wit_TrapEntry :
    entryHyps (sHaz false) (fun g _ => !g.settled) = true
    ∧ entryHyps base (fun g c => g.settled && c.trapvec != 0 && !g.inHandler) = true
    ∧ entryHyps (base.modCtx 0 (fun c => { c with trapvec := 0 })) (fun g c => g.settled && c.trapvec == 0) = true
    ∧ entryHyps (withG (fun g => { g with inHandler := true })) (fun g _ => g.settled && g.inHandler) = true := by decide +kernel

/-- In a handler; the frame is all zeros, as is the memory it stands in. -/
def sHandler : State := withG (fun g => { g with inHandler := true, frame := some (0x200000, List.replicate 256 0, 0), tframe := 0x200000 })

def rteHyps (s : State) (p : State → Cx → List Byte → Bool) : Bool :=
  ready s g0 Uses.none (fun cx => wellFormed cx.env (.rte g0) && cx.g.inHandler && match cx.g.frame with
    | some (a, written, _) =>
      let s1 := (s.fetched cx Uses.none).wbCluster cx.g.core.clus
      s1.areaOk a written.length && p s1 cx (s1.areaRead a written.length)
    | none => false)

def frameOf (cx : Cx) : List Byte := match cx.g.frame with
  | some (_, w, _) => w
  | none => []

/-- outside a handler; with results out; a good frame; a frame that was written over; a poisoned one -/
theorem wit_ReturnFromTrap :
    ready base g0 Uses.none (fun cx => wellFormed cx.env (.rte g0) && !cx.g.inHandler) = true
    ∧ rteHyps (sHandler.modGroup oneGroup (fun g => g.fly (inAlu 1 false))) (fun _ cx _ => cx.g.flight != []) = true
    ∧ rteHyps sHandler (fun s1 cx now => cx.g.flight == [] && frameOk (frameOf cx) now && !s1.areaPoisoned 0x200000 now.length)
      = true
    ∧ rteHyps { sHandler with mem := Memory.write sHandler.mem 0x200000 0x77 }
        (fun _ cx now => cx.g.flight == [] && !frameOk (frameOf cx) now) = true
    ∧ rteHyps { sHandler with poison := [0x200000 / 64] }
        (fun s1 cx now => cx.g.flight == [] && s1.areaPoisoned 0x200000 now.length) = true := by decide +kernel

theorem wit_TrapRoundTrip : group8.width ∈ [8, 16, 32, 64] ∧ 1 ≤ group8.nr ∧ group8.nr ≤ 512 ∧ group8.stack.length < 512
    ∧ group8.tidy = true ∧ (group8.path tinfo.slot).any (fun p => p.mask != 0) = true := by decide +kernel

/-- with and without a visible request; lanes that differ -/
theorem wit_PmarkParks :
    ready base g0 (usesOf [.reg 4] []) (fun cx => wellFormed cx.env (.pmark g0 7 (.reg 4)) && (cx.src (.reg 4)).equalIn cx.p.mask
        && !cx.g.preqVisible) = true
    ∧ ready (withG (fun g => { g with preqVisible := true })) g0 (usesOf [.reg 4] []) (fun cx => wellFormed cx.env (.pmark g0 7 (.reg 4))
        && (cx.src (.reg 4)).equalIn cx.p.mask && cx.g.preqVisible) = true
    ∧ ready base g0 (usesOf [.reg 3] []) (fun cx => wellFormed cx.env (.pmark g0 7 (.reg 3)) && !(cx.src (.reg 3)).equalIn cx.p.mask) = true := by
  decide +kernel

/-! Scaled blocks (06 R140 to R149). Slot 1 is FP4 (E2M1), slot 2 an E8M0 scale, slot 3 an 8-bit integer, slot 4 a 32-bit
integer, slot 0 binary64. -/

def withSlots (g : Group) : Group :=
  { g with slots := [(0, b64def), (1, 0x100000825), (2, 0x10003F810), (3, 0x1000000E1), (4, 0x1000003E1)] }

def sScaled : State := withG (fun g => (withSlots g).setVal 24 (ramp 0x3FF0000000000000 0x8000000000000))

/-- A register that holds one sector of FP4 codes: header ELS 1, BSZ 0. -/
def sSector : State := withG (fun g => ((withSlots g).setVal 24 (.general (0x1234567890017F01 :: List.replicate 7 0x5555))).setVal 25 (.uniform 14))

def blocks : Nat := sectorBlocks 8 4

theorem wit_SectorFields : (1 : Nat) < 16 ∧ (2 : Nat) < 4 ∧ 0 < [5, 6].length ∧ 0 < [1, 2, 3].length := by decide

def scqMembers (r : Option Nat) (cx : Cx) : Members :=
  let n := sectorRun (blocks * 8) (cx.fmt 0).k
  { reads := runOf 24 n, writes := match r with
      | some x => runOf x n
      | none => [] }

/-- with and without a residual run -/
theorem wit_QuantiseWord :
    readyRuns sScaled g0 (runUses [[24]] [20, 40] [24, 40] [(0, 1), (1, 2), (2, 3), (2, 4)]) (scqMembers (some 40)) (fun cx =>
      let n := sectorRun (blocks * 8) (cx.fmt 0).k
      wellFormed cx.env (.scq g0 0 1 2 .bk8 (some 40) 20 24) && cx.eff == cx.g.live && sectorBlocks 8 (cx.fmt 1).w == blocks && blocks != 0
        && n ≤ 32 && 24 + n ≤ cx.g.nr && 40 + n ≤ cx.g.nr && !residBad 20 (runOf 24 n) (runOf 40 n)) = true
    ∧ readyRuns sScaled g0 (runUses [[24]] [20] [24] [(0, 1), (1, 2), (2, 3), (2, 4)]) (scqMembers none) (fun cx =>
      let n := sectorRun (blocks * 8) (cx.fmt 0).k
      wellFormed cx.env (.scq g0 0 1 2 .bk8 none 20 24) && cx.eff == cx.g.live && n ≤ 32 && 24 + n ≤ cx.g.nr
        && !residBad 20 (runOf 24 n) []) = true := by decide +kernel

/-- 96 elements of binary64 take 12 registers: a residual run from v12 holds D = v20, one from v30 part of v24 to v35. -/
def residHyps (r d : RegIx) : Bool :=
  readyRuns sScaled g0 (runUses [[24]] [d.toNat, r.toNat] [24, r.toNat] [(0, 1), (1, 2), (2, 3), (2, 4)])
    (scqMembers (some r.toNat)) (fun cx =>
    let n := sectorRun (blocks * 8) (cx.fmt 0).k
    wellFormed cx.env (.scq g0 0 1 2 .bk8 (some r) d 24) && cx.eff == cx.g.live && n == 12)

theorem wit_ResidualRun : residHyps 12 20 = true ∧ residHyps 30 50 = true := by decide +kernel

def unpackHyps (i : Instr) (u : Uses) (room : Cx → Fmt → Nat) : Bool :=
  readyRuns sSector g0 u (fun _ => { reads := [], writes := runOf 26 14 }) (fun cx => wellFormed cx.env i && cx.eff == cx.g.live
    && (equalC cx (.reg 25)).any (fun x => x.toNat % 64 == 14) && 26 + 14 ≤ cx.g.nr
    && (List.range (cx.g.width / 8)).all (fun j => !sectorEmpty cx (regSector (cx.src (.reg 24)) j)
      && (sectorFault cx (room cx) (regSector (cx.src (.reg 24)) j)).isNone))

theorem wit_UnpackWords :
    unpackHyps (.scdq g0 2 0 26 (.reg 24) (.reg 25)) (runUses [[24], [], [25]] [26] [26] [(2, 1), (2, 4), (0, 3)])
      (fun cx _ => 8 * (cx.fmt 0).k * 14) = true
    ∧ unpackHyps (.scup g0 2 50 26 (.reg 24) (.reg 25)) (runUses [[24], [], [25]] [26, 50] [26] [(2, 1), (2, 4)])
      (fun _ f => 8 * f.k * 14) = true := by decide +kernel

theorem wit_PackWord :
    readyRuns sScaled g0 (runUses [[24], [4]] [20] [24] [(1, 1), (2, 2), (2, 4)])
      (fun cx => { reads := runOf 24 (sectorRun (blocks * 8) (cx.fmt 1).k), writes := [] }) (fun cx =>
      let n := sectorRun (blocks * 8) (cx.fmt 1).k
      wellFormed cx.env (.scpk g0 1 2 .bk8 20 24 (.reg 4)) && cx.eff == cx.g.live && sectorBlocks 8 (cx.fmt 1).w != 0
        && n ≤ 32 && 24 + n ≤ cx.g.nr) = true := by decide +kernel

theorem wit_BandScale :
    ready sScaled g0 ((usesOf [.reg 24, .reg 3] [9]).withSlots [(1, 1), (2, 2), (0, 3)]) (fun cx =>
      wellFormed cx.env (.bscl g0 1 2 0 9 (.reg 24) (.reg 3)) && cx.eff == cx.g.live && (cx.fmt 2).w ≤ 32) = true := by decide +kernel

/-! Memory (05, 12, 15) -/

/-- Tables of segment 0x20 from T4 at 0x500000 on: page 0 maps frame 5, page 1 is not valid, page 2 has reserved bits, page
3 is read only. -/
def tables : List Host.Cell :=
  let e (n : Nat) : List Byte := toBytes 16 n
  [(0x500200, e 0x510001), (0x510000, e 0x520001), (0x520000, e 0x530001), (0x530000, e 0x540001), (0x540000, e 0x50007),
    (0x540020, e 0x52007), (0x540030, e 0x60003)].foldl (fun m x => Memory.writeN m x.1 x.2) base.mem

def sWalk : State := { base.modCtx 0 (fun c => { c with t4base := 0x500 }) with mem := tables }

theorem wit_TranslateLeaf :
    sWalk.memoryOk = true ∧ sWalk.cached .hub 0 0x20 0x1234 .write = none
    ∧ (match sWalk.walk 0 0x20 0x1234 with
      | .leaf w p level => p == 0x540000 && level == 0 && (Pte.ofWord w).permits .write && (Pte.ofWord w).tier == 0
      | _ => false) = true := by decide +kernel

theorem wit_TranslateRefuses :
    (sWalk.walk 0 0x20 0x10000 == .recoverable) = true ∧ (sWalk.walk 0 0x20 0x20000 == .bad 1) = true
    ∧ (match sWalk.walk 0 0x20 0x30000 with
      | .leaf w _ _ => !(Pte.ofWord w).permits .write
      | _ => false) = true
    ∧ sWalk.cached .hub 0 0x20 0x30000 .write = none := by decide +kernel

theorem wit_ReadSeesMemory : base.tidy = true ∧ 0x10041 % 64 + 2 ≤ 64
    ∧ (match base.plainRead 0 0x10041 2 .dflt with
      | (.bytes _, _) => true
      | _ => false) = true
    ∧ (match base.plainRead 0 0x10041 2 .byp with
      | (.bytes _, _) => true
      | _ => false) = true := by decide +kernel

def line (n : Nat) (h : Hint) (b : Nat) : L1Line := { line := n, hint := h, bank := b }

/-- One CACHE bank: four ways. The set of line 0 is full: two lines are sticky, one is streamed (10 R225). -/
def fullSet : Cluster := { Cluster.reset with
  banks := (List.range 31).map (fun i => (i + 1, { Bank.reset with mode := .off }))
  lines := [line 0 .stky 0, line 32 .dflt 0, line 64 .strm 0, line 96 .stky 0, line 33 .dflt 0]
  l1 := [(0, Sector.blank), (256, Sector.blank), (264, Sector.blank), (512, Sector.blank), (768, Sector.blank)] }

def sFull : State := { base with clusters := [(0, fullSet)] }

/-- the streamed line leaves, and then the ordinary one -/
theorem test_victim : (sFull.makeRoom 0 1024 .dflt).map (fun t => (t.cluster 0).lines.map L1Line.line) = some [0, 32, 96, 33, 128]
    ∧ ((sFull.makeRoom 0 1024 .dflt).bind (fun t => t.makeRoom 0 1280 .dflt)).map (fun t => (t.cluster 0).lines.map L1Line.line)
      = some [0, 96, 33, 128, 160] := by decide +kernel

theorem wit_CacheVictim : sFull.tidy = true ∧ ((sFull.cluster 0).lines.all (fun e => e.line != 1024 / 8)) = true
    ∧ (sFull.cluster 0).freeBank (1024 / 8) = none ∧ (sFull.makeRoom 0 1024 .stky).isSome = true := by decide +kernel

/-- Beyond half the ways of a set, a sticky access is an ordinary one (05 R114). -/
theorem test_sticky_cap : (fullSet.note 32 .stky).lines.map L1Line.hint = [.stky, .dflt, .strm, .stky, .dflt]
    ∧ (fullSet.note 33 .stky).lines.map L1Line.hint = [.stky, .dflt, .strm, .stky, .stky]
    ∧ (fullSet.note 96 .stky).lines = fullSet.lines := by decide +kernel

/-- RetentionRecord: a line that the L2 holds -/
theorem wit_RetentionRecord : 0x400 / 8 ∈ { base with l2lines := [(0x80, Hint.dflt)] }.l2lines.map Prod.fst := by decide

/-- Bank 0 drains. -/
def sDraining : State := { base with agenda := [], clusters := [(0, { fullSet with
  banks := [(0, { Bank.reset with target := some .off })] })] }

theorem wit_CacheEvicts : sDraining.agenda = [] ∧ sDraining.clusters.map Prod.fst = [0]
    ∧ (sDraining.victimSectors 0).head? = some 0 ∧ exec (.writePerformed false 0 0) sDraining ≠ .next sDraining := by
  refine ⟨rfl, rfl, by decide +kernel, ?_⟩
  intro h
  have h2 := congrArg (fun o => match o with
    | Host.Outcome.next t => (t.cluster 0).lines.length
    | _ => 0) h
  revert h2
  decide +kernel

theorem wit_WriteSeenBack : base.tidy = true ∧ base.memoryOk = true ∧ unmoved base
    ∧ (List.replicate 64 (7 : Byte)).length = 64 := by
  refine ⟨by decide +kernel, by decide +kernel, fun p => rfl, by decide⟩

def at1 (seg : BitVec 8) (off : BitVec 32) : Addr := { base := .reg 1, seg := seg, pair := false, off := off }
def at2 (seg : BitVec 8) (off : BitVec 32) : Addr := { base := .reg 2, seg := seg, pair := false, off := off }

def accHyps (s : State) (i : Instr) (u : Uses) (p : Cx → Bool) : Bool :=
  ready s g0 u (fun cx => wellFormed cx.env i && cx.eff != 0 && p cx)

def ldUses (m : Addr) : Uses := memUses m (.spec .zero) (.spec .zero) [9]
def st3 (wd : Width) (m : Addr) : Uses := stUses wd m (.reg 3)

/-- a protected segment by a load, and by a store to the aperture; a misaligned address; an address past the scratch -/
theorem wit_AccessTraps :
    accHyps base (.ld g0 .b64 .plain .grp .dflt 9 (at2 0xFC 0)) (ldUses (at2 0xFC 0)) (fun _ => true) = true
    ∧ accHyps base (.st g0 .b64 .plain .grp .dflt (at2 0xFD 0) (.reg 3)) (st3 .b64 (at2 0xFD 0)) (fun _ => true) = true
    ∧ accHyps base (.ld g0 .b64 .plain .grp .dflt 9 (at2 0x10 4)) (ldUses (at2 0x10 4)) (fun cx =>
        ((lanes cx.eff).find? (fun k => (laneAddr cx (at2 0x10 4) k).2.toNat % 8 != 0)).isSome) = true
    ∧ accHyps base (.st g0 .b64 .plain .grp .dflt (at2 0xFE 1000) (.reg 3)) (st3 .b64 (at2 0xFE 1000)) (fun cx =>
        ((lanes cx.eff).find? (fun k => decide (256 * cx.l.scru < (laneAddr cx (at2 0xFE 1000) k).2.toNat + 8))) == some 3) = true := by
  decide +kernel

/-- The hypotheses of `OtherAccessTraps` on a word that names no run. -/
def otherHyps (i : Instr) (p : Cx → Nat → List LaneAcc → Bool) : Bool :=
  match (base.cx? g0 Uses.none).bind (fun c => namesOf c i) with
  | some (w, u, ms) => readyRuns base w u (fun _ => ms) (fun cx => wellFormed cx.env i && cx.eff != 0
      && match accessOf cx i with
        | some (z, accs) => p cx z accs
        | none => false)
  | none => false

def liesOut (a : LaneAcc) : Bool := a.seg == 0xFC || a.seg == 0xFD || a.seg == 0xFF

/-- a protected segment, an address that is not aligned, and bytes past the scratch -/
theorem wit_OtherAccessTraps :
    [Instr.ldi g0 .b64 3 .dflt 9 (at2 0xFC 0), .acas g0 true .plain .grp 9 (at2 0xFD 0) (.reg 3) (.reg 1),
      .stp g0 4 .dflt (at2 0xFF 0) (.reg 3) (.reg 4)].all (fun i => otherHyps i (fun _ _ accs => (accs.find? liesOut).isSome)) = true
    ∧ [Instr.ldi g0 .b64 3 .dflt 9 (at2 0x10 4), .atom g0 .add true 0 .plain .grp 9 (at2 0xFE 2) (.reg 3)].all (fun i =>
      otherHyps i (fun _ z accs => !accs.any liesOut && (accs.find? (fun a => a.off % z != 0)).isSome)) = true
    ∧ [Instr.ldi g0 .b64 3 .dflt 9 (at2 0xFE 1000), .red g0 .add true 0 .plain .grp (at2 0xFE 1000) (.reg 3)].all (fun i =>
      otherHyps i (fun cx z accs => !accs.any liesOut && accs.all (fun a => a.off % z == 0)
        && (accs.find? (fun a => a.seg == 0xFE && a.n != 0 && decide (256 * cx.l.scru < a.off + a.n))).isSome)) = true := by
  decide +kernel

/-- 63 loads are out on counter 3 -/
theorem wit_LoadWaits :
    accHyps (withG (fun g => { g with acs := [(3, 63)] })) (.ldi g0 .b64 3 .dflt 9 (at2 0x10 0))
      (memUses (at2 0x10 0) (.spec .zero) (.spec .zero) [9]) (fun cx => decide (63 ≤ cx.g.ac 3)) = true := by decide +kernel

def readHyps (s : State) (i : Instr) (u : Uses) (accs : Cx → List LaneAcc) (z : Nat) (p : Cx → List (Piece × Got) → Bool) : Bool :=
  accHyps s i u (fun cx => cx.p.fills == [] && (earlyFault cx z (accs cx)).isNone
    && match (s.fetched cx u).probe (cx.fetched u) .read (accs cx) with
      | .ok rs s1 => p cx (s1.readPieces (cx.fetched u) (readerOf (cx.fetched u) .plain .grp .dflt) ((accs cx).flatMap (splitAcc rs))).1
      | _ => false)

/-- Page 2 of segment 0x10 is a page of device 3. -/
def sPeer : State := base.modCore oneCore (fun c => { c with tlb := { page 0x10 2 2 7 with leaf := leaf 2 7 + (3 <<< 64) } :: c.tlb })

/-- ld and ldi of memory that is at hand; a peer sector that is not -/
theorem wit_LoadWords :
    readHyps base (.ld g0 .b64 .plain .grp .dflt 9 (at2 0x10 0)) (ldUses (at2 0x10 0)) (fun cx => byteAccs cx (at2 0x10 0) 8) 8
      (fun _ xs => allRead xs) = true
    ∧ readHyps base (.ldi g0 .b64 3 .dflt 9 (at2 0x10 0)) (ldUses (at2 0x10 0)) (fun cx => byteAccs cx (at2 0x10 0) 8) 8
      (fun cx xs => allRead xs && cx.g.ac 3 < 63) = true
    ∧ readHyps sPeer (.ld g0 .b64 .plain .grp .dflt 9 (at2 0x10 0x20000)) (ldUses (at2 0x10 0x20000))
      (fun cx => byteAccs cx (at2 0x10 0x20000) 8) 8 (fun _ xs => neededSectors xs != []) = true := by decide +kernel

theorem wit_PackedLoad :
    readHyps base (.ldp g0 true 10 .dflt 9 (at2 0x10 3) (.reg 4)) (memUses (at2 0x10 3) (.spec .zero) (.reg 4) [9])
      (fun cx => (packAccs cx 10 (at2 0x10 3) (.reg 4)).map (·.1)) 1 (fun _ xs => allRead xs) = true := by decide +kernel

def writeHyps (s : State) (i : Instr) (u : Uses) (accs : Cx → List LaneAcc) (z : Nat) (p : Cx → State → List Region → Bool)
    (ms : Cx → Members := fun _ => Members.none) : Bool :=
  readyRuns s g0 u ms (fun cx => wellFormed cx.env i && cx.eff != 0 && cx.p.fills == [] && (s.team? (tidOf cx.gid)).isSome
    && (earlyFault cx z (accs cx)).isNone
    && match (s.fetched cx u (ms cx)).probe (cx.fetched u (ms cx)) .write (accs cx) with
      | .ok rs s1 => p cx s1 rs
      | _ => false)

def stPieces (cx : Cx) (m : Addr) (rs : List Region) : List (Piece × List Byte) := storePieces cx .b64 (.reg 3) rs (byteAccs cx m 8)

/-- a plain store, one to scratch, and a release at .dev -/
theorem wit_StoreWords :
    [(Order.plain, Scope.grp, at2 0x10 0), (.plain, .grp, at2 0xFE 0), (.rel, .dev, at2 0x10 0)].all (fun x =>
      writeHyps base (.st g0 .b64 x.1 x.2.1 .dflt x.2.2 (.reg 3)) (st3 .b64 x.2.2) (fun cx => byteAccs cx x.2.2 8) 8 (fun cx s1 rs =>
        let rel := releases x.1 && (x.2.1 == .dev || x.2.1 == .sys)
        let cx0 := cx.fetched (st3 .b64 x.2.2)
        let ps := stPieces cx x.2.2 rs
        let r := s1.releaseAt cx0 (if rel then x.2.1 else .grp) (storeWho cx0 (ps.map Prod.fst))
        r.1 && (byteAccs cx x.2.2 8).all (fun a => a.seg != 0xFD)
        && !writeBlocked r.2 cx0 (rel || Hint.dflt == .byp) (rel && x.2.1 == .sys)
          ((ps.filter (fun y => !y.1.scratch)).map (fun y => y.1.place)))) = true := by
  decide +kernel

def mergeReady (s1 : State) (cx0 : Cx) (xs : List BitByte) : Bool :=
  (mergeBits xs).all (fun y => y.2.mask == 0xFF || (s1.storedByte cx0 .dflt y.2).isSome)
    && !writeBlocked s1 cx0 false false (((mergeBits xs).filter (fun y => !y.2.scratch)).map (fun y => y.2.place))

def stfrMembers : Cx → Members := fun cx => { reads := runOf 24 (ceilDiv 5 (cx.fmt 1).k), writes := [] }

/-- stp of five-bit fields at byte 3, and stfr of five FP4 codes a lane -/
theorem wit_BitStores :
    writeHyps base (.stp g0 4 .dflt (at2 0x10 3) (.reg 3) (.spec .one)) (memUses (at2 0x10 3) (.reg 3) (.spec .one) [])
      (fun cx => (packAccs cx 4 (at2 0x10 3) (.spec .one)).map (·.1)) 1 (fun cx s1 rs =>
        mergeReady s1 (cx.fetched (memUses (at2 0x10 3) (.reg 3) (.spec .one) [])) ((packAccs cx 4 (at2 0x10 3) (.spec .one)).flatMap
          (fun x => fieldBytes rs x.1 x.2.1 x.2.2 ((cx.src (.reg 3)).lane x.1.lane).toNat))) = true
    ∧ writeHyps sScaled (.stfr g0 1 .dflt (at2 0x10 3) 24 (.reg 4)) (runMemUses (at2 0x10 3) [24] (.reg 4) [] [24] 1)
      (fun cx => byteAccs cx (at2 0x10 3) 3) 1 (fun cx s1 rs =>
        let n := ((cx.src (.reg 4)).firstIn cx.eff).toNat % 65536
        let f := cx.fmt 1
        n == 5 && ceilDiv (n * f.w) 8 == 3 && (cx.src (.reg 4)).equalIn cx.eff && !((cx.src (.reg 4)).firstIn cx.eff).getLsbD 31
        && n ≤ 32 * f.k && 24 + ceilDiv n f.k ≤ cx.g.nr
        && mergeReady s1 (cx.fetched (runMemUses (at2 0x10 3) [24] (.reg 4) [] [24] 1) (stfrMembers cx))
          ((byteAccs cx (at2 0x10 3) 3).flatMap (fun a => fieldBytes rs a 0 (n * f.w) 0))) stfrMembers = true := by
  decide +kernel

theorem wit_FormRoundTrip : (1 : Nat) ≤ 4 ∧ (4 : Nat) ≤ 64 ∧ 1 ≤ [0, 9, 0, 15].length ∧ [0, 9, 0, 15].length < 65536
    ∧ ∀ x ∈ [0, 9, 0, 15], x < 2 ^ 4 := by decide

/-- C of stz and ldz: CAP 64 in [63:32], 20 elements -/
def formC : Word := 0x4000000014

def stzMembers : Cx → Members := fun cx => { reads := runOf 24 (formRun cx (cx.fmt 1) 20), writes := [] }
def stzBytes (cx : Cx) : List Byte := formBytes 4 ((List.range 20).map (fun e =>
  subElem ((cx.g.val (24 + e / (cx.g.width * (cx.fmt 1).k))).lane (e % (cx.g.width * (cx.fmt 1).k) / (cx.fmt 1).k)) 4 (e % (cx.fmt 1).k)))

theorem wit_FormStore :
    writeHyps (sScaled.modGroup oneGroup (fun g => g.setVal 5 (.uniform formC))) (.stz g0 1 .dflt (at1 0x10 0) 24 (.reg 5))
      (runMemUses (at1 0x10 0) [24] (.reg 5) [] [24] 1)
      (fun cx => [{ lane := lowLane cx, seg := 0x10, off := 64, n := (stzBytes cx).length }]) 16 (fun cx s1 rs =>
        let acc : LaneAcc := { lane := lowLane cx, seg := 0x10, off := 64, n := (stzBytes cx).length }
        (formAddr cx (at1 0x10 0) (.reg 5) == some (0x10, 64, formC))
        && (formFault cx 24 (formRun cx (cx.fmt 1) 20) 20 64).isNone && (stzBytes cx).length ≤ 64 && (cx.fmt 1).w == 4
        && !writeBlocked s1 (cx.fetched (runMemUses (at1 0x10 0) [24] (.reg 5) [] [24] 1) (stzMembers cx)) false false
          (((alongPieces (splitAcc rs acc) (stzBytes cx)).filter (fun x => !x.1.scratch)).map (fun x => x.1.place)))
      stzMembers = true := by
  decide +kernel

/-- Memory holds the form of four elements at 64 of page 0. -/
def sForm : State := { sScaled.modGroup oneGroup (fun g => g.setVal 5 (.uniform 0x4000000004)) with
  mem := Memory.writeN [] 0x10040 (formBytes 4 [0, 9, 0, 15]) }

def runReadHyps (s : State) (i : Instr) (u : Uses) (ms : Cx → Members) (p : Cx → State → Cx → Bool) : Bool :=
  readyRuns s g0 u ms (fun cx => wellFormed cx.env i && cx.eff != 0 && cx.p.fills == [] && p cx (s.fetched cx u (ms cx)) (cx.fetched u (ms cx)))

def probed (s : State) (cx : Cx) (accs : List LaneAcc) (p : List Region → State → Bool) : Bool :=
  match s.probe cx .read accs with
  | .ok rs s1 => p rs s1
  | _ => false

def wasRead (s : State) (cx : Cx) (rs : List Region) (accs : List LaneAcc) (p : List (Piece × Got) → State → Bool) : Bool :=
  match readAccess s cx .dflt rs accs with
  | .inl (xs, s1) => p xs s1
  | .inr _ => false

theorem wit_FormLoad :
    runReadHyps sForm (.ldz g0 1 .dflt 20 (at1 0x10 0) (.reg 5)) (runMemUses (at1 0x10 0) [] (.reg 5) [20] [20] 1)
      (fun cx => { reads := [], writes := runOf 20 (formRun cx (cx.fmt 1) 4) }) (fun cx s0 cx0 =>
        let acc (k : Nat) : LaneAcc := { lane := lowLane cx, seg := 0x10, off := 64, n := k }
        let size := 16 + formMask 4 + formVals 2 4
        formAddr cx (at1 0x10 0) (.reg 5) == some (0x10, 64, 0x4000000004)
        && (earlyFault cx 16 [acc (16 + formMask 4)]).isNone && (formFault cx 20 (formRun cx (cx.fmt 1) 4) 4 64).isNone
        && probed s0 cx0 [acc (16 + formMask 4)] (fun r1 s1 => wasRead s1 cx0 r1 [acc (16 + formMask 4)] (fun xs s2 =>
          (laneBytes xs (lowLane cx)).any (fun hd => formHeader 4 4 hd == some 2 && maskCount 4 hd == 2) && size ≤ 64
          && (scratchFault cx.scratchSize [acc size]).isNone
          && probed s2 cx0 [acc size] (fun r2 s3 => wasRead s3 cx0 r2 [acc size] (fun ys _ =>
            (laneBytes ys (lowLane cx)).isSome))))) = true := by decide +kernel

theorem wit_FragmentLoad :
    runReadHyps sScaled (.ldfr g0 1 .dflt 20 (at2 0x10 0) (.reg 4)) (runMemUses (at2 0x10 0) [] (.reg 4) [20] [20] 1)
      (fun _ => { reads := [], writes := runOf 20 1 }) (fun cx s0 cx0 =>
        let accs := byteAccs cx (at2 0x10 0) 3
        (cx.src (.reg 4)).equalIn cx.eff && ((cx.src (.reg 4)).firstIn cx.eff).toNat == 5 && (cx.fmt 1).w == 4 && ceilDiv 5 (cx.fmt 1).k == 1
        && (earlyFault cx 1 accs).isNone
        && probed s0 cx0 accs (fun rs s1 => wasRead s1 cx0 rs accs (fun xs _ => allRead xs))) = true := by
  decide +kernel

/-- Rows of one sector of FP4 codes with block size 8, 64 bytes apart; v5 asks for 20 elements of sectors. -/
def sRows : State := { sScaled.modGroup oneGroup (fun g => (g.setVal 5 (.uniform 0x80000014)).setVal 2 (.affine 0 64)) with
  mem := (List.range 8).foldl (fun m i => Memory.writeN m (0x10000 + 64 * i) [0x01, BitVec.ofNat 8 (127 + i), 0x22, 0x33]) [] }

theorem wit_FragmentSectors :
    runReadHyps sRows (.ldfr g0 1 .dflt 20 (at2 0x10 0) (.reg 5)) (runMemUses (at2 0x10 0) [] (.reg 5) [20] [20] 1)
      (fun cx => { reads := [], writes := runOf 20 (ceilDiv 20 (cx.fmt 1).k + 1) }) (fun cx s0 cx0 =>
        let accs := byteAccs cx (at2 0x10 0) 64
        let k := ceilDiv 20 (cx.fmt 1).k
        (cx.src (.reg 5)).equalIn cx.eff && ((cx.src (.reg 5)).firstIn cx.eff) == 0x80000014 && k == 2
        && (earlyFault cx 64 accs).isNone && !runBad cx 20 (k + 1) 32
        && probed s0 cx0 accs (fun r0 s0 => wasRead s0 cx0 r0 (accs.take 1) (fun ys s1 =>
          (laneBytes ys (lowLane cx)).any (fun hb => (hb.getD 0 0).toNat == 1)
          && headerBlock 1 == 8 && sectorBlocks 8 4 == blocks && blocks * 8 ≥ 20
          && (s1.holdRest cx0 (runOf 20 (k + 1))).isNone && (scratchFault cx.scratchSize accs).isNone
          && probed s1 cx0 accs (fun rs s2 => wasRead s2 cx0 rs accs (fun xs _ => allRead xs
            && (lanes cx.eff).all (fun l => (laneBytes xs l).any (fun bs => rowHeaderOk 1 0 (ofBytes bs % 256)))))))) = true := by
  decide +kernel

/-- pref, cwb and cinv of a line that holds a written sector -/
def sDirty : State := (Outcome.next? (exec (.st g0 .b64 .plain .grp .dflt (at2 0x10 0) (.reg 3)) base)).getD base

def lineU (m : Addr) : Uses := memUses m (.spec .zero) (.spec .zero) []

def lineHyps (m : Addr) (i : Instr) : Bool :=
  accHyps sDirty i (lineU m) (fun cx => (segFault (lineAccs cx m)).isNone
    && match (sDirty.fetched cx (lineU m)).probe (cx.fetched (lineU m)) .probe (lineAccs cx m) with
      | .ok rs s1 =>
        let cx0 := cx.fetched (lineU m)
        let secs := lineSectors rs (lineAccs cx m)
        let s2 := secs.foldl (fun s sec => s.maintain cx0 .dev (linePieces rs (lineAccs cx m)) sec) s1
        secs.all (fun sec => !s2.maintains cx0 .dev sec) && secs.contains 0x400
      | _ => false)

theorem wit_CacheWords :
    accHyps base (.pref g0 .dev .dflt (at2 0x10 0)) (lineU (at2 0x10 0)) (fun cx => (segFault (lineAccs cx (at2 0x10 0))).isNone) = true
    ∧ ready base { g0 with pg := 2 } (lineU (at2 0x10 0)) (fun cx => cx.eff == 0 && wellFormed cx.env (.pref { g0 with pg := 2 } .dev .dflt (at2 0x10 0))
      && (segFault (lineAccs cx (at2 0x10 0))).isNone) = true
    ∧ (sDirty.l1Sector 0 0x400).any (fun x => x.mask != 0) = true
    ∧ lineHyps (at2 0x10 0) (.cwb g0 .dev (at2 0x10 0)) = true ∧ lineHyps (at2 0x10 0) (.cinv g0 .dev (at2 0x10 0)) = true := by decide +kernel

/-- Bank 5 is a strand of context 0 with `n` entries. -/
def sStrand (n : Nat) (filled : Bool) : State := base.modBank 0 5 (fun b => { b with
  mode := .strand, ownCtx := 0, ownValid := true
  strand := List.replicate n { owner := 0, data := if filled then some (toBytes 64 77) else none } })

/-- ldq of an empty strand and of one with data; stq with room and without -/
theorem wit_StrandWords :
    accHyps (sStrand 0 true) (.ldq g0 .b64 9 (.reg 4) 0) (usesOf [.reg 4] [9]) (fun cx =>
      (match strandOf (sStrand 0 true) cx (.reg 4) 0 false with
        | .inl b => b == 5
        | .inr _ => false) && (filledHead 1 ((sStrand 0 true).bank 0 5).strand).isNone) = true
    ∧ accHyps (sStrand 2 true) (.ldq g0 .b64 9 (.reg 4) 0) (usesOf [.reg 4] [9]) (fun cx =>
      (match strandOf (sStrand 2 true) cx (.reg 4) 0 false with
        | .inl b => b == 5
        | .inr _ => false) && (filledHead 1 ((sStrand 2 true).bank 0 5).strand).isSome) = true
    ∧ [2, 1024].all (fun n => accHyps (sStrand n true) (.stq g0 .b64 (.reg 4) 0 (.reg 3)) (usesOf [.reg 4, .reg 3] []) (fun cx =>
      match strandOf (sStrand n true) cx (.reg 4) 0 true with
        | .inl b => b == 5
        | .inr _ => false)) = true := by decide +kernel

def someCopy : Copy where
  serial := 3
  gid := oneGroup
  tidx := 0
  words := List.replicate 8 0
  coords := []
  doff := 0
  got := []
  wrote := 0
  reserved := false
  faulted := false
  abortNext := false
  late := false
  due := tinfo

/-- An outstanding write-back of the group's to device 3. -/
def someRemote : Remote where
  ctx := 0
  owner := 3
  sec := 9
  req := { reqPlain base 0 1 0x40 with ext := true, hm := 5, rb := 5 }
  sent := [0]
  retries := 0
  backoff := false
  queued := false
  purpose := .writeback 9 (some (oneGroup, tinfo))

def sRemote : State := { base with serial := 10, remotes := [(4, someRemote)], peerx := [(3, true)] }

def fenceHyps (s : State) (o : Order) (sc : Scope) (p : Bool → State → Cx → Bool) : Bool :=
  accHyps s (.fence g0 o sc) Uses.none (fun cx =>
    p ((s.fetched cx Uses.none).releaseAt (cx.fetched Uses.none) sc).1 ((s.fetched cx Uses.none).releaseAt (cx.fetched Uses.none) sc).2 cx)

theorem wit_WaitWords :
    [0, 4].all (fun k => ready (withG (fun g => g.setAc 2 k)) g0 Uses.none (fun cx => wellFormed cx.env (.waitac g0 2 3) && cx.g.ac 2 == k)) = true
    ∧ [[], [someCopy]].all (fun k => ready (withT (fun t => t.setQueue 1 { pending := k, done := 0 })) g0 Uses.none (fun cx =>
        wellFormed cx.env (.qfence g0 2))) = true
    ∧ fenceHyps base .ar .dev (fun ok s1 cx => ok && !s1.openOf cx.gid) = true
    ∧ fenceHyps base .acq .sys (fun ok _ _ => ok) = true
    ∧ fenceHyps sRemote .rel .team (fun ok s1 cx => ok && s1.openOf cx.gid) = true
    ∧ fenceHyps sRemote .rel .dev (fun ok _ _ => !ok) = true := by decide +kernel


def sIdle : State := { base with islands := [(0, { Island.reset with cur := 1 })], agenda := [.issue oneGroup 0] }

/-- A core whose island is IDLE issues nothing, and its group stays (16 R349). -/
theorem test_idle_core : step sIdle = .next { sIdle with agenda := [] } ∧ sIdle.pick oneCore = none := by
  refine ⟨rfl, by decide +kernel⟩

/-! Atomics, clasps, matrix and engine words (05 R125 to R139, 06, 07) -/

/-- red, atom, or acas with v3 as operand and swap value. -/
def atomOf (kind : Nat) (op : AtomOp) (b64 : Bool) (fs : BitVec 4) (o : Order) (sc : Scope) (m : Addr) : Instr × Uses :=
  match kind with
  | 0 => (.red g0 op b64 fs o sc m (.reg 3), (memUses m (.reg 3) (.spec .zero) []).withSlots (atomSlots op fs))
  | 1 => (.atom g0 op b64 fs o sc 9 m (.reg 3), (memUses m (.reg 3) (.spec .zero) [9]).withSlots (atomSlots op fs))
  | _ => (.acas g0 b64 o sc 9 m (.reg 3) (.reg 1), memUses m (.reg 3) (.reg 1) [9])

def atomHyps (s : State) (x : Instr × Uses) (b64 : Bool) (m : Addr) (p : Cx → State → List Region → Bool) : Bool :=
  accHyps s x.1 x.2 (fun cx => (s.team? (tidOf cx.gid)).isSome && (earlyFault cx (atomBytes b64) (byteAccs cx m (atomBytes b64))).isNone
    && match (s.fetched cx x.2).probe (cx.fetched x.2) .atomic (byteAccs cx m (atomBytes b64)) with
      | .ok rs s1 => p cx s1 rs
      | _ => false)

/-- one word of local memory, and one of scratch, by red, atom and acas -/
theorem wit_AtomicOneWord :
    [(0, AtomOp.add, true, Scope.grp, at1 0x10 0), (1, .umax, false, .dev, at1 0x10 4), (1, .xor, true, .team, at1 0xFE 0),
      (2, .exch, true, .grp, at1 0x10 0)].all (fun x =>
      atomHyps base (atomOf x.1 x.2.1 x.2.2.1 0 .plain x.2.2.2.1 x.2.2.2.2) x.2.2.1 x.2.2.2.2 (fun cx s1 rs =>
        let q := x.2.2.2.2
        cx.g.width == 8 && (lanes cx.eff).all (fun l => (laneAddr cx q l).1 == q.seg && (laneAddr cx q l).2.toNat == 64 + q.off.toNat)
        && s1.migrations == [] && (q.seg == 0xFE || (let a := placeIn rs q.seg (64 + q.off.toNat)
          isLocal a && !s1.isPoisoned (sectorOf a) && (s1.l1Sector cx.g.core.clus (sectorOf a)).isNone)))) = true := by decide +kernel

/-- Slot 0 is binary64 with stochastic rounding. -/
def sFloat : State := sScaled.modGroup oneGroup (fun g => { g with slots := [(0, 0x1AA1FFE97)] })

/-- what AtomicCompletes asks, and how many operations went on -/
def completeHyps (s : State) (kind : Nat) (op : AtomOp) (b64 : Bool) (fs : BitVec 4) (o : Order) (sc : Scope) (m : Addr)
    (k : List (AtomJob × Perf) → Bool) : Bool :=
  let u := (atomOf kind op b64 fs o sc m).2
  atomHyps s (atomOf kind op b64 fs o sc m) b64 m (fun cx s1 rs =>
    let cx0 := cx.fetched u
    let accs := byteAccs cx m (atomBytes b64)
    let w : AtomWord := { op := op, b64 := b64, fs := fs, fetches := kind != 0, sc := sc, reg := if kind = 0 then none else some 9, serial := s1.serial }
    let js := if kind = 0 ∨ kind = 1 then
        (if op = .exch then accs.map (jobOne cx0 b64 (kind != 0) (.reg 3) none)
          else (addrSets accs).map (jobOf cx0 op b64 (kind != 0) fs (.reg 3)))
      else accs.map (jobOne cx0 b64 true (.reg 3) (some (.reg 1)))
    let ps := jobPieces w rs js
    let r := if releases o || acquires o then s1.take.2.releaseAt cx0 sc (storeWho cx0 ps) else (true, s1.take.2)
    let s2 := (sysSectors w rs js).foldl (fun s sec => s.clearPeer cx0 ps sec) r.2
    (!cx.l.det || op != .fadd) && (!isFloatAtom op || decide ((cx.fmt fs).w ≤ 8 * atomBytes b64))
    && (!(isFloatAtom op || kind == 2) || (plainPeer s1 rs accs).isNone)
    && r.1 && !windowFull s2 cx0 w rs js && (let xs := (s2.performAll cx0 w rs js).1
      xs.all (fun x => goesOn x.2) && k xs))

def done8 (xs : List (AtomJob × Perf)) : Bool := xs.length == 8 && xs.all (fun x => match x.2 with
  | .done _ _ => true
  | _ => false)

def sentAll (xs : List (AtomJob × Perf)) : Bool := xs != [] && xs.all (fun x => match x.2 with
  | .sent _ => true
  | _ => false)

/-- eight words of local memory, with release and acquire; a stochastic floating sum; operations sent to device 3 -/
theorem wit_AtomicCompletes :
    completeHyps base 1 .add true 0 .ar .dev (at2 0x10 0) done8 = true
    ∧ completeHyps base 2 .exch true 0 .plain .grp (at2 0x10 0) done8 = true
    ∧ completeHyps sFloat 1 .fadd true 0 .plain .grp (at2 0x10 0) done8 = true
    ∧ completeHyps { sPeer with peerx := [(3, true)] } 1 .add true 0 .plain .sys (at1 0x10 0x20000) sentAll = true := by decide +kernel

def sDet : State := sFloat.modLaunch 0 (fun l => { l with lrec := { l.lrec with det := true } })

def contribHyps (s : State) (m : Addr) (p : Cx → State → Bool) : Bool :=
  atomHyps s (.red g0 .fadd true 0 .plain .grp m (.reg 3), (memUses m (.reg 3) (.spec .zero) []).withSlots (fsSlot 0)) true m
    (fun cx s1 rs => cx.l.det && decide ((cx.fmt 0).w ≤ 64) && (plainPeer s1 rs (byteAccs cx m 8)).isNone && p cx s1)

def manyContribs : List Contrib := List.replicate 1024
  { gid := oneGroup, seq := 0, scratch := false, ga := 0x10000, stamps := [], b64 := true, fdef := 0, total := 0, lanet := 0,
    draw := 0, soff := 0, nodes := Counts.zero, due := tinfo }

def sFullBuffer : State := (sDet.modTeam oneTeam (fun t => { t with contrib := manyContribs })).modLaunch 0 (fun l => { l with bead := 7 })

/-- on memory, on scratch, and into a buffer that is full whatever its capacity, without the bead -/
theorem wit_Contributions :
    [at2 0x10 0, at2 0xFE 0].all (fun m => contribHyps sDet m (fun cx s1 => !Config.contribFull (0 + (addrSets (byteAccs cx m 8)).length - 1)
      && (s1.team? (tidOf cx.gid)).any (fun t => t.contrib == []))) = true
    ∧ contribHyps sFullBuffer (at2 0x10 0) (fun cx s1 => (s1.team? (tidOf cx.gid)).any (fun t => t.contrib.length == 1024)
        && decide (1 ≤ (addrSets (byteAccs cx (at2 0x10 0) 8)).length) && !s1.holdsBead (tidOf cx.gid)) = true
    ∧ ∀ n, Config.contribFull (1024 + n) = true := by
  refine ⟨by decide +kernel, by decide +kernel, fun n => ?_⟩
  have h := Nat.mod_lt (Config.rawCapacity 0) (show 0 < 1024 + 1 - 256 by decide)
  have h1 : 256 ≤ 1024 + n := by omega
  have h2 : 256 + Config.rawCapacity 0 % (1024 + 1 - 256) ≤ 1024 + n := by omega
  simp only [Config.contribFull, Config.atCapacity, Config.capacity, h1, h2, decide_true, Bool.and_self]

/-- A contribution to memory of device 3, whose sector must come first. -/
def sDetPeer : State := sDet.modTeam oneTeam (fun t => { t with contrib :=
  [{ gid := oneGroup, seq := 0, scratch := false, ga := mkPlace 2 3 0x40, stamps := [], b64 := true, fdef := 0x10A1FFE97, total := 0,
     lanet := 0, draw := 0, soff := 0, nodes := Counts.zero, due := tinfo }] })

def underDetHyps (s : State) (p : Cx → State → List Region → Bool) : Bool :=
  atomHyps s (atomOf 1 .fadd true 0 .plain .grp (at2 0x10 0)) true (at2 0x10 0) (fun cx s1 rs => cx.l.det
    && decide ((cx.fmt 0).w ≤ 64) && (plainPeer s1 rs (byteAccs cx (at2 0x10 0) 8)).isNone && p cx s1 rs)

def drained2 (s1 : State) (cx : Cx) : Bool × Bool × State :=
  let a := s1.take.2.drainBuffer (tidOf cx.gid)
  let b := a.2.drainL1 cx.g.core.clus
  (a.1, b.1, b.2)

/-- without the bead; with it, where draining must wait; and where the atomic is performed -/
theorem wit_AtomUnderDet :
    underDetHyps (sDet.modLaunch 0 (fun l => { l with bead := 7 })) (fun cx s1 _ => !s1.holdsBead (tidOf cx.gid)) = true
    ∧ underDetHyps sDetPeer (fun cx s1 _ => s1.holdsBead (tidOf cx.gid) && !(drained2 s1 cx).1) = true
    ∧ underDetHyps sDet (fun cx s1 rs => s1.holdsBead (tidOf cx.gid) && (drained2 s1 cx).1 && (drained2 s1 cx).2.1
        && (let cx0 := cx.fetched (atomOf 1 .fadd true 0 .plain .grp (at2 0x10 0)).2
          let sb := (drained2 s1 cx).2.2.acquireAt cx.g.core.clus cx.ctx (fun _ => cx0.who) .dev
          let w : AtomWord := { op := .fadd, b64 := true, fs := 0, fetches := true, sc := accScope (byteAccs cx (at2 0x10 0) 8) .grp
                                reg := some 9, serial := s1.serial }
          let js := (addrSets (byteAccs cx (at2 0x10 0) 8)).map (jobOf cx0 .fadd true true 0 (.reg 3))
          let s2 := (sysSectors w rs js).foldl (fun s sec => s.clearPeer cx0 (jobPieces w rs js) sec) sb
          (sb.group? cx.gid).isSome && !windowFull s2 cx0 w rs js
          && (s2.performAll cx0 w rs js).1.all (fun x => goesOn x.2))) = true := by decide +kernel

/-- without DET; under it without and with the bead, at once or waiting for a sector -/
theorem wit_BeadWords :
    accHyps base (.bead g0 true) Uses.none (fun cx => !cx.l.det) = true
    ∧ accHyps (sDet.modLaunch 0 (fun l => { l with bead := 7 })) (.bead g0 true) Uses.none (fun cx => cx.l.det) = true
    ∧ (sDet.modLaunch 0 (fun l => { l with bead := 7 })).holdsBead oneTeam = false
    ∧ accHyps sDetPeer (.bead g0 true) Uses.none (fun cx => cx.l.det && sDetPeer.holdsBead (tidOf cx.gid)
      && !((sDetPeer.fetched cx Uses.none).drainBuffer (tidOf cx.gid)).1) = true
    ∧ accHyps sDet (.bead g0 true) Uses.none (fun cx => cx.l.det && sDet.holdsBead (tidOf cx.gid)
      && (let r := (sDet.fetched cx Uses.none).drainBuffer (tidOf cx.gid); r.1 && (r.2.drainL1 cx.g.core.clus).1)) = true := by
  decide +kernel

def clasp1 (count arrived : BitVec 16) (expb bytes : BitVec 32) : Clasp :=
  { ovr := false, pers := true, phase := false, count := count, arrived := arrived, expb := expb, bytes := bytes, gen := 4 }

/-- one clasp for each clause, at the ends of its range -/
theorem wit_ClaspRules :
    (clasp1 2 1 0 0).arrived ≠ 0 ∧ (clasp1 2 0 0 0).arrived = 0
    ∧ ((3 : BitVec 16) ≠ 0 ∧ (clasp1 2 1 0 0).count ≠ 0 ∧ (3 : BitVec 16) ≠ (clasp1 2 1 0 0).count)
    ∧ ((clasp1 0 1 0 0).count = 0 ∧ (1 : BitVec 16).toNat ≤ (clasp1 0 1 0 0).arrived.toNat)
    ∧ ((clasp1 2 2 4 0).count ≠ 0 ∧ (clasp1 2 2 4 0).arrived = (clasp1 2 2 4 0).count)
    ∧ ((clasp1 65535 65534 0 0).count ≠ 0 ∧ (clasp1 65535 65534 0 0).arrived.toNat < (clasp1 65535 65534 0 0).count.toNat)
    ∧ ((clasp1 0 65534 0 0).count = 0 ∧ (clasp1 0 65534 0 0).arrived.toNat < (65535 : BitVec 16).toNat) := by decide

/-- The clasp words with A the uniform v4 = 5, on clasp 3 as given. -/
def claspHyps (x : Clasp) (i : Instr) (u : Uses) (p : Cx → Clasp → Bool) : Bool :=
  let s := withT (fun t => t.setClasp 3 x)
  accHyps s i u (fun cx => (lanes cx.eff).all (fun l => (cx.src (.reg 4)).lane l == 5)
    && (s.team? (tidOf cx.gid)).any (fun tm => p cx (tm.clasp 3)))

theorem wit_ClaspWords :
    [clasp1 2 1 0 0, clasp1 2 0 0 0].all (fun x => claspHyps x (.clinit g0 3 (.reg 4)) (usesOf [.reg 4] []) (fun _ _ => true)) = true
    ∧ [clasp1 2 1 0 0, clasp1 5 4 0 0].all (fun x => claspHyps x (.clarr g0 9 3 (.reg 4)) (usesOf [.reg 4] [9]) (fun _ _ => true)) = true
    ∧ claspHyps (clasp1 2 1 0 0) (.clexp g0 3 (.reg 4)) (usesOf [.reg 4] []) (fun _ _ => true) = true
    ∧ [(clasp1 2 1 0 0, Waited.ends), ({ clasp1 2 1 0 0 with phase := true }, .goesOn), ({ clasp1 2 1 0 0 with ovr := true }, .over_),
        ({ clasp1 2 1 3 4 with phase := true }, .over_)].all (fun x =>
      claspHyps x.1 (.clwait g0 3 (.reg 4)) (usesOf [.reg 4] []) (fun cx y => y.waited true none == x.2 && cx.p.seenOver.isNone)) = true
    ∧ [(clasp1 2 1 0 0, none), (clasp1 5 4 0 0, some Waited.ends), (clasp1 5 3 0 0, some .goesOn)].all (fun x =>
      claspHyps x.1 (.clsync g0 3 (.reg 4)) (usesOf [.reg 4] []) (fun cx y =>
        cx.p.cwait.isNone && (y.arrive 5 0 true).map (fun z => z.waited y.phase none) == x.2)) = true
    ∧ (let s := withP (fun p => { p with cwait := some { clasp := 3, phase := true } })
      accHyps s (.clsync g0 3 (.reg 4)) (usesOf [.reg 4] []) (fun cx => cx.p.cwait.isSome)) = true := by decide +kernel

/-- int8 runs at v20 and v24, int32 runs from v40 and v48; v30 holds MK with M = N = 4 and K = 8, v31 one with M = 9. -/
def sMatrix : State := sScaled.modGroup oneGroup (fun g =>
  ((((g.setVal 20 (ramp 0x0102030405060708 0x11)).setVal 24 (ramp 0xFF02FE04FD06FC08 0x101)).setVal 48 (ramp 7 3)).setVal 30
    (.uniform 0x80404)).setVal 31 (.uniform 0x80409))

def mword (bs : Option BlockSize) (c : Option RegIx) (mk : RegIx) : Instr × MatrixWord :=
  let w : MatrixWord := { fs := 3, sb := 3, sc := 4, block := (bs.map blockLen).getD 0, d := 40, a := 20, b := 24, c := c.map (·.toNat), kreg := mk.toNat }
  match c, bs with
  | some r, some k => (.mmas g0 3 3 4 k 40 20 24 r mk, w)
  | some r, none => (.mma g0 3 3 4 40 20 24 r mk, { w with block := 0 })
  | none, _ => (.mmaz g0 3 3 4 40 20 24 mk, { w with block := 0 })

def matHyps (s : State) (x : Instr × MatrixWord) : Bool :=
  let w := x.2
  readyRuns s g0 (matrixUses w) (matrixMembers w) (fun cx =>
    let v := (cx.g.val w.kreg).lane 0
    let sh := Machine.shapeOf v
    let r := runsOf cx w sh
    let ms := matrixMembers w cx
    wellFormed cx.env x.1 && cx.eff == cx.g.full && (List.range 8).all (fun l => (cx.g.val w.kreg).lane l == v)
    && shapeOk v 8 (cx.fmt w.fs).k (cx.fmt w.sb).k (w.block != 0) && (w.block == 0 || !badScale (cx.g.slotDef sh.scs.toNat))
    && !runsBad cx w r && ((s.fetched cx (matrixUses w) ms).reserve (cx.fetched (matrixUses w) ms)).1)

/-- MK of v32: the same shape with scales in the format of slot 2. -/
def sScales : State := sMatrix.modGroup oneGroup (fun g =>
  (((g.setVal 21 (.uniform 0x7F)).setVal 25 (.uniform 0x80)).setVal 32 (.uniform 0x20080404)).setVal 33 (.uniform 0x30080404))

theorem wit_MatrixIssue :
    matHyps sMatrix (mword none (some 48) 30) = true ∧ matHyps sMatrix (mword none none 30) = true
    ∧ matHyps sScales (mword (some .bk16) (some 48) 32) = true := by decide +kernel

/-- which of its checks fails -/
def matTrap (g : Guard) (x : Instr × MatrixWord) : Option Nat :=
  let w := x.2
  let p (cx : Cx) : Nat :=
    let v := (cx.g.val w.kreg).firstIn cx.g.full
    let sh := Machine.shapeOf v
    if !(wellFormed cx.env x.1) then 9
    else if cx.eff != cx.g.full || !(cx.g.val w.kreg).equalIn cx.g.full then 0
    else if !shapeOk v 8 (cx.fmt w.fs).k (cx.fmt w.sb).k (w.block != 0) then 1
    else if w.block != 0 && badScale (cx.g.slotDef sh.scs.toNat) then 2
    else if runsBad cx w (runsOf cx w sh) then 3 else 4
  (List.range 5).find? (fun k => readyRuns sScales g (matrixUses w) (matrixMembers w) (fun cx => p cx == k))

/-- a mask that lacks lanes, MK that differs, a shape out of range, a slot that holds no scales, a run past the registers -/
theorem wit_MatrixTraps :
    matTrap g1 ((.mma g1 3 3 4 40 20 24 48 30, (mword none (some 48) 30).2)) = some 0 ∧ matTrap g0 (mword none (some 48) 2) = some 0
    ∧ matTrap g0 (mword none (some 48) 31) = some 1 ∧ matTrap g0 (mword (some .bk16) (some 48) 33) = some 2
    ∧ matTrap g0 ((.mma g0 3 3 4 63 20 24 48 30, { (mword none (some 48) 30).2 with d := 63 })) = some 3 := by decide +kernel

def someJob : MatrixJob where
  fa := 0x1000000E1
  fb := 0x1000000E1
  fc := 0x1000003E1
  fs := 0
  block := 0
  m := 4
  n := 4
  k := 8
  w := 8
  a := [ramp 0x0102030405060708 0x11]
  b := [ramp 0xFF02FE04FD06FC08 0x101]
  c := .regs [ramp 7 3, ramp 9 1]
  d := 40
  gd := 2
  seed := 0
  gid := oneGroup
  draw := []
  soff := 0

theorem wit_MatrixElement : someJob.block = 0 ∧ someJob.c = .regs [ramp 7 3, ramp 9 1] ∧ someJob.fmtA.isInt = true
    ∧ someJob.fmtB.isInt = true ∧ someJob.fmtC.isInt = true ∧ someJob.fmtA.w ≤ 16 ∧ someJob.fmtB.w ≤ 16 := by decide +kernel

/-- A template of one dimension of 16 elements of 32 bits at 0x1000 of segment 4. -/
def goodTmpl : List Word := [0x1000, 4 * 2 ^ 56 + 31 * 2 ^ 49 + 2 ^ 46, 0, 16, 0, 0, 0, 16]

/-- Memory holds a record at 0x40 of page 0; queue 0 is of context 0 and enabled. -/
def sRecord (ws : List Word) : State :=
  { base with
    mem := Memory.writeN [] 0x10040 (ws.flatMap (fun w => toBytes 8 w.toNat))
    queues := [(0, { Queue.reset with en := true })] }

def recHyps (s : State) (i : Instr) (kind n : Nat) (p : Cx → State → List Word → Bool) : Bool :=
  let u := usesOf [.reg 1] []
  accHyps s i u (fun cx => (s.team? (tidOf cx.gid)).isSome && (lanes cx.eff).all (fun l => (cx.src (.reg 1)).lane l == 64)
    && (kind != 2 || ((s.queue 0).ctx.toNat == cx.ctx && (s.queue 0).en))
    && (let acc : LaneAcc := { lane := lowLane cx, seg := 0x10, off := 64, n := n }
      match (s.fetched cx u).probe (cx.fetched u) .read [acc] with
      | .ok rs s1 => match readAccess s1 (cx.fetched u) .dflt rs [acc] with
        | .inl (xs, s2) => (laneBytes xs (lowLane cx)).any (fun bs => p cx s2 (recordWords bs))
        | _ => false
      | _ => false))

theorem wit_EngineWords :
    recHyps (sRecord goodTmpl) (.tmpl g0 3 0x10 (.reg 1)) 0 64 (fun cx _ r => (tmplBad r cx.l.clasps).isNone) = true
    ∧ recHyps (sRecord (goodTmpl.set 3 0)) (.tmpl g0 3 0x10 (.reg 1)) 0 64 (fun cx _ r => tmplBad r cx.l.clasps == some 4) = true
    ∧ recHyps (sRecord goodTmpl) (.coll g0 .red true 0x10 (.reg 1)) 1 64 (fun cx s2 _ =>
        !Config.collsFull ((sRecord goodTmpl).collCount cx.ctx) && (s2.releaseAt (cx.fetched (usesOf [.reg 1] [])) .sys).1) = true
    ∧ recHyps (sRecord goodTmpl) (.launch g0 0x10 0 (.reg 1)) 2 256 (fun cx s2 _ =>
        !Config.launchBufferFull ((sRecord goodTmpl).queue 0).buffered && (s2.releaseAt (cx.fetched (usesOf [.reg 1] [])) .dev).1) = true := by
  decide +kernel

/-- Bank 5 of cluster 0 as given. -/
def withBank (f : Bank → Bank) : State := base.modBank 0 5 f

/-- a bank of another context, one in transition, one of its own; both control registers and a number beyond -/
theorem wit_BankAndControl :
    [(false, none), (true, some BankMode.cache), (true, (none : Option BankMode))].all (fun x =>
      let s := withBank (fun b => { b with ownCtx := 0, ownValid := x.1, target := x.2 })
      accHyps s (.bankm g0 .strand 9 5) (usesOf [] [9]) (fun cx =>
        (s.bank cx.g.core.clus 5).ownedBy cx.ctx == x.1 && (s.bank cx.g.core.clus 5).target == x.2)) = true
    ∧ [(0 : BitVec 16), 1, 2].all (fun sel => accHyps base (.ctlw g0 sel (.reg 4)) (usesOf [.reg 4] []) (fun cx =>
        (lanes cx.eff).all (fun l => (cx.src (.reg 4)).lane l == 5))) = true := by decide +kernel

/-! Steps that are no words (07, 08, 10, 13) -/

def evHyps (s : State) (p : Group → Bool) : Bool := s.tidy && s.memoryOk && (s.group? oneGroup).any p

/-- A load of four lanes of v3, and a lane's events, on their way. -/
def someLoad (k : FlightKind) : InFlight :=
  { inAlu 3 false with
    kind := k, writes := [{ reg := 3, mask := 0x0F, val := ramp 70 1, run := false }]
    counts := { Counts.zero with sat := 2 }, due := [tinfo] }

/-- a reply; one whose peers have not answered; an arrival of a split-phase load, in the program and in its handler -/
theorem wit_ResultsArrive :
    [FlightKind.load, .atom].all (fun k => evHyps (withG (fun g => g.fly (someLoad k))) (fun g =>
      g.phase == .running && g.findFlight 7 == some (someLoad k))) = true
    ∧ evHyps (withG (fun g => g.fly { someLoad .atom with waits := [4] })) (fun g => (g.findFlight 7).any (fun f => f.waits != [])) = true
    ∧ evHyps (withG (fun g => (g.setAc 2 1).fly (someLoad (.ldi 2)))) (fun g => g.phase == .running && g.findFlight 7 == some (someLoad (.ldi 2))) = true
    ∧ evHyps (withG (fun g => { g.setAc 2 1 with preTrap := [someLoad (.ldi 2)] })) (fun g => g.phase == .running
        && (g.findFlight 7).isNone && g.preTrap.find? (fun x => x.serial == 7) == some (someLoad (.ldi 2))) = true := by decide +kernel

/-- A matrix instruction that has issued, and one that has captured. -/
def sIssued : State := (Outcome.next? (exec (mword none (some 48) 30).1 sMatrix)).getD base
def sCaptured : State := (Outcome.next? (exec (.captureEnd oneCore) sIssued)).getD base

theorem wit_MatrixEngine :
    ((sIssued.core oneCore).resv.map (·.captured) == [false]) = true
    ∧ (evHyps sCaptured (fun g => match (sCaptured.core oneCore).resv with
      | [e] => e.captured && e.gid == oneGroup && (g.findFlight e.serial).any (fun f => f.job.any (fun j =>
          j.w == g.width && decide (j.m ≤ j.w) && Fmt.invalid j.fc == none && decide (j.k = 8)))
      | _ => false)) = true := by decide +kernel

/-- a precise trap; an imprecise one of a slot with a path, and of the empty slot -/
theorem wit_PendingTraps :
    [(some tinfo, []), (none, [tinfo, tinfo]), (none, [{ tinfo with slot := 1 }])].all (fun x =>
      let s := withG (fun g => { g with trap := x.1, imprecise := x.2 })
      entryHyps s (fun g c => g.phase == .running && g.settled && c.trapvec != 0 && !g.inHandler && g.trap == x.1 && g.imprecise == x.2
        && (g.path 0).isSome && (g.path 1).isNone)) = true := by decide +kernel

/-- Every lane of the group has exited. -/
def sExited : State := withG (fun g => { g with p0 := none, exited := 0xFF })

theorem wit_GroupRetires : evHyps sExited (fun g => g.phase == .running && g.isGone && g.flight == [] && g.preTrap == [] && g.trap == none
    && g.imprecise == [] && g.laterTraps == [] && (sExited.core g.core).resv == [] && !sExited.copiesOf oneGroup) = true := by decide +kernel

/-- The group has retired; its launch counts predecessors. -/
def sRetired (det : Bool) : State := (base.modGroup oneGroup (fun g => { g.released with p0 := none })).modLaunch 0 (fun l =>
  { l with lrec := { l.lrec with det := det, teams := 3, depc := true }, npred := [0, 2, 1], succs := [[1, 2]], runq := [0, 1] })

theorem wit_TeamsEnd :
    [true, false].all (fun det => let s := sRetired det
      (s.team? oneTeam).any (fun x => x.phase == .resident) && (s.launch? 0).any (fun l => l.status == none && l.lrec.det == det)
      && s.groups.all (fun e => tidOf e.1 != oneTeam || e.2.phase == .retired) && (s.teamRelease oneTeam 0).1) = true
    ∧ (let s := { sRetired true with serial := 10, remotes := [(4, someRemote)], peerx := [(3, true)] }
      !(s.teamRelease oneTeam 0).1 && (s.launch? 0).any (fun l => decide (l.retiredCount < l.lrec.teams))) = true
    ∧ (let s := (sRetired true).modTeam oneTeam (fun t => { t with phase := .exited, part := false })
      (s.team? oneTeam).any (fun x => x.phase == .exited) && (s.launch? 0).any (fun l => l.status == none && l.lrec.det && l.bead == 0)
      && (s.drainBuffer oneTeam).1) = true := by decide +kernel

/-- The request is visible; the group stands at a pmark, or the limit has expired. -/
def sSaving (pm : Bool) : State :=
  (base.modCtx 0 (fun c => { c with preq := true })).modGroup oneGroup (fun g => { g with
    preqVisible := true, graceOver := !pm, p0 := g.p0.map (fun p => { p with pmark := if pm then some (1, 0) else none }) })

theorem wit_GroupSaves :
    [true, false].all (fun pm => let s := sSaving pm
      evHyps s (fun g => g.phase == .running && (s.ctx 0).preq && g.preqVisible && g.pmarkReady == pm && (pm || g.graceOver)
        && g.p0 != none && g.flight == [] && g.preTrap == [] && (s.core g.core).resv == [] && g.trap == none && g.imprecise == []
        && s.clusters.all (fun c => (s.l1Dirty c.1) == false)
        && s.areaOk (imageAddr (s.ctx 0) oneGroup g) (saveImage g pm).length)) = true := by decide +kernel

theorem wit_SaveRoundTrip : group8.width ∈ [8, 16, 32, 64] ∧ 1 ≤ group8.nr ∧ group8.nr ≤ 512 ∧ group8.stack.length < 512
    ∧ group8.tidy = true ∧ (group8.path 0).isSome = true := by decide +kernel

/-! Teams, the front end, copies (07, 08, 10, 11, 13) -/

/-- No team is placed yet; cluster 0 is the context's and has a SCRATCH bank. -/
def sToPlace : State :=
  ((({ base with teams := [], groups := [] }).modBank 0 5 (fun b => { b with mode := .scratch, ownCtx := 0, ownValid := true })).modCtx 0
    (fun c => { c with clmask0 := 1 })).modLaunch 0 (fun l => { l with lrec := { l.lrec with teams := 2, slotv := 2, fmts := [0, b64def] }, runq := [0, 1] })

/-- The group is saved, its image all zeros; its team kept its partition, or was evicted. -/
def sSaved : State :=
  ((withG (fun g => { g.released with phase := .saved true, p0 := none, image := List.replicate 64 0 })).modTeam oneTeam (fun t =>
    { t with phase := .saved })).modCtx 0 (fun c => { c with clmask0 := 1 })
def sEvicted : State := (sSaved.modBank 0 5 (fun b => { b with mode := .scratch, ownCtx := 0, ownValid := true })).modTeam oneTeam (fun t =>
  { t with phase := .evicted, part := false, scratch := [] })

def placeHyps (s : State) (p : Launch → Spot → Bool) : Bool :=
  match s.nextPlacement with
  | some (0, l, .one 0 spot) => p l spot
  | _ => false

/-- The cluster's own bytes of a sector of device 3 stand in its L1 while an earlier write-back of the sector is open. -/
def stuck (s : State) : State :=
  let sec := sectorOf (mkPlace 2 3 0x1000)
  { s.setL1 0 sec (some { Sector.blank with mask := 0xF0, valid := 0xF0 }) with
    serial := 10, peerx := [(3, true)]
    remotes := [(4, { someRemote with sec := sec, purpose := .writeback sec none })] }

theorem wit_TeamsWait : [sToPlace, sSaved, sEvicted].all (fun s =>
    ((stuck s).wbCluster 0).l1Dirty 0 && placeHyps (stuck s) (fun _ p => p.clus == 0)) = true := by decide +kernel

theorem wit_TeamsPlaced :
    placeHyps sToPlace (fun _ p => (sToPlace.team? oneTeam).isNone && p.clus == 0) = true
    ∧ [sSaved, sEvicted].all (fun s => s.memoryOk && placeHyps s (fun l _ => (s.team? oneTeam).any (fun x =>
      x.isSaved && s.canRestore 0 l 0 x && match s.teamGroups oneTeam with
        | [(gid, g)] => g.isSaved && s.areaRead (imageAddr (s.ctx 0) gid g) g.image.length == g.image
        | _ => false))) = true := by decide +kernel

/-- Team 0 of two is resident under QUANTUM. -/
def sQuantum : State := base.modLaunch 0 (fun l => { l with lrec := { l.lrec with quant := true, teams := 2 }, runq := [0, 1] })

theorem wit_TeamTimers :
    (let s := sSaved.modCtx 0 (fun c => { c with cmd := 3 });
      s.memoryOk && (s.launch? 0).any (fun l => l.status == none && (s.team? oneTeam).any (fun x => x.phase == .saved
        && x.queues.all (fun q => q.2.pending == [])
        && (let a := scratchAddr (s.ctx l.ctx) 0
          decide (32768 ≤ a) && s.areaOk (a - 32768) (32768 + 256 * l.lrec.scru))))) = true
    ∧ (sToPlace.launch? 0).any (fun l => sToPlace.mayPlace l && sToPlace.nextTeam 0 l == some 0) = true
    ∧ (sQuantum.launch? 0).any (fun l => l.lrec.quant && l.status == none && (sQuantum.team? oneTeam).any (fun x => x.phase == .resident)
        && (sQuantum.nextTeam 0 l).isSome && sQuantum.anyResident l.ctx && !(sQuantum.ctx l.ctx).preq) = true := by decide +kernel

/-- Queue 1, enabled, its ring at 0x1000 and its pointers at 0x2000 of host memory: TAIL and one command of eight words. -/
def sQueue (tail : Nat) (cmd : List Nat) : State :=
  let s := { sWalk with hostMem := Memory.writeN (Memory.writeN [] 0x1000 (cmd.flatMap (toBytes 8))) 0x2000 (toBytes 4 tail) }
  s.modQueue 1 (fun q => { q with en := true, ring := 1, ptrs := 0x80 })

theorem wit_TailReads :
    (let s := sQueue 5 [];
      s.tidy && (s.queue 1).en && !(s.queue 1).halt && !s.busRefused ((s.queue 1).ptrs.toNat * 64) && (s.queue 1).visible == []) = true
    ∧ Memory.readN (sQueue 5 []).hostMem 0x2000 4 = toBytes 4 5 ∧ Memory.readN (sQueue 17 []).hostMem 0x2000 4 = toBytes 4 17
    ∧ 2 ^ (min ((sQueue 5 []).queue 1).log2n.toNat 12 + 4) = 16
    ∧ ((sQueue 5 []).queue 0).en = false
    ∧ { sQueue 5 [] with atsEn := true, atsRefused := [2] }.busRefused (((sQueue 5 []).queue 1).ptrs.toNat * 64) = true := by decide +kernel

/-- The words of a launch record of one group of eight lanes. -/
def recordOf : List Word :=
  [0x1000, 0x10000000000 * 0, 0x40, 2 ^ 32, 0, 7, 7 * 2 ^ 46 + 7 * 2 ^ 37, 0, 0, 0, 0x60, 0x10 * 2 ^ 56, 0, 0, 0, 0] ++ List.replicate 16 0

/-- The command is visible; page 0 of segment 0x20 holds the record at 0x400 and the word 9 at 0x800. -/
def sCommand (cmd : List Nat) : State :=
  let s := (sQueue 1 cmd).modQueue 1 (fun q => { q with visible := [.ring 0] })
  { s with mem := Memory.writeN (Memory.writeN s.mem 0x50400 (recordOf.flatMap (fun w => toBytes 8 w.toNat))) 0x50800 [9] }

/-- The release that writing HEAD is has nothing to wait for. -/
def released (s : State) : Bool := (s.queue 1).ctx == 0 && (s.hubRelease 0).2.isEmpty && !(s.hubRelease 0).1.l2Unsent

theorem wit_LaunchAccepted :
    (let s := sCommand [1, 0x400, 0x20, 0, 0, 0, 0, 0];
      s.tidy && (match s.nextCmd 1 with
      | .ring c => c.opc == 1 && released s && (let y := ((s.hubRelease 0).1.takeCmd 1 true).startCmd 1 (.accepting (s.queue 1).ctx.toNat (.at_ c.addr c.seg) false)
        match y.2.hubRead (s.queue 1).ctx.toNat c.seg c.addr.toNat 256 (frontRec 1) false (.frontRead 1) with
        | (.ok bs, s1) => (let l := LaunchRec.ofWords (recordWords bs)
          launchBad (recordWords bs) l == none && !l.depc && !l.coop && !s.busRefused ((s.queue 1).ptrs.toNat * 64)
          && s1.teams.all (fun e => e.1.launch != s1.serial))
        | _ => false)
      | _ => false)) = true := by decide +kernel

def oneWait (value : Word) : State := sWalk.modQueue 1 (fun q => { q with active := [(3, .wait 0 0x800 0x20 value false)] })

/-- a WAIT that ends and one that does not, taken and polled; a SIGNAL -/
theorem wit_WaitSignal :
    [9, 10].all (fun v => let s := sCommand [2, 0x800, 0x20, v, 0, 0, 0, 0]
      s.tidy && (s.queue 1).active == [] && (match s.nextCmd 1 with
      | .ring c => c.opc == 2 && c.addr.toNat % 8 == 0 && released s
        && (let y := ((s.hubRelease 0).1.takeCmd 1 true).startCmd 1 (.wait (s.queue 1).ctx.toNat c.addr c.seg c.value false)
          match y.2.hubTranslate 0 .read [(c.seg, c.addr.toNat, 8)] (frontRec 1) false with
          | (.ok rs, s1) => isLocal (placeIn rs c.seg c.addr.toNat) && !s1.isPoisoned (sectorOf (placeIn rs c.seg c.addr.toNat))
          | _ => false)
      | _ => false)) = true
    ∧ (let s := oneWait 0
      s.tidy && !(s.queue 1).halt && (match s.hubTranslate 0 .read [(0x20, 0x800, 8)] (frontRec 1) false with
        | (.ok rs, s1) => isLocal (placeIn rs 0x20 0x800) && !s1.isPoisoned (sectorOf (placeIn rs 0x20 0x800))
        | _ => false)) = true
    ∧ (let s := sCommand [3, 0x808, 0x20, 77, 0, 0, 0, 0]
      s.tidy && s.memoryOk && s.migrations == [] && released s && (match s.nextCmd 1 with
      | .ring c => c.opc == 3 && (let y := ((s.hubRelease 0).1.takeCmd 1 true).startCmd 1 (.write
            { ctx := (s.queue 1).ctx.toNat, addr := c.addr, seg := c.seg, data := toBytes 8 c.value.toNat, record := none } .stopped)
          let r := y.2.hubRelease 0
          match r.1.hubTranslate 0 .write [(c.seg, c.addr.toNat, 8)] (frontRec 1) false with
          | (.ok rs, _) => isLocal (placeIn rs c.seg c.addr.toNat) && decide (placeIn rs c.seg c.addr.toNat % 64 ≤ 56)
          | _ => false)
      | _ => false)) = true := by decide +kernel

/-- The launch's queue with its limits and stage; from stage 2 on, the launch has been killed. -/
def sWatch (stage : BitVec 2) : State :=
  (base.modQueue 0 (fun q => { q with en := true, t1 := 10, t2 := 20, t3 := 30, stage := stage })).modLaunch 0 (fun l =>
    { l with killed := decide (2 ≤ stage.toNat), status := if 2 ≤ stage.toNat then some 4 else none })

theorem wit_Watchdog :
    (sWatch 0).tidy = true ∧ (sWatch 0).counts 0 = true ∧ (sWatch 1).counts 0 = true ∧ (sWatch 0).anyResident 0 = true
    ∧ (sWatch 0).busyLaunches 0 = [0] ∧ (sWatch 0).boot = 2 ∧ (sWatch 2).lateCores 0 = [oneCore]
    ∧ (State.reset.boot = 2) = False := by
  refine ⟨by decide +kernel, by decide +kernel, by decide +kernel, by decide +kernel, by decide +kernel, by decide +kernel, by decide +kernel, ?_⟩
  exact eq_false (by decide +kernel)

/-- Template 3 copies a tile of 16 elements of 32 bits to scratch; v10 and v11 hold starts at 64 · lane, v12 a bad one. -/
def tile (strand : Bool) : List Word :=
  [0x1000, 0x20 * 2 ^ 56 + 31 * 2 ^ 49 + 2 ^ 46 + (if strand then 2 ^ 35 + 5 * 2 ^ 30 else 0), 7, 24, 0, 0, 0, 16]

def sStarts : State :=
  (base.modTeam oneTeam (fun t => { t with tmpls := [(3, tile false)] })).modGroup oneGroup (fun g =>
    ((g.setVal 10 (.affine 3 0x400000)).setVal 11 (.affine 0 1)).setVal 12 (.affine 3 0x10000))

/-- good starts in queue 0; starts whose offset in scratch is no multiple of 16 from lane 1 on -/
theorem wit_CopyStarts :
    [((10 : RegIx), true), (12, false)].all (fun x =>
      let m : Addr := { base := .reg 5, seg := 0xFD, pair := false, off := 0 }
      let u : Uses := stUses .b128 m (.reg x.1)
      accHyps sStarts (.st g0 .b128 .plain .grp .dflt m (.reg x.1)) u (fun cx =>
        (sStarts.team? (tidOf cx.gid)).any (fun tm =>
          let cs := startsOf cx .b128 (.reg x.1) (byteAccs cx m 16)
          (byteAccs cx m 16).all (fun a => a.seg == 0xFD && a.off % 16 == 0)
          && cs.all (fun c => (copyFault sStarts cx tm c).isNone) == x.2
          && match (sStarts.fetched cx u).probe (cx.fetched u) .write (byteAccs cx m 16) with
            | .ok _ s1 => let r := s1.releaseAt (cx.fetched u) .dev
              r.1 && r.2.team? (tidOf cx.gid) == some tm && !copiesWait tm cs
            | _ => false))) = true := by decide +kernel

/-- A copy of the tile at the head of queue 0; `got` holds the sectors read. -/
def tileCopy (strand : Bool) (got : List (Nat × List Byte)) : Copy :=
  { someCopy with words := tile strand, coords := [0, 0, 0, 0, 0], doff := 64, got := got }

def sCopy (c : Copy) : State := sWalk.modTeam oneTeam (fun t => t.setQueue 0 { pending := [c], done := 4 })
def fullSector : List (Nat × List Byte) := [(0x1000, List.replicate 64 0x21)]

theorem wit_CopyEngine :
    (let s := sCopy (tileCopy false []);
      s.tidy && (s.copyQueues 0).find? s.canMove == some (oneTeam, 0) && (tileCopy false []).unread == [0x1000]
      && match (s.modCluster 0 (fun k => { k with rr := some (oneTeam, 0) })).translate (.engine 0) 0 0x20 0x1000 .read with
        | (.ok p ret, s1) => (match s1.devRead p 64 (some (l2Hint .dflt ret)) with
          | (.bytes _, _) => true
          | _ => false)
        | _ => false) = true
    ∧ (let c := tileCopy false fullSector
      (sCopy c).tidy && ((sCopy c).copyQueues 0).find? (sCopy c).canMove == some (oneTeam, 0) && c.unread == []) = true
    ∧ (let c := tileCopy true fullSector
      let s := (sCopy c).modBank 0 5 (fun b => { b with mode := .strand, ownCtx := 0, ownValid := true })
      s.tidy && tmplToStrand c.words && c.unread == [] && s.strandOpen 0 5 0
      && decide ((s.bank 0 5).strand.length + (tmplBytes c.words + 63) / 64 ≤ 1024)) = true
    ∧ (let c := { tileCopy false fullSector with wrote := 64 }
      c.unread == [] && decide (tmplBytes c.words ≤ c.wrote) && !tmplClen c.words) = true
    ∧ (let c := { tileCopy false fullSector with wrote := 64, words := (tile false).set 1 ((tile false).getD 1 0 + 2 ^ 36 + 3 * 2 ^ 37) }
      c.unread == [] && decide (tmplBytes c.words ≤ c.wrote) && tmplClen c.words && (tmplClasp c.words).toNat == 3
      && ((clasp1 2 0 64 0).arrive 0 64 false).isSome) = true
    ∧ (let s := base.modBank 0 5 (fun b => { b with mode := .strand, target := some .cache })
      s.tidy && (s.bank 0 5).target == some .cache && s.drained 0 5) = true := by decide +kernel

/-! Collectives, the fabric, host commands, boot, power (07, 12, 14 to 16) -/

/-- A `.red` of 16 int32 elements at 0x1000 of segment 0x20, as participant 1 of 2 with home 3. -/
def desc : List Word :=
  [0x1000, 0x2000, 0x3000, 0x202020 * 2 ^ 40 + 3 * 2 ^ 30 + 2 ^ 20 + 2 ^ 10, 0x3E1, 16, 5 * 2 ^ 32, 16 * 2 ^ 32]

def sColl (ph : CollPhase) : State :=
  { sWalk with serial := 100, colls := [(77, { newColl 0 oneGroup .red false desc with phase := ph })] }

def slot0 : RedSlot where
  tag := 5
  ctx := 0
  common := [0, 1, 0, 0x3E1, 0]
  tout := 9
  got := []
  stage := .gathering
  status := 0
  result := 0
  faulted := false
  abortNext := false
  todo := []
  stamps := []
  waits := []
  lost := false
  writing := false
  extra := []

def sSlot : State := { base with redSlots := [(5, slot0)] }

theorem wit_CollectiveSteps :
    (let s := sColl .posted;
      (s.coll? 77).any (fun c => c.phase == .posted && !c.faulted && !c.bad && c.op == .red && c.home != s.devnum.toNat
        && match (s.dropL2.setColl 77 { c with phase := .reading, faulted := false }).hubRead c.ctx c.sseg c.src c.byteCount
            (s.collRec c) false (.engineRead 77) with
          | (.ok _, s1) => s1.canSend c.ctx c.home 1 && (Tab.get? s1.remotes s1.serial).isNone
          | _ => false)) = true
    ∧ (sSlot.slot? 5).any (fun x => x.stage == .gathering) = true
    ∧ (({ sSlot with redSlots := [(5, { slot0 with stage := .storing, faulted := true })] } : State).slot? 5).any (fun x =>
      x.stage == .storing && !x.writing) = true
    ∧ ((sColl .answered).coll? 77).any (fun c => c.phase == .answered) = true := by decide +kernel

/-- A request of device 3 with the extension. -/
def someReq (kind : BitVec 4) (hm rb : BitVec 32) : RemoteReq :=
  { reqPlain base 0 kind 0x10040 with
    ext := true, hm := hm, rb := rb, rqid := 7, expinc := 4, src := 3, data := [1, 2, 3, 4], mask := List.replicate 4 true }

/-- The fabric is enabled in incarnation 4; the floor of RQID 7 is 10. -/
def sOwner : State := { base with rfen := true, incarn := 4, floors := [(7, 10)] }

/-- atom.fadd.b64 of binary64 -/
def floatReq : RemoteReq := { someReq 2 12 10 with rslot := 0x049, fdef := 0x10A1FFE97, data := List.replicate 8 1 }

/-- a write, an integer atomic and a floating one with room -/
theorem wit_ExactlyOnce :
    sOwner.memoryOk = true ∧ reqOp floatReq = 9 ∧ [someReq 1 12 10, someReq 2 12 10, floatReq].all (fun q =>
      q.ext && sOwner.rfen && q.expinc == sOwner.incarn && !sOwner.malformed q && Tab.get? sOwner.floors q.rqid == some 10
      && !precedes 10 q.rb && decide ((q.hm - 10).toNat < 65536)
      && sOwner.locket == [] && !sOwner.isPoisoned (sectorOf q.pa) && q.pa % (if q.rslot.getLsbD 6 then 8 else 4) == 0) = true := by
  decide +kernel

/-- not enabled; another incarnation; malformed; below the floor; above the window -/
theorem wit_RequestsRefused :
    base.rfen = false ∧ { sOwner with incarn := 5 }.incarn ≠ (someReq 1 12 10).expinc
    ∧ sOwner.malformed { someReq 1 12 10 with rsvd := true } = true ∧ sOwner.malformed (someReq 1 9 10) = false
    ∧ 2 ^ 31 ≤ ((9 : BitVec 32) - 10).toNat ∧ 65536 ≤ ((65546 : BitVec 32) - 10).toNat ∧ ((65546 : BitVec 32) - 10).toNat < 2 ^ 31
    ∧ Tab.get? sOwner.floors 7 = some 10 ∧ precedes 10 10 = false := by decide +kernel

theorem wit_FloorsMove :
    [(5 : BitVec 4), 6].all (fun k => let q := { someReq k 0 12 with data := [], mask := [] }
      q.expinc == sOwner.incarn && !sOwner.malformed q && Tab.get? sOwner.floors q.rqid == some 10) = true
    ∧ sOwner.boot = 2 ∧ State.reset.boot ≠ 2 := by decide +kernel

/-- The answer of device 3 to the request of `sRemote`. -/
def someResp (rstat : BitVec 4) : RemoteResp :=
  { ext := true, src := 3, tag := 4, echo := 0, hm := 5, incarn := 0, rstat := rstat, data := [], err := false }

/-- answered; strayed; backed off; sent again; sent too often; an idle pair; a switch-out -/
theorem wit_RequesterSteps :
    [(0 : BitVec 4), 1, 2].all (fun k => sRemote.answered (someResp k) == some someRemote && reqHasHm someRemote.req
      && (someResp k).incarn == (sRemote.pair 0 3).expinc && decide ((someResp k).tag < sRemote.serial) && sRemote.tidy) = true
    ∧ sRemote.answered { someResp 0 with src := 2 } = none
    ∧ Tab.get? sRemote.remotes 4 = some someRemote ∧ someRemote.sent ≠ [] ∧ someRemote.backoff = false ∧ someRemote.req.ext = true
    ∧ someRemote.retries < sRemote.rmax.toNat ∧ 4 < sRemote.serial ∧ ({ sRemote with rmax := 0 }.rmax = 0)
    ∧ (let s := { base with peerx := [(3, true)] }.setPair 0 3 { next := 9, low := 9, ann := 7, expinc := 1, openHms := [], closed := false }
      s.tidy && s.pairIdle 0 3 && s.isPeerx 3 && (Tab.get? s.remotes s.serial).isNone && (s.pair 0 3).low != (s.pair 0 3).ann) = true
    ∧ (let s := { base with peerx := [(3, true)] }.setPair 0 3 { next := 9, low := 9, ann := 9, expinc := 1, openHms := [], closed := true }
      s.tidy && s.pairIdle 0 3 && s.isPeerx 3 && (s.pair 0 3).closed) = true
    ∧ (let s := sRemote.modCtx 0 (fun c => { c with cmd := 3, quiet := true })
      (s.ctx 0).cmd == 3 && (s.ctx 0).quiet && s.remotes.all (fun e => decide (e.1 < s.serial))) = true := by decide +kernel

/-- a port with a fifth lane; one that repairs, with and without flits to be acknowledged; one that retrains -/
theorem wit_PortRepair : Sparse.rising 0 base.ports = true ∧ base.boot = 2 ∧ State.reset.boot ≠ 2 ∧ (base.port 4).spok = false
    ∧ ((base.modPort 4 (fun p => { p with spok := true })).port 4).spok = true
    ∧ ((base.modPort 4 (fun p => { p with state := 1, abthr := 9, crccnt := 8 })).port 4).state = 1
    ∧ (base.modPort 4 (fun p => { p with state := 1 })).unacked = []
    ∧ { base with unacked := [(4, .req 3 1 someRemote.req [])] }.unacked.any (fun m => m.1 == 4) = true
    ∧ ((base.modPort 4 (fun p => { p with state := 2 })).port 4).state = 2 := by decide +kernel

/-- Arguments of a translation command: page 0 of segment 0x20. -/
def sArgs : State := { sWalk with tca1 := 0x20 * 2 ^ 56 + 1, tca2 := 0x70000, tca3 := 0x4000, serial := 1 }

theorem wit_ReplayAndInval :
    sArgs.boot = 2 ∧ sArgs.tbusy = false ∧ sArgs.groups.all (fun e => decide (e.1.launch < sArgs.serial)) = true
    ∧ (sArgs.l2tlb.map Prod.fst).Nodup ∧ sArgs.tca0.toNat % 65536 = 0 ∧ (sArgs.tca1.extractLsb' 0 32).toNat ≠ 0
    ∧ { sArgs with tca0 := 0x40 }.tca0.toNat % 65536 ≠ 0 ∧ State.reset.boot ≠ 2
    ∧ { sArgs with tbusy := true, tcmd := 4 }.tcmd ≠ 3 ∧ ({ sArgs with tca1 := 0 }.tca1.extractLsb' 0 32).toNat = 0 := by decide +kernel

theorem wit_FlushAndFree :
    sArgs.boot = 2 ∧ sArgs.tbusy = false ∧ sArgs.tca0.toNat % 65536 = 0 ∧ (sArgs.tca1.extractLsb' 0 32).toNat ≠ 0
    ∧ sArgs.oneQuarantine sArgs.tca0.toNat (sArgs.tca1.extractLsb' 0 32).toNat = some 0 ∧ Sparse.rising 0 sArgs.gens = true
    ∧ sArgs.stamps = []
    ∧ (let s := (sArgs.modGroup oneGroup (fun g => g.fly { inAlu 1 false with stamps := [(0, 0)] })).modQuar 0 (fun q => { q with gen := 1 })
      s.stamps.any (fun x => x.1 == 0 && precedes x.2 (s.quar 0).gen)) = true
    ∧ ((base.modCtx 0 (fun c => { c with notifyDue := true })).ctx 0).notifyDue = true ∧ base.tidy = true := by decide +kernel

def someMove : Migration where
  ctx := 0
  seg := 0x20
  off := 0
  pte := 0x540000
  src := 5
  dst := 7
  cpl := 0x4000
  tries := 0
  dirty := false
  committed := false
  gen := 0

def sMoving (m : Migration) : State := { sArgs with migrations := [(6, m)] }

theorem wit_Migrates :
    (match sArgs.walk (sArgs.tca1.extractLsb' 48 8).toNat (sArgs.tca1.extractLsb' 56 8) sArgs.tca0.toNat with
      | .leaf w p level => p == 0x540000 && level == 0 && decide ((Pte.ofWord w).tier < 2) && !(Pte.ofWord w).mig
        && sArgs.frameOkAt sArgs.tca2.toNat && sArgs.memoryOk && sArgs.redirect (p + 1) == p + 1 && sArgs.migrations == []
      | _ => false) = true
    ∧ ((sMoving someMove).memoryOk && (sMoving someMove).clusters == [] && (sMoving someMove).l2 == []
      && someMove.src != someMove.dst && someMove.pte / 65536 != someMove.src && someMove.pte / 65536 != someMove.dst
      && someMove.pte % 16 == 0) = true
    ∧ (let s := sMoving { someMove with dirty := true, tries := 3 };
      !s.busRefused 0x4000 && !(s.ctx 0).fbEn && 0x4000 % 16 == 0) = true
    ∧ (let s := (sMoving { someMove with committed := true }).modQuar 0 (fun q => { q with gen := 2 })
      quarOf (5 * 65536) == 0 && Sparse.rising 0 s.gens && decide (2 ≤ ((s.quar 0).gen - 0).toNat) && Memory.wf s.hostMem) = true := by
  decide +kernel

theorem wit_HostMemoryAccess :
    (base.boot ≠ 3 ∧ 0x10040 + 4 ≤ 2 ^ base.bar2Log ∧ base.wbase.toNat / 2 ^ 30 * 2 ^ 30 + 0x10040 + 4 ≤ 2 ^ 40)
    ∧ ¬ { base with boot := 3 }.boot ≠ 3 ∧ ¬ 0x40000000 + 4 ≤ 2 ^ { base with bar2Log := 30 }.bar2Log
    ∧ base.memoryOk = true ∧ base.migrations = [] := by decide +kernel

/-- The record of the pair with device 3, VALID set. -/
def savedRec : List Byte := savedPair (3, { next := 9, low := 9, ann := 7, expinc := 1, openHms := [], closed := false })

/-- a context that is OUT with its records, and one with records of another device; the records brought; owners with the
extension and without -/
theorem wit_ContextRecords :
    (let s := base.modCtx 1 (fun c => { c with out := true, quiet := true, saved := savedRec })
     (s.ctx 1).out = true ∧ (s.ctx 1).quiet = true ∧ (s.ctx 1).busy = false ∧ s.remotes = [] ∧ s.tidy = true ∧ s.boot = 2
      ∧ s.isPeerx 3 = false ∧ ({ s with peerx := [(3, true)] } : State).isPeerx 3 = true ∧ ((s.ctx 1).pairs.map Prod.fst).Nodup)
    ∧ (let s := base.modCtx 1 (fun c => { c with saved := savedRec })
       (s.ctx 1).out = false ∧ (s.ctx 1).saved ≠ [])
    ∧ savedRec = [(3, ({ next := 9, low := 9, ann := 7, expinc := 1, openHms := [], closed := false } : SerialPair))].flatMap savedPair
    ∧ ({ base with agenda := [.bringPairs 1 savedRec] } : State).agenda = [.bringPairs 1 savedRec] := by decide +kernel

theorem wit_ContextCommands :
    State.reset.boot ≠ 2 ∧ base.tidy = true ∧ base.boot = 2 ∧ (base.ctx 0).busy = false ∧ base.anyResident 0 = true
    ∧ base.anyResident 1 = false ∧ base.remotes = [] ∧ base.teamsLeft 1 = false ∧ base.hasLaunch 1 = false ∧ base.hasLaunch 0 = true
    ∧ ((base.modCtx 0 (fun c => { c with out := true })).ctx 0).out = true ∧ (base.ctx 1).quiet = false
    ∧ (let s := { sRemote with remotes := [(4, { someRemote with ctx := 1 })] }
      !s.anyResident 1 && s.remotes.any (fun e => e.2.ctx == 1) && s.tidy) = true := by decide +kernel

theorem wit_BootSteps : { base with boot := 1, starting := true }.starting = true ∧ { base with boot := 1 }.starting = false
    ∧ base.boot ≠ 1 ∧ { base with boot := 3 }.boot = 3 ∧ (0xC0000100 : BitVec 32).getLsbD 31 = true
    ∧ (0x80000100 : BitVec 32).getLsbD 30 = false := by decide +kernel

theorem wit_PowerSteps : Sparse.rising 0 base.islands = true ∧ base.boot = 2 ∧ base.clampActive = false
    ∧ ((base.modIsland 3 (fun x => { x with chg := true })).island 3).chg = true := by decide +kernel

theorem ecc_zero_mul (b : BitVec 16) : Ecc.mul 0 b = 0 := by
  unfold Ecc.mul
  suffices h : ∀ xs : List Nat, xs.foldl (fun acc i => Ecc.timesX acc ^^^ (if b.getLsbD (15 - i) then 0 else 0)) (0 : BitVec 16) = 0 from h _
  intro xs
  induction xs with
  | nil => rfl
  | cons x xs ih =>
    have hx : Ecc.timesX 0 ^^^ (if b.getLsbD (15 - x) then (0 : BitVec 16) else 0) = 0 := by
      rw [ite_self]; rfl
    rw [List.foldl_cons, hx, ih]

theorem ecc_no_correction (syn : List (BitVec 16)) (h0 : syn.getD 0 0 = 0) (h1 : syn.getD 1 0 = 0)
    (h : (Ecc.syndrome [] == syn) = false) : Ecc.correction syn = none := by
  have hp : ∀ i j, Ecc.explains syn (Ecc.pairAt syn i j) = false := by
    intro i j
    have e : Ecc.pairAt syn i j = [(i, 0), (j, 0)] := by
      unfold Ecc.pairAt
      have z : Ecc.mul (0 ^^^ Ecc.mul 0 (Ecc.alpha i)) (Ecc.inv (Ecc.alpha i ^^^ Ecc.alpha j)) = 0 := by
        rw [ecc_zero_mul, show (0 : BitVec 16) ^^^ 0 = 0 from rfl, ecc_zero_mul]
      rw [h0, h1]
      simp only [z]
      rfl
    rw [e]
    rfl
  have hs : ∀ i : Nat, Ecc.explains syn [(i, syn.getD 0 0)] = false := by
    intro i; rw [h0]; rfl
  have he : Ecc.explains syn [] = false := by simp [Ecc.explains, h]
  unfold Ecc.correction
  rw [if_neg (by rw [he]; decide)]
  simp only [hs, hp, Bool.false_eq_true, if_false]
  have n1 : ∀ xs : List Nat, xs.findSome? (fun _ => (none : Option (List (Nat × BitVec 16)))) = none := by
    intro xs; induction xs <;> simp_all
  simp only [n1, Option.or_none]

theorem wit_SectorCodeword : ∀ e ∈ [((39 : Nat), (1 : BitVec 16)), (0, 2)], e.1 < 40 := by decide

/-- Sector 0x401 with an error of one symbol, and with one of three, as the checker sees them. -/
def synOf (errs : List (Nat × BitVec 16)) : List (BitVec 16) :=
  Ecc.check (Ecc.withErrors (Ecc.codeword (64 * 0x401) (Memory.readN base.mem (64 * 0x401) 64) (base.poison.contains 0x401)) errs)

theorem syn_one : synOf [(3, 1)] = Ecc.syndrome [(3, 1)] := by decide +kernel
theorem syn_three : synOf [(0, 2), (1, 3), (2, 1)] = Ecc.syndrome [(0, 2), (1, 3), (2, 1)] := by decide +kernel

/-- a sector whose code finds the error, one whose code finds none, and a poisoned one -/
theorem wit_SectorCode :
    (isLocal (sectorBase 0x401) = true ∧ base.memoryOk = true ∧ base.poison = []
      ∧ synOf [(3, 1)] ≠ Ecc.syndrome Ecc.poisonPattern ∧ Ecc.correction (synOf [(3, 1)]) = some [(3, 1)])
    ∧ synOf [(0, 2), (1, 3), (2, 1)] ≠ Ecc.syndrome Ecc.poisonPattern
    ∧ Ecc.correction (synOf [(0, 2), (1, 3), (2, 1)]) = none
    ∧ synOf Ecc.poisonPattern = Ecc.syndrome Ecc.poisonPattern := by
  refine ⟨⟨by decide +kernel, by decide +kernel, by decide +kernel, ?_, ?_⟩, ?_, ?_, by decide +kernel⟩
  · rw [syn_one]; decide +kernel
  · rw [syn_one]; decide +kernel
  · rw [syn_three]; decide +kernel
  · rw [syn_three]; exact ecc_no_correction _ (by decide +kernel) (by decide +kernel) (by decide +kernel)

/-- a core that is switched off and one that is not; a stack that is not there; a command in progress, one of them for a
cluster whose core has a spare -/
theorem wit_SpareSteps : base.spCmd = none
    ∧ (let s := { base with spareCores := [(15, 2)], spCmd := some (spareCmd 2 7 0 0) }
       s.coreSpareUsed 2 = true ∧ (∀ e ∈ s.spareCores, e.2 = 2 → e.1 / 2 = 7) ∧ 2 * (7 / 24) + 0 ≠ 2 / 2)
    ∧ (base.modIsland 5 (fun x => { x with cur := 3 })).spareRefuses (spareCmd 1 5 0 0) = none
    ∧ base.spareRefuses (spareCmd 1 5 0 0) = some 2 ∧ base.spareRefuses (spareCmd 4 16 0 0) = some 1
    ∧ { base with spCmd := some (spareCmd 6 0 0 0) }.spCmd = some (spareCmd 6 0 0 0) ∧ (spareCmd 1 5 0 0).kind ≠ 6 := by decide +kernel

/-- A written sector in the L1 of cluster 0, and one of host memory in the package's L2. -/
def sWritten : State := { sDirty with l2 := [(sectorOf (mkPlace 3 0 0x40), { Sector.blank with valid := 0xFF, mask := 0x0F, bytes := List.replicate 64 9 })] }

theorem wit_WritesPerformed : sWritten.tidy = true ∧ sWritten.memoryOk = true ∧ sWritten.migrations = []
    ∧ (sWritten.l1Sector 0 0x400).any (fun x => x.mask != 0) = true ∧ isLocal (sectorBase 0x400) = true
    ∧ (let sec := sectorOf (mkPlace 3 0 0x40)
      (sWritten.l2Sector sec).isSome && isHost (sectorBase sec) && !sWritten.wbOpen sec) = true := by decide +kernel

theorem wit_RegistersWritten : base.tidy = true ∧ base.boot = 2 ∧ 0x44 % 8 ≠ 0 ∧ (base.queue 5).en = false ∧ (base.ctx 9).en = false
    ∧ (base.ctx 9).fbEn = false ∧ (1 : Word).getLsbD 3 = false ∧ Sparse.rising 0 base.cxlBase = true ∧ Sparse.rising 0 base.cxlSize = true
    ∧ (queueWritten (base.queue 5) 0x10 1).isSome = true ∧ (ctxWritten (base.ctx 9) 0x88 1).isSome = true := by decide +kernel
end Sys2Proof.Tests
end

section
/-! SUPPORT. What a write to a context area changes, and that it changes nothing else (08 R190, R195, R198, 16 R344,
R352). -/

namespace Sys2Proof.Machine

/-! ### Places of a sector -/

/-- A migration moves whole pages: what lies within one sector stays within one. -/
theorem redirectBy_add (ms : List (Nat × Migration)) (n b i : Nat) (hb : b % 64 = 0) (hi : i < 64) :
    redirectBy ms n (b + i) = redirectBy ms n b + i ∧ redirectBy ms n b % 64 = 0 := by
  induction n generalizing b with
  | zero => exact ⟨rfl, hb⟩
  | succ n ih =>
    have hpage : (b + i) / 65536 = b / 65536 := by omega
    simp only [redirectBy, hpage]
    cases ms.find? (fun e => e.2.committed && e.2.src == b / 65536) with
    | none => exact ⟨rfl, hb⟩
    | some e =>
      have hmod : e.2.dst * 65536 + (b + i) % 65536 = e.2.dst * 65536 + b % 65536 + i := by omega
      simp only [hmod]
      exact ih _ (by omega)

theorem State.redirect_add (s : State) (sec i : Nat) (hi : i < 64) :
    s.redirect (sectorBase sec + i) = s.redirect (sectorBase sec) + i :=
  (redirectBy_add _ _ _ _ (by simp [sectorBase]) hi).1

theorem State.redirect_aligned (s : State) (sec : Nat) : s.redirect (sectorBase sec) % 64 = 0 :=
  (redirectBy_add s.migrations s.migrations.length (sectorBase sec) 0 (by simp [sectorBase]) (by omega)).2

/-- The first byte of a sector. -/
theorem sectorOf_mul (p : Nat) (h : p % 64 = 0) : 64 * sectorOf p = p := by
  simp only [sectorOf]
  omega

/-- The lanes of a byte mask lie where its bytes do. -/
theorem byteMask_testBit (o n j : Nat) (h : (byteMask o n).toNat.testBit j = true) : o ≤ j ∧ j < o + n ∧ j < 64 := by
  have hb : (byteMask o n).getLsbD j = true := h
  simp only [byteMask, fullMask, BitVec.getLsbD_shiftLeft, BitVec.getLsbD_ofNat, Bool.and_eq_true, decide_eq_true_eq,
    Bool.not_eq_true', decide_eq_false_iff_not, Nat.testBit_two_pow_sub_one] at hb
  omega

/-- A byte mask of a whole sector has all its bytes. -/
theorem byteMask_whole (o n : Nat) (h : byteMask o n = fullMask 64) : o = 0 ∧ 64 ≤ n := by
  have bit (j : Nat) (hj : j < 64) : (byteMask o n).toNat.testBit j = true := by
    rw [h]
    change (fullMask 64).getLsbD j = true
    rw [fullMask, BitVec.getLsbD_ofNat, Nat.testBit_two_pow_sub_one]
    simp [hj]
  have h0 := byteMask_testBit _ _ _ (bit 0 (by omega))
  have h1 := byteMask_testBit _ _ _ (bit 63 (by omega))
  omega

/-! ### Writes within a set of places -/

/-- From `s` to `t` only bytes that stand at places of `A` have changed: of memory, of the sectors' poison, and of the
migrations their dirty-filter entries; nothing else of the state. -/
structure WritesIn (A : Nat → Prop) (s t : State) : Prop where
  rest : { t with mem := s.mem, poison := s.poison, migrations := s.migrations } = s
  wf : Memory.wf s.mem = true → Memory.wf t.mem = true
  bytes : Memory.wf s.mem = true → ∀ a, (∀ b, A b → s.redirect b ≠ a) → Memory.read t.mem a = Memory.read s.mem a
  fewer : ∀ x ∈ t.poison, x ∈ s.poison
  poison : ∀ x ∈ s.poison, ∀ i, i < 64 → (∀ b, A b → s.redirect b ≠ 64 * x + i) → x ∈ t.poison
  migrations : t.migrations.map unfiltered = s.migrations.map unfiltered

variable {A B : Nat → Prop} {s t u : State}

theorem WritesIn.refl (A : Nat → Prop) (s : State) : WritesIn A s s :=
  ⟨rfl, id, fun _ _ _ => rfl, fun _ h => h, fun _ h _ _ _ => h, rfl⟩

theorem WritesIn.redirect (h : WritesIn A s t) (p : Nat) : t.redirect p = s.redirect p :=
  State.redirect_of_migrations h.migrations p

theorem WritesIn.trans (h : WritesIn A s t) (k : WritesIn A t u) : WritesIn A s u where
  rest := by
    have hr := h.rest
    rw [← k.rest] at hr
    exact hr
  wf := fun hs => k.wf (h.wf hs)
  bytes := fun hs a ha =>
    (k.bytes (h.wf hs) a (fun b hb => by rw [h.redirect]; exact ha b hb)).trans (h.bytes hs a ha)
  fewer := fun x hx => h.fewer x (k.fewer x hx)
  poison := fun x hx i hi ha =>
    k.poison x (h.poison x hx i hi ha) i hi (fun b hb => by rw [h.redirect]; exact ha b hb)
  migrations := k.migrations.trans h.migrations

theorem WritesIn.mono (h : WritesIn A s t) (hAB : ∀ a, A a → B a) : WritesIn B s t where
  rest := h.rest
  wf := h.wf
  bytes := fun hs a ha => h.bytes hs a (fun b hb => ha b (hAB b hb))
  fewer := h.fewer
  poison := fun x hx i hi ha => h.poison x hx i hi (fun b hb => ha b (hAB b hb))
  migrations := h.migrations

/-- What writes of steps in turn change. -/
theorem WritesIn.foldl {α : Type} (f : State → α → State) (xs : List α) (hf : ∀ x ∈ xs, ∀ t, WritesIn A t (f t x)) :
    ∀ t, WritesIn A t (xs.foldl f t) := by
  induction xs with
  | nil => exact fun t => WritesIn.refl A t
  | cons x xs ih =>
    intro t
    exact (hf x (List.mem_cons_self ..) t).trans (ih (fun y hy => hf y (List.mem_cons_of_mem _ hy)) _)

/-- A write within one sector changes its bytes alone. -/
theorem State.homeWriteAt_writesIn (s : State) (p : Nat) (bs : List Byte) (hp : p % 64 + bs.length ≤ 64) :
    WritesIn (fun a => p ≤ a ∧ a < p + bs.length) s (s.homeWriteAt p bs) := by
  have hbase : sectorBase (sectorOf p) + p % 64 = p := by simp only [sectorBase, sectorOf]; omega
  have hal := s.redirect_aligned (sectorOf p)
  have hadd := s.redirect_add (sectorOf p)
  refine ⟨rfl, fun h => Memory.wf_writeMasked _ _ _ _ h, fun h a ha => ?_, fun x hx => ?_, fun x hx i hi ha => ?_,
    State.homeWrite_migrations ..⟩
  · unfold State.homeWriteAt
    rw [State.read_homeWrite _ _ _ _ _ h, if_neg]
    rintro ⟨hle, -, hbit⟩
    have hin := byteMask_testBit _ _ _ hbit
    refine ha (sectorBase (sectorOf p) + (a - s.redirect (sectorBase (sectorOf p)))) (by omega) ?_
    rw [hadd _ hin.2.2]
    omega
  · simp only [State.homeWriteAt, State.homeWrite] at hx
    split at hx
    · exact List.mem_of_mem_filter hx
    · exact hx
  · simp only [State.homeWriteAt, State.homeWrite]
    split
    case isFalse => exact hx
    case isTrue hwhole =>
      rw [List.mem_filter]
      refine ⟨hx, ?_⟩
      obtain ⟨ho, hn⟩ := byteMask_whole _ _ (eq_of_beq hwhole)
      by_contra hxa
      have hxa : x = sectorOf (s.redirect (sectorBase (sectorOf p))) := by simpa using hxa
      refine ha (sectorBase (sectorOf p) + i) (by omega) ?_
      rw [hadd i hi, hxa, sectorOf_mul _ hal]

@[simp] theorem pieces_nil (n p : Nat) : pieces n p [] = [] := by
  cases n <;> rfl

/-- The pieces of some bytes lie among them, each within one sector. -/
theorem mem_pieces (n p : Nat) (bs : List Byte) (x : Nat × List Byte) (h : x ∈ pieces n p bs) :
    x.1 % 64 + x.2.length ≤ 64 ∧ p ≤ x.1 ∧ x.1 + x.2.length ≤ p + bs.length := by
  induction n generalizing p bs with
  | zero => simp [pieces] at h
  | succ n ih =>
    cases bs with
    | nil => simp at h
    | cons b bs =>
      simp only [pieces, List.mem_cons] at h
      obtain rfl | h := h
      · simp only [List.length_take]
        omega
      · by_cases hk : 64 - p % 64 ≤ (b :: bs).length
        · have hx := ih _ _ h
          simp only [List.length_drop] at hx
          omega
        · rw [List.drop_eq_nil_of_le (by omega)] at h
          simp at h

/-- Bytes written to a context area change those bytes alone. -/
theorem State.areaWrite_writesIn (s : State) (p : Nat) (bs : List Byte) :
    WritesIn (fun a => p ≤ a ∧ a < p + bs.length) s (s.areaWrite p bs) := by
  refine WritesIn.foldl _ _ (fun x hx t => ?_) s
  obtain ⟨hsec, hlo, hhi⟩ := mem_pieces _ _ _ _ hx
  exact (State.homeWriteAt_writesIn t x.1 x.2 hsec).mono (fun a ha => ⟨by omega, by omega⟩)

end Sys2Proof.Machine
end

section
/-! SUPPORT. A word that completes: what `finish` leaves of the group and of the machine (01 R27 to R31, 08 R190, R195). -/

namespace Sys2Proof.Machine

/-! ### Fields that writes to memory leave -/

section
variable {A : Nat → Prop} {s t : State}
theorem WritesIn.groups (h : WritesIn A s t) : t.groups = s.groups := by have := congrArg State.groups h.rest; exact this
theorem WritesIn.launches (h : WritesIn A s t) : t.launches = s.launches := by
  have := congrArg State.launches h.rest; exact this
theorem WritesIn.ctxs (h : WritesIn A s t) : t.ctxs = s.ctxs := by have := congrArg State.ctxs h.rest; exact this
theorem WritesIn.serial (h : WritesIn A s t) : t.serial = s.serial := by have := congrArg State.serial h.rest; exact this

theorem WritesIn.setGroup (h : WritesIn A s t) (gid : GroupId) (g : Group) :
    WritesIn A (s.setGroup gid g) (t.setGroup gid g) where
  rest := by
    have hr := congrArg (fun x : State => x.setGroup gid g) h.rest
    exact hr
  wf := h.wf
  bytes := h.bytes
  fewer := h.fewer
  poison := h.poison
  migrations := h.migrations
end

theorem Tab.put_put {κ β : Type} [DecidableEq κ] (t : List (κ × β)) (k : κ) (v w : β) :
    Tab.put (Tab.put t k v) k w = Tab.put t k w := by
  induction t with
  | nil => simp [Tab.put]
  | cons e t ih =>
    obtain ⟨a, x⟩ := e
    by_cases h : a = k
    · simp [Tab.put, h]
    · simp [Tab.put, h, ih]

theorem State.setGroup_setGroup (s : State) (gid : GroupId) (g h : Group) :
    (s.setGroup gid g).setGroup gid h = s.setGroup gid h := by
  simp only [State.setGroup, Tab.put_put]

@[simp] theorem State.setGroup_ctx (s : State) (gid : GroupId) (g : Group) (c : Nat) : (s.setGroup gid g).ctx c = s.ctx c :=
  rfl
@[simp] theorem State.setGroup_ctxOf (s : State) (gid : GroupId) (g : Group) (n : Nat) :
    (s.setGroup gid g).ctxOf n = s.ctxOf n := rfl

theorem State.modGroup_some {s : State} {gid : GroupId} {g : Group} (h : s.group? gid = some g) (f : Group → Group) :
    s.modGroup gid f = s.setGroup gid (f g) := by
  simp only [State.modGroup, h]

/-! ### The group's stack and spill areas -/

@[simp] theorem length_toBytes (n v : Nat) : (toBytes n v).length = n := by
  induction n generalizing v with
  | zero => rfl
  | succ n ih => simp [toBytes, ih]

@[simp] theorem length_entryRecord (st : List Entry) (e : Entry) : (entryRecord st e).length = 32 := by
  cases e <;> simp [entryRecord]

theorem length_flatMap_const {α β : Type} (f : α → List β) (n : Nat) (xs : List α) (h : ∀ x, (f x).length = n) :
    (xs.flatMap f).length = n * xs.length := by
  induction xs with
  | nil => rfl
  | cons x xs ih => simp [h, ih, Nat.mul_succ, Nat.add_comm]

theorem length_payload_general (w : Nat) (v : RegVal) (h : v.isGeneral = true) : (payload w v).length = 8 * w := by
  cases v with
  | general xs =>
    rw [payload, length_flatMap_const _ 8 _ (fun _ => length_toBytes ..)]
    simp [RegVal.lanes]
  | unwritten => simp [RegVal.isGeneral] at h
  | uniform u => simp [RegVal.isGeneral] at h
  | affine b st => simp [RegVal.isGeneral] at h

/-- The bytes of the stack and spill areas of a group (08 R190, R195, R198). -/
def groupSpan (c : Context) (gid : GroupId) (g : Group) (b : Nat) : Prop :=
  groupArea c gid ≤ b ∧ b < groupArea c gid + 64 * ((g.divdepth + 1) / 2) + 8 * g.width * g.nr

theorem outsideSpill_iff (s : State) (cx : Cx) (a : Nat) :
    outsideSpill s cx a ↔ ∀ b, groupSpan (s.ctx cx.ctx) cx.gid cx.g b → s.redirect b ≠ a :=
  ⟨fun h b hb => h b hb.1 hb.2, fun h b h1 h2 => h b ⟨h1, h2⟩⟩

/-- Spilled registers go to the group's areas, and nothing else changes (08 R195). -/
theorem State.storeSpills_writesIn {s : State} {gid : GroupId} {g : Group} (hg : s.group? gid = some g) (old : Group) :
    WritesIn (groupSpan (s.ctx (s.ctxOf gid.launch)) gid g) s (s.storeSpills gid old) := by
  simp only [State.storeSpills, hg]
  refine WritesIn.foldl _ _ (fun r hr t => ?_) s
  simp only [List.mem_range] at hr
  split
  case isFalse => exact WritesIn.refl _ t
  case isTrue hs =>
    split
    case isFalse => exact WritesIn.refl _ t
    case isTrue =>
      have hgen : (g.val r).isGeneral = true := by
        simp only [Group.isSpilled, Bool.and_eq_true] at hs
        exact hs.1.1
      refine (State.areaWrite_writesIn t _ _).mono (fun a ha => ?_)
      rw [length_payload_general _ _ hgen] at ha
      have hle : 8 * g.width * (r + 1) ≤ 8 * g.width * g.nr := Nat.mul_le_mul_left _ hr
      rw [Nat.mul_succ] at hle
      simp only [spillAddr, groupSpan, groupArea] at ha ⊢
      omega

/-- Stack entries that are not held on chip go to the group's areas, and nothing else changes (08 R190). -/
theorem State.storeStack_writesIn {s : State} {gid : GroupId} {g : Group} (hg : s.group? gid = some g) (old : Group) :
    WritesIn (groupSpan (s.ctx (s.ctxOf gid.launch)) gid g) s (s.storeStack gid old) := by
  simp only [State.storeStack, hg]
  refine WritesIn.foldl _ _ (fun i hi t => ?_) s
  simp only [List.mem_range] at hi
  split
  case isFalse => exact WritesIn.refl _ t
  case isTrue =>
    cases g.stack[i]? with
    | none => exact WritesIn.refl _ t
    | some e =>
      dsimp only
      split
      case isFalse => exact WritesIn.refl _ t
      case isTrue =>
        refine (State.areaWrite_writesIn t _ _).mono (fun a ha => ?_)
        rw [length_entryRecord] at ha
        simp only [groupSpan, groupArea]
        omega

/-- Putting a group's registers and stack in place writes its areas alone (08 R208). -/
theorem State.storeAreas_writesIn {s : State} {gid : GroupId} {g : Group} (hg : s.group? gid = some g) (old : Group) :
    WritesIn (groupSpan (s.ctx (s.ctxOf gid.launch)) gid g) s ((s.storeSpills gid old).storeStack gid old) := by
  have h1 := State.storeSpills_writesIn hg old
  have hg1 : (s.storeSpills gid old).group? gid = some g := by simpa only [State.group?, h1.groups] using hg
  have h2 := State.storeStack_writesIn hg1 old
  simp only [State.ctx, State.ctxOf, State.launch?, h1.ctxs, h1.launches] at h2
  exact h1.trans h2

/-! ### What issuing changes of a group -/

/-- Of a group, nothing differs but residency, recency, performance counters, results in flight and its two paths. -/
def Group.onlyIssue (g h : Group) : Prop :=
  { h with resident := g.resident, used := g.used, useNo := g.useNo, perf := g.perf, flight := g.flight
           p0 := g.p0, p1 := g.p1 } = g

namespace Group
variable {g h k : Group}

theorem onlyIssue.refl (g : Group) : g.onlyIssue g := rfl

theorem onlyIssue.trans (h1 : g.onlyIssue h) (h2 : h.onlyIssue k) : g.onlyIssue k := by
  unfold Group.onlyIssue at *
  rw [← h2] at h1
  exact h1

theorem onlyIssue.regs (h1 : g.onlyIssue h) : h.regs = g.regs := by have := congrArg Group.regs h1; exact this
theorem onlyIssue.preds (h1 : g.onlyIssue h) : h.preds = g.preds := by have := congrArg Group.preds h1; exact this
theorem onlyIssue.width (h1 : g.onlyIssue h) : h.width = g.width := by have := congrArg Group.width h1; exact this
theorem onlyIssue.nr (h1 : g.onlyIssue h) : h.nr = g.nr := by have := congrArg Group.nr h1; exact this
theorem onlyIssue.divdepth (h1 : g.onlyIssue h) : h.divdepth = g.divdepth := by
  have := congrArg Group.divdepth h1; exact this
theorem onlyIssue.stack (h1 : g.onlyIssue h) : h.stack = g.stack := by have := congrArg Group.stack h1; exact this

theorem onlyIssue.keeps (h1 : g.onlyIssue h) (but : List Nat) : g.keeps h but := by
  intro r _
  simp only [Group.val, h1.regs]

theorem keeps.trans {but : List Nat} (h1 : g.keeps h but) (h2 : h.keeps k but) : g.keeps k but :=
  fun r hr => (h2 r hr).trans (h1 r hr)

theorem onlyIssue.onlyRegs (h1 : g.onlyIssue h) : g.onlyRegs h := by
  have h2 := congrArg (fun x : Group => { x with regs := g.regs }) h1
  exact h2

theorem touch_onlyIssue (g : Group) (rs : List Nat) : g.onlyIssue (g.touch rs) := by
  unfold Group.touch
  split <;> rfl

theorem setPath_onlyIssue (g : Group) (n : Nat) (p : Option Path) : g.onlyIssue (g.setPath n p) := by
  unfold Group.setPath
  split <;> rfl

theorem spillVictim_onlyIssue (g : Group) (named : List Nat) : g.onlyIssue (g.spillVictim named) := by
  unfold Group.spillVictim
  split <;> rfl

theorem trim_onlyIssue (g : Group) : g.onlyIssue g.trim :=
  foldl_keeps (fun h => g.onlyIssue h) _ (fun h _ hh => hh.trans (spillVictim_onlyIssue h [])) _ g (.refl g)

theorem refill_onlyIssue (g : Group) (named outside : List Nat) : g.onlyIssue (g.refill named outside) := by
  have h := Group.refill_frame g named outside
  have h2 := congrArg (fun x : Group => { x with
    used := g.used, useNo := g.useNo, flight := g.flight, p0 := g.p0, p1 := g.p1 }) h
  exact h2

@[simp] theorem path_spillVictim (g : Group) (named : List Nat) (n : Nat) : (g.spillVictim named).path n = g.path n := by
  unfold Group.spillVictim
  split <;> rfl

@[simp] theorem path_trim (g : Group) (n : Nat) : g.trim.path n = g.path n :=
  foldl_keeps (fun h => h.path n = g.path n) _ (fun h _ hh => (path_spillVictim h [] n).trans hh) _ g rfl

@[simp] theorem path_setPath_same (g : Group) (n : Nat) (p : Option Path) : (g.setPath n p).path n = p := by
  by_cases h : n = 0 <;> simp [Group.setPath, Group.path, h]

theorem path_setPath_other (g : Group) (n k : Nat) (p : Option Path) (h : (n = 0) ≠ (k = 0)) :
    (g.setPath n p).path k = g.path k := by
  by_cases hn : n = 0 <;> by_cases hk : k = 0 <;> simp_all [Group.setPath, Group.path]

/-- The two slots of a group are two. -/
theorem slot_ne (n : Nat) : (n = 0) ≠ (1 - n = 0) := by
  simp only [ne_eq, eq_iff_iff]
  omega

end Group

/-! ### What `finish` does -/

/-- The slot's path once its word has issued (01 R28, R31); without an address the effect has placed it. -/
def Path.finished (p : Path) (w : Guard) (keep : Option (Nat × RegVal)) (pc : Option Word) : Path :=
  match pc with
  | some x => { p.issued w keep with pc := x, cwait := none, pmark := none }
  | none => p.issued w keep

/-- The group once a word of a slot has issued. -/
def Group.finished (cx : Cx) (w : Guard) (u : Uses) (keep : Option (Nat × RegVal)) (pc : Option Word) (g : Group) : Group :=
  let g1 := (g.touch u.named).bump 3 1
  let g2 := { g1 with flight := if w.k then g1.flight.map (coverFor cx.slot) else g1.flight }
  let g3 := (g2.modPath cx.slot (fun p => p.finished w keep pc)).modPath (1 - cx.slot) (fun p : Path => { p with retained := none })
  (g3.leaveParked cx.slot w.k).trim

/-- What the slot's operand buffer takes (01 R31). -/
def Cx.kept (cx : Cx) (w : Guard) (u : Uses) (pc : Option Word) (taken : Bool) : Option (Nat × RegVal) :=
  if pc = some (cx.p.pc + 16) ∧ taken = false then retainedReg cx.g w u else none

theorem State.finish_eq (s : State) (cx : Cx) (w : Guard) (u : Uses) (pc : Option Word) (taken : Bool) :
    s.finish cx w u pc taken
      = ((s.modGroup cx.gid (Group.finished cx w u (cx.kept w u pc taken) pc)).storeSpills cx.gid cx.g).storeStack
          cx.gid cx.g := rfl

namespace Group
variable (cx : Cx) (w : Guard) (u : Uses) (keep : Option (Nat × RegVal)) (pc : Option Word) {g : Group} {p : Path}

/-- A slot whose path stays takes no mark of a park beyond its path (01 R28). -/
theorem leaveParked_of_path {slot : Nat} (k : Bool) (h : (g.path slot).isSome = true) : g.leaveParked slot k = g := by
  cases hp : g.path slot with
  | none => simp [hp] at h
  | some q => simp [Group.leaveParked, hp]

/-- The group of a word whose path stays, before its residency is trimmed. -/
theorem finished_eq (hp : g.path cx.slot = some p) :
    g.finished cx w u keep pc
      = (({ (g.touch u.named).bump 3 1 with flight := if w.k then g.flight.map (coverFor cx.slot) else g.flight }.setPath
          cx.slot (some (p.finished w keep pc))).setPath (1 - cx.slot)
            ((g.path (1 - cx.slot)).map (fun p : Path => { p with retained := none }))).trim := by
  have hpath (n : Nat) (fl : List InFlight) : ({ (g.touch u.named).bump 3 1 with flight := fl } : Group).path n = g.path n := by
    simp [Group.path, Group.bump]
  unfold Group.finished
  simp only [Group.modPath, hpath, hp, Option.map_some, path_setPath_other _ _ _ _ (slot_ne cx.slot)]
  rw [leaveParked_of_path]
  · simp [Group.bump]
  · rw [path_setPath_other _ _ _ _ (slot_ne cx.slot).symm]
    simp

theorem path_finished (hp : g.path cx.slot = some p) :
    (g.finished cx w u keep pc).path cx.slot = some (p.finished w keep pc) := by
  rw [finished_eq cx w u keep pc hp, path_trim, path_setPath_other _ _ _ _ (slot_ne cx.slot).symm, path_setPath_same]

theorem path_finished_other (hp : g.path cx.slot = some p) :
    (g.finished cx w u keep pc).path (1 - cx.slot) = (g.path (1 - cx.slot)).map (fun p : Path => { p with retained := none }) := by
  rw [finished_eq cx w u keep pc hp, path_trim, path_setPath_same]

theorem finished_onlyIssue (hp : g.path cx.slot = some p) : g.onlyIssue (g.finished cx w u keep pc) := by
  rw [finished_eq cx w u keep pc hp]
  refine .trans ?_ (trim_onlyIssue _)
  refine .trans (.trans ?_ (setPath_onlyIssue _ _ _)) (setPath_onlyIssue _ _ _)
  have h := touch_onlyIssue g u.named
  exact h

end Group

/-- After a word the group is as its issue leaves it, and besides it only its areas are written (08 R190, R195). -/
theorem State.finish_writesIn {e : State} {cx : Cx} {h : Group} (w : Guard) (u : Uses) (pc : Option Word) (taken : Bool)
    {p : Path} (hg : e.group? cx.gid = some h) (hp : h.path cx.slot = some p) :
    WritesIn (groupSpan (e.ctx (e.ctxOf cx.gid.launch)) cx.gid h)
      (e.setGroup cx.gid (h.finished cx w u (cx.kept w u pc taken) pc)) (e.finish cx w u pc taken) := by
  rw [State.finish_eq, State.modGroup_some hg]
  have hi := Group.finished_onlyIssue cx w u (cx.kept w u pc taken) pc hp
  have hw := State.storeAreas_writesIn (State.group?_setGroup_same e cx.gid (h.finished cx w u (cx.kept w u pc taken) pc)) cx.g
  refine hw.mono (fun a ha => ?_)
  simpa only [groupSpan, hi.divdepth, hi.width, hi.nr, State.setGroup_ctx, State.setGroup_ctxOf] using ha

end Sys2Proof.Machine
end

section
/-! SUPPORT. Words that are ready: how they end where their effect leaves the path (01 R27 to R31), and predicates (03 R67). -/

namespace Sys2Proof.Machine

/-! ### From writes to frames -/

section
variable {s t : State} {cx : Cx} {gt : Group}

/-- What a step keeps that changes a group and writes that group's areas alone. -/
theorem WritesIn.sameMemory (h : WritesIn (groupSpan (s.ctx cx.ctx) cx.gid cx.g) (s.setGroup cx.gid gt) t)
    (hm : s.memoryOk = true) : s.sameMemory t cx where
  bytes := fun a ha => h.bytes ((State.memoryOk_iff s).mp hm).1 a ((outsideSpill_iff s cx a).mp ha)
  fewer := h.fewer
  poison := fun x hx i hi ha => h.poison x hx i hi ((outsideSpill_iff s cx _).mp ha)
  migrations := h.migrations

theorem WritesIn.onlyGroups {A : Nat → Prop} {gid : GroupId} (h : WritesIn A (s.setGroup gid gt) t) : s.onlyGroups t := by
  have hr := congrArg (fun x : State => { x with groups := s.groups, serial := s.serial }) h.rest
  exact hr

theorem WritesIn.group?_same {A : Nat → Prop} {gid : GroupId} (h : WritesIn A (s.setGroup gid gt) t) :
    t.group? gid = some gt := by
  rw [State.group?, h.groups]
  exact State.group?_setGroup_same s gid gt

theorem WritesIn.group?_other {A : Nat → Prop} {gid o : GroupId} (h : WritesIn A (s.setGroup gid gt) t) (ho : o ≠ gid) :
    t.group? o = s.group? o := by
  rw [State.group?, h.groups]
  exact State.group?_setGroup_other s gid o gt ho
end

/-! ### A ready word -/

/-- A word's context is that of its group's launch. -/
theorem State.cx?_ctxOf {s : State} {w : Guard} {u : Uses} {cx : Cx} (h : s.cx? w u = some cx) :
    s.ctxOf cx.gid.launch = cx.ctx := by
  obtain ⟨-, -, -, -, -, -, l, hl, -, hc⟩ := State.cx?_spec h
  simp only [State.ctxOf, hl, hc]

namespace Ready
variable {s e : State} {w : Guard} {u : Uses} {cx : Cx} {h : Group}

theorem group (hr : Ready s w u cx) : s.group? cx.gid = some cx.g := (State.cx?_spec hr.here).2.2.1
theorem path (hr : Ready s w u cx) : cx.g.path cx.slot = some cx.p := (State.cx?_spec hr.here).2.2.2.1

theorem ctxOf (hr : Ready s w u cx) : s.ctxOf cx.gid.launch = cx.ctx := State.cx?_ctxOf hr.here

/-- A group of the machine has tidy tables. -/
theorem groupTidy (hr : Ready s w u cx) : cx.g.tidy = true := by
  have ht := hr.tidy
  simp only [State.tidy, State.groupsTidy, Bool.and_eq_true, List.all_eq_true] at ht
  exact ht.1.1.1.1.1.1.1.1 _ (Tab.get?_mem _ _ _ hr.group)

theorem predsRising (hr : Ready s w u cx) : Sparse.rising 0 cx.g.preds = true := by
  have ht := hr.groupTidy
  simp only [Group.tidy, Bool.and_eq_true] at ht
  obtain ⟨⟨⟨⟨⟨⟨-, hp⟩, -⟩, -⟩, -⟩, -⟩, -⟩ := ht
  exact hp

/-- Refilling its operands writes the group's areas alone (08 R195). -/
theorem fetched_writesIn (hr : Ready s w u cx) :
    WritesIn (groupSpan (s.ctx cx.ctx) cx.gid cx.g) (s.setGroup cx.gid (cx.fetched u).g) (s.fetched cx u) := by
  have hi := Group.refill_onlyIssue cx.g (u.names Members.none).named u.outside
  refine (State.storeSpills_writesIn (State.group?_setGroup_same s cx.gid (cx.fetched u).g) cx.g).mono (fun a ha => ?_)
  simpa only [Cx.fetched, groupSpan, hi.divdepth, hi.width, hi.nr, State.setGroup_ctx, State.setGroup_ctxOf, hr.ctxOf] using ha

theorem fetched_memoryOk (hr : Ready s w u cx) : (s.fetched cx u).memoryOk = true := by
  have hm := (State.memoryOk_iff s).mp hr.memory
  have hh := congrArg State.hostMem hr.fetched_writesIn.rest
  have ht := congrArg State.teams hr.fetched_writesIn.rest
  dsimp only [State.setGroup_hostMem, State.setGroup_teams] at hh ht
  rw [State.memoryOk_iff, hh, ht]
  exact ⟨hr.fetched_writesIn.wf hm.1, hm.2⟩

theorem fetched_group (hr : Ready s w u cx) : (s.fetched cx u).group? cx.gid = some (cx.fetched u).g :=
  hr.fetched_writesIn.group?_same

/-- What the effect of a ready word has made of the machine, `h` of its group: the paths and the group's dimensions
stand, and besides the group only its areas have been written. -/
structure Effect (s e : State) (cx : Cx) (h : Group) : Prop where
  writes : WritesIn (groupSpan (s.ctx cx.ctx) cx.gid cx.g) (s.setGroup cx.gid h) e
  paths : ∀ n, h.path n = cx.g.path n
  divdepth : h.divdepth = cx.g.divdepth
  width : h.width = cx.g.width
  nr : h.nr = cx.g.nr

/-- The state with the operands resident, where the effect has changed the group alone. -/
theorem effect_setGroup (hr : Ready s w u cx) (h : Group) (hp : ∀ n, h.path n = cx.g.path n) (hd : h.divdepth = cx.g.divdepth)
    (hw : h.width = cx.g.width) (hn : h.nr = cx.g.nr) : Effect s ((s.fetched cx u).setGroup cx.gid h) cx h where
  writes := by
    have hf := hr.fetched_writesIn.setGroup cx.gid h
    rwa [State.setGroup_setGroup] at hf
  paths := hp
  divdepth := hd
  width := hw
  nr := hn

theorem effect_fetched (hr : Ready s w u cx) : Effect s (s.fetched cx u) cx (cx.fetched u).g where
  writes := hr.fetched_writesIn
  paths := fun n => Group.path_refill _ _ _ n
  divdepth := (Group.refill_onlyIssue ..).divdepth
  width := (Group.refill_onlyIssue ..).width
  nr := (Group.refill_onlyIssue ..).nr

/-- After a word the group is as its issue leaves it, and besides it only its areas are written. -/
theorem finish_writesIn (hr : Ready s w u cx) (he : Effect s e cx h) (pc : Option Word) (taken : Bool) :
    WritesIn (groupSpan (s.ctx cx.ctx) cx.gid cx.g)
      (s.setGroup cx.gid (h.finished (cx.fetched u) w u ((cx.fetched u).kept w u pc taken) pc))
      (e.finish (cx.fetched u) w u pc taken) := by
  have hg : e.group? (cx.fetched u).gid = some h := he.writes.group?_same
  have hp : h.path (cx.fetched u).slot = some cx.p := (he.paths cx.slot).trans hr.path
  have hf := State.finish_writesIn w u pc taken hg hp
  have hctx : e.ctx (e.ctxOf cx.gid.launch) = s.ctx cx.ctx := by
    rw [← hr.ctxOf]
    simp only [State.ctx, State.ctxOf, State.launch?, he.writes.ctxs, he.writes.launches]
    rfl
  have hw := he.writes.setGroup cx.gid (h.finished (cx.fetched u) w u ((cx.fetched u).kept w u pc taken) pc)
  rw [State.setGroup_setGroup] at hw
  refine hw.trans (hf.mono (fun a ha => ?_))
  simpa only [groupSpan, Cx.fetched, hctx, he.divdepth, he.width, he.nr] using ha

/-- The path of a word that goes to an address. -/
theorem finish_went (hr : Ready s w u cx) (he : Effect s e cx h) (pc : Word) (taken : Bool) :
    Went s (e.finish (cx.fetched u) w u (some pc) taken) cx w pc
      (h.finished (cx.fetched u) w u ((cx.fetched u).kept w u (some pc) taken) (some pc)) where
  group := (hr.finish_writesIn he (some pc) taken).group?_same
  path := by
    have hp : h.path (cx.fetched u).slot = some cx.p := (he.paths cx.slot).trans hr.path
    exact ⟨_, Group.path_finished (cx.fetched u) w u _ (some pc) hp, rfl, rfl, rfl, rfl⟩
  other := by
    have hp : h.path (cx.fetched u).slot = some cx.p := (he.paths cx.slot).trans hr.path
    rw [← he.paths]
    exact Group.path_finished_other (cx.fetched u) w u _ (some pc) hp
  elsewhere := fun _ ho => (hr.finish_writesIn he (some pc) taken).group?_other ho

/-- Of the group, the word's issue has changed no more than any issue does. -/
theorem finish_onlyIssue (hr : Ready s w u cx) (he : Effect s e cx h) (keep : Option (Nat × RegVal)) (pc : Option Word) :
    h.onlyIssue (h.finished (cx.fetched u) w u keep pc) :=
  Group.finished_onlyIssue (cx.fetched u) w u keep pc ((he.paths cx.slot).trans hr.path)

/-- A ready word without effect moves its path. -/
theorem finish_moved (hr : Ready s w u cx) (pc : Word) (taken : Bool) :
    ∃ gt, Moved s ((s.fetched cx u).finish (cx.fetched u) w u (some pc) taken) cx w pc gt := by
  have he := hr.effect_fetched
  have hi := (Group.refill_onlyIssue cx.g _ _).trans (hr.finish_onlyIssue he ((cx.fetched u).kept w u (some pc) taken) (some pc))
  exact ⟨_, hr.finish_went he pc taken, hi.keeps [], hi.onlyRegs, (hr.finish_writesIn he _ _).sameMemory hr.memory,
    (hr.finish_writesIn he _ _).onlyGroups⟩

end Ready

/-! ### Masks -/

@[simp] theorem laneIn_zero (l : Nat) : laneIn 0#64 l = false := by simp [laneIn]

@[simp] theorem laneIn_and (x y : Word) (l : Nat) : laneIn (x &&& y) l = (laneIn x l && laneIn y l) :=
  BitVec.getLsbD_and ..
@[simp] theorem laneIn_or (x y : Word) (l : Nat) : laneIn (x ||| y) l = (laneIn x l || laneIn y l) :=
  BitVec.getLsbD_or ..
@[simp] theorem laneIn_xor (x y : Word) (l : Nat) : laneIn (x ^^^ y) l = (laneIn x l ^^ laneIn y l) :=
  BitVec.getLsbD_xor ..
theorem laneIn_not (x : Word) (l : Nat) (h : l < 64) : laneIn (~~~x) l = !laneIn x l := by
  simp [laneIn, h]

theorem lt_of_laneIn {m : Word} {l : Nat} (h : laneIn m l = true) : l < 64 := BitVec.lt_of_getLsbD h

theorem mem_lanes (m : Word) (l : Nat) : l ∈ lanes m ↔ laneIn m l = true := by
  simp only [lanes, List.mem_filter, List.mem_range, and_iff_right_iff_imp]
  exact lt_of_laneIn

/-- The mask of a list has its lanes. -/
theorem laneIn_maskOf (ls : List Nat) (l : Nat) (h : l < 64) : laneIn (maskOf ls) l = decide (l ∈ ls) := by
  suffices hs : ∀ m : Word,
      laneIn (ls.foldl (fun m k => m ||| BitVec.ofNat 64 (1 <<< k)) m) l = (laneIn m l || decide (l ∈ ls)) from
    (hs 0).trans (by simp)
  induction ls with
  | nil => simp
  | cons k ls ih =>
    intro m
    have hbit : laneIn (BitVec.ofNat 64 (1 <<< k)) l = decide (l = k) := by
      rw [laneIn, BitVec.getLsbD_ofNat, Nat.one_shiftLeft, Nat.testBit_two_pow]
      simp [h, eq_comm]
    rw [List.foldl_cons, ih, laneIn_or, hbit]
    simp [Bool.or_assoc]

/-! ### Predicates (03 R67) -/

@[simp] theorem Group.pred_setPred_same (g : Group) (p : PredIx) (m v : Word) (h : Sparse.rising 0 g.preds = true) (hp : p ≠ 7) :
    (g.setPred p m v).pred p = (g.pred p &&& ~~~m) ||| (v &&& m) := by
  simp only [Group.pred, Group.setPred, hp, if_false]
  exact Sparse.get_put_same _ _ _ _ h

theorem Group.pred_setPred_other (g : Group) (p q : PredIx) (m v : Word) (h : Sparse.rising 0 g.preds = true)
    (hq : q ≠ p ∨ q = 7) : (g.setPred p m v).pred q = g.pred q := by
  by_cases h7 : q = 7
  · simp [Group.pred, h7]
  · have hne : q.toNat ≠ p.toNat := fun he => (hq.resolve_right h7) (BitVec.eq_of_toNat_eq he)
    simp only [Group.pred, h7, if_false, Group.setPred]
    exact Sparse.get_put_other _ _ _ _ _ hne h

/-- Writing a predicate under a mask sets its lanes there, and nothing else. -/
theorem Group.setPred_setTo (g : Group) (p : PredIx) (m v : Word) (f : Nat → Bool) (h : Sparse.rising 0 g.preds = true)
    (hv : ∀ l, laneIn m l = true → l < g.width → laneIn v l = f l) : g.setTo (g.setPred p m v) m p f := by
  refine ⟨fun hp l hl hw => ?_, fun q hq => Group.pred_setPred_other g p q m v h hq⟩
  rw [Group.pred_setPred_same g p m v h hp, laneIn_or, laneIn_and, laneIn_and, laneIn_not _ _ hl]
  cases hm : laneIn m l with
  | false => simp
  | true => simp [hv l hm hw]

theorem Group.onlyIssue.pred {g h : Group} (hi : g.onlyIssue h) (p : PredIx) : h.pred p = g.pred p := by
  simp only [Group.pred, hi.preds]

end Sys2Proof.Machine
end

section
/-! PROOFS. icmp, pset and the predicate forms of vote (03 R48, R63, R67, 02 R35). -/

namespace Sys2Proof.Proofs

open Sys2Proof Sys2Proof.Machine Sys2Proof.Claims

/-! ### Operands once they are resident -/

section
variable (cx : Cx) (u : Uses)
@[simp] theorem fetched_src (x : Src) : (cx.fetched u).src x = cx.src x := by
  cases x with
  | reg i => exact Group.val_refill _ _ _ _
  | spec x => rfl
  | imm v => rfl
@[simp] theorem fetched_eff : (cx.fetched u).eff = cx.eff := rfl
@[simp] theorem fetched_pred (p : PredIx) : (cx.fetched u).g.pred p = cx.g.pred p :=
  (Group.refill_onlyIssue _ _ _).pred p
@[simp] theorem fetched_width : (cx.fetched u).g.width = cx.g.width := (Group.refill_onlyIssue _ _ _).width
end

/-! ### A word with a predicate result -/

/-- A word without an active lane writes no predicate (01 R27). -/
theorem wrotePred_of_moved {s t : State} {cx : Cx} {w : Guard} {gt : Group} (p : PredIx) (v : Nat → Bool)
    (h : Moved s t cx w (cx.p.pc + 16) gt) (he : cx.eff = 0) : WrotePred s t cx w p v gt := by
  have hpreds : gt.preds = cx.g.preds := by have := congrArg Group.preds h.group; exact this
  have hpred (q : PredIx) : gt.pred q = cx.g.pred q := by simp only [Group.pred, hpreds]
  refine ⟨h.went, ⟨fun _ l _ _ => ?_, fun q _ => hpred q⟩, h.regs, ?_, h.memory, h.rest⟩
  · simp [he, hpred]
  · rw [Group.onlyPreds, ← hpreds]
    exact h.group

/-- A predicate's write between two issues changes no more of the group than predicates. -/
theorem onlyPreds_of_setPred {g r h : Group} {p : PredIx} {m v : Word} (hi : g.onlyIssue r)
    (hf : (r.setPred p m v).onlyIssue h) : g.onlyPreds h := by
  have hr : r.onlyIssue { h with preds := r.preds } := by
    have he := congrArg (fun x : Group => { x with preds := r.preds }) hf
    exact he
  rw [Group.onlyPreds, ← hi.preds]
  exact (hi.trans hr).onlyRegs

/-- What a ready word with a predicate result comes to. -/
theorem predWord_ready {s : State} {w : Guard} {srcs : List Src} {cx : Cx} (hr : Ready s w (usesOf srcs []) cx)
    (he : cx.eff ≠ 0) (p : PredIx) (f : Cx → Word) :
    let cx1 := cx.fetched (usesOf srcs [])
    predWord w srcs p f s = .next (((s.fetched cx (usesOf srcs [])).setGroup cx.gid
      (cx1.g.setPred p cx.eff (f cx1))).finish cx1 w (usesOf srcs []) (some (cx.p.pc + 16))) := by
  have hm := State.modGroup_some hr.fetched_group (fun g => g.setPred p cx.eff (f (cx.fetched (usesOf srcs []))))
  dsimp only at hm ⊢
  rw [← hm, predWord, issueMasked_ready _ hr he]
  rfl

/-- A ready word that computes a predicate sets it in the lanes of its mask, and nothing else (02 R35). -/
theorem predWord_wrote {s : State} {w : Guard} {srcs : List Src} {cx : Cx} (hr : Ready s w (usesOf srcs []) cx)
    (p : PredIx) (f : Cx → Word) (v : Nat → Bool)
    (hv : ∀ l, laneIn cx.eff l = true → l < cx.g.width → laneIn (f (cx.fetched (usesOf srcs []))) l = v l) :
    ∃ t gt, predWord w srcs p f s = .next t ∧ WrotePred s t cx w p v gt := by
  by_cases he : cx.eff = 0
  · obtain ⟨gt, hm⟩ := hr.finish_moved (cx.p.pc + 16) false
    exact ⟨_, gt, issueMasked_empty _ hr he, wrotePred_of_moved p v hm he⟩
  · have hi : cx.g.onlyIssue (cx.fetched (usesOf srcs [])).g := Group.refill_onlyIssue _ _ _
    have heff := hr.effect_setGroup ((cx.fetched (usesOf srcs [])).g.setPred p cx.eff (f (cx.fetched (usesOf srcs []))))
      (fun n => Group.path_refill cx.g _ _ n) hi.divdepth hi.width hi.nr
    have hfin := hr.finish_onlyIssue heff ((cx.fetched (usesOf srcs [])).kept w (usesOf srcs []) (some (cx.p.pc + 16)) false)
      (some (cx.p.pc + 16))
    have hwrites := hr.finish_writesIn heff (some (cx.p.pc + 16)) false
    have hset := Group.setPred_setTo (cx.fetched (usesOf srcs [])).g p cx.eff (f (cx.fetched (usesOf srcs []))) v
      (by rw [hi.preds]; exact hr.predsRising) (fun l hl hlw => hv l hl (by rwa [hi.width] at hlw))
    refine ⟨_, _, predWord_ready hr he p f, hr.finish_went heff _ false, ⟨fun hp l hl hlw => ?_, fun q hq => ?_⟩,
      (hi.keeps []).trans (hfin.keeps []), onlyPreds_of_setPred hi hfin, hwrites.sameMemory hr.memory, hwrites.onlyGroups⟩
    · rw [hfin.pred, hset.1 hp l hl (by rwa [hi.width]), hi.pred]
    · rw [hfin.pred, hset.2 q hq, hi.pred]

/-! ### The values -/

theorem uNat_eq_low (w : Bool) (x : Word) : uNat w x = low w x := by
  cases w with
  | true => simp [uNat, low, wid, BitVec.extractLsb'_toNat]
  | false => simp only [uNat, low, wid, Bool.false_eq_true, if_false, Nat.mod_eq_of_lt x.isLt]

theorem sInt_eq_sgn (w : Bool) (x : Word) : sInt w x = sgn w x := by
  have hu := uNat_eq_low w x
  cases w with
  | true =>
    simp only [uNat, if_true] at hu
    simp only [sInt, sgn, if_true, BitVec.toInt_eq_toNat_cond, hu, wid]
    split <;> split <;> omega
  | false =>
    simp only [uNat, Bool.false_eq_true, if_false] at hu
    simp only [sInt, sgn, Bool.false_eq_true, if_false, BitVec.toInt_eq_toNat_cond, hu, wid]
    split <;> split <;> omega

theorem asInt_eq_num (w u : Bool) (x : Word) : asInt w u x = num w u x := by
  simp only [asInt, num, uNat_eq_low, sInt_eq_sgn]

theorem condHolds_eq_compare (c : Cond) (x y : Int) : condHolds c x y = Claims.compare c x y := by
  cases c with
  | eq => exact Bool.eq_iff_iff.mpr (by simp [condHolds, Claims.compare])
  | ne => exact Bool.eq_iff_iff.mpr (by simp [condHolds, Claims.compare])
  | lt => rfl
  | le => rfl
  | gt => rfl
  | ge => rfl

/-- Two lanes of one segment (01 R24). -/
theorem segStart_beq (s k l : Nat) (hs : 0 < s) : (segStart s k == segStart s l) = (k / s == l / s) := by
  have hstart (n : Nat) : segStart s n = s * (n / s) := by
    have := Nat.div_add_mod n s
    rw [segStart]
    omega
  rw [Bool.eq_iff_iff, beq_iff_eq, beq_iff_eq, hstart, hstart, Nat.mul_right_inj hs.ne']

theorem segLanes_eq_mates (cx : Cx) (s l : Nat) (hs : 0 < s) : segLanes cx s l = mates cx s l := by
  simp only [segLanes, mates, lanes, List.filter_filter, segStart_beq _ _ _ hs]
  congr 1
  funext k
  exact Bool.and_comm ..

theorem mem_mates {cx : Cx} {s l k : Nat} (h : k ∈ mates cx s l) : laneIn cx.eff k = true := by
  simp only [mates, List.mem_filter, Bool.and_eq_true] at h
  exact h.2.1

theorem self_mem_mates {cx : Cx} {l : Nat} (s : Nat) (h : laneIn cx.eff l = true) : l ∈ mates cx s l := by
  simp [mates, h, lt_of_laneIn h]

/-- A value equal over the segment of an active lane is that lane's. -/
theorem equalIn_mates {cx : Cx} {s l : Nat} (v : RegVal) (h : laneIn cx.eff l = true) :
    v.equalIn (maskOf (mates cx s l)) = (mates cx s l).all (fun k => v.lane k == v.lane l) := by
  have hlanes : ∀ k, k ∈ Machine.lanes (maskOf (mates cx s l)) ↔ k ∈ mates cx s l := by
    intro k
    rw [mem_lanes]
    constructor
    · intro hk
      simpa [laneIn_maskOf _ _ (lt_of_laneIn hk)] using hk
    · intro hk
      rw [laneIn_maskOf _ _ (lt_of_laneIn (mem_mates hk))]
      exact decide_eq_true hk
  have hl := (hlanes l).mpr (self_mem_mates s h)
  rw [Bool.eq_iff_iff]
  simp only [RegVal.equalIn, List.all_eq_true, beq_iff_eq, ← hlanes]
  cases hm : Machine.lanes (maskOf (mates cx s l)) with
  | nil => simp [hm] at hl
  | cons a as =>
    rw [hm] at hl
    simp only [List.all_eq_true, beq_iff_eq, List.mem_cons, forall_eq_or_imp] at hl ⊢
    grind

/-! ### The words -/

section
variable {s : State} {cx : Cx} (g : Guard)

theorem exec_icmp (cc : Cond) (w u : Bool) (d : PredIx) (a b : Src) (s : State) :
    exec (.icmp g cc w u d a b) s = predWord g [a, b] d (cmpMask cc w u a b) s := rfl

theorem exec_voteEvery (sp : BitVec 3) (d a : PredIx) (s : State) :
    exec (.vote g sp (.every d a)) s
      = votePred g [] d (fun cx l => (votes cx (spanOf sp) a l).length == (segLanes cx (spanOf sp) l).length) s := rfl

theorem exec_voteSome (sp : BitVec 3) (d a : PredIx) (s : State) :
    exec (.vote g sp (.some d a)) s = votePred g [] d (fun cx l => !(votes cx (spanOf sp) a l).isEmpty) s := rfl

theorem exec_voteSame (sp : BitVec 3) (d : PredIx) (a : Src) (s : State) :
    exec (.vote g sp (.same d a)) s
      = votePred g [a] d (fun cx l => (cx.src a).equalIn (maskOf (segLanes cx (spanOf sp) l))) s := rfl

theorem icmp_wrote (cc : Cond) (w u : Bool) (d : PredIx) (a b : Src) (hr : Ready s g (usesOf [a, b] []) cx) :
    ∃ t gt, exec (.icmp g cc w u d a b) s = .next t ∧ WrotePred s t cx g d
      (fun l => Claims.compare cc (num w u ((cx.src a).lane l)) (num w u ((cx.src b).lane l))) gt := by
  rw [exec_icmp]
  refine predWord_wrote hr d _ _ (fun l hl hw => ?_)
  simp only [cmpMask, Cx.w, fetched_width, fetched_src, laneIn_maskOf _ _ (lt_of_laneIn hl), List.mem_filter,
    List.mem_range, hw, true_and, asInt_eq_num, condHolds_eq_compare, Bool.decide_eq_true]

theorem pset_wrote (op : PsetOp) (d a b : PredIx) (hr : Ready s g (usesOf [] []) cx) :
    ∃ t gt, exec (.pset g op d a b) s = .next t ∧ WrotePred s t cx g d
      (fun l =>
        let x := laneIn (cx.g.pred a) l
        let y := laneIn (cx.g.pred b) l
        match op with
        | .and => x && y
        | .or => x || y
        | .xor => x ^^ y
        | .andn => x && !y) gt := by
  cases op with
  | and => exact predWord_wrote hr d (fun cx => cx.g.pred a &&& cx.g.pred b) _ (fun l hl _ => by simp)
  | or => exact predWord_wrote hr d (fun cx => cx.g.pred a ||| cx.g.pred b) _ (fun l hl _ => by simp)
  | xor => exact predWord_wrote hr d (fun cx => cx.g.pred a ^^^ cx.g.pred b) _ (fun l hl _ => by simp)
  | andn =>
    exact predWord_wrote hr d (fun cx => cx.g.pred a &&& ~~~cx.g.pred b) _
      (fun l hl _ => by simp [laneIn_not _ _ (lt_of_laneIn hl)])

/-- A vote with a predicate result tests the segment of each active lane (03 R63). -/
theorem votePred_wrote (srcs : List Src) (d : PredIx) (test : Cx → Nat → Bool) (v : Nat → Bool)
    (hr : Ready s g (usesOf srcs []) cx) (hv : ∀ l, laneIn cx.eff l = true → test (cx.fetched (usesOf srcs [])) l = v l) :
    ∃ t gt, votePred g srcs d test s = .next t ∧ WrotePred s t cx g d v gt := by
  refine predWord_wrote hr d _ v (fun l hl _ => ?_)
  simp [laneIn_maskOf _ _ (lt_of_laneIn hl), mem_lanes, hl, hv]

theorem fetched_segLanes (u : Uses) (n l : Nat) (hn : 0 < n) : segLanes (cx.fetched u) n l = mates cx n l :=
  segLanes_eq_mates cx n l hn

theorem fetched_votes (u : Uses) (n : Nat) (p : PredIx) (l : Nat) (hn : 0 < n) :
    votes (cx.fetched u) n p l = (mates cx n l).filter (laneIn (cx.g.pred p)) := by
  rw [votes, fetched_segLanes u n l hn, fetched_pred]

theorem voteEvery_wrote (sp : BitVec 3) (d a : PredIx) (hr : Ready s g (usesOf [] []) cx) :
    ∃ t gt, exec (.vote g sp (.every d a)) s = .next t ∧ WrotePred s t cx g d
      (fun l => (mates cx (2 ^ (sp.toNat + 1)) l).all (laneIn (cx.g.pred a))) gt := by
  rw [exec_voteEvery]
  refine votePred_wrote g [] d _ _ hr (fun l hl => ?_)
  rw [spanOf, fetched_votes _ _ _ _ (Nat.two_pow_pos _), fetched_segLanes _ _ _ (Nat.two_pow_pos _), Bool.eq_iff_iff]
  simp [List.length_filter_eq_length_iff]

theorem voteSome_wrote (sp : BitVec 3) (d a : PredIx) (hr : Ready s g (usesOf [] []) cx) :
    ∃ t gt, exec (.vote g sp (.some d a)) s = .next t ∧ WrotePred s t cx g d
      (fun l => (mates cx (2 ^ (sp.toNat + 1)) l).any (laneIn (cx.g.pred a))) gt := by
  rw [exec_voteSome]
  refine votePred_wrote g [] d _ _ hr (fun l hl => ?_)
  rw [spanOf, fetched_votes _ _ _ _ (Nat.two_pow_pos _), Bool.eq_iff_iff]
  simp

theorem voteSame_wrote (sp : BitVec 3) (d : PredIx) (a : Src) (hr : Ready s g (usesOf [a] []) cx) :
    ∃ t gt, exec (.vote g sp (.same d a)) s = .next t ∧ WrotePred s t cx g d
      (fun l => (mates cx (2 ^ (sp.toNat + 1)) l).all (fun k => (cx.src a).lane k == (cx.src a).lane l)) gt := by
  rw [exec_voteSame]
  refine votePred_wrote g [a] d _ _ hr (fun l hl => ?_)
  rw [spanOf, fetched_segLanes _ _ _ (Nat.two_pow_pos _), fetched_src, equalIn_mates _ hl]
end

/-- Settles O11: the words with a predicate result set it in the lanes of the mask, each by its own value. -/
theorem predicateResults : Obligations.PredicateResults := by
  unfold Obligations.PredicateResults
  intro i f s cx hf hwf hr
  unfold predForm at hf
  split at hf
  case h_1 g cc w u d a b =>
    obtain rfl := Option.some.inj hf
    exact icmp_wrote g cc w u d a b hr
  case h_2 g op d a b =>
    obtain rfl := Option.some.inj hf
    exact pset_wrote g op d a b hr
  case h_3 g sp d a =>
    obtain rfl := Option.some.inj hf
    exact voteEvery_wrote g sp d a hr
  case h_4 g sp d a =>
    obtain rfl := Option.some.inj hf
    exact voteSome_wrote g sp d a hr
  case h_5 g sp d a =>
    obtain rfl := Option.some.inj hf
    exact voteSame_wrote g sp d a hr
  case h_6 => exact absurd hf (by simp)

end Sys2Proof.Proofs
end

section
/-! SUPPORT. What write-backs, messages and fault records leave as it was: the groups, the launches, and memory's form
(12 R252, R255, 14 R302, 15 R332). -/

namespace Sys2Proof.Machine

/-- The groups and the launches are the same, and memory keeps its form. -/
structure SameWork (s t : State) : Prop where
  groups : t.groups = s.groups
  launches : t.launches = s.launches
  ok : s.memoryOk = true → t.memoryOk = true

namespace SameWork
variable {s t u : State}

theorem refl (s : State) : SameWork s s := ⟨rfl, rfl, id⟩

theorem trans (h : SameWork s t) (k : SameWork t u) : SameWork s u :=
  ⟨k.groups.trans h.groups, k.launches.trans h.launches, fun hs => k.ok (h.ok hs)⟩

/-- Updates of other fields. -/
theorem of_fields (h1 : t.groups = s.groups) (h2 : t.launches = s.launches) (h3 : t.mem = s.mem) (h4 : t.hostMem = s.hostMem)
    (h5 : t.teams = s.teams) : SameWork s t := ⟨h1, h2, fun hs => State.memoryOk_same hs h3 h4 h5⟩

theorem foldl {α : Type} (f : State → α → State) (hf : ∀ t x, SameWork t (f t x)) (xs : List α) (s : State) :
    SameWork s (xs.foldl f s) :=
  foldl_keeps (SameWork s) f (fun t x h => h.trans (hf t x)) xs s (refl s)

theorem group? (h : SameWork s t) (gid : GroupId) : t.group? gid = s.group? gid := by
  simp only [State.group?, h.groups]

theorem ctxOf (h : SameWork s t) (n : Nat) : t.ctxOf n = s.ctxOf n := by
  simp only [State.ctxOf, State.launch?, h.launches]
end SameWork

/-! ### Messages (14 R293, R299, R302) -/

section
variable (s : State)

theorem State.putOut_sameWork (m : FabMsg) : SameWork s (s.putOut m) := by
  unfold State.putOut
  dsimp only
  split <;> exact .of_fields rfl rfl rfl rfl rfl

theorem State.modCtx_sameWork (c : Nat) (f : Context → Context) : SameWork s (s.modCtx c f) :=
  .of_fields rfl rfl rfl rfl rfl

theorem State.modPair_sameWork (ctx owner : Nat) (f : SerialPair → SerialPair) : SameWork s (s.modPair ctx owner f) := by
  unfold State.modPair
  split
  · exact State.modCtx_sameWork ..
  · exact .refl s

theorem State.transmit_sameWork (n : Nat) (retx renew : Bool) : SameWork s (s.transmit n retx renew) := by
  unfold State.transmit
  split
  · exact .refl s
  · dsimp only
    refine .trans ?_ (State.putOut_sameWork _ _)
    refine .trans (t := ite _ _ _) ?_ (.of_fields rfl rfl rfl rfl rfl)
    split
    · exact State.modCtx_sameWork ..
    · exact State.modPair_sameWork ..

theorem State.sendQueued_sameWork : SameWork s s.sendQueued := by
  unfold State.sendQueued
  refine foldl_keeps (fun acc : State × List Remote => SameWork s acc.1) _ (fun acc e h => ?_) s.remotes (s, []) (.refl s)
  dsimp only
  split
  · exact h.trans (State.transmit_sameWork ..)
  · exact h

theorem State.sendRemote_sameWork (ctx owner sec : Nat) (q : RemoteReq) (p : Purpose) :
    SameWork s (s.sendRemote ctx owner sec q p).2 := by
  unfold State.sendRemote
  dsimp only
  refine .trans ?_ (State.sendQueued_sameWork _)
  exact .of_fields rfl rfl rfl rfl rfl

/-! ### The package's L2 (12 R248, R252) -/

theorem State.hostWrite_sameWork (a : Nat) (bs : List Byte) (m : Word) : SameWork s (s.hostWrite a bs m) :=
  ⟨rfl, rfl, State.memoryOk_hostWrite s a bs m⟩

theorem State.hostWriteN_sameWork (a : Nat) (bs : List Byte) : SameWork s (s.hostWriteN a bs) := by
  have hg := congrArg State.groups (State.hostWriteN_frame s a bs)
  have hl := congrArg State.launches (State.hostWriteN_frame s a bs)
  exact ⟨hg, hl, State.memoryOk_hostWriteN s a bs⟩

theorem State.homeWrite_sameWork (sec : Nat) (bs : List Byte) (m : Word) (w : Bool) : SameWork s (s.homeWrite sec bs m w) :=
  ⟨rfl, rfl, State.memoryOk_homeWrite s sec bs m w⟩

theorem State.setL2_sameWork (sec : Nat) (x : Option Sector) : SameWork s (s.setL2 sec x) := .of_fields rfl rfl rfl rfl rfl

theorem State.wbL2_sameWork (ctx sec : Nat) (who : Option (GroupId × TrapInfo)) : SameWork s (s.wbL2 ctx sec who).1 := by
  unfold State.wbL2
  split
  · exact .refl s
  · split
    · exact .refl s
    · split
      · exact .trans (State.hostWrite_sameWork ..) (State.setL2_sameWork ..)
      · exact State.sendRemote_sameWork ..

theorem State.evictL2_sameWork (line : Nat) : SameWork s (s.evictL2 line) :=
  .trans (.foldl _ (fun t sec => State.wbL2_sameWork t 0 sec none) _ s) (.of_fields rfl rfl rfl rfl rfl)

theorem State.roomL2_sameWork (line : Nat) : SameWork s (s.roomL2 line).2 := by
  unfold State.roomL2
  split
  · exact .refl s
  · dsimp only
    split
    · exact State.evictL2_sameWork ..
    · cases (byClass Prod.snd (s.sliceOfLine line)).head? with
      | none => exact .refl s
      | some e => exact State.evictL2_sameWork ..

theorem State.noteL2_sameWork (sec : Nat) (h : Option Hint) : SameWork s (s.noteL2 sec h) := by
  unfold State.noteL2
  dsimp only
  split
  · cases h with
    | none => exact .refl s
    | some k => exact .of_fields rfl rfl rfl rfl rfl
  · split
    · exact .trans (State.roomL2_sameWork ..) (.of_fields rfl rfl rfl rfl rfl)
    · exact State.roomL2_sameWork ..

theorem State.l2Merge_sameWork (sec : Nat) (bs : List Byte) (m : Word) (h : Option Hint) :
    SameWork s (s.l2Merge sec bs m h) := by
  unfold State.l2Merge
  dsimp only
  refine .trans (State.noteL2_sameWork s sec h) ?_
  split
  · exact State.hostWrite_sameWork ..
  · exact State.setL2_sameWork ..

/-! ### The cluster L1 (12 R252, R255) -/

theorem State.setL1_sameWork (clus sec : Nat) (x : Option Sector) : SameWork s (s.setL1 clus sec x) :=
  .of_fields rfl rfl rfl rfl rfl

theorem State.wbL1_sameWork (clus sec : Nat) : SameWork s (s.wbL1 clus sec) := by
  unfold State.wbL1
  split
  · exact .refl s
  · split
    · exact .refl s
    · split
      · exact .trans (State.homeWrite_sameWork ..) (State.setL1_sameWork ..)
      · split
        · exact .refl s
        · split
          · exact .trans (State.l2Merge_sameWork ..) (State.setL1_sameWork ..)
          · exact State.roomL2_sameWork ..

theorem State.wbCluster_sameWork (clus : Nat) : SameWork s (s.wbCluster clus) := by
  unfold State.wbCluster
  exact .foldl _ (fun t (e : Nat × Sector) => State.wbL1_sameWork t clus e.1) _ s

/-! ### Fault records and halting (15 R332, 07 R184) -/

theorem State.writeRecord_sameWork (ctx : Nat) (r : FaultRec) : SameWork s (s.writeRecord ctx r) := by
  unfold State.writeRecord
  dsimp only
  split
  · exact State.modCtx_sameWork ..
  · exact .trans (State.hostWriteN_sameWork ..) (State.modCtx_sameWork ..)

theorem State.post_sameWork (ctx die : Nat) (r : FaultRec) : SameWork s (s.post ctx die r) := by
  unfold State.post
  split
  · dsimp only
    split
    · exact .refl s
    · refine .trans (t := ite _ _ _) ?_ (State.writeRecord_sameWork ..)
      split
      · exact .refl s
      · exact .of_fields rfl rfl rfl rfl rfl
  · exact State.writeRecord_sameWork ..

theorem State.settleTeam_groups (tid : TeamId) : (s.settleTeam tid).groups = s.groups := by
  unfold State.settleTeam
  split
  · rfl
  · dsimp only
    split
    · rfl
    · split
      · split <;> rfl
      · split
        · exact (State.wbCluster_sameWork ..).groups
        · exact (State.wbCluster_sameWork ..).groups

/-- A group that halts has halted. -/
theorem State.haltGroup_group {s : State} {gid : GroupId} {g : Group} (hg : s.group? gid = some g) (code : BitVec 8)
    (detail : BitVec 16) (addr : Word) (seg : BitVec 8) :
    (s.haltGroup gid code detail addr seg).group? gid
      = some { g with phase := .halted, trap := none, imprecise := [], laterTraps := [] } := by
  simp only [State.haltGroup, hg]
  rw [State.group?, State.settleTeam_groups, (State.post_sameWork ..).groups]
  exact State.group?_setGroup_same ..
end

end Sys2Proof.Machine
end

section
/-! SUPPORT. The size of a trap frame, where it fits, and what a return leaves of the group (07 R182 to R185, 08 R199 to
R202, 16 R344). -/

namespace Sys2Proof.Machine

/-! ### Room for a frame (16 R344) -/

/-- What lies in a union of ranges, a shorter run from the same place does too. -/
theorem State.inUnion_mono (s : State) {a b : Nat} (hab : a ≤ b) (k addr : Nat) (h : s.inUnion b k addr = true) :
    s.inUnion a k addr = true := by
  induction k generalizing addr with
  | zero => simp [State.inUnion] at h
  | succ k ih =>
    simp only [State.inUnion] at h ⊢
    cases he : s.rangeEnd addr with
    | none => simp [he] at h
    | some e =>
      simp only [he, Bool.or_eq_true, decide_eq_true_eq] at h ⊢
      exact h.imp (fun h => by omega) (ih e)

theorem State.inTier_mono (s : State) (tier addr : Nat) {m n : Nat} (hmn : m ≤ n) (h : s.inTier tier addr n = true) :
    s.inTier tier addr m = true := by
  match tier with
  | 0 =>
    simp only [State.inTier, decide_eq_true_eq] at h ⊢
    omega
  | 1 => exact State.inUnion_mono s (by omega) 8 addr h
  | _ + 2 =>
    simp only [State.inTier, decide_eq_true_eq] at h ⊢
    omega

/-- Less than what fits in a context area fits. -/
theorem State.areaOk_mono (s : State) (p : Nat) {m n : Nat} (hmn : m ≤ n) (h : s.areaOk p n = true) :
    s.areaOk p m = true := by
  simp only [State.areaOk, Bool.and_eq_true] at h ⊢
  exact ⟨h.1, State.inTier_mono s _ _ hmn h.2⟩

/-! ### The size of a frame (07 R182, 08 R199 to R201) -/

@[simp] theorem length_pathRecord (st : List Entry) (pc : Word) (p : Option Path) : (pathRecord st pc p).length = 32 := by
  cases p <;> simp [pathRecord]

theorem length_pad64 (bs : List Byte) : (pad64 bs).length ≤ bs.length + 63 := by
  simp only [pad64, List.length_append, List.length_replicate]
  omega

theorem length_fixedBlock (g : Group) (pc0 pc1 : Word) (pm : Bool) (sl : BitVec 32) :
    (fixedBlock g pc0 pc1 pm sl).length = 704 := by
  simp [fixedBlock, List.length_flatMap]

theorem length_flatMap_le {α β : Type} (f : α → List β) (n : Nat) (xs : List α) (h : ∀ x, (f x).length ≤ n) :
    (xs.flatMap f).length ≤ n * xs.length := by
  induction xs with
  | nil => simp
  | cons x xs ih =>
    have := h x
    simp only [List.flatMap_cons, List.length_append, List.length_cons, Nat.mul_succ]
    omega

theorem length_payload (w : Nat) (hw : w ≤ 64) (v : RegVal) : (payload w v).length ≤ 512 := by
  cases hv : v.isGeneral with
  | true =>
    rw [length_payload_general w v hv]
    omega
  | false =>
    cases v with
    | general xs => simp [RegVal.isGeneral] at hv
    | unwritten => simp [payload]
    | uniform u => simp [payload]
    | affine b st => simp [payload]

/-- A frame of a group within the limits of a launch takes at most 1 MiB (16 R344). -/
theorem length_frameBytes (g : Group) (t : TrapInfo) (hw : g.width ≤ 64) (hn : g.nr ≤ 512) (hs : g.stack.length ≤ 512) :
    (frameBytes g t).length ≤ 1048576 := by
  have hvals : (savedVals g (fun _ => true)).length = g.nr := by simp [savedVals]
  have hstack := length_pad64 (g.stack.flatMap (entryRecord g.stack))
  rw [length_flatMap_const _ 32 _ (length_entryRecord g.stack)] at hstack
  have htags := length_pad64 (toBytes ((g.nr + 3) / 4)
    ((savedVals g (fun _ => true)).foldr (fun v acc => v.tag + 4 * acc) 0))
  rw [length_toBytes] at htags
  have hpad := length_pad64 ((savedVals g (fun _ => true)).flatMap (payload g.width))
  have hpay := length_flatMap_le _ 512 (savedVals g (fun _ => true)) (length_payload g.width hw)
  simp only [frameBytes, frameHeader, frameImage, imageOf, tagVector, List.length_append, length_toBytes,
    List.length_replicate, length_fixedBlock, hvals] at hpay ⊢
  omega

/-! ### A trap whose frame fits is made (07 R182 to R185) -/

theorem State.takeTrap_next {s : State} {gid : GroupId} {g : Group} (t : TrapInfo) (hw : g.width ≤ 64) (hn : g.nr ≤ 512)
    (hs : g.stack.length ≤ 512) (ha : s.areaOk (frameAddr (s.ctx (s.ctxOf gid.launch)) gid) 1048576 = true) :
    ∃ u, s.takeTrap gid g t = .next u := by
  have hok := State.areaOk_mono s _ (length_frameBytes g t hw hn hs) ha
  simp only [State.takeTrap, State.writeFrame, hok, if_true]
  split
  · exact ⟨_, rfl⟩
  · exact ⟨_, rfl⟩

theorem State.raise_next {s : State} {gid : GroupId} {g : Group} (hg : s.group? gid = some g) (t : TrapInfo)
    (hw : g.width ≤ 64) (hn : g.nr ≤ 512) (hs : g.stack.length ≤ 512)
    (ha : s.areaOk (frameAddr (s.ctx (s.ctxOf gid.launch)) gid) 1048576 = true) : ∃ u, s.raise gid t = .next u := by
  obtain ⟨h, -⟩ | ⟨h, hh, hcase⟩ := State.raise_cases s gid t
  · simp [hg] at h
  · obtain rfl : g = h := Option.some.inj (hg.symm.trans hh)
    obtain ⟨-, he⟩ | ⟨-, he⟩ := hcase
    · rw [he]
      exact State.takeTrap_next t hw hn hs ha
    · exact ⟨_, he⟩

/-- Places of context areas follow from the CXL decoders alone. -/
theorem State.onlyGroups.areaOk {s t : State} (h : s.onlyGroups t) (p n : Nat) : t.areaOk p n = s.areaOk p n := by
  have he := congrArg (fun x : State => x.areaOk p n) h
  exact he

theorem State.onlyGroups.ctxs {s t : State} (h : s.onlyGroups t) : t.ctxs = s.ctxs := by
  have he := congrArg State.ctxs h
  exact he

theorem State.onlyGroups.launches {s t : State} (h : s.onlyGroups t) : t.launches = s.launches := by
  have he := congrArg State.launches h
  exact he

/-! ### What a return leaves of the group's trap state and size (07 R185) -/

/-- The trap state, the results in flight and the dimensions of a group are as before. -/
structure Group.SameTrap (g h : Group) : Prop where
  inHandler : h.inHandler = g.inHandler
  tframe : h.tframe = g.tframe
  flight : h.flight = g.flight
  divdepth : h.divdepth = g.divdepth
  width : h.width = g.width
  nr : h.nr = g.nr

namespace Group
variable {g h k : Group}

theorem SameTrap.refl (g : Group) : g.SameTrap g := ⟨rfl, rfl, rfl, rfl, rfl, rfl⟩

theorem SameTrap.trans (h1 : g.SameTrap h) (h2 : h.SameTrap k) : g.SameTrap k :=
  ⟨h2.inHandler.trans h1.inHandler, h2.tframe.trans h1.tframe, h2.flight.trans h1.flight, h2.divdepth.trans h1.divdepth,
    h2.width.trans h1.width, h2.nr.trans h1.nr⟩

theorem allocate_sameTrap (g : Group) (named : List Nat) (run : Bool) (v : Nat) : g.SameTrap (g.allocate named run v) := by
  have h := Group.allocate_frame g named run v
  have h1 := congrArg Group.inHandler h
  have h2 := congrArg Group.tframe h
  have h3 := congrArg Group.flight h
  have h4 := congrArg Group.divdepth h
  have h5 := congrArg Group.nr h
  exact ⟨h1, h2, h3, h4, Group.width_allocate .., h5⟩

theorem setVal_sameTrap (g : Group) (r : Nat) (v : RegVal) : g.SameTrap (g.setVal r v) :=
  ⟨rfl, rfl, rfl, rfl, rfl, rfl⟩

theorem materialise_sameTrap (g : Group) (named : List Nat) (run : Bool) (v : Nat) :
    g.SameTrap (g.materialise named run v) := by
  unfold Group.materialise
  split
  · exact .refl g
  · exact (allocate_sameTrap g named run v).trans (setVal_sameTrap _ _ _)

theorem writeResult_sameTrap (g : Group) (named : List Nat) (run : Bool) (v : Nat) (m : Word) (r : RegVal) :
    g.SameTrap (g.writeResult named run v m r) := by
  unfold Group.writeResult
  split
  · exact .refl g
  · split
    · split
      · refine .trans (h := ite _ _ _) ?_ (setVal_sameTrap _ _ _)
        split
        · exact .refl g
        · exact allocate_sameTrap g named run v
      · exact ⟨rfl, rfl, rfl, rfl, rfl, rfl⟩
    · refine .trans (h := Group.materialise (ite _ _ _) named run v) ?_ (setVal_sameTrap _ _ _)
      refine .trans (h := ite _ _ _) ?_ (materialise_sameTrap _ _ _ _)
      split
      · exact .refl g
      · exact ⟨rfl, rfl, rfl, rfl, rfl, rfl⟩

theorem applyWrite_sameTrap (g : Group) (named : List Nat) (w : RegWrite) : g.SameTrap (g.applyWrite named w) :=
  (writeResult_sameTrap g named w.run w.reg w.mask w.val).trans ⟨rfl, rfl, rfl, rfl, rfl, rfl⟩

theorem setPath_sameTrap (g : Group) (n : Nat) (p : Option Path) : g.SameTrap (g.setPath n p) := by
  constructor <;> simp

theorem resumeIfEmpty_sameTrap (g : Group) (n : Nat) : g.SameTrap (g.resumeIfEmpty n) := by
  unfold Group.resumeIfEmpty
  split
  · unfold Group.resume
    split
    · exact (setPath_sameTrap g n _).trans ⟨rfl, rfl, rfl, rfl, rfl, rfl⟩
    · exact .refl g
  · exact .refl g

theorem leave_sameTrap (g : Group) (n : Nat) (gone : Word) : g.SameTrap (g.leave n gone) := by
  unfold Group.leave
  refine .trans (.trans ?_ (resumeIfEmpty_sameTrap _ _)) (resumeIfEmpty_sameTrap _ _)
  exact ⟨rfl, rfl, rfl, rfl, rfl, rfl⟩

theorem recount_sameTrap (g : Group) : g.SameTrap g.recount := by
  unfold Group.recount
  constructor <;> rfl

/-- The writes that arrived meanwhile, the arrival counters and the lanes that left are no part of the trap state. -/
theorem lateWrites_sameTrap (g : Group) (ws : List RegWrite) (slot : Nat) (gone : Word) :
    g.SameTrap (((ws.foldl (fun x w => x.applyWrite [] w) g).recount).leave slot gone) := by
  have hw : g.SameTrap (ws.foldl (fun x w => x.applyWrite [] w) g) :=
    foldl_keeps (fun x => g.SameTrap x) _ (fun x w hx => hx.trans (applyWrite_sameTrap x [] w)) ws g (.refl g)
  exact (hw.trans (recount_sameTrap _)).trans (leave_sameTrap _ slot gone)

/-- After a return the group is out of its handler, the results of before its trap are in flight, and its size is as it
was (07 R185). -/
theorem returnFrom_sameTrap (g : Group) (slot : Nat) (frame : List Byte) :
    { g with inHandler := false, tframe := 0, flight := g.preTrap }.SameTrap (returnFrom g slot frame) := by
  unfold returnFrom
  extract_lets img rpc g1 g2 g3 g4
  have hset : g1.SameTrap g2 := setPath_sameTrap g1 slot (resumeTrapped (g1.path slot) rpc)
  have hback : { g with inHandler := false, tframe := 0, flight := g.preTrap }.SameTrap g3 :=
    ⟨rfl, rfl, rfl, hset.divdepth, hset.width, hset.nr⟩
  exact hback.trans (lateWrites_sameTrap g3 g.late slot _)

end Group

end Sys2Proof.Machine
end

section
/-! PROOFS. trap, a word that fails its checks, and rte (02 R36, R37, 03 R59, 07 R182 to R185, 08 R209). -/

namespace Sys2Proof.Proofs

open Sys2Proof Sys2Proof.Machine Sys2Proof.Claims

theorem exec_trap (g : Guard) (code : BitVec 32) (s : State) : exec (.trap g code) s
    = issueMasked g Uses.none (fun s _ => .after s { cause 0x11 0 with info := code.setWidth 64 }) s := rfl

theorem exec_illegalWord (d : BitVec 8) (s : State) : exec (.illegalWord d) s = execIllegalWord d s := rfl

theorem exec_rte (g : Guard) (s : State) : exec (.rte g) s = issueWord g Uses.none returnBody s := rfl

/-! ### trap and words that fail -/

/-- A trap of the word at hand, whose frame fits, is made. -/
theorem raise_of_frameFits {s : State} {cx : Cx} {w : Guard} {u : Uses} (hc : s.cx? w u = some cx) (hf : FrameFits s cx)
    (ti : TrapInfo) : ∃ t, s.raise cx.gid ti = .next t := by
  refine State.raise_next (State.cx?_spec hc).2.2.1 ti hf.lanes hf.regs hf.stack ?_
  rw [State.cx?_ctxOf hc]
  exact hf.area

/-- After a word that has moved its path, a trap still finds room for its frame. -/
theorem raise_of_moved {s t : State} {cx : Cx} {w : Guard} {u : Uses} {pc : Word} {gt : Group} (hr : Ready s w u cx)
    (hf : FrameFits s cx) (hm : Moved s t cx w pc gt) (ti : TrapInfo) : ∃ v, t.raise cx.gid ti = .next v := by
  have hw := congrArg Group.width hm.group
  have hn := congrArg Group.nr hm.group
  have hs := congrArg Group.stack hm.group
  dsimp only at hw hn hs
  refine State.raise_next hm.went.group ti (by rw [hw]; exact hf.lanes) (by rw [hn]; exact hf.regs)
    (by rw [hs]; exact hf.stack) ?_
  have hctx : t.ctx (t.ctxOf cx.gid.launch) = s.ctx cx.ctx := by
    rw [← hr.ctxOf]
    simp only [State.ctx, State.ctxOf, State.launch?, hm.rest.ctxs, hm.rest.launches]
  rw [hctx, hm.rest.areaOk]
  exact hf.area

theorem trapWords : Claims.TrapWords := by
  refine ⟨fun g code s cx _ hr hf he => ?_, fun g code s cx _ hr he => ?_, fun d s cx hc hf => ?_⟩
  · obtain ⟨gt, hm⟩ := hr.finish_moved (cx.p.pc + 16) false
    obtain ⟨t, ht⟩ := raise_of_moved hr hf hm { cx.precise 0x11 0 (code.setWidth 64) with rpc := cx.p.pc + 16 }
    refine ⟨t, _, gt, hm, ?_, ht⟩
    rw [exec_trap, issueMasked_ready _ hr he]
    exact ht
  · obtain ⟨gt, hm⟩ := hr.finish_moved (cx.p.pc + 16) false
    exact ⟨_, gt, (exec_trap g code s).trans (issueMasked_empty _ hr he), hm⟩
  · obtain ⟨t, ht⟩ := raise_of_frameFits hc hf (cx.precise 0x01 (d.setWidth 16) 0)
    refine ⟨t, ?_, ht⟩
    rw [exec_illegalWord, execIllegalWord, hc]
    exact ht

/-! ### rte -/

section
variable {s : State} {cx : Cx} {a slot : Nat} {written : List Byte}

/-- What `rte` comes to in a handler that has none of its own results out (07 R185, 08 R209). -/
theorem returnBody_inside (hh : cx.g.inHandler = true) (hf : cx.g.frame = some (a, written, slot)) (hn : cx.g.flight = [])
    (ha : (s.wbCluster cx.g.core.clus).areaOk a written.length = true) :
    returnBody s cx =
      let s1 := s.wbCluster cx.g.core.clus
      let now := s1.areaRead a written.length
      if frameOk written now && !s1.areaPoisoned a written.length then
        .whole (.next (s1.installGroup cx.gid (returnFrom cx.g slot now)))
      else .whole (.next (s1.haltGroup cx.gid 0x15 2 0 0)) := by
  simp only [returnBody, hh, hf, hn, ha, ne_eq, not_true_eq_false, if_false, if_true]

/-- A group put in place writes its areas alone. -/
theorem installGroup_writesIn (s : State) (gid : GroupId) (g : Group) :
    WritesIn (groupSpan (s.ctx (s.ctxOf gid.launch)) gid g) (s.setGroup gid g) (s.installGroup gid g) :=
  State.storeAreas_writesIn (State.group?_setGroup_same s gid g) _
end

theorem returnFromTrap : Claims.ReturnFromTrap := by
  intro g s cx _ hr
  rw [exec_rte, issueWord_ready _ hr]
  refine ⟨fun hh => ?_, fun a written slot hh hf => ⟨fun hn => ?_, fun hn => ?_⟩⟩
  · have hb : returnBody (s.fetched cx Uses.none) (cx.fetched Uses.none) = .trap (s.fetched cx Uses.none) (cause 0x09 4) := by
      simp only [returnBody, show (cx.fetched Uses.none).g.inHandler = false from hh]
    rw [hb]
    rfl
  · have hb : returnBody (s.fetched cx Uses.none) (cx.fetched Uses.none) = .wait (s.fetched cx Uses.none) := by
      simp only [returnBody, show (cx.fetched Uses.none).g.inHandler = true from hh,
        show (cx.fetched Uses.none).g.frame = some (a, written, slot) from hf,
        show (cx.fetched Uses.none).g.flight ≠ [] from hn, ne_eq, not_false_eq_true, if_true]
    rw [hb]
    rfl
  · intro s1 now sound ha
    have hwork : SameWork (s.fetched cx Uses.none) s1 := State.wbCluster_sameWork _ _
    have hctx : s1.ctxOf cx.gid.launch = cx.ctx := by
      rw [hwork.ctxOf, ← hr.ctxOf]
      simp only [State.ctxOf, State.launch?, hr.fetched_writesIn.launches]
      rfl
    have hb : returnBody (s.fetched cx Uses.none) (cx.fetched Uses.none)
        = if sound then .whole (.next (s1.installGroup cx.gid (returnFrom cx.g slot now)))
          else .whole (.next (s1.haltGroup cx.gid 0x15 2 0 0)) := returnBody_inside hh hf hn ha
    rw [hb]
    refine ⟨fun hs => ?_, fun hs => ?_⟩
    · have hback := Group.returnFrom_sameTrap cx.g slot now
      have hi := installGroup_writesIn s1 cx.gid (returnFrom cx.g slot now)
      rw [hctx] at hi
      have hi := hi.mono (B := groupSpan (s1.ctx cx.ctx) cx.gid cx.g) (fun x hx => by
        simpa only [groupSpan, hback.divdepth, hback.width, hback.nr] using hx)
      have hok : s1.memoryOk = true := hwork.ok hr.fetched_memoryOk
      rw [hs, if_pos rfl]
      exact ⟨_, _, rfl, hi.group?_same, rfl, hback.inHandler, hback.tframe, hback.flight, hi.sameMemory hok, hi.onlyGroups,
        hi.serial⟩
    · have hg : s1.group? cx.gid = some cx.g := by
        rw [hwork.group?]
        exact hr.fetched_group
      rw [hs, if_neg (by decide)]
      exact ⟨_, _, rfl, State.haltGroup_group hg _ _ _ _, rfl⟩

/-- Settles O34: traps are made because a frame fits, and `rte` by cases on the handler, its results and its frame. -/
theorem trapAndReturn : Obligations.TrapAndReturn := ⟨trapWords, returnFromTrap⟩

end Sys2Proof.Proofs
end

section
/-! SUPPORT. The arbiter: what it chooses, what a turn changes, and what it does with an outcome (03 R61, 08 R189,
13 R287). -/

namespace Sys2Proof.Machine

/-! ### The choice of a core -/

theorem State.untried_iff (s : State) (ks : List Nat) (g : Group) (k : Nat) :
    s.untried ks g k = true ↔ s.eligible g k = true ∧ 2 * g.gslot + k ∉ ks := by
  simp [State.untried, slotKey]

/-- A group has a path slot to try. -/
def State.opens (s : State) (ks : List Nat) (g : Group) : Bool := s.untried ks g 0 || s.untried ks g 1

theorem State.opens_iff (s : State) (ks : List Nat) (g : Group) :
    s.opens ks g = true ↔ ∃ k, k < 2 ∧ s.untried ks g k = true := by
  simp only [State.opens, Bool.or_eq_true]
  constructor
  · rintro (h | h)
    · exact ⟨0, by omega, h⟩
    · exact ⟨1, by omega, h⟩
  · rintro ⟨k, hk, h⟩
    obtain rfl | rfl : k = 0 ∨ k = 1 := by omega
    · exact .inl h
    · exact .inr h

theorem State.nearest_cons (s : State) (ks : List Nat) (ptr : Nat) (e : GroupId × Group) (es : List (GroupId × Group)) :
    s.nearest ks ptr (e :: es) =
      match s.nearest ks ptr es with
      | some x => if s.opens ks e.2 && decide (fromPtr ptr e.2.gslot ≤ fromPtr ptr x.2.gslot) then some e else some x
      | none => if s.opens ks e.2 then some e else none := rfl

/-- Without a nearest group none has a slot to try. -/
theorem State.nearest_none (s : State) (ks : List Nat) (ptr : Nat) (es : List (GroupId × Group))
    (h : s.nearest ks ptr es = none) : ∀ e ∈ es, s.opens ks e.2 = false := by
  induction es with
  | nil => simp
  | cons e es ih =>
    rw [State.nearest_cons] at h
    cases hx : s.nearest ks ptr es with
    | some x =>
      simp only [hx] at h
      split at h <;> simp at h
    | none =>
      simp only [hx, ite_eq_right_iff, reduceCtorEq, imp_false, Bool.not_eq_true] at h
      simpa [h] using fun a b hab => ih hx (a, b) hab

/-- The nearest group is one of the list with a slot to try, and none such is nearer. -/
theorem State.nearest_some (s : State) (ks : List Nat) (ptr : Nat) (es : List (GroupId × Group)) (x : GroupId × Group)
    (h : s.nearest ks ptr es = some x) :
    x ∈ es ∧ s.opens ks x.2 = true ∧ ∀ e ∈ es, s.opens ks e.2 = true → fromPtr ptr x.2.gslot ≤ fromPtr ptr e.2.gslot := by
  induction es generalizing x with
  | nil => simp [State.nearest] at h
  | cons e es ih =>
    rw [State.nearest_cons] at h
    cases hx : s.nearest ks ptr es with
    | none =>
      have hn := State.nearest_none s ks ptr es hx
      simp only [hx, Option.ite_none_right_eq_some, Option.some.injEq] at h
      obtain ⟨ho, rfl⟩ := h
      refine ⟨List.mem_cons_self .., ho, fun y hy hyo => ?_⟩
      obtain rfl | hy := List.mem_cons.mp hy
      · exact le_refl _
      · simp [hn y hy] at hyo
    | some y =>
      obtain ⟨hmem, hopen, hmin⟩ := ih y hx
      simp only [hx] at h
      split at h
      case isTrue hc =>
        obtain rfl := Option.some.inj h
        simp only [Bool.and_eq_true, decide_eq_true_eq] at hc
        refine ⟨List.mem_cons_self .., hc.1, fun z hz hzo => ?_⟩
        obtain rfl | hz := List.mem_cons.mp hz
        · exact le_refl _
        · exact hc.2.trans (hmin z hz hzo)
      case isFalse hc =>
        obtain rfl := Option.some.inj h
        refine ⟨List.mem_cons_of_mem _ hmem, hopen, fun z hz hzo => ?_⟩
        obtain rfl | hz := List.mem_cons.mp hz
        · simp only [Bool.and_eq_true, decide_eq_true_eq, hzo, true_and] at hc
          omega
        · exact hmin z hz hzo

/-- Of the slots of a group that may be tried one is taken, alternating where both may (08 R189). -/
theorem State.slotOf_spec (s : State) (ks : List Nat) (g : Group) (h : s.opens ks g = true) :
    s.slotOf ks g < 2 ∧ s.untried ks g (s.slotOf ks g) = true
      ∧ (s.untried ks g 0 = true → s.untried ks g 1 = true → s.slotOf ks g = 1 - g.lastSlot) := by
  simp only [State.opens, Bool.or_eq_true] at h
  unfold State.slotOf
  by_cases h0 : s.untried ks g 0 = true <;> by_cases h1 : s.untried ks g 1 = true
  · obtain hl | hl : 1 - g.lastSlot = 0 ∨ 1 - g.lastSlot = 1 := by omega
    · simp [h0, h1, hl]
    · simp [h0, h1, hl]
  · simp [h0, h1]
  · simp [h0, h1]
  · simp [h0, h1] at h

/-- What a core chooses in a clock: the slot of the nearest group with one to try (13 R287). -/
theorem State.choice_some (s : State) (c : CoreId) (ks : List Nat) (ptr : Nat) (gid : GroupId) (slot : Nat)
    (h : s.choice c ks ptr = some (gid, slot)) :
    ∃ g, (gid, g) ∈ s.groups ∧ g.core = c ∧ slot < 2 ∧ s.untried ks g slot = true
      ∧ (∀ o h k, (o, h) ∈ s.groups → h.core = c → k < 2 → s.untried ks h k = true →
          fromPtr ptr g.gslot ≤ fromPtr ptr h.gslot)
      ∧ (s.untried ks g 0 = true → s.untried ks g 1 = true → slot = 1 - g.lastSlot) := by
  simp only [State.choice, Option.map_eq_some_iff, Prod.mk.injEq, Prod.exists] at h
  obtain ⟨o, g, hx, rfl, rfl⟩ := h
  obtain ⟨hmem, hopen, hmin⟩ := State.nearest_some s ks ptr _ _ hx
  obtain ⟨hlt, hun, hboth⟩ := State.slotOf_spec s ks g hopen
  simp only [List.mem_filter, decide_eq_true_eq] at hmem hmin
  exact ⟨g, hmem.1, hmem.2, hlt, hun,
    fun o h k ho hc hk hu => hmin (o, h) ⟨ho, hc⟩ ((State.opens_iff s ks h).mpr ⟨k, hk, hu⟩), hboth⟩

/-- A core chooses nothing in a clock exactly where none of its slots is left to try. -/
theorem State.choice_none (s : State) (c : CoreId) (ks : List Nat) (ptr : Nat) (h : s.choice c ks ptr = none) :
    ∀ o h k, (o, h) ∈ s.groups → h.core = c → k < 2 → ¬ s.untried ks h k = true := by
  intro o g k ho hc hk hu
  have hn := State.nearest_none s ks ptr _ (Option.map_eq_none_iff.mp h) (o, g) (by simp [ho, hc])
  have := (State.opens_iff s ks g).mpr ⟨k, hk, hu⟩
  simp [hn] at this

end Sys2Proof.Machine
end

section
/-! PROOFS. A step runs the decoded word at the program counter, and what it adds around that (03 R61, 08 R189, 13 R287,
15 R327). -/

namespace Sys2Proof.Proofs

open Sys2Proof Sys2Proof.Machine Sys2Proof.Claims

/-! ### The arbiter's choice -/

theorem pickChooses : Claims.PickChooses := by
  intro s c
  simp only [← State.untried_iff]
  refine ⟨fun gid slot hp => ?_, fun hp hclk o h k ho hc hk => ?_⟩
  · unfold State.pick at hp
    split at hp
    case isFalse => simp at hp
    case isTrue hclk =>
      refine ⟨hclk, ?_⟩
      cases hin : s.inClock c with
      | some x =>
        rw [hin, Option.some_or] at hp
        obtain rfl := Option.some.inj hp
        unfold State.inClock at hin
        split at hin
        case isFalse => simp at hin
        case isTrue hfree =>
          obtain ⟨g, hmem, hcore, hlt, hun, hmin, hboth⟩ := State.choice_some _ _ _ _ _ _ hin
          exact ⟨_, _, g, .inl ⟨hfree, ⟨gid, g, slot, hmem, hcore, hlt, hun⟩, rfl, rfl⟩, hmem, hcore, hlt, hun, hmin, hboth⟩
      | none =>
        rw [hin, Option.none_or] at hp
        obtain ⟨g, hmem, hcore, hlt, hun, hmin, hboth⟩ := State.choice_some _ _ _ _ _ _ hp
        refine ⟨_, _, g, .inr ⟨?_, rfl, rfl⟩, hmem, hcore, hlt, hun, hmin, hboth⟩
        unfold State.inClock at hin
        split at hin
        case isFalse hfree => exact .inl hfree
        case isTrue =>
          right
          rintro ⟨o, h, k, ho, hc, hk, hu⟩
          exact State.choice_none _ _ _ _ hin o h k ho hc hk hu
  · unfold State.pick at hp
    rw [if_pos hclk, Option.or_eq_none_iff] at hp
    have hn := State.choice_none _ _ _ _ hp.2 o h k ho hc hk
    rw [State.untried_iff] at hn
    simpa using hn

end Sys2Proof.Proofs
end

section
/-! PROOFS. The fetch of the word at the program counter (15 R327, 03 R61). -/

namespace Sys2Proof.Proofs

open Sys2Proof Sys2Proof.Machine Sys2Proof.Claims

/-! ### An aligned word lies in one region and in one sector -/

/-- The one 64 KiB block of an aligned word (15 R326). -/
theorem blocksOf_word (seg : BitVec 8) (pc : Nat) (hlt : pc < 2 ^ 64) (ha : pc % 16 = 0) :
    blocksOf 16 (seg, pc, 16) = [(seg, pc / 65536)] := by
  have hcount : (pc % 2 ^ 16 + 16 + 2 ^ 16 - 1) / 2 ^ 16 = 1 := by omega
  have hpage : pc / 2 ^ 16 % 2 ^ 48 = pc / 65536 := by omega
  simp only [blocksOf, hcount, List.range_one, List.map_cons, List.map_nil, Nat.add_zero, hpage, Nat.reduceSub,
    OfNat.ofNat_ne_zero, if_false]

theorem inOrder_singleton (seg : BitVec 8) (n : Nat) (h : n < 2 ^ 64) : inOrder [(seg, n)] = [(seg, n)] := by
  have hseg : (seg.toNat * 2 ^ 64 + n) / 2 ^ 64 = seg.toNat := by omega
  have hn : (seg.toNat * 2 ^ 64 + n) % 2 ^ 64 = n := by omega
  have hd : [seg.toNat * 2 ^ 64 + n].dedup = [seg.toNat * 2 ^ 64 + n] := rfl
  simp only [inOrder, sortNats, sortBy, insertBy, List.map_cons, List.map_nil, hd, hseg, hn,
    BitVec.ofNat_toNat, BitVec.setWidth_eq]

/-- The page of a translation that the host does not refuse is the one the tables give (15 R322, 16 R340). -/
theorem lookup_of_translate {s s1 : State} {a : Asker} {ctx : Nat} {seg : BitVec 8} {off p : Nat} {k : Kind} {h : Hint}
    (ht : s.translate a ctx seg off k = (.ok p h, s1)) : s.lookup a ctx seg off k = (.ok p h, s1) := by
  simp only [State.translate, Prod.mk.injEq] at ht
  obtain ⟨hx, rfl⟩ := ht
  refine Prod.ext ?_ rfl
  unfold State.checkBus at hx
  split at hx
  · split at hx
    · simp at hx
    · exact hx
  · exact hx

theorem isLocal_iff (p : Nat) : isLocal p = true ↔ p < 2 ^ 57 := decide_eq_true_iff

theorem isHost_of_isLocal {p : Nat} (h : isLocal p = true) : isHost p = false := by
  rw [isLocal_iff] at h
  simp only [isHost, placeTier, beq_eq_false_iff_ne]
  omega

section
variable {s s1 : State} {cx : Cx} {p : Nat} {h : Hint}

/-- The regions of a word's fetch: the one of its page (15 R326). -/
theorem translateAll_word (hseg : cx.l.kseg.toNat < 0xFC) (ha : cx.p.pc.toNat % 16 = 0) (hl : isLocal p = true)
    (ht : s.translate (.core cx.g.core) cx.ctx cx.l.kseg (cx.p.pc.toNat / 65536 * 65536) .fetch = (.ok p h, s1)) :
    s.translateAll (.core cx.g.core) cx.ctx .fetch
        (accRuns [{ lane := 0xFFFF, seg := cx.l.kseg, off := cx.p.pc.toNat, n := 16 }])
      = ([{ seg := cx.l.kseg, page := cx.p.pc.toNat / 65536, res := .ok p h, refused := [] }], s1) := by
  have hpc := cx.p.pc.isLt
  have hregions : regionsOf [(cx.l.kseg, cx.p.pc.toNat, 16)] = [(cx.l.kseg, cx.p.pc.toNat / 65536)] := by
    simp only [regionsOf, List.flatMap_cons, List.flatMap_nil, List.append_nil, blocksOf_word _ _ hpc ha]
    exact inOrder_singleton _ _ (by omega)
  simp [State.translateAll, accRuns, hseg, hregions, lookup_of_translate ht, State.refusedIn, isHost_of_isLocal hl]

/-- A local sector that is not poisoned is read at its home slice (12 R267). -/
theorem devRead_word {q : Nat} (hl : isLocal q = true) (ha : q % 16 = 0) (hp : s.isPoisoned (sectorOf q) = false) :
    s.devRead q 16 = (.bytes (s.homeRead q 16), s) := by
  have hbase : isLocal (sectorBase (sectorOf q)) = true := by
    rw [isLocal_iff] at hl ⊢
    simp only [sectorBase, sectorOf]
    omega
  have hread : ((s.homeRead (sectorBase (sectorOf q)) 64).drop (q % 64)).take 16 = s.homeRead q 16 := by
    apply List.ext_getElem
    · simp only [State.homeRead, List.length_take, List.length_drop, List.length_map, List.length_range]
      omega
    · intro i h1 h2
      simp only [State.homeRead, List.length_map, List.length_range] at h2
      simp only [State.homeRead, List.getElem_take, List.getElem_drop, List.getElem_map, List.getElem_range, sectorBase, sectorOf]
      congr 1
      omega
  simp [State.devRead, State.below, hbase, hp, hread]

/-- The fetch of the word at hand through a page of local memory (15 R327). -/
theorem fetch16_word (hseg : cx.l.kseg.toNat < 0xFC) (ha : cx.p.pc.toNat % 16 = 0) (hab : cx.p.abortNext = false)
    (ht : s.translate (.core cx.g.core) cx.ctx cx.l.kseg (cx.p.pc.toNat / 65536 * 65536) .fetch = (.ok p h, s1))
    (hl : isLocal (p + cx.p.pc.toNat % 65536) = true) (hp : p % 65536 = 0)
    (hpois : s1.isPoisoned (sectorOf (p + cx.p.pc.toNat % 65536)) = false) :
    s.fetch16 cx cx.p.pc true = .ok (s1.homeRead (p + cx.p.pc.toNat % 65536) 16) s1 := by
  have hlp : isLocal p = true := by
    rw [isLocal_iff] at hl ⊢
    omega
  have hprobe : s.probe cx .fetch [{ lane := 0xFFFF, seg := cx.l.kseg, off := cx.p.pc.toNat, n := 16 }] true
      = .ok [{ seg := cx.l.kseg, page := cx.p.pc.toNat / 65536, res := .ok p h, refused := [] }] s1 := by
    simp [State.probe, translateAll_word hseg ha hlp ht, hab, regionCause]
  have hplace : placeIn [{ seg := cx.l.kseg, page := cx.p.pc.toNat / 65536, res := .ok p h, refused := [] }] cx.l.kseg
      cx.p.pc.toNat = p + cx.p.pc.toNat % 65536 := by
    simp [placeIn]
  simp only [State.fetch16, hprobe, hplace, devRead_word hl (by omega) hpois]

end

/-! ### A step of a path slot -/

/-- Where the agenda or the default schedule names a path slot, the step is its issue (log entry 3). -/
theorem step_issue {s sa : State} {gid : GroupId} {slot : Nat} {ms : List Move}
    (h : (s.agenda = .issue gid slot :: ms ∧ sa = { s with agenda := ms })
      ∨ (s.agenda = [] ∧ s.nextMove = some (.issue gid slot) ∧ sa = s)) : step s = sa.issueAt gid slot := by
  obtain ⟨ha, rfl⟩ | ⟨ha, hn, rfl⟩ := h
  · simp only [step, State.advance, ha, State.runMove]
  · simp only [step, State.advance, ha, hn, State.runMove]

theorem stepRunsDecoded : Claims.StepRunsDecoded := by
  intro s sa s1 gid slot p ms g cx h hmove hg
  rw [step_issue hmove, State.issueAt, hg]
  refine ⟨fun hne => if_neg hne, fun hpick hcx hseg ha hab ht hl hp hpois => ?_⟩
  have hfetch := fetch16_word hseg ha hab ht hl hp hpois
  dsimp only
  rw [if_pos hpick]
  simp only [State.runWord, State.fetchWord, hcx, hfetch, Cx.env]

end Sys2Proof.Proofs
end

section
/-! SUPPORT. What an issue clock, a turn and its end change (03 R61, 08 R189, 13 R287). -/

namespace Sys2Proof.Machine

/-! ### Deferrals (03 R61) -/

theorem Path.tick_deferral (p : Path) :
    p.tick.deferral = p.deferral.bind (fun d => if d.2 ≤ 1 then none else some (d.1, d.2 - 1)) := by
  unfold Path.tick
  cases hd : p.deferral with
  | none => exact hd
  | some d => rfl

theorem Path.tick_rest (p : Path) (d : Option (List (GroupId × Nat) × Nat)) :
    { p.tick with deferral := d } = { p with deferral := d } := by
  unfold Path.tick
  split <;> rfl

theorem Path.served_deferral (x : GroupId × Nat) (p : Path) :
    (p.served x).deferral = p.deferral.bind (fun d =>
      if d.1.all (fun y => y == x) then none else some (d.1.filter (fun y => y != x), d.2)) := by
  unfold Path.served
  cases hd : p.deferral with
  | none => exact hd
  | some d =>
    have he : (d.1.filter (fun y => y != x)).isEmpty = d.1.all (fun y => y == x) := by
      rw [Bool.eq_iff_iff]
      simp [List.filter_eq_nil_iff]
    simp only [Option.bind_some, he]

theorem Path.served_rest (x : GroupId × Nat) (p : Path) (d : Option (List (GroupId × Nat) × Nat)) :
    { p.served x with deferral := d } = { p with deferral := d } := by
  unfold Path.served
  split <;> rfl

/-! ### A core's groups -/

/-- A group whose paths have changed. -/
def Group.onPaths (g : Group) (f : Path → Path) : Group := { g with p0 := g.p0.map f, p1 := g.p1.map f }

@[simp] theorem Group.path_onPaths (g : Group) (f : Path → Path) (k : Nat) : (g.onPaths f).path k = (g.path k).map f := by
  by_cases h : k = 0 <;> simp [Group.path, Group.onPaths, h]

/-- Of a group, nothing differs but its paths. -/
def Group.onlyPaths (g h : Group) : Prop := { h with p0 := g.p0, p1 := g.p1 } = g

theorem Group.onlyPaths.trans {g h k : Group} (h1 : g.onlyPaths h) (h2 : h.onlyPaths k) : g.onlyPaths k := by
  unfold Group.onlyPaths at *
  rw [← h2] at h1
  exact h1

theorem Group.onPaths_onlyPaths (g : Group) (f : Path → Path) : g.onlyPaths (g.onPaths f) := rfl

/-- Other path slots of a group keep their path. -/
theorem Group.path_modPath_other (g : Group) (n k : Nat) (f : Path → Path) (hn : n < 2) (hk : k < 2) (h : k ≠ n) :
    (g.modPath n f).path k = g.path k := by
  refine Group.path_setPath_other g n k _ ?_
  simp only [ne_eq, eq_iff_iff]
  omega

@[simp] theorem Group.path_modPath_same (g : Group) (n : Nat) (f : Path → Path) : (g.modPath n f).path n = (g.path n).map f :=
  Group.path_setPath_same g n _

theorem Group.modPath_onlyPaths (g : Group) (n : Nat) (f : Path → Path) : g.onlyPaths (g.modPath n f) := by
  unfold Group.modPath Group.setPath
  split <;> rfl

/-- A group of a core takes a change of its paths; others do not. -/
def Group.pathsOn (c : CoreId) (f : Path → Path) (g : Group) : Group := if g.core = c then g.onPaths f else g

theorem Group.pathsOn_same {c : CoreId} {g : Group} (f : Path → Path) (h : g.core = c) : g.pathsOn c f = g.onPaths f :=
  if_pos h

theorem Group.pathsOn_other {c : CoreId} {g : Group} (f : Path → Path) (h : g.core ≠ c) : g.pathsOn c f = g :=
  if_neg h

theorem Group.path_pathsOn {c : CoreId} {g : Group} {f : Path → Path} {k : Nat} {p : Path} (h : g.core = c)
    (hp : g.path k = some p) : (g.pathsOn c f).path k = some (f p) := by
  rw [Group.pathsOn_same f h, Group.path_onPaths, hp, Option.map_some]

theorem Group.pathsOn_onlyPaths (c : CoreId) (f : Path → Path) (g : Group) : g.onlyPaths (g.pathsOn c f) := by
  unfold Group.pathsOn
  split <;> rfl

/-- The entry of a key once the values of a table have changed. -/
theorem Tab.get?_map {κ β : Type} [DecidableEq κ] (t : List (κ × β)) (f : β → β) (k : κ) :
    Tab.get? (t.map (fun e => (e.1, f e.2))) k = (Tab.get? t k).map f := by
  induction t with
  | nil => rfl
  | cons e t ih =>
    by_cases h : e.1 = k
    · simp [Tab.get?, h]
    · simpa [Tab.get?, h] using ih

theorem State.group?_modPaths (s : State) (c : CoreId) (f : Path → Path) (o : GroupId) :
    (s.modPaths c f).group? o = (s.group? o).map (Group.pathsOn c f) := by
  rw [State.group?, State.group?, ← Tab.get?_map]
  unfold State.modPaths
  congr 1
  refine List.map_congr_left (fun e _ => ?_)
  by_cases h : e.2.core = c
  · rw [if_pos h, Group.pathsOn_same _ h]
    rfl
  · rw [if_neg h, Group.pathsOn_other _ h]

theorem State.core_setGroup (s : State) (gid : GroupId) (g : Group) (c : CoreId) : (s.setGroup gid g).core c = s.core c := rfl

/-! ### The issue clock (13 R287) -/

/-- A core as its next issue clock begins (log entry 5). -/
def Core.nextClock (n : Nat) (x : Core) : Core :=
  { x with
    ptr := (x.ptr + 1) % 32
    tried := []
    vec := 0
    scal := 0
    cyc := x.cyc + 1 + BitVec.ofNat 64 (Config.extraCycles n) }

/-- The clock a core issues in: the current one, or the next. -/
def State.clocked (s : State) (c : CoreId) : State := if (s.inClock c).isSome then s else s.newClock c

theorem State.turn_eq (s : State) (gid : GroupId) (g : Group) (slot : Nat) :
    s.turn gid g slot = { (((s.clocked g.core).modGroup gid (fun h => h.modPath slot (fun p => { p with deferral := none }))).modCore
      g.core (fun c => { c with tried := slotKey g slot :: c.tried })) with cur := { gid := gid, slot := slot } } := rfl

section
variable (s : State) (c : CoreId)

theorem State.clocked_rest : { s.clocked c with cores := s.cores, groups := s.groups, fresh := s.fresh } = s := by
  unfold State.clocked
  split <;> rfl

theorem State.clocked_fresh : (s.clocked c).fresh = if (s.inClock c).isSome then s.fresh else s.fresh + 1 := by
  unfold State.clocked
  split <;> rfl

theorem State.newClock_core : (s.newClock c).core c = (s.core c).nextClock s.fresh :=
  State.core_modCore_same s c (Core.nextClock s.fresh)

theorem State.newClock_core_other {d : CoreId} (h : d ≠ c) : (s.newClock c).core d = s.core d :=
  State.core_modCore_other s c d (Core.nextClock s.fresh) h

theorem State.clocked_core :
    (s.clocked c).core c = { s.core c with
      ptr := if (s.inClock c).isSome then (s.core c).ptr else ((s.core c).ptr + 1) % 32
      vec := if (s.inClock c).isSome then (s.core c).vec else 0
      scal := if (s.inClock c).isSome then (s.core c).scal else 0
      tried := if (s.inClock c).isSome then (s.core c).tried else []
      cyc := if (s.inClock c).isSome then (s.core c).cyc
        else (s.core c).cyc + 1 + BitVec.ofNat 64 (Config.extraCycles s.fresh) } := by
  unfold State.clocked
  cases (s.inClock c).isSome with
  | true => rfl
  | false => exact State.newClock_core s c

theorem State.clocked_core_other {d : CoreId} (h : d ≠ c) : (s.clocked c).core d = s.core d := by
  unfold State.clocked
  split
  · rfl
  · exact State.newClock_core_other s c h

theorem State.clocked_group? (o : GroupId) :
    (s.clocked c).group? o
      = (s.group? o).map (Group.pathsOn c (fun p => if (s.inClock c).isSome then p else p.tick)) := by
  unfold State.clocked
  cases (s.inClock c).isSome with
  | true =>
    have hid : Group.pathsOn c (fun p => p) = id := by
      funext h
      unfold Group.pathsOn Group.onPaths
      split <;> simp
    simp [hid]
  | false => exact State.group?_modPaths _ c Path.tick o
end

end Sys2Proof.Machine
end

section
/-! PROOFS. Around a tried word: the arbiter's turn and what it does with the outcome (03 R61, 08 R189, 13 R287). -/

namespace Sys2Proof.Proofs

open Sys2Proof Sys2Proof.Machine Sys2Proof.Claims

/-! ### The turn -/

section
variable {s : State} {gid : GroupId} {g : Group} {slot : Nat}

/-- What a path of the turning core has become: in a new clock its deferral has counted it. -/
def ticked (s : State) (g : Group) (p : Path) : Path := if (s.inClock g.core).isSome then p else p.tick

theorem ticked_deferral (s : State) (g : Group) (p : Path) :
    (ticked s g p).deferral = if (s.inClock g.core).isSome then p.deferral
      else p.deferral.bind (fun d => if d.2 ≤ 1 then none else some (d.1, d.2 - 1)) := by
  unfold ticked
  split
  · rfl
  · exact p.tick_deferral

theorem ticked_rest (s : State) (g : Group) (p : Path) (d : Option (List (GroupId × Nat) × Nat)) :
    { ticked s g p with deferral := d } = { p with deferral := d } := by
  unfold ticked
  split
  · rfl
  · exact p.tick_rest d

theorem clocked_group (hg : s.group? gid = some g) :
    (s.clocked g.core).group? gid = some (g.onPaths (ticked s g)) := by
  rw [State.clocked_group?, hg, Option.map_some, Group.pathsOn_same _ rfl]
  rfl

/-- The group of the turn: its paths have counted a new clock, and the slot's path defers no more. -/
theorem turn_group (hg : s.group? gid = some g) :
    (s.turn gid g slot).group? gid
      = some ((g.onPaths (ticked s g)).modPath slot (fun p => { p with deferral := none })) := by
  rw [State.turn_eq, State.modGroup_some (clocked_group hg)]
  exact State.group?_setGroup_same _ _ _

theorem turn_group_other (hg : s.group? gid = some g) {o : GroupId} (ho : o ≠ gid) :
    (s.turn gid g slot).group? o = (s.group? o).map (Group.pathsOn g.core (ticked s g)) := by
  rw [State.turn_eq, State.modGroup_some (clocked_group hg)]
  refine (State.group?_setGroup_other _ _ _ _ ho).trans ?_
  exact State.clocked_group? s g.core o

theorem turn_rest (hg : s.group? gid = some g) :
    { s.turn gid g slot with cores := s.cores, groups := s.groups, cur := s.cur, fresh := s.fresh } = s
      ∧ (s.turn gid g slot).fresh = if (s.inClock g.core).isSome then s.fresh else s.fresh + 1 := by
  have hr := congrArg (fun x : State => { x with cur := s.cur }) (State.clocked_rest s g.core)
  have hf := State.clocked_fresh s g.core
  rw [State.turn_eq, State.modGroup_some (clocked_group hg)]
  generalize s.clocked g.core = u at hr hf ⊢
  exact ⟨hr, hf⟩

theorem turn_core (hg : s.group? gid = some g) :
    (s.turn gid g slot).core g.core = { s.core g.core with
      ptr := if (s.inClock g.core).isSome then (s.core g.core).ptr else ((s.core g.core).ptr + 1) % 32
      vec := if (s.inClock g.core).isSome then (s.core g.core).vec else 0
      scal := if (s.inClock g.core).isSome then (s.core g.core).scal else 0
      tried := (2 * g.gslot + slot) :: (if (s.inClock g.core).isSome then (s.core g.core).tried else [])
      cyc := if (s.inClock g.core).isSome then (s.core g.core).cyc
        else (s.core g.core).cyc + 1 + BitVec.ofNat 64 (Config.extraCycles s.fresh) } := by
  rw [State.turn_eq, State.modGroup_some (clocked_group hg)]
  refine (State.core_modCore_same _ _ (fun c => { c with tried := slotKey g slot :: c.tried })).trans ?_
  rw [State.core_setGroup, State.clocked_core]
  rfl

theorem turn_core_other (hg : s.group? gid = some g) {c : CoreId} (h : c ≠ g.core) :
    (s.turn gid g slot).core c = s.core c := by
  rw [State.turn_eq, State.modGroup_some (clocked_group hg)]
  refine (State.core_modCore_other _ _ _ (fun c => { c with tried := slotKey g slot :: c.tried }) h).trans ?_
  rw [State.core_setGroup]
  exact State.clocked_core_other s g.core h

theorem turned_onlyPaths (g : Machine.Group) (f : Path → Path) (slot : Nat) (f2 : Path → Path) :
    g.onlyPaths ((g.onPaths f).modPath slot f2) :=
  .trans (Group.onPaths_onlyPaths g f) (Group.modPath_onlyPaths _ slot f2)

end

theorem turnFrame : Claims.TurnFrame := by
  intro s gid g slot hg hslot
  obtain ⟨hrest, hfresh⟩ := turn_rest (slot := slot) hg
  refine ⟨hrest, rfl, hfresh, ⟨_, turn_group hg, turned_onlyPaths g _ slot _, ?_⟩, fun o h k p hne ho hc hk hp => ?_,
    fun o h ho hc => ?_, turn_core hg, fun c hne => turn_core_other hg hne, fun o h ho hne => ?_⟩
  · rw [Group.path_modPath_same, Group.path_onPaths, Option.map_map]
    congr 1
    funext p
    exact ticked_rest s g p none
  · have hq : ∃ h2, (s.turn gid g slot).group? o = some h2 ∧ h2.path k = some (ticked s g p) := by
      by_cases hog : o = gid
      · subst hog
        obtain rfl : g = h := Option.some.inj (hg.symm.trans ho)
        refine ⟨_, turn_group hg, ?_⟩
        rw [Group.path_modPath_other _ _ _ _ hslot hk (by rintro rfl; exact hne rfl), Group.path_onPaths, hp, Option.map_some]
      · exact ⟨_, (turn_group_other hg hog).trans (by rw [ho, Option.map_some]), Group.path_pathsOn hc hp⟩
    obtain ⟨h2, hh2, hpath⟩ := hq
    exact ⟨h2, _, hh2, hpath, ticked_rest s g p _, ticked_deferral s g p⟩
  · by_cases hog : o = gid
    · subst hog
      obtain rfl : g = h := Option.some.inj (hg.symm.trans ho)
      exact ⟨_, turn_group hg, turned_onlyPaths g _ slot _⟩
    · exact ⟨_, (turn_group_other hg hog).trans (by rw [ho, Option.map_some]), Group.pathsOn_onlyPaths _ _ _⟩
  · have hog : o ≠ gid := by
      rintro rfl
      exact hne (by rw [Option.some.inj (ho.symm.trans hg)])
    rw [turn_group_other hg hog, ho, Option.map_some, Group.pathsOn_other _ hne]

/-! ### The outcome -/

/-- What a word that issued leaves: its slot noted, its port taken, the deferrals of its core served. -/
def issued (t : State) (gid : GroupId) (h : Group) (slot : Nat) (c : CoreId) (f : Core → Core) : State :=
  ((t.setGroup gid { h with lastSlot := slot }).modCore c f).modPaths c (Path.served (gid, slot))

section
variable (t : State) (gid : GroupId) (h : Group) (slot : Nat) (c : CoreId) (f : Core → Core)

theorem issued_core : (issued t gid h slot c f).core c = f (t.core c) :=
  State.core_modCore_same (t.setGroup gid { h with lastSlot := slot }) c f

theorem issued_core_other {d : CoreId} (hd : d ≠ c) : (issued t gid h slot c f).core d = t.core d :=
  State.core_modCore_other (t.setGroup gid { h with lastSlot := slot }) c d f hd

theorem issued_group? (o : GroupId) :
    (issued t gid h slot c f).group? o
      = ((t.setGroup gid { h with lastSlot := slot }).group? o).map (Group.pathsOn c (Path.served (gid, slot))) :=
  State.group?_modPaths _ c _ o

theorem issued_group :
    (issued t gid h slot c f).group? gid = some (({ h with lastSlot := slot }).pathsOn c (Path.served (gid, slot))) := by
  rw [issued_group?, State.group?_setGroup_same, Option.map_some]

theorem issued_group_other {o : GroupId} (ho : o ≠ gid) :
    (issued t gid h slot c f).group? o = (t.group? o).map (Group.pathsOn c (Path.served (gid, slot))) := by
  rw [issued_group?, State.group?_setGroup_other _ _ _ _ ho]

/-- The paths of the core after the word, those of its own group among them. -/
theorem issued_path {t : State} {gid : GroupId} {h : Group} {c : CoreId} {o : GroupId} {k : Group} {i : Nat} {p : Path}
    (ht : t.group? gid = some h) (hk : t.group? o = some k) (hc : k.core = c) (hp : k.path i = some p) :
    ∃ k2, (issued t gid h slot c f).group? o = some k2 ∧ k2.path i = some (p.served (gid, slot)) := by
  by_cases ho : o = gid
  · subst ho
    obtain rfl : h = k := Option.some.inj (ht.symm.trans hk)
    exact ⟨_, issued_group t o h slot c f, Group.path_pathsOn (g := { h with lastSlot := slot }) hc hp⟩
  · exact ⟨_, (issued_group_other t gid h slot c f ho).trans (by rw [hk, Option.map_some]), Group.path_pathsOn hc hp⟩

end

theorem issued_rest (h : Group) (slot : Nat) (c : CoreId) (q : Path → Path) :
    { ({ h with lastSlot := slot }).pathsOn c q with p0 := h.p0, p1 := h.p1, lastSlot := h.lastSlot } = h
      ∧ (({ h with lastSlot := slot }).pathsOn c q).lastSlot = slot := by
  unfold Group.pathsOn
  split <;> exact ⟨rfl, rfl⟩

section
variable {s t : State} {gid : GroupId} {g h : Group} {slot : Nat}

/-- A path of the core once a slot has had its opportunity (03 R61). -/
theorem served_spec (x : GroupId × Nat) (p : Path) :
    { p.served x with deferral := p.deferral } = p
      ∧ (p.served x).deferral = p.deferral.bind (fun d =>
          if d.1.all (fun y => y == x) then none else some (d.1.filter (fun y => y != x), d.2)) :=
  ⟨p.served_rest x p.deferral, p.served_deferral x⟩

theorem portFree_iff (c : Core) (scalar : Bool) :
    c.portFree scalar = true ↔ (if scalar then c.scal else c.vec) < 2 := by
  cases scalar <;> simp [Core.portFree]

/-- A word that issued and finds its port (13 R287). -/
theorem settleTurn_issued (hs : s.group? gid = some g) (ht : t.group? gid = some h) (hi : g.hasIssued h = true)
    (hp : (if h.onScalar s.serial then (s.core g.core).scal else (s.core g.core).vec) < 2) :
    s.settleTurn gid slot t = issued t gid h slot g.core (fun c => c.takePort (h.onScalar s.serial) g) := by
  simp only [State.settleTurn, hs, ht, hi, if_true, (portFree_iff _ _).mpr hp, State.modGroup_some ht, issued]

/-- A word that issued and finds its port taken. -/
theorem settleTurn_noPort (hs : s.group? gid = some g) (ht : t.group? gid = some h) (hi : g.hasIssued h = true)
    (hp : ¬ (if h.onScalar s.serial then (s.core g.core).scal else (s.core g.core).vec) < 2) :
    s.settleTurn gid slot t
      = s.modCore g.core (fun c => { c with tried := slotKey g 0 :: slotKey g 1 :: c.tried }) := by
  simp only [State.settleTurn, hs, ht, hi, if_true]
  rw [if_neg (mt (portFree_iff _ _).mp hp)]

/-- A word that waited before issue (08 R189). -/
theorem settleTurn_waited (hs : s.group? gid = some g) (ht : t.group? gid = some h) (hi : g.hasIssued h = false)
    (hw : (h.path slot).map Path.pc = (g.path slot).map Path.pc ∧ h.inHandler = g.inHandler) :
    s.settleTurn gid slot t = t.setGroup gid (h.modPath slot (fun p => { p with waiting := true })) := by
  simp only [State.settleTurn, hs, ht, hi, Bool.false_eq_true, if_false, if_pos hw, State.modGroup_some ht]

/-- Another opportunity. -/
theorem settleTurn_other (hs : s.group? gid = some g) (ht : t.group? gid = some h) (hi : g.hasIssued h = false)
    (hw : ¬ ((h.path slot).map Path.pc = (g.path slot).map Path.pc ∧ h.inHandler = g.inHandler)) :
    s.settleTurn gid slot t = t.modPaths g.core (Path.served (gid, slot)) := by
  simp only [State.settleTurn, hs, ht, hi, Bool.false_eq_true, if_false, if_neg hw]

end

theorem turnSettles : Claims.TurnSettles := by
  intro s t gid g h slot hs ht hslot
  refine ⟨fun hi hp => ?_, fun hi hp => ?_, fun hi hpc hin => ?_, fun hi hw => ?_⟩
  · rw [settleTurn_issued hs ht hi hp]
    refine ⟨rfl, issued_core t gid h slot g.core (fun c => c.takePort (h.onScalar s.serial) g),
      fun c hc => issued_core_other _ _ _ _ _ _ hc, ⟨_, issued_group _ _ _ _ _ _, issued_rest h slot _ _⟩,
      fun o k ho hk => ⟨_, (issued_group_other _ _ _ _ _ _ ho).trans (by rw [hk, Option.map_some]),
        Group.pathsOn_onlyPaths _ _ _⟩,
      fun o k ho hk hc => ?_, fun o k i p hk hc _ hp => ?_⟩
    · rw [issued_group_other _ _ _ _ _ _ ho, hk, Option.map_some, Group.pathsOn_other _ hc]
    · obtain ⟨k2, hk2, hpath⟩ := issued_path slot (fun c => c.takePort (h.onScalar s.serial) g) ht hk hc hp
      exact ⟨k2, _, hk2, hpath, served_spec (gid, slot) p⟩
  · rw [settleTurn_noPort hs ht hi hp]
    exact ⟨rfl, State.core_modCore_same _ _ (fun c => { c with tried := slotKey g 0 :: slotKey g 1 :: c.tried }),
      fun c hc => State.core_modCore_other _ _ _ _ hc⟩
  · rw [settleTurn_waited hs ht hi ⟨hpc, hin⟩]
    refine ⟨rfl, ⟨_, State.group?_setGroup_same _ _ _, Group.modPath_onlyPaths _ _ _, Group.path_modPath_same _ _ _, ?_⟩,
      fun o k ho hk => (State.group?_setGroup_other _ _ _ _ ho).trans hk⟩
    exact Group.path_modPath_other _ _ _ _ hslot (by omega) (by omega)
  · rw [settleTurn_other hs ht hi hw]
    exact ⟨rfl, fun o k hk => ⟨_, (State.group?_modPaths _ _ _ o).trans (by rw [hk, Option.map_some]),
      Group.pathsOn_onlyPaths _ _ _⟩⟩

/-- Settles O60: the fetch of an aligned word by its one page, the arbiter's choice by the nearest group, and the turn
around both by what each of its updates changes. -/
theorem stepRunsWord : Obligations.StepRunsWord := ⟨stepRunsDecoded, pickChooses, turnFrame, turnSettles⟩

end Sys2Proof.Proofs
end

section
/-! SUPPORT. Words whose effect places their group's paths: how they end, whatever path the slot is left with (01 R27,
R28, 03 R51 to R53). -/

namespace Sys2Proof.Machine

/-! ### Writes beside the serial counter and the queues -/

section
variable {A : Nat → Prop} {s t : State}

theorem WritesIn.withSerial (h : WritesIn A s t) (n : Nat) : WritesIn A { s with serial := n } { t with serial := n } where
  rest := congrArg (fun x : State => { x with serial := n }) h.rest
  wf := h.wf
  bytes := h.bytes
  fewer := h.fewer
  poison := h.poison
  migrations := h.migrations

theorem WritesIn.withQueues (h : WritesIn A s t) (qs : List (Nat × Queue)) :
    WritesIn A { s with queues := qs } { t with queues := qs } where
  rest := congrArg (fun x : State => { x with queues := qs }) h.rest
  wf := h.wf
  bytes := h.bytes
  fewer := h.fewer
  poison := h.poison
  migrations := h.migrations
end

/-! ### Where a group's lanes stand -/

/-- Of a group, nothing differs but what issuing changes, its stack with the entries' numbers, the lanes that have exited,
and the slots that are left parked. -/
def Group.onlyFlow (g h : Group) : Prop :=
  g.onlyIssue { h with exited := g.exited, left := g.left, stack := g.stack, nextId := g.nextId }

namespace Group
variable {g h k : Group}

theorem onlyIssue.onlyFlow (hi : g.onlyIssue h) : g.onlyFlow h := by
  have hf := congrArg (fun x : Group => { x with exited := g.exited, left := g.left, stack := g.stack, nextId := g.nextId }) hi
  exact hf

theorem onlyFlow.trans (h1 : g.onlyFlow h) (h2 : h.onlyFlow k) : g.onlyFlow k := by
  have hf := congrArg (fun x : Group => { x with exited := g.exited, left := g.left, stack := g.stack, nextId := g.nextId }) h2
  have hk : onlyIssue { h with exited := g.exited, left := g.left, stack := g.stack, nextId := g.nextId }
      { k with exited := g.exited, left := g.left, stack := g.stack, nextId := g.nextId } := hf
  exact onlyIssue.trans h1 hk

theorem onlyFlow.divdepth (hf : g.onlyFlow h) : h.divdepth = g.divdepth := by have := congrArg Group.divdepth hf; exact this
theorem onlyFlow.width (hf : g.onlyFlow h) : h.width = g.width := by have := congrArg Group.width hf; exact this
theorem onlyFlow.nr (hf : g.onlyFlow h) : h.nr = g.nr := by have := congrArg Group.nr hf; exact this

theorem onlyFlow.keeps (hf : g.onlyFlow h) (but : List Nat) : g.keeps h but := onlyIssue.keeps hf but

theorem onlyFlow.onlyRegs (hf : g.onlyFlow h) :
    g.onlyRegs { h with exited := g.exited, left := g.left, stack := g.stack, nextId := g.nextId } := onlyIssue.onlyRegs hf

theorem setPath_onlyFlow (g : Group) (n : Nat) (p : Option Path) : g.onlyFlow (g.setPath n p) :=
  (setPath_onlyIssue g n p).onlyFlow

theorem onlyIssue.exited (hi : g.onlyIssue h) : h.exited = g.exited := by have := congrArg Group.exited hi; exact this
theorem onlyIssue.left (hi : g.onlyIssue h) : h.left = g.left := by have := congrArg Group.left hi; exact this
theorem onlyIssue.nextId (hi : g.onlyIssue h) : h.nextId = g.nextId := by have := congrArg Group.nextId hi; exact this

/-! ### The park that a word leaves in its slot (01 R28) -/

@[simp] theorem path_leaveParked (g : Group) (slot : Nat) (b : Bool) (n : Nat) : (g.leaveParked slot b).path n = g.path n := by
  unfold Group.leaveParked
  split <;> rfl

theorem left_leaveParked (g : Group) (slot : Nat) (b : Bool) :
    (g.leaveParked slot b).left = if b = true ∧ g.path slot = none then slot :: g.left else g.left := by
  unfold Group.leaveParked
  simp only [Bool.and_eq_true, Option.isNone_iff_eq_none]
  split <;> rfl

theorem leaveParked_frame (g : Group) (slot : Nat) (b : Bool) : { g.leaveParked slot b with left := g.left } = g := by
  unfold Group.leaveParked
  split <;> rfl

section
variable (cx : Cx) (w : Guard) (u : Uses) (keep : Option (Nat × RegVal)) (pc : Option Word) (g : Group)

/-- The group of a word that issues, before what it leaves parked is noted and its residency is trimmed. -/
def moved : Group :=
  let g1 := (g.touch u.named).bump 3 1
  let g2 := { g1 with flight := if w.k then g1.flight.map (coverFor cx.slot) else g1.flight }
  (g2.modPath cx.slot (fun p => p.finished w keep pc)).modPath (1 - cx.slot) (fun p : Path => { p with retained := none })

theorem finished_eq_moved : g.finished cx w u keep pc = ((g.moved cx w u keep pc).leaveParked cx.slot w.k).trim := rfl

theorem moved_onlyIssue : g.onlyIssue (g.moved cx w u keep pc) := by
  refine .trans (.trans ?_ (setPath_onlyIssue _ _ _)) (setPath_onlyIssue _ _ _)
  have h := touch_onlyIssue g u.named
  exact h

theorem path_moved_start (n : Nat) (fl : List InFlight) :
    ({ (g.touch u.named).bump 3 1 with flight := fl } : Group).path n = g.path n := by
  unfold Group.touch
  split <;> rfl

theorem path_moved : (g.moved cx w u keep pc).path cx.slot = (g.path cx.slot).map (fun p => p.finished w keep pc) := by
  unfold Group.moved Group.modPath
  rw [path_setPath_other _ _ _ _ (slot_ne cx.slot).symm, path_setPath_same, path_moved_start]

theorem path_moved_other : (g.moved cx w u keep pc).path (1 - cx.slot)
    = (g.path (1 - cx.slot)).map (fun p : Path => { p with retained := none }) := by
  unfold Group.moved Group.modPath
  rw [path_setPath_same, path_setPath_other _ _ _ _ (slot_ne cx.slot), path_moved_start]

/-- The slot's path once its word has issued, where it holds one. -/
theorem path_finished_map :
    (g.finished cx w u keep pc).path cx.slot = (g.path cx.slot).map (fun p => p.finished w keep pc) := by
  rw [finished_eq_moved, path_trim, path_leaveParked, path_moved]

theorem path_finished_map_other : (g.finished cx w u keep pc).path (1 - cx.slot)
    = (g.path (1 - cx.slot)).map (fun p : Path => { p with retained := none }) := by
  rw [finished_eq_moved, path_trim, path_leaveParked, path_moved_other]

/-- A slot that a word with K has emptied is left parked (01 R28). -/
theorem left_finished : (g.finished cx w u keep pc).left
    = if w.k = true ∧ g.path cx.slot = none then cx.slot :: g.left else g.left := by
  rw [finished_eq_moved, (trim_onlyIssue _).left, left_leaveParked, path_moved, (moved_onlyIssue cx w u keep pc g).left]
  simp only [Option.map_eq_none_iff]

/-- Besides the slots left parked, a word's issue changes no more of the group than any issue does. -/
theorem finished_frame : g.onlyIssue { g.finished cx w u keep pc with left := g.left } := by
  have hm := moved_onlyIssue cx w u keep pc g
  have ht := trim_onlyIssue ((g.moved cx w u keep pc).leaveParked cx.slot w.k)
  have hl : onlyIssue { (g.moved cx w u keep pc).leaveParked cx.slot w.k with left := g.left }
      { g.finished cx w u keep pc with left := g.left } := by
    have h := congrArg (fun x : Group => { x with left := g.left }) ht
    exact h
  rw [← hm.left, leaveParked_frame, hm.left] at hl
  exact hm.trans hl

theorem finished_onlyFlow : g.onlyFlow (g.finished cx w u keep pc) :=
  (finished_frame cx w u keep pc g).onlyFlow

@[simp] theorem stack_finished : (g.finished cx w u keep pc).stack = g.stack :=
  (finished_frame cx w u keep pc g).stack
@[simp] theorem exited_finished : (g.finished cx w u keep pc).exited = g.exited :=
  (finished_frame cx w u keep pc g).exited
@[simp] theorem nextId_finished : (g.finished cx w u keep pc).nextId = g.nextId :=
  (finished_frame cx w u keep pc g).nextId
end

end Group

/-! ### What a word's effect has placed -/

/-- What an effect has made of the machine, `h` of its group, whose slots may hold other paths than before: the group's
dimensions stand, and besides it only its areas have been written. -/
structure Placed (s e : State) (cx : Cx) (h : Group) : Prop where
  writes : WritesIn (groupSpan (s.ctx cx.ctx) cx.gid cx.g) (s.setGroup cx.gid h) e
  divdepth : h.divdepth = cx.g.divdepth
  width : h.width = cx.g.width
  nr : h.nr = cx.g.nr

namespace Placed
variable {s e : State} {cx : Cx} {h : Group}

/-- After a word the group is as its issue leaves it, and besides it only its areas are written (08 R190, R195). -/
theorem finish_writesIn (he : Placed s e cx h) (hc : s.ctxOf cx.gid.launch = cx.ctx) (w : Guard) (u : Uses)
    (pc : Option Word) (taken : Bool) :
    WritesIn (groupSpan (s.ctx cx.ctx) cx.gid cx.g)
      (s.setGroup cx.gid (h.finished (cx.fetched u) w u ((cx.fetched u).kept w u pc taken) pc))
      (e.finish (cx.fetched u) w u pc taken) := by
  have hi := Group.finished_onlyFlow (cx.fetched u) w u ((cx.fetched u).kept w u pc taken) pc h
  have hctx : e.ctx (e.ctxOf cx.gid.launch) = s.ctx cx.ctx := by
    rw [← hc]
    simp only [State.ctx, State.ctxOf, State.launch?, he.writes.ctxs, he.writes.launches]
    rfl
  have hw := he.writes.setGroup cx.gid (h.finished (cx.fetched u) w u ((cx.fetched u).kept w u pc taken) pc)
  rw [State.setGroup_setGroup] at hw
  rw [State.finish_eq, show (cx.fetched u).gid = cx.gid from rfl, State.modGroup_some he.writes.group?_same]
  have ha := State.storeAreas_writesIn (State.group?_setGroup_same e cx.gid
    (h.finished (cx.fetched u) w u ((cx.fetched u).kept w u pc taken) pc)) (cx.fetched u).g
  refine hw.trans (ha.mono (fun a hb => ?_))
  simpa only [groupSpan, State.setGroup_ctx, State.setGroup_ctxOf, hctx, hi.divdepth, hi.width, hi.nr, he.divdepth, he.width,
    he.nr] using hb

/-- The path of a word whose effect leaves its slot a path of the same lanes. -/
theorem finish_went (he : Placed s e cx h) (hc : s.ctxOf cx.gid.launch = cx.ctx) {p : Path}
    (hp : h.path cx.slot = some p) (hmask : p.mask = cx.p.mask) (hjx : p.jx = cx.p.jx)
    (ho : h.path (1 - cx.slot) = cx.g.path (1 - cx.slot)) (w : Guard) (u : Uses) (pc : Option Word) (taken : Bool) :
    Went s (e.finish (cx.fetched u) w u pc taken) cx w (pc.getD p.pc)
      (h.finished (cx.fetched u) w u ((cx.fetched u).kept w u pc taken) pc) where
  group := (he.finish_writesIn hc w u pc taken).group?_same
  path := by
    refine ⟨_, Group.path_finished (cx.fetched u) w u _ pc hp, ?_⟩
    cases pc with
    | none => exact ⟨rfl, hmask, hjx, rfl⟩
    | some x => exact ⟨rfl, hmask, hjx, rfl⟩
  other := by
    rw [← ho]
    exact Group.path_finished_other (cx.fetched u) w u _ pc hp
  elsewhere := fun _ hne => (he.finish_writesIn hc w u pc taken).group?_other hne

/-- A word whose effect leaves its slot a path of the same lanes moves that path, and nothing else. -/
theorem finish_moved (he : Placed s e cx h) (hc : s.ctxOf cx.gid.launch = cx.ctx) (hm : s.memoryOk = true)
    (hi : cx.g.onlyIssue h) {p : Path} (hp : h.path cx.slot = some p) (hmask : p.mask = cx.p.mask) (hjx : p.jx = cx.p.jx)
    (ho : h.path (1 - cx.slot) = cx.g.path (1 - cx.slot)) (w : Guard) (u : Uses) (pc : Option Word) (taken : Bool) :
    Moved s (e.finish (cx.fetched u) w u pc taken) cx w (pc.getD p.pc)
      (h.finished (cx.fetched u) w u ((cx.fetched u).kept w u pc taken) pc) where
  went := he.finish_went hc hp hmask hjx ho w u pc taken
  regs := (hi.trans (Group.finished_onlyIssue (cx.fetched u) w u _ pc hp)).keeps []
  group := (hi.trans (Group.finished_onlyIssue (cx.fetched u) w u _ pc hp)).onlyRegs
  memory := (he.finish_writesIn hc w u pc taken).sameMemory hm
  rest := (he.finish_writesIn hc w u pc taken).onlyGroups

end Placed

/-- The state with the operands resident, where the effect has changed the group alone. -/
theorem Ready.placed {s : State} {w : Guard} {u : Uses} {cx : Cx} {h : Group} (hr : Ready s w u cx) (hf : cx.g.onlyFlow h) :
    Placed s ((s.fetched cx u).setGroup cx.gid h) cx h where
  writes := by
    have hw := hr.fetched_writesIn.setGroup cx.gid h
    rwa [State.setGroup_setGroup] at hw
  divdepth := hf.divdepth
  width := hf.width
  nr := hf.nr

/-- The state with the operands resident, without an effect. -/
theorem Ready.placed_fetched {s : State} {w : Guard} {u : Uses} {cx : Cx} (hr : Ready s w u cx) :
    Placed s (s.fetched cx u) cx (cx.fetched u).g :=
  ⟨hr.fetched_writesIn, hr.effect_fetched.divdepth, hr.effect_fetched.width, hr.effect_fetched.nr⟩

end Sys2Proof.Machine
end

section
/-! PROOFS. Words that keep their path's lanes together: nop, prog, yield, pmark, bra and brc (03 R51, R55, R60, R61, 08
R203, 13 R292). -/

namespace Sys2Proof.Proofs

open Sys2Proof Sys2Proof.Machine Sys2Proof.Claims

@[simp] theorem fetched_p (cx : Cx) (u : Uses) : (cx.fetched u).p = cx.p := rfl

theorem exec_bra (g : Guard) (off : BitVec 32) (s : State) :
    exec (.bra g off) s
      = issueWord g Uses.none (fun s cx => uniformBranch s cx cx.eff (targetOf cx.p.pc off)) s := rfl

theorem exec_brc (g : Guard) (a : Src) (off : BitVec 32) (s : State) :
    exec (.brc g a off) s
      = issueWord g (usesOf [a] []) (fun s cx => uniformBranch s cx (nonzeroLanes cx a) (targetOf cx.p.pc off)) s := rfl

/-! ### Uniform branches (03 R55) -/

section
variable {s : State} {g : Guard} {u : Uses} {cx : Cx}

/-- What a uniform branch comes to, by the lanes that take it. -/
theorem uniformBranch_ready (hr : Ready s g u cx) (taken target : Word) :
    let r := (s.fetched cx u).conclude (cx.fetched u) g u (uniformBranch (s.fetched cx u) (cx.fetched u) taken target)
    (taken = cx.p.mask → ∃ t gt, r = .next t ∧ Moved s t cx g target gt)
    ∧ (taken ≠ cx.p.mask → taken = 0 → ∃ t gt, r = .next t ∧ Moved s t cx g (cx.p.pc + 16) gt)
    ∧ (taken ≠ cx.p.mask → taken ≠ 0 → r = (s.fetched cx u).raise cx.gid (cx.precise 0x04 0 0)) := by
  refine ⟨fun hall => ?_, fun hne h0 => ?_, fun hne h0 => ?_⟩
  · obtain ⟨gt, hm⟩ := hr.finish_moved target true
    exact ⟨_, gt, by rw [uniformBranch, fetched_p, if_pos hall]; rfl, hm⟩
  · obtain ⟨gt, hm⟩ := hr.finish_moved (cx.p.pc + 16) false
    exact ⟨_, gt, by rw [uniformBranch, fetched_p, if_neg hne, if_pos h0]; rfl, hm⟩
  · rw [uniformBranch, fetched_p, if_neg hne, if_neg h0]
    rfl

theorem nonzeroLanes_fetched (cx : Cx) (u : Uses) (a : Src) :
    nonzeroLanes (cx.fetched u) a = maskOf ((lanes cx.p.mask).filter (fun l => (cx.src a).lane l != 0)) := by
  rw [nonzeroLanes, fetched_src]
  rfl
end

/-- Settles O13: a branch is uniform over the lanes that take it, bra's by its guard and brc's by their source. -/
theorem uniformBranches : Obligations.UniformBranches := by
  unfold Obligations.UniformBranches
  intro g src off s cx i u taken hi _ hr
  cases src with
  | none =>
    obtain ⟨rfl, rfl, rfl⟩ : i = .bra g off ∧ u = Uses.none ∧ taken = cx.eff := by simpa using hi
    rw [exec_bra, issueWord_ready _ hr]
    exact uniformBranch_ready hr cx.eff _
  | some a =>
    obtain ⟨rfl, rfl, rfl⟩ : i = .brc g a off ∧ u = usesOf [a] []
        ∧ taken = maskOf ((lanes cx.p.mask).filter (fun l => (cx.src a).lane l != 0)) := by simpa using hi
    rw [exec_brc, issueWord_ready _ hr, nonzeroLanes_fetched]
    exact uniformBranch_ready hr _ _

/-! ### nop, yield and pmark (03 R51, R60, R61, 08 R203) -/

section
variable {s : State} {g : Guard} {u : Uses} {cx : Cx} {b : Src}

theorem exec_nop (g : Guard) (s : State) : exec (.nop g) s = issueWord g Uses.none (fun s _ => .done s) s := rfl

theorem nop_moved (hr : Ready s g Uses.none cx) :
    ∃ t gt, exec (.nop g) s = .next t ∧ Moved s t cx g (cx.p.pc + 16) gt := by
  obtain ⟨gt, hm⟩ := hr.finish_moved (cx.p.pc + 16) false
  exact ⟨_, gt, by rw [exec_nop, issueWord_ready _ hr]; rfl, hm⟩

/-- A word whose effect marks its path, and moves it or lets it go on. -/
theorem modCur_moved (hr : Ready s g u cx) (f : Path → Path) (hmask : (f cx.p).mask = cx.p.mask)
    (hjx : (f cx.p).jx = cx.p.jx) (pc : Option Word) (taken : Bool) :
    ∃ gt keep, Moved s (((s.fetched cx u).modCur (cx.fetched u) f).finish (cx.fetched u) g u pc taken) cx g
        (pc.getD (f cx.p).pc) gt
      ∧ gt.path cx.slot = some ((f cx.p).finished g keep pc) := by
  have hcur : (s.fetched cx u).modCur (cx.fetched u) f
      = (s.fetched cx u).setGroup cx.gid ((cx.fetched u).g.setPath cx.slot (some (f cx.p))) := by
    have hp : (cx.fetched u).g.path cx.slot = some cx.p := (Group.path_refill _ _ _ _).trans hr.path
    refine (State.modGroup_some hr.fetched_group _).trans ?_
    rw [Group.modPath, show (cx.fetched u).slot = cx.slot from rfl, hp, Option.map_some]
  have hi : cx.g.onlyIssue ((cx.fetched u).g.setPath cx.slot (some (f cx.p))) :=
    (Group.refill_onlyIssue _ _ _).trans (Group.setPath_onlyIssue _ _ _)
  have hpath := Group.path_setPath_same (cx.fetched u).g cx.slot (some (f cx.p))
  have hother := Group.path_setPath_other (cx.fetched u).g _ _ (some (f cx.p)) (Group.slot_ne cx.slot)
  rw [hcur]
  exact ⟨_, _, (hr.placed hi.onlyFlow).finish_moved hr.ctxOf hr.memory hi hpath hmask hjx
    (hother.trans (Group.path_refill _ _ _ _)) g u pc taken, Group.path_finished (cx.fetched u) g u _ pc hpath⟩

/-- The path slots that a yield waits for: those that are eligible beside its own. -/
def besides (s : State) (cx : Cx) : List (GroupId × Nat) :=
  (s.eligibleOn cx.g.core).filter (fun x => x != (cx.gid, cx.slot))

/-- A path that yields. -/
def deferFor (others : List (GroupId × Nat)) (p : Path) : Path :=
  { p with deferral := if others = [] then none else some (others, 64) }

theorem exec_yield (g : Guard) (s : State) :
    exec (.yield g) s = issueWord g Uses.none (fun s cx => .done (s.modCur cx (deferFor (besides s cx)))) s := by
  have hf (s : State) (cx : Cx) : deferFor (besides s cx) = (fun p =>
      { p with deferral := if (besides s cx).isEmpty then none else some (besides s cx, 64) }) := by
    funext p
    simp only [deferFor, List.isEmpty_iff]
  simp only [hf]
  rfl

theorem yield_moved (hr : Ready s g Uses.none cx) :
    ∃ t gt, exec (.yield g) s = .next t ∧ Moved s t cx g (cx.p.pc + 16) gt
      ∧ ∃ p, gt.path cx.slot = some p
        ∧ p.deferral = if besides (s.fetched cx Uses.none) cx = [] then none
            else some (besides (s.fetched cx Uses.none) cx, 64) := by
  obtain ⟨gt, keep, hm, hp⟩ := modCur_moved hr (deferFor (besides (s.fetched cx Uses.none) cx)) rfl rfl
    (some (cx.p.pc + 16)) false
  exact ⟨_, gt, by rw [exec_yield, issueWord_ready _ hr]; rfl, hm, _, hp, rfl⟩

/-- A path that parks at a pmark. -/
def parkAt (live : Word) (range : BitVec 32) (p : Path) : Path := { p with pc := p.pc + 16, pmark := some (live, range) }

theorem exec_pmark (g : Guard) (live : Word) (b : Src) (s : State) :
    exec (.pmark g live b) s = issueWord g (usesOf [.spec .zero, b] []) (fun s cx =>
      if (!(cx.src b).equalIn cx.p.mask) = true then .trap s (cause 0x04 0)
      else if cx.g.preqVisible = true then
        .placed (s.modCur cx (parkAt live (((cx.src b).firstIn cx.p.mask).extractLsb' 0 32)))
      else .done s) s := rfl

/-- The empty field A of pmark holds nothing back. -/
theorem ready_pmark (hr : Ready s g (usesOf [b] []) cx) : Ready s g (usesOf [.spec .zero, b] []) cx :=
  ⟨hr.here, hr.slots, hr.free, hr.uncaptured, hr.memory, hr.tidy⟩

theorem fetched_preqVisible (cx : Cx) (u : Uses) : (cx.fetched u).g.preqVisible = cx.g.preqVisible := by
  have := congrArg Group.preqVisible (Group.refill_onlyIssue cx.g (u.names Members.none).named u.outside)
  exact this

theorem pmark_moved (hr : Ready s g (usesOf [.spec .zero, b] []) cx) (live : Word)
    (heq : (cx.src b).equalIn cx.p.mask = true) :
    ∃ t gt p, exec (.pmark g live b) s = .next t ∧ Moved s t cx g (cx.p.pc + 16) gt ∧ gt.path cx.slot = some p
      ∧ p.pmark = if cx.g.preqVisible then some (live, ((cx.src b).firstIn cx.p.mask).extractLsb' 0 32) else none := by
  rw [exec_pmark, issueWord_ready _ hr]
  simp only [fetched_src, fetched_p, fetched_preqVisible]
  rw [if_neg (show ¬ (!(cx.src b).equalIn cx.p.mask) = true by simp [heq])]
  cases cx.g.preqVisible with
  | true =>
    obtain ⟨gt, keep, hm, hp⟩ := modCur_moved hr
      (parkAt live (((cx.src b).firstIn cx.p.mask).extractLsb' 0 32)) rfl rfl none false
    exact ⟨_, gt, _, rfl, hm, hp, rfl⟩
  | false =>
    have hp : (cx.fetched (usesOf [.spec .zero, b] [])).g.path cx.slot = some cx.p :=
      (Group.path_refill _ _ _ _).trans hr.path
    have hm := hr.placed_fetched.finish_moved hr.ctxOf hr.memory (Group.refill_onlyIssue _ _ _) hp rfl rfl
      (Group.path_refill _ _ _ _) g (usesOf [.spec .zero, b] []) (some (cx.p.pc + 16)) false
    exact ⟨_, _, _, rfl, hm, Group.path_finished (cx.fetched _) g _ _ _ hp, rfl⟩

theorem pmark_traps (hr : Ready s g (usesOf [.spec .zero, b] []) cx) (live : Word)
    (hne : (cx.src b).equalIn cx.p.mask = false) :
    exec (.pmark g live b) s = (s.fetched cx (usesOf [b] [])).raise cx.gid (cx.precise 0x04 0 0) := by
  rw [exec_pmark, issueWord_ready _ hr]
  simp only [fetched_src, fetched_p]
  rw [if_pos (show (!(cx.src b).equalIn cx.p.mask) = true by simp [hne])]
  rfl

theorem pmarkParks : Claims.PmarkParks := fun _ live _ _ _ _ hr =>
  ⟨fun heq => pmark_moved (ready_pmark hr) live heq, fun hne => pmark_traps (ready_pmark hr) live hne⟩
end

/-! ### prog (03 R60, 13 R292) -/

section
variable {s : State} {g : Guard} {cx : Cx}

/-- What prog does to the queues. -/
def progressed (s : State) (pers : Bool) (q : Nat) : State := if pers then s.progress q else s

theorem exec_prog (g : Guard) (s : State) :
    exec (.prog g) s = issueWord g Uses.none (fun s cx =>
      match s.launch? cx.gid.launch with
      | some l => .done (progressed s cx.l.pers l.queue)
      | none => .done s) s := by
  have hbody (s : State) (cx : Cx) : (if cx.l.pers = true then
      match s.launch? cx.gid.launch with
      | some l => Ans.done (s.progress l.queue)
      | none => .done s
    else .done s) = match s.launch? cx.gid.launch with
      | some l => .done (progressed s cx.l.pers l.queue)
      | none => .done s := by
    cases hp : cx.l.pers <;> cases s.launch? cx.gid.launch <;> simp [progressed]
  simp only [← hbody]
  rfl

/-- Progress starts a watchdog anew, and changes no other queue (13 R292). -/
theorem progressed_frame (s : State) (pers : Bool) (q : Nat) :
    progressed s pers q = { s with queues := (progressed s pers q).queues } := by
  unfold progressed State.progress
  split
  · split <;> rfl
  · rfl

theorem progress_other (h : Sparse.rising 0 s.queues = true) {q k : Nat} (hk : k ≠ q) (pers : Bool) :
    (progressed s pers q).queue k = s.queue k := by
  unfold progressed State.progress
  split
  · split
    · rfl
    · exact Sparse.get_put_other _ _ _ _ _ hk h
  · rfl

theorem progress_same (h : Sparse.rising 0 s.queues = true) {q : Nat} (hs : (s.queue q).stage ≠ 2) :
    (progressed s true q).queue q = { s.queue q with w := 0, stage := 0 } := by
  unfold progressed State.progress
  rw [if_pos rfl, if_neg (fun hc => hs hc.1)]
  exact Sparse.get_put_same _ _ _ _ h

/-- A word that has moved its path beside a change of the queues. -/
theorem moved_withQueues {t : State} {qs : List (Nat × Queue)} {pc : Word} {gt : Machine.Group}
    (hm : Moved { s with queues := qs } t cx g pc gt) : Moved s { t with queues := s.queues } cx g pc gt where
  went := ⟨hm.went.group, hm.went.path, hm.went.other, hm.went.elsewhere⟩
  regs := hm.regs
  group := hm.group
  memory := ⟨hm.memory.bytes, hm.memory.fewer, hm.memory.poison, hm.memory.migrations⟩
  rest := by
    have h := congrArg (fun x : State => { x with queues := s.queues }) hm.rest
    exact h

theorem prog_moved (hr : Ready s g Uses.none cx) {l : Launch} (hl : s.launch? cx.gid.launch = some l) :
    ∃ t gt, exec (.prog g) s = .next t ∧ Moved s { t with queues := s.queues } cx g (cx.p.pc + 16) gt
      ∧ t.queues = (progressed (s.fetched cx Uses.none) cx.l.pers l.queue).queues := by
  have hw := hr.fetched_writesIn.withQueues (progressed (s.fetched cx Uses.none) cx.l.pers l.queue).queues
  have he : Placed { s with queues := (progressed (s.fetched cx Uses.none) cx.l.pers l.queue).queues }
      (progressed (s.fetched cx Uses.none) cx.l.pers l.queue) cx cx.g := by
    refine ⟨?_, rfl, rfl, rfl⟩
    rw [← progressed_frame] at hw
    exact hw
  have hm := he.finish_moved hr.ctxOf hr.memory (.refl _) hr.path rfl rfl rfl g Uses.none (some (cx.p.pc + 16)) false
  have hlf : (s.fetched cx Uses.none).launch? cx.gid.launch = some l := by
    rw [State.launch?, hr.fetched_writesIn.launches]
    exact hl
  have hq := congrArg State.queues hm.rest
  refine ⟨_, _, ?_, moved_withQueues hm, hq⟩
  rw [exec_prog, issueWord_ready _ hr, show (cx.fetched Uses.none).gid = cx.gid from rfl, hlf]
  rfl

theorem straightWords : Claims.StraightWords := by
  refine ⟨fun g s cx _ hr => nop_moved hr, fun g s cx _ hr => yield_moved hr, fun g s cx l _ hr hl => ?_⟩
  obtain ⟨t, gt, hx, hm, hq⟩ := prog_moved hr hl
  have hqs : (s.fetched cx Uses.none).queues = s.queues := by
    have h := congrArg State.queues hr.fetched_writesIn.rest
    exact h
  have hqueue (k : Nat) : t.queue k = (progressed (s.fetched cx Uses.none) cx.l.pers l.queue).queue k := by
    rw [State.queue, hq]
    rfl
  have hsame (k : Nat) : (s.fetched cx Uses.none).queue k = s.queue k := by rw [State.queue, hqs]; rfl
  have hrise : Sparse.rising 0 (s.fetched cx Uses.none).queues = true := by
    have ht := hr.tidy
    simp only [State.tidy, Bool.and_eq_true] at ht
    obtain ⟨⟨⟨⟨⟨⟨⟨-, hrise⟩, -⟩, -⟩, -⟩, -⟩, -⟩, -⟩ := ht
    rwa [hqs]
  refine ⟨t, gt, hx, hm, fun k hk => ?_, fun hp => ?_, fun hp hs => ?_⟩
  · rw [hqueue, progress_other hrise hk, hsame]
  · rw [hq, hp]
    exact hqs
  · rw [hqueue, hp, progress_same hrise (by rwa [hsame]), hsame]

end

end Sys2Proof.Proofs
end

section
/-! SUPPORT. Splitting, arriving and leaving: what they do to a group's slots, stack and parks (01 R28, 03 R52, R53). -/

namespace Sys2Proof.Machine

namespace Group
variable {g h : Group} {gone : Word}

/-! ### A path comes to a slot -/

theorem path_enter_same (g : Group) (n : Nat) (p : Path) :
    (g.enter n p).path n = some { p with park := g.left.contains n } := path_setPath_same g n _

theorem path_enter_other (g : Group) {n k : Nat} (p : Path) (h : (n = 0) ≠ (k = 0)) : (g.enter n p).path k = g.path k :=
  path_setPath_other g n k _ h

theorem enter_onlyFlow (g : Group) (n : Nat) (p : Path) : g.onlyFlow (g.enter n p) := by
  have h := setPath_onlyFlow g n (some { p with park := g.left.contains n })
  exact h

@[simp] theorem enter_stack (g : Group) (n : Nat) (p : Path) : (g.enter n p).stack = g.stack := setPath_stack g n _
@[simp] theorem enter_exited (g : Group) (n : Nat) (p : Path) : (g.enter n p).exited = g.exited := setPath_exited g n _
@[simp] theorem enter_nextId (g : Group) (n : Nat) (p : Path) : (g.enter n p).nextId = g.nextId := setPath_nextId g n _
@[simp] theorem enter_left (g : Group) (n : Nat) (p : Path) : (g.enter n p).left = g.left.filter (fun k => k != n) := rfl

theorem bump_onlyIssue (g : Group) (n k : Nat) : g.onlyIssue (g.bump n k) := rfl

/-- A group with another stack. -/
def withStack (g : Group) (st : List Entry) : Group := { g with stack := st }

section
variable (g : Group) (st : List Entry)
@[simp] theorem withStack_stack : (g.withStack st).stack = st := rfl
@[simp] theorem withStack_exited : (g.withStack st).exited = g.exited := rfl
@[simp] theorem withStack_nextId : (g.withStack st).nextId = g.nextId := rfl
@[simp] theorem withStack_left : (g.withStack st).left = g.left := rfl
@[simp] theorem path_withStack (n : Nat) : (g.withStack st).path n = g.path n := rfl
theorem withStack_onlyFlow : g.onlyFlow (g.withStack st) := rfl
end

/-! ### Split (03 R52) -/

/-- A group that has pushed the RECONVERGE entry of a path that splits, with the paths that wait above it, and goes on in
the slot with one of the path's parts. -/
def divided (g : Group) (slot : Nat) (p : Path) (pc mask rpc : Word) (waits : List Entry) : Group :=
  { g with
    nextId := g.nextId + 1
    stack := g.stack ++ Entry.reconv g.nextId rpc p.mask 0 p.jx :: waits }.setPath slot
      (some { p with pc := pc, mask := mask, jx := some g.nextId })

section
variable (g : Group) (slot : Nat) (p : Path) (pc mask rpc : Word) (waits : List Entry)
@[simp] theorem divided_stack : (g.divided slot p pc mask rpc waits).stack
    = g.stack ++ Entry.reconv g.nextId rpc p.mask 0 p.jx :: waits := setPath_stack _ _ _
@[simp] theorem divided_exited : (g.divided slot p pc mask rpc waits).exited = g.exited := setPath_exited _ _ _
@[simp] theorem divided_left : (g.divided slot p pc mask rpc waits).left = g.left := setPath_left _ _ _

theorem path_divided : (g.divided slot p pc mask rpc waits).path slot
    = some { p with pc := pc, mask := mask, jx := some g.nextId } := path_setPath_same _ _ _

theorem path_divided_other : (g.divided slot p pc mask rpc waits).path (1 - slot) = g.path (1 - slot) :=
  path_setPath_other _ _ _ _ (slot_ne slot)

theorem divided_onlyFlow : g.onlyFlow (g.divided slot p pc mask rpc waits) := by
  refine .trans ?_ (setPath_onlyFlow _ _ _)
  rfl

variable (b k : Word)

/-- A group whose path splits in two while the other slot is empty: the second part goes there. -/
def forkFree (g : Group) (slot : Nat) (p : Path) (pc mask rpc b k : Word) : Group :=
  ((g.divided slot p pc mask rpc []).enter (1 - slot) (Path.start b k (some g.nextId))).bump 5 1

/-- A group whose path splits in two while the other slot is taken: the second part waits above the entry. -/
def forkTaken (g : Group) (slot : Nat) (p : Path) (pc mask rpc b k : Word) : Group :=
  (g.divided slot p pc mask rpc [.path b k (some g.nextId)]).bump 5 2

theorem split_free (ho : (g.path (1 - slot)).isNone = true) (hd : g.depth + 1 ≤ g.divdepth) :
    g.split slot p [(pc, mask), (b, k)] rpc = some (g.forkFree slot p pc mask rpc b k) := by
  simp only [Group.split, ho, if_true, List.drop_succ_cons, List.drop_nil, List.reverse_nil, List.length_nil]
  rw [if_neg (by omega)]
  rfl

theorem split_taken (ho : (g.path (1 - slot)).isNone = false) (hd : g.depth + 2 ≤ g.divdepth) :
    g.split slot p [(pc, mask), (b, k)] rpc = some (g.forkTaken slot p pc mask rpc b k) := by
  simp only [Group.split, ho, Bool.false_eq_true, if_false, List.drop_succ_cons, List.drop_zero, List.reverse_cons,
    List.reverse_nil, List.nil_append, List.length_cons, List.length_nil]
  rw [if_neg (by omega)]
  rfl

/-- A split that would pass `.divdepth` is none (03 R51). -/
theorem split_deep (hd : g.divdepth < g.depth + (if (g.path (1 - slot)).isNone then 1 else 2)) :
    g.split slot p [(pc, mask), (b, k)] rpc = none := by
  cases ho : (g.path (1 - slot)).isNone <;> simp [Group.split, ho] at hd ⊢ <;> omega

theorem forkFree_onlyFlow : g.onlyFlow (g.forkFree slot p pc mask rpc b k) :=
  ((divided_onlyFlow _ _ _ _ _ _ _).trans (enter_onlyFlow _ _ _)).trans (bump_onlyIssue _ 5 1).onlyFlow

theorem path_forkFree : (g.forkFree slot p pc mask rpc b k).path slot
    = some { p with pc := pc, mask := mask, jx := some g.nextId } :=
  (path_enter_other _ _ (slot_ne slot).symm).trans (path_divided _ _ _ _ _ _ _)

/-- The other slot takes the second part, parked still where a word with K has emptied it (01 R28). -/
theorem path_forkFree_other : (g.forkFree slot p pc mask rpc b k).path (1 - slot)
    = some { Path.start b k (some g.nextId) with park := g.left.contains (1 - slot) } := by
  refine (path_enter_same _ _ _).trans ?_
  rw [divided_left]

theorem forkFree_left : (g.forkFree slot p pc mask rpc b k).left = g.left.filter (fun x => x != 1 - slot) := by
  simp only [forkFree, bump_left, enter_left, divided_left]

@[simp] theorem forkFree_stack : (g.forkFree slot p pc mask rpc b k).stack
    = g.stack ++ [.reconv g.nextId rpc p.mask 0 p.jx] := by
  simp only [forkFree, bump_stack, enter_stack, divided_stack]

@[simp] theorem forkFree_exited : (g.forkFree slot p pc mask rpc b k).exited = g.exited := by
  simp only [forkFree, bump_exited, enter_exited, divided_exited]

theorem forkTaken_onlyFlow : g.onlyFlow (g.forkTaken slot p pc mask rpc b k) :=
  (divided_onlyFlow _ _ _ _ _ _ _).trans (bump_onlyIssue _ 5 2).onlyFlow

theorem path_forkTaken : (g.forkTaken slot p pc mask rpc b k).path slot
    = some { p with pc := pc, mask := mask, jx := some g.nextId } := path_divided _ _ _ _ _ _ _

theorem path_forkTaken_other : (g.forkTaken slot p pc mask rpc b k).path (1 - slot) = g.path (1 - slot) :=
  path_divided_other _ _ _ _ _ _ _

@[simp] theorem forkTaken_left : (g.forkTaken slot p pc mask rpc b k).left = g.left := by
  simp only [forkTaken, bump_left, divided_left]

@[simp] theorem forkTaken_stack : (g.forkTaken slot p pc mask rpc b k).stack
    = g.stack ++ [.reconv g.nextId rpc p.mask 0 p.jx, .path b k (some g.nextId)] := by
  simp only [forkTaken, bump_stack, divided_stack]

@[simp] theorem forkTaken_exited : (g.forkTaken slot p pc mask rpc b k).exited = g.exited := by
  simp only [forkTaken, bump_exited, divided_exited]
end

/-! ### Arrive (03 R52) -/

section
variable (slot : Nat) {p : Path} {a rpc expect arrived : Word} {n : Nat} {par : Option Nat}

/-- A path's slot goes on at an address with a mask and a link. -/
def goOn (g : Group) (slot : Nat) (p : Path) (pc mask : Word) (jx : Option Nat) : Group :=
  g.setPath slot (some { p with pc := pc, mask := mask, jx := jx })

section
variable (g : Group) (p : Path) (pc mask : Word) (jx : Option Nat)
theorem path_goOn_same : (g.goOn slot p pc mask jx).path slot = some { p with pc := pc, mask := mask, jx := jx } :=
  path_setPath_same _ _ _
theorem path_goOn_other : (g.goOn slot p pc mask jx).path (1 - slot) = g.path (1 - slot) :=
  path_setPath_other _ _ _ _ (slot_ne slot)
theorem goOn_onlyIssue : g.onlyIssue (g.goOn slot p pc mask jx) := setPath_onlyIssue _ _ _
end

theorem arrive_unlinked (g : Group) (h : p.jx = none) : g.arrive slot p a = g.goOn slot p (a + 16) p.mask p.jx := by
  simp only [Group.arrive, h, goOn]

theorem arrive_elsewhere (h : p.jx = some n) (hf : g.stack.find? (Entry.hasId n) = some (.reconv n rpc expect arrived par))
    (hne : rpc ≠ a) : g.arrive slot p a = g.goOn slot p (a + 16) p.mask p.jx := by
  simp only [Group.arrive, h, hf, if_pos hne, goOn]

/-- The last path to arrive takes the lanes of all, and the entry goes. -/
theorem arrive_last (h : p.jx = some n) (hf : g.stack.find? (Entry.hasId n) = some (.reconv n a expect arrived par))
    (he : arrived ||| p.mask = expect) : g.arrive slot p a
      = (g.goOn slot p (a + 16) expect par).withStack (g.stack.filter (fun e => !Entry.hasId n e)) := by
  simp only [Group.arrive, h, hf, ne_eq, not_true_eq_false, if_false, if_pos he, goOn, withStack]

/-- The stack once a path has arrived at its entry. -/
def arrivedAt (st : List Entry) (n : Nat) (rpc expect arrived : Word) (par : Option Nat) : List Entry :=
  st.map (fun e => if Entry.hasId n e then Entry.reconv n rpc expect arrived par else e)

/-- A path that is not the last parks in its entry, and its slot is resumed. -/
theorem arrive_parks (h : p.jx = some n) (hf : g.stack.find? (Entry.hasId n) = some (.reconv n a expect arrived par))
    (he : arrived ||| p.mask ≠ expect) : g.arrive slot p a
      = ((g.setPath slot none).withStack (arrivedAt g.stack n a expect (arrived ||| p.mask) par)).resume slot := by
  simp only [Group.arrive, h, hf, ne_eq, not_true_eq_false, if_false, if_neg he, arrivedAt, withStack]
end

/-! ### Resume (03 R52) -/

theorem resume_none (g : Group) (slot : Nat) (h : popPath g.stack = none) : g.resume slot = g := by
  simp only [Group.resume, h]

theorem resume_some (g : Group) (slot : Nat) {q : Path} {st : List Entry} (h : popPath g.stack = some (q, st)) :
    g.resume slot = (g.enter slot q).withStack st := by
  simp only [Group.resume, h, withStack]

theorem resume_onlyFlow (g : Group) (slot : Nat) : g.onlyFlow (g.resume slot) := by
  cases h : popPath g.stack with
  | none =>
    rw [resume_none g slot h]
    rfl
  | some x =>
    rw [resume_some g slot h]
    exact (enter_onlyFlow g slot x.1).trans (withStack_onlyFlow _ _)

@[simp] theorem resume_exited (g : Group) (slot : Nat) : (g.resume slot).exited = g.exited := by
  unfold Group.resume
  split
  · exact enter_exited g slot _
  · rfl

@[simp] theorem resume_nextId (g : Group) (slot : Nat) : (g.resume slot).nextId = g.nextId := by
  unfold Group.resume
  split
  · exact enter_nextId g slot _
  · rfl

theorem path_resume_other (g : Group) (slot : Nat) : (g.resume slot).path (1 - slot) = g.path (1 - slot) := by
  unfold Group.resume
  split
  · exact path_enter_other g _ (slot_ne slot)
  · rfl

end Group

end Sys2Proof.Machine
end

section
/-! PROOFS. Paths split at brd and meet at join (03 R52, R56). -/

namespace Sys2Proof.Proofs

open Sys2Proof Sys2Proof.Machine Sys2Proof.Claims

section
variable {s : State} {g : Guard} {cx : Cx} {h : Machine.Group}

/-- The group of a word without registers once its effect has placed the paths and it has issued. -/
def settled (cx : Cx) (g : Guard) (h : Machine.Group) : Machine.Group :=
  h.finished (cx.fetched Uses.none) g Uses.none ((cx.fetched Uses.none).kept g Uses.none none false) none

/-- The machine of a word without registers once it has issued. -/
def placedAt (s : State) (cx : Cx) (g : Guard) (h : Machine.Group) : State :=
  ((s.fetched cx Uses.none).setGroup cx.gid h).finish (cx.fetched Uses.none) g Uses.none none

theorem placedAt_writesIn (hr : Ready s g Uses.none cx) (hf : cx.g.onlyFlow h) :
    WritesIn (groupSpan (s.ctx cx.ctx) cx.gid cx.g) (s.setGroup cx.gid (settled cx g h)) (placedAt s cx g h) :=
  (hr.placed hf).finish_writesIn hr.ctxOf g Uses.none none false

/-- Besides its group's paths and stack, a word that places paths leaves everything as it was. -/
theorem placedAt_frame (hr : Ready s g Uses.none cx) (hf : cx.g.onlyFlow h) :
    (placedAt s cx g h).group? cx.gid = some (settled cx g h) ∧ s.sameMemory (placedAt s cx g h) cx
      ∧ s.onlyGroups (placedAt s cx g h) ∧ othersStay s (placedAt s cx g h) cx.gid :=
  have hw := placedAt_writesIn hr hf
  ⟨hw.group?_same, hw.sameMemory hr.memory, hw.onlyGroups, fun _ ho => hw.group?_other ho⟩

theorem settled_onlyFlow (hf : cx.g.onlyFlow h) : cx.g.onlyFlow (settled cx g h) :=
  hf.trans (Group.finished_onlyFlow _ _ _ _ _ h)

theorem path_settled {p : Path} (hp : h.path cx.slot = some p) :
    ∃ q, (settled cx g h).path cx.slot = some q ∧ q.pc = p.pc ∧ q.mask = p.mask ∧ q.jx = p.jx :=
  ⟨_, Group.path_finished (cx.fetched Uses.none) g Uses.none _ none hp, rfl, rfl, rfl⟩

theorem path_settled_none (hp : h.path cx.slot = none) : (settled cx g h).path cx.slot = none := by
  have hq := Group.path_finished_map (cx.fetched Uses.none) g Uses.none
    ((cx.fetched Uses.none).kept g Uses.none none false) none h
  rwa [show (cx.fetched Uses.none).slot = cx.slot from rfl, hp] at hq

theorem path_settled_other : (settled cx g h).path (1 - cx.slot)
    = (h.path (1 - cx.slot)).map (fun p : Path => { p with retained := none }) :=
  Group.path_finished_map_other (cx.fetched Uses.none) g Uses.none _ none h

@[simp] theorem settled_stack : (settled cx g h).stack = h.stack := Group.stack_finished _ _ _ _ _ h
@[simp] theorem settled_exited : (settled cx g h).exited = h.exited := Group.exited_finished _ _ _ _ _ h
@[simp] theorem settled_nextId : (settled cx g h).nextId = h.nextId := Group.nextId_finished _ _ _ _ _ h

theorem settled_left : (settled cx g h).left
    = if g.k = true ∧ h.path cx.slot = none then cx.slot :: h.left else h.left :=
  Group.left_finished (cx.fetched Uses.none) g Uses.none _ none h

theorem settled_left_of_path {p : Path} (hp : h.path cx.slot = some p) : (settled cx g h).left = h.left := by
  rw [settled_left, if_neg (fun hc => by rw [hp] at hc; exact absurd hc.2 (by simp))]

/-- A word without registers whose effect leaves its slot a path of the same lanes. -/
theorem placedAt_moved (hr : Ready s g Uses.none cx) (pc : Word) :
    Moved s (placedAt s cx g (cx.g.goOn cx.slot cx.p pc cx.p.mask cx.p.jx)) cx g pc
      (settled cx g (cx.g.goOn cx.slot cx.p pc cx.p.mask cx.p.jx)) := by
  have hi := Group.goOn_onlyIssue cx.slot cx.g cx.p pc cx.p.mask cx.p.jx
  exact (hr.placed hi.onlyFlow).finish_moved hr.ctxOf hr.memory hi (Group.path_goOn_same ..) rfl rfl
    (Group.path_goOn_other ..) g Uses.none none false

/-! ### brd (03 R52, R56) -/

theorem exec_brd (g : Guard) (off roff : BitVec 32) (s : State) :
    exec (.brd g off roff) s = issueWord g Uses.none (fun s cx =>
      if cx.eff = 0 ∨ cx.eff = cx.p.mask then uniformBranch s cx cx.eff (targetOf cx.p.pc off)
      else splitPath s cx [(cx.p.pc + 16, cx.p.mask &&& ~~~cx.eff), (targetOf cx.p.pc off, cx.eff)]
        (targetOf cx.p.pc roff)) s := rfl

/-- A brd that some of its path's lanes take comes to a split. -/
theorem brd_splits (hr : Ready s g Uses.none cx) (off roff : BitVec 32) (hm : cx.eff ≠ cx.p.mask) (h0 : cx.eff ≠ 0) :
    exec (.brd g off roff) s = (s.fetched cx Uses.none).conclude (cx.fetched Uses.none) g Uses.none
      (match cx.g.split cx.slot cx.p [(cx.p.pc + 16, cx.p.mask &&& ~~~cx.eff), (cx.p.pc + 16 * off.signExtend 64, cx.eff)]
          (cx.p.pc + 16 * roff.signExtend 64) with
        | some h => .placed ((s.fetched cx Uses.none).setGroup cx.gid h)
        | none => .trap (s.fetched cx Uses.none) (cause 0x0E 0)) := by
  rw [exec_brd, issueWord_ready _ hr, fetched_eff, fetched_p, if_neg (not_or.mpr ⟨h0, hm⟩)]
  rfl

theorem brd_uniform (hr : Ready s g Uses.none cx) (off roff : BitVec 32) (hu : cx.eff = 0 ∨ cx.eff = cx.p.mask) :
    exec (.brd g off roff) s = (s.fetched cx Uses.none).conclude (cx.fetched Uses.none) g Uses.none
      (uniformBranch (s.fetched cx Uses.none) (cx.fetched Uses.none) cx.eff (cx.p.pc + 16 * off.signExtend 64)) := by
  rw [exec_brd, issueWord_ready _ hr, fetched_eff, fetched_p, if_pos hu]
  rfl

/-- What a group that has split keeps besides its paths. -/
theorem onlyRegs_of_split {k : Machine.Group} (hf : cx.g.onlyFlow k) (he : k.exited = cx.g.exited) :
    cx.g.onlyRegs { k with stack := cx.g.stack, nextId := cx.g.nextId, left := cx.g.left } := by
  have h := hf.onlyRegs
  rw [← he] at h
  exact h

theorem divergentBranch : Claims.DivergentBranch := by
  intro g off roff s cx _ hr target e entry free
  refine ⟨fun hall => ?_, fun hne h0 => ?_, fun hm h0 hd => ?_, fun hm h0 hd => ?_⟩
  · rw [brd_uniform hr off roff (.inr hall)]
    exact (uniformBranch_ready hr cx.eff target).1 hall
  · rw [brd_uniform hr off roff (.inl h0)]
    exact (uniformBranch_ready hr cx.eff target).2.1 hne h0
  · rw [brd_splits hr off roff hm h0]
    cases hfree : free with
    | true =>
      rw [Group.split_free (ho := hfree) (hd := by simpa [hfree] using hd)]
      have hf := Group.forkFree_onlyFlow cx.g cx.slot cx.p (cx.p.pc + 16) (cx.p.mask &&& ~~~cx.eff)
        (cx.p.pc + 16 * roff.signExtend 64) target cx.eff
      have hp := Group.path_forkFree cx.g cx.slot cx.p (cx.p.pc + 16) (cx.p.mask &&& ~~~cx.eff)
        (cx.p.pc + 16 * roff.signExtend 64) target cx.eff
      obtain ⟨hgt, hmem, hrest, hothers⟩ := placedAt_frame hr hf
      refine ⟨_, _, rfl, hgt, path_settled hp, fun _ => ⟨?_, ?_, ?_⟩, fun hc => (nomatch hc),
        (settled_onlyFlow hf).keeps [], onlyRegs_of_split (settled_onlyFlow hf) ?_, hmem, hrest, hothers⟩
      · rw [path_settled_other, Group.path_forkFree_other]
        rfl
      · rw [settled_left_of_path hp, Group.forkFree_left]
      · rw [settled_stack, Group.forkFree_stack]
      · rw [settled_exited, Group.forkFree_exited]
    | false =>
      rw [Group.split_taken (ho := hfree) (hd := by simpa [hfree] using hd)]
      have hf := Group.forkTaken_onlyFlow cx.g cx.slot cx.p (cx.p.pc + 16) (cx.p.mask &&& ~~~cx.eff)
        (cx.p.pc + 16 * roff.signExtend 64) target cx.eff
      have hp := Group.path_forkTaken cx.g cx.slot cx.p (cx.p.pc + 16) (cx.p.mask &&& ~~~cx.eff)
        (cx.p.pc + 16 * roff.signExtend 64) target cx.eff
      obtain ⟨hgt, hmem, hrest, hothers⟩ := placedAt_frame hr hf
      refine ⟨_, _, rfl, hgt, path_settled hp, fun hc => (nomatch hc), fun _ => ⟨?_, ?_, ?_⟩,
        (settled_onlyFlow hf).keeps [], onlyRegs_of_split (settled_onlyFlow hf) ?_, hmem, hrest, hothers⟩
      · rw [settled_left_of_path hp, Group.forkTaken_left]
      · rw [path_settled_other, Group.path_forkTaken_other]
      · rw [settled_stack, Group.forkTaken_stack]
      · rw [settled_exited, Group.forkTaken_exited]
  · rw [brd_splits hr off roff hm h0, Group.split_deep (hd := hd)]
    rfl

/-! ### join (03 R52) -/

theorem exec_join (g : Guard) (s : State) : exec (.join g) s = issueWord g Uses.none (fun s cx =>
    .placed (s.setGroup cx.gid (cx.g.arrive cx.slot cx.p cx.p.pc))) s := rfl

theorem join_placed (hr : Ready s g Uses.none cx) :
    exec (.join g) s = .next (placedAt s cx g (cx.g.arrive cx.slot cx.p cx.p.pc)) := by
  rw [exec_join, issueWord_ready _ hr]
  rfl

/-- A join that meets no entry of its own goes on. -/
theorem join_moved (hr : Ready s g Uses.none cx)
    (ha : cx.g.arrive cx.slot cx.p cx.p.pc = cx.g.goOn cx.slot cx.p (cx.p.pc + 16) cx.p.mask cx.p.jx) :
    ∃ t gt, exec (.join g) s = .next t ∧ Moved s t cx g (cx.p.pc + 16) gt :=
  ⟨_, _, by rw [join_placed hr, ha], placedAt_moved hr _⟩

/-- A slot whose path has parked takes the PATH entry pushed last, or is left empty (03 R52, 01 R28). -/
theorem parked_resumes (cx : Cx) (g : Guard) (st : List Entry) :
    let gt := settled cx g (((cx.g.setPath cx.slot none).withStack st).resume cx.slot)
    match popPath st with
    | none => gt.path cx.slot = none ∧ gt.stack = st ∧ gt.left = (if g.k then cx.slot :: cx.g.left else cx.g.left)
    | some (q, rest) => gt.stack = rest ∧ gt.left = cx.g.left.filter (fun k => k != cx.slot)
        ∧ ∃ p, gt.path cx.slot = some p ∧ p.pc = q.pc ∧ p.mask = q.mask ∧ p.jx = q.jx := by
  have hempty : ((cx.g.setPath cx.slot none).withStack st).path cx.slot = none := Group.path_setPath_same cx.g cx.slot none
  dsimp only
  cases hpop : popPath st with
  | none =>
    rw [Group.resume_none _ cx.slot hpop]
    refine ⟨path_settled_none hempty, settled_stack, ?_⟩
    rw [settled_left, Group.withStack_left, Group.setPath_left]
    simp only [hempty, and_true]
  | some x =>
    obtain ⟨q, rest⟩ := x
    rw [Group.resume_some _ cx.slot hpop]
    have hp := Group.path_enter_same ((cx.g.setPath cx.slot none).withStack st) cx.slot q
    rw [← Group.path_withStack _ rest] at hp
    have hpath := path_settled (g := g) hp
    refine ⟨settled_stack, ?_, hpath⟩
    rw [settled_left_of_path hp, Group.withStack_left, Group.enter_left, Group.withStack_left, Group.setPath_left]

/-- What a group keeps whose path has parked in its entry, besides its paths. -/
theorem onlyRegs_of_parked {k : Machine.Group} (hf : cx.g.onlyFlow k) (he : k.exited = cx.g.exited)
    (hn : k.nextId = cx.g.nextId) : cx.g.onlyRegs { k with stack := cx.g.stack, left := cx.g.left } := by
  have h := hf.onlyRegs
  rw [← he, ← hn] at h
  exact h

/-- What a group keeps whose last path has arrived, besides its paths and its entry. -/
theorem onlyRegs_of_arrived {k : Machine.Group} (hf : cx.g.onlyFlow k) (he : k.exited = cx.g.exited)
    (hn : k.nextId = cx.g.nextId) (hl : k.left = cx.g.left) : cx.g.onlyRegs { k with stack := cx.g.stack } := by
  have h := hf.onlyRegs
  rw [← he, ← hn, ← hl] at h
  exact h

theorem joinMeets : Claims.JoinMeets := by
  intro g s cx _ hr
  refine ⟨fun hj => join_moved hr (Group.arrive_unlinked _ _ hj), fun n rpc expect arrived par hj hfind =>
    ⟨fun hne => join_moved hr (Group.arrive_elsewhere _ hj hfind hne), fun ha hall => ?_, fun ha hsome => ?_⟩⟩
  · subst ha
    rw [join_placed hr, Group.arrive_last _ hj hfind hall]
    have hi := Group.goOn_onlyIssue cx.slot cx.g cx.p (cx.p.pc + 16) expect par
    have hf := hi.onlyFlow.trans (Group.withStack_onlyFlow _ (cx.g.stack.filter (fun e => !Entry.hasId n e)))
    have hp := Group.path_goOn_same cx.slot cx.g cx.p (cx.p.pc + 16) expect par
    rw [← Group.path_withStack _ (cx.g.stack.filter (fun e => !Entry.hasId n e))] at hp
    obtain ⟨hgt, hmem, hrest, hothers⟩ := placedAt_frame hr hf
    refine ⟨_, _, rfl, hgt, path_settled hp, ?_, settled_stack, (settled_onlyFlow hf).keeps [], ?_, hmem, hrest, hothers⟩
    · rw [path_settled_other, Group.path_withStack, Group.path_goOn_other]
    · refine onlyRegs_of_arrived (settled_onlyFlow hf) ?_ ?_ ?_
      · rw [settled_exited, Group.withStack_exited, hi.exited]
      · rw [settled_nextId, Group.withStack_nextId, hi.nextId]
      · rw [settled_left_of_path hp, Group.withStack_left, hi.left]
  · subst ha
    rw [join_placed hr, Group.arrive_parks _ hj hfind hsome]
    have hf := ((Group.setPath_onlyFlow cx.g cx.slot none).trans (Group.withStack_onlyFlow _
      (Group.arrivedAt cx.g.stack n cx.p.pc expect (arrived ||| cx.p.mask) par))).trans (Group.resume_onlyFlow _ cx.slot)
    obtain ⟨hgt, hmem, hrest, hothers⟩ := placedAt_frame hr hf
    refine ⟨_, _, rfl, hgt, ?_, parked_resumes cx g _, (settled_onlyFlow hf).keeps [],
      onlyRegs_of_parked (settled_onlyFlow hf) ?_ ?_, hmem, hrest, hothers⟩
    · rw [path_settled_other, Group.path_resume_other, Group.path_withStack,
        Group.path_setPath_other _ _ _ _ (Group.slot_ne _)]
    · rw [settled_exited, Group.resume_exited, Group.withStack_exited, Group.setPath_exited]
    · rw [settled_nextId, Group.resume_nextId, Group.withStack_nextId, Group.setPath_nextId]

end

/-- Settles O30: brd splits its path in two and join counts the lanes that arrive at the entry, each as the group it places
says. -/
theorem branchAndJoin : Obligations.BranchAndJoin := ⟨divergentBranch, joinMeets⟩

end Sys2Proof.Proofs
end

section
/-! SUPPORT. Lanes that leave a group: none of its paths and entries holds one of them any more (03 R53). -/

namespace Sys2Proof.Machine

/-- The lanes that an entry stands for: those of its path, or those that it expects. -/
def Entry.lanes : Entry → Word
  | .path _ m _ => m
  | .reconv _ _ expect _ _ => expect

/-- The path popped is that of an entry, and the others stay. -/
theorem popPath_mem : ∀ {st : List Entry} {p : Path} {rest : List Entry}, popPath st = some (p, rest) →
    (∃ e ∈ st, e.toPath = some p) ∧ ∀ e ∈ rest, e ∈ st := by
  intro st
  induction st with
  | nil =>
    intro p rest h
    cases h
  | cons e es ih =>
    intro p rest h
    unfold popPath at h
    split at h
    next q es' hq =>
      obtain ⟨rfl, rfl⟩ : q = p ∧ e :: es' = rest := by simpa using h
      obtain ⟨⟨x, hx, hp⟩, hrest⟩ := ih hq
      exact ⟨⟨x, .tail _ hx, hp⟩, List.cons_subset_cons e hrest⟩
    next =>
      split at h
      next q hq =>
        obtain ⟨rfl, rfl⟩ : q = p ∧ es = rest := by simpa using h
        exact ⟨⟨e, .head _, hq⟩, fun x hx => .tail _ hx⟩
      next => cases h

theorem Entry.toPath_mask {e : Entry} {p : Path} (h : e.toPath = some p) : p.mask = e.lanes := by
  cases e with
  | path pc m jx =>
    obtain rfl := Option.some.inj h
    rfl
  | reconv i rpc x a par => cases h

theorem andNot_and (m gone : Word) : m &&& ~~~gone &&& gone = 0 := by
  rw [BitVec.and_assoc, BitVec.not_and_self]
  exact BitVec.and_zero

namespace Group
variable {g : Group} {gone : Word}

theorem leaveEntry_lanes {e e' : Entry} (h : leaveEntry gone e = some e') : e'.lanes &&& gone = 0 := by
  cases e with
  | path pc m jx =>
    simp only [leaveEntry] at h
    split at h
    · cases h
    · obtain rfl := Option.some.inj h
      exact andNot_and m gone
  | reconv i rpc x a par =>
    simp only [leaveEntry] at h
    split at h
    · cases h
    · split at h <;> obtain rfl := Option.some.inj h <;> exact andNot_and x gone

theorem leavePath_mask {p : Option Path} {q : Path} (h : leavePath gone p = some q) : q.mask &&& gone = 0 := by
  unfold leavePath at h
  split at h
  next p =>
    split at h
    · cases h
    · obtain rfl := Option.some.inj h
      exact andNot_and p.mask gone
  next => cases h

/-- No path and no entry of the group holds a lane of the mask. -/
structure Without (g : Group) (gone : Word) : Prop where
  paths : ∀ n p, g.path n = some p → p.mask &&& gone = 0
  entries : ∀ e ∈ g.stack, e.lanes &&& gone = 0

/-- A group whose slots differ in number only by which of the two they are. -/
theorem path_congr (g : Group) {n k : Nat} (h : (n = 0) = (k = 0)) : g.path n = g.path k := by
  unfold Group.path
  simp only [h]

theorem resume_without (hw : g.Without gone) (slot : Nat) : (g.resume slot).Without gone := by
  cases hpop : popPath g.stack with
  | none => rwa [resume_none g slot hpop]
  | some x =>
    obtain ⟨q, rest⟩ := x
    obtain ⟨⟨e, he, hq⟩, hrest⟩ := popPath_mem hpop
    rw [resume_some g slot hpop]
    refine ⟨fun n p hp => ?_, fun e he => hw.entries e (hrest e he)⟩
    rw [path_withStack] at hp
    by_cases hn : (slot = 0) = (n = 0)
    · rw [path_congr _ hn.symm, path_enter_same] at hp
      obtain rfl := Option.some.inj hp
      rw [show q.mask = e.lanes from Entry.toPath_mask hq]
      exact hw.entries e he
    · rw [path_enter_other g q hn] at hp
      exact hw.paths n p hp

/-- Resuming an empty slot resumes it or leaves the group. -/
theorem resumeIfEmpty_cases (g : Group) (slot : Nat) : g.resumeIfEmpty slot = g.resume slot ∨ g.resumeIfEmpty slot = g := by
  unfold Group.resumeIfEmpty
  split
  · exact .inl rfl
  · exact .inr rfl

theorem resumeIfEmpty_without (hw : g.Without gone) (slot : Nat) : (g.resumeIfEmpty slot).Without gone := by
  rcases resumeIfEmpty_cases g slot with h | h
  · rw [h]
    exact resume_without hw slot
  · rwa [h]

theorem resumeIfEmpty_onlyFlow (g : Group) (slot : Nat) : g.onlyFlow (g.resumeIfEmpty slot) := by
  rcases resumeIfEmpty_cases g slot with h | h
  · rw [h]
    exact resume_onlyFlow g slot
  · rw [h]
    rfl

@[simp] theorem resumeIfEmpty_exited (g : Group) (slot : Nat) : (g.resumeIfEmpty slot).exited = g.exited := by
  rcases resumeIfEmpty_cases g slot with h | h
  · rw [h, resume_exited]
  · rw [h]

@[simp] theorem resumeIfEmpty_nextId (g : Group) (slot : Nat) : (g.resumeIfEmpty slot).nextId = g.nextId := by
  rcases resumeIfEmpty_cases g slot with h | h
  · rw [h, resume_nextId]
  · rw [h]

/-- A group whose lanes have left its paths and entries, before its empty slots are resumed. -/
def stripped (g : Group) (gone : Word) : Group :=
  { g with
    exited := g.exited ||| gone
    stack := g.stack.filterMap (leaveEntry gone)
    p0 := leavePath gone g.p0
    p1 := leavePath gone g.p1 }

theorem leave_eq (g : Group) (slot : Nat) (gone : Word) :
    g.leave slot gone = ((g.stripped gone).resumeIfEmpty slot).resumeIfEmpty (1 - slot) := rfl

theorem stripped_without (g : Group) (gone : Word) : (g.stripped gone).Without gone := by
  refine ⟨fun n p hp => ?_, fun e he => ?_⟩
  · by_cases hn : n = 0
    · rw [Group.path, if_pos hn] at hp
      exact leavePath_mask hp
    · rw [Group.path, if_neg hn] at hp
      exact leavePath_mask hp
  · obtain ⟨x, -, hx⟩ := List.mem_filterMap.mp he
    exact leaveEntry_lanes hx

/-- 03 R53: lanes that leave stand in no path and no entry. -/
theorem leave_without (g : Group) (slot : Nat) (gone : Word) : (g.leave slot gone).Without gone := by
  rw [leave_eq]
  exact resumeIfEmpty_without (resumeIfEmpty_without (stripped_without g gone) slot) (1 - slot)

theorem leave_onlyFlow (g : Group) (slot : Nat) (gone : Word) : g.onlyFlow (g.leave slot gone) := by
  have hs : (g.stripped gone).onlyFlow (g.leave slot gone) :=
    (resumeIfEmpty_onlyFlow _ slot).trans (resumeIfEmpty_onlyFlow _ (1 - slot))
  have hp : g.onlyFlow (g.stripped gone) := rfl
  exact hp.trans hs

theorem leave_exited (g : Group) (slot : Nat) (gone : Word) : (g.leave slot gone).exited = g.exited ||| gone := by
  rw [leave_eq, resumeIfEmpty_exited, resumeIfEmpty_exited]
  rfl

theorem leave_nextId (g : Group) (slot : Nat) (gone : Word) : (g.leave slot gone).nextId = g.nextId := by
  rw [leave_eq, resumeIfEmpty_nextId, resumeIfEmpty_nextId]
  rfl

end Group

end Sys2Proof.Machine
end

section
/-! PROOFS. exit (03 R53, 01 R28), and the words that move, park or end a path. -/

namespace Sys2Proof.Proofs

open Sys2Proof Sys2Proof.Machine Sys2Proof.Claims

section
variable {s : State} {g : Guard} {cx : Cx} {h : Machine.Group}

theorem exec_exit (g : Guard) (s : State) : exec (.exit g) s = issueMasked g Uses.none (fun s cx =>
    .placed (s.setGroup cx.gid ((cx.g.setPath cx.slot (some { cx.p with pc := cx.p.pc + 16 })).leave cx.slot cx.eff))) s :=
  rfl

theorem exit_placed (hr : Ready s g Uses.none cx) (he : cx.eff ≠ 0) :
    exec (.exit g) s = .next (placedAt s cx g
      ((cx.g.setPath cx.slot (some { cx.p with pc := cx.p.pc + 16 })).leave cx.slot cx.eff)) := by
  rw [exec_exit, issueMasked_ready _ hr he]
  rfl

/-- Issuing a word leaves every slot's path where the effect has placed it. -/
theorem path_settled_place (cx : Cx) (g : Guard) (h : Machine.Group) (n : Nat) :
    ((settled cx g h).path n).map (fun p => (p.pc, p.mask, p.jx)) = (h.path n).map (fun p => (p.pc, p.mask, p.jx)) := by
  by_cases hn : (n = 0) = (cx.slot = 0)
  · rw [Group.path_congr _ hn, Group.path_congr _ hn]
    cases hp : h.path cx.slot with
    | none => rw [path_settled_none hp]
    | some p =>
      obtain ⟨q, hq, hpc, hmask, hjx⟩ := path_settled (g := g) hp
      rw [hq, Option.map_some, Option.map_some, hpc, hmask, hjx]
  · have ho : (n = 0) = (1 - cx.slot = 0) := by
      simp only [eq_iff_iff] at hn ⊢
      omega
    rw [Group.path_congr _ ho, Group.path_congr _ ho, path_settled_other, Option.map_map]
    rfl

/-- What a group keeps whose lanes have left, besides its paths. -/
theorem onlyRegs_of_left {k : Machine.Group} (hf : cx.g.onlyFlow k) (hn : k.nextId = cx.g.nextId) :
    cx.g.onlyRegs { k with exited := cx.g.exited, stack := cx.g.stack, left := cx.g.left } := by
  have h := hf.onlyRegs
  rw [← hn] at h
  exact h
end

theorem exitLeaves : Claims.ExitLeaves := by
  intro g s cx _ hr he on
  have hf : cx.g.onlyFlow on := (Group.setPath_onlyFlow _ _ _).trans (Group.leave_onlyFlow _ _ _)
  have hw : on.Without cx.eff := Group.leave_without _ _ _
  obtain ⟨hgt, hmem, hrest, hothers⟩ := placedAt_frame hr hf
  refine ⟨_, _, exit_placed hr he, hgt, ?_, fun n p hp => ?_, fun pc m jx hin => ?_, fun n rpc e arr par hin => ?_,
    path_settled_place cx g on, settled_stack, settled_left, (settled_onlyFlow hf).keeps [],
    onlyRegs_of_left (settled_onlyFlow hf) ?_, hmem, hrest, hothers⟩
  · rw [settled_exited, Group.leave_exited, Group.setPath_exited]
  · have hplace := path_settled_place cx g on n
    rw [hp, Option.map_some, eq_comm, Option.map_eq_some_iff] at hplace
    obtain ⟨q, hq, heq⟩ := hplace
    have hmask : q.mask = p.mask := congrArg (fun x => x.2.1) heq
    rw [← hmask]
    exact hw.paths n q hq
  · rw [settled_stack] at hin
    exact hw.entries _ hin
  · rw [settled_stack] at hin
    exact hw.entries _ hin
  · rw [settled_nextId, Group.leave_nextId, Group.setPath_nextId]

/-- Settles O32: each of the words by the path and the group that its effect leaves. -/
theorem pathWords : Obligations.PathWords := ⟨straightWords, pmarkParks, exitLeaves⟩

end Sys2Proof.Proofs
end

section
/-! SUPPORT. A word with one register result: what `putResult` leaves of the group, and how the word completes (01 R27, R28,
08 R193). -/

namespace Sys2Proof.Machine

/-! ### A result in its register (08 R193) -/

/-- The lanes of a group's full mask. -/
theorem laneIn_fullMask (n l : Nat) : laneIn (fullMask n) l = (decide (l < 64) && decide (l < n)) := by
  rw [laneIn, fullMask, BitVec.getLsbD_ofNat, Nat.testBit_two_pow_sub_one]

/-- A result as a register holds it: a general one has the lanes of its group. -/
def RegVal.held (w : Nat) : RegVal → RegVal
  | .general xs => .general ((RegVal.general xs).lanes w)
  | r => r

@[simp] theorem RegVal.lane_held (r : RegVal) {w l : Nat} (h : l < w) : (r.held w).lane l = r.lane l := by
  cases r with
  | general xs => exact RegVal.lane_lanes _ w l h
  | unwritten => rfl
  | uniform u => rfl
  | affine b st => rfl

/-- Of a group, nothing differs but registers, their residency and the performance counters. -/
def Group.onlyStored (g h : Group) : Prop := { h with regs := g.regs, resident := g.resident, perf := g.perf } = g

namespace Group
variable {g h k : Group}

theorem onlyStored.refl (g : Group) : g.onlyStored g := rfl

theorem onlyStored.trans (h1 : g.onlyStored h) (h2 : h.onlyStored k) : g.onlyStored k := by
  have h3 := congrArg (fun x : Group => { x with regs := g.regs, resident := g.resident, perf := g.perf }) h2
  exact Eq.trans h3 h1

theorem setVal_onlyStored (g : Group) (r : Nat) (v : RegVal) : g.onlyStored (g.setVal r v) := rfl

theorem bump_onlyStored (g : Group) (n k : Nat) : g.onlyStored (g.bump n k) := rfl

theorem allocate_onlyStored (g : Group) (named : List Nat) (run : Bool) (v : Nat) :
    g.onlyStored (g.allocate named run v) := by
  have h := congrArg (fun x : Group => { x with regs := g.regs }) (allocate_frame g named run v)
  exact h

theorem materialise_onlyStored (g : Group) (named : List Nat) (run : Bool) (v : Nat) :
    g.onlyStored (g.materialise named run v) := by
  unfold Group.materialise
  split
  · exact .refl g
  · exact (allocate_onlyStored g named run v).trans (setVal_onlyStored _ _ _)

theorem writeResult_onlyStored (g : Group) (named : List Nat) (run : Bool) (v : Nat) (m : Word) (r : RegVal) :
    g.onlyStored (g.writeResult named run v m r) := by
  unfold Group.writeResult
  split
  · exact .refl g
  · split
    · split
      · refine .trans (h := ite _ _ _) ?_ (setVal_onlyStored _ _ _)
        split
        · exact .refl g
        · exact allocate_onlyStored g named run v
      · rfl
    · refine .trans (h := Group.materialise (ite _ _ _) named run v) ?_ (setVal_onlyStored _ _ _)
      refine .trans (h := ite _ _ _) ?_ (materialise_onlyStored _ _ _ _)
      split
      · exact .refl g
      · exact bump_onlyStored g 7 1

section
variable (named : List Nat) (run : Bool) (v : Nat) {m : Word} (r : RegVal) (hg : Sparse.rising 0 g.regs = true)
include hg

theorem val_writeResult_other {q : Nat} (hq : q ≠ v) : (g.writeResult named run v m r).val q = g.val q := by
  rw [Group.val, regs_writeResult]
  split
  · rfl
  · split
    · exact Sparse.get_put_other _ _ _ _ _ hq hg
    · rw [Sparse.get_put_other _ _ _ _ _ hq (by split <;> [exact hg; exact Sparse.rising_put _ _ _ _ hg])]
      split
      · rfl
      · exact Sparse.get_put_other _ _ _ _ _ hq hg

/-- Under a full mask the register is the result, shape and all. -/
theorem val_writeResult_full (h0 : m ≠ 0) (hm : m = g.full) :
    (g.writeResult named run v m r).val v = r.held g.width := by
  rw [Group.val, regs_writeResult, if_neg h0, if_pos hm, Sparse.get_put_same _ _ _ _ hg]
  cases r <;> rfl

/-- The result stands in the lanes of the mask, and the others are as before. -/
theorem lane_writeResult {l : Nat} (hl : l < 64) (hw : l < g.width) :
    ((g.writeResult named run v m r).val v).lane l = if laneIn m l then r.lane l else (g.val v).lane l := by
  by_cases h0 : m = 0
  · rw [Group.val, regs_writeResult, if_pos h0, h0, show laneIn (0 : Word) l = false from laneIn_zero l]
    rfl
  · by_cases hm : m = g.full
    · rw [val_writeResult_full named run v r hg h0 hm, RegVal.lane_held r hw, hm, Group.full, laneIn_fullMask]
      simp [hl, hw]
    · rw [Group.val, regs_writeResult, if_neg h0, if_neg hm,
        Sparse.get_put_same _ _ _ _ (by split <;> [exact hg; exact Sparse.rising_put _ _ _ _ hg]),
        RegVal.lane_general _ _ _ hw]
end

end Group

/-! ### A word with a result -/

/-- The group of a word once its result stands in its register and counts as in flight. -/
def Group.withResult (cx : Cx) (n : Nat) (d : Nat) (r : RegVal) (cnt : Counts) : Group :=
  (cx.g.writeResult cx.named false d cx.eff r).fly
    { serial := n, slot := cx.slot, kind := .alu, covered := false, dests := [d], writes := [], counts := cnt
      due := [], waits := [], job := none, stamps := [] }

theorem State.putResult_eq {s : State} {cx : Cx} (hg : s.group? cx.gid = some cx.g) (d : Nat) (r : RegVal) (cnt : Counts) :
    s.putResult cx d r cnt
      = ({ s with serial := s.serial + 1 } : State).setGroup cx.gid (Group.withResult cx s.serial d r cnt) :=
  State.modGroup_some (s := { s with serial := s.serial + 1 }) hg _

/-- Of the group only registers differ, and what issuing changes. -/
theorem Group.withResult_frame (cx : Cx) (n d : Nat) (r : RegVal) (cnt : Counts) :
    cx.g.onlyIssue { Group.withResult cx n d r cnt with regs := cx.g.regs } := by
  have hw := congrArg (fun x : Group =>
    { x with used := cx.g.used, useNo := cx.g.useNo, flight := cx.g.flight, p0 := cx.g.p0, p1 := cx.g.p1 })
    (writeResult_onlyStored cx.g cx.named false d cx.eff r)
  exact hw

theorem Group.path_withResult (cx : Cx) (n d : Nat) (r : RegVal) (cnt : Counts) (k : Nat) :
    (Group.withResult cx n d r cnt).path k = cx.g.path k := by
  have hw := congrArg (fun x : Group => x.path k) (writeResult_onlyStored cx.g cx.named false d cx.eff r)
  exact hw

theorem Group.val_withResult (cx : Cx) (n d : Nat) (r : RegVal) (cnt : Counts) (q : Nat) :
    (Group.withResult cx n d r cnt).val q = (cx.g.writeResult cx.named false d cx.eff r).val q := rfl

/-- Its registers apart, a group after its word is what any issue leaves of what its effect has left. -/
theorem Group.onlyRegs_of_frame {g h k : Group} (h1 : g.onlyIssue { h with regs := g.regs }) (h2 : h.onlyIssue k) :
    g.onlyRegs k := by
  have h3 := congrArg (fun x : Group => { x with regs := g.regs }) h2
  have h4 : Group.onlyIssue { h with regs := g.regs } { k with regs := g.regs } := h3
  have h5 := (h1.trans h4).onlyRegs
  exact h5

/-- A word completes that has put a result in a register. -/
structure PutResult (s t : State) (cx : Cx) (w : Guard) (u : Uses) (d : Nat) (r : RegVal) (gt : Group) : Prop where
  next : Next s t cx w gt
  vals : ∀ q, gt.val q = ((cx.fetched u).g.writeResult (cx.fetched u).named false d cx.eff r).val q
  group : cx.g.onlyRegs gt
  memory : s.sameMemory t cx
  rest : s.onlyGroups t

/-- How a ready word with a result completes. -/
theorem Ready.putResult {s : State} {w : Guard} {u : Uses} {cx : Cx} (hr : Ready s w u cx) (d : Nat) (r : RegVal)
    (cnt : Counts) : ∃ gt, PutResult s
      (((s.fetched cx u).putResult (cx.fetched u) d r cnt).finish (cx.fetched u) w u (some (cx.p.pc + 16))) cx w u d r gt := by
  have hfr := Group.withResult_frame (cx.fetched u) (s.fetched cx u).serial d r cnt
  have hpath (n : Nat) : (Group.withResult (cx.fetched u) (s.fetched cx u).serial d r cnt).path n = cx.g.path n :=
    (Group.path_withResult _ _ _ _ _ n).trans (Group.path_refill _ _ _ n)
  have hi : cx.g.onlyIssue (cx.fetched u).g := Group.refill_onlyIssue _ _ _
  have he : Placed { s with serial := (s.fetched cx u).serial + 1 } ((s.fetched cx u).putResult (cx.fetched u) d r cnt) cx
      (Group.withResult (cx.fetched u) (s.fetched cx u).serial d r cnt) := by
    refine ⟨?_, ?_, ?_, ?_⟩
    · have hw := (hr.fetched_writesIn.withSerial ((s.fetched cx u).serial + 1)).setGroup cx.gid
        (Group.withResult (cx.fetched u) (s.fetched cx u).serial d r cnt)
      rw [State.putResult_eq hr.fetched_group]
      exact State.setGroup_setGroup _ _ _ _ ▸ hw
    · exact hfr.divdepth.trans hi.divdepth
    · exact hfr.width.trans hi.width
    · exact hfr.nr.trans hi.nr
  have hw := he.finish_writesIn hr.ctxOf w u (some (cx.p.pc + 16)) false
  have hmem := hw.sameMemory hr.memory
  have hfin := Group.finished_onlyIssue (cx.fetched u) w u
    ((cx.fetched u).kept w u (some (cx.p.pc + 16)) false) (some (cx.p.pc + 16)) ((hpath cx.slot).trans hr.path)
  have hwent := he.finish_went hr.ctxOf ((hpath cx.slot).trans hr.path) rfl rfl (hpath (1 - cx.slot)) w u
    (some (cx.p.pc + 16)) false
  refine ⟨_, ⟨hwent.group, hwent.path, hwent.other, hwent.elsewhere⟩, fun q => ?_, ?_,
    ⟨hmem.bytes, hmem.fewer, hmem.poison, hmem.migrations⟩, ?_⟩
  · refine Eq.trans ?_ (Group.val_withResult (cx.fetched u) (s.fetched cx u).serial d r cnt q)
    simp only [Group.val, hfin.regs]
  · have hall := hi.trans hfr
    rw [hi.regs] at hall
    exact Group.onlyRegs_of_frame hall hfin
  · have h := congrArg (fun x : State => { x with serial := s.serial }) hw.onlyGroups
    exact h

/-- Its result stands in D in the lanes of the mask, and no other register has changed. -/
theorem PutResult.wrote {s t : State} {cx : Cx} {w : Guard} {u : Uses} {d : RegIx} {r : RegVal} {gt : Group} {v : Nat → Word}
    (hp : PutResult s t cx w u d.toNat r gt) (hg : Sparse.rising 0 cx.g.regs = true)
    (hv : ∀ l, laneIn cx.eff l = true → l < cx.g.width → r.lane l = v l) : WroteReg s t cx w d v gt where
  next := hp.next
  value := fun l hl hw => by
    have hi : cx.g.onlyIssue (cx.fetched u).g := Group.refill_onlyIssue _ _ _
    have hold := hi.keeps [] d.toNat List.not_mem_nil
    rw [hp.vals, Group.lane_writeResult _ _ _ _ (by rwa [hi.regs]) hl (by rwa [hi.width]), hold]
    cases hm : laneIn cx.eff l with
    | true => exact hv l hm hw
    | false => rfl
  regs := fun q hq => by
    have hi : cx.g.onlyIssue (cx.fetched u).g := Group.refill_onlyIssue _ _ _
    rw [hp.vals, Group.val_writeResult_other _ _ _ _ (by rwa [hi.regs]) (by simpa using hq)]
    exact hi.keeps [] q List.not_mem_nil
  group := hp.group
  memory := hp.memory
  rest := hp.rest

/-- Under a full mask D holds the result, shape and all. -/
theorem PutResult.val_full {s t : State} {cx : Cx} {w : Guard} {u : Uses} {d : Nat} {r : RegVal} {gt : Group}
    (hp : PutResult s t cx w u d r gt) (hg : Sparse.rising 0 cx.g.regs = true) (h0 : cx.eff ≠ 0) (hm : cx.eff = cx.g.full) :
    gt.val d = r.held cx.g.width := by
  have hi : cx.g.onlyIssue (cx.fetched u).g := Group.refill_onlyIssue _ _ _
  rw [hp.vals, Group.val_writeResult_full _ _ _ _ (by rwa [hi.regs]) h0 (by rw [hm, Group.full, Group.full, hi.width]),
    hi.width]

/-- A word with an empty mask writes no register (01 R27). -/
theorem wroteReg_of_moved {s t : State} {cx : Cx} {w : Guard} {gt : Group} (d : RegIx) (v : Nat → Word)
    (h : Moved s t cx w (cx.p.pc + 16) gt) (he : cx.eff = 0) : WroteReg s t cx w d v gt where
  next := h.went
  value := fun l _ _ => by
    rw [he, if_neg (by simp), h.regs _ List.not_mem_nil]
  regs := fun q _ => h.regs q List.not_mem_nil
  group := h.group
  memory := h.memory
  rest := h.rest

theorem Ready.regsRising {s : State} {w : Guard} {u : Uses} {cx : Cx} (hr : Ready s w u cx) :
    Sparse.rising 0 cx.g.regs = true := by
  have ht := hr.groupTidy
  simp only [Group.tidy, Bool.and_eq_true] at ht
  obtain ⟨⟨⟨⟨⟨⟨hregs, -⟩, -⟩, -⟩, -⟩, -⟩, -⟩ := ht
  exact hregs

section
variable {s : State} {w : Guard} {srcs : List Src} {d : RegIx} {cx : Cx}

/-- A ready word with a register result and some lane puts it in D. -/
theorem aluWord_putResult (hr : Ready s w (usesOf srcs [d]) cx) (he : cx.eff ≠ 0) (f : Cx → RegVal) :
    ∃ t gt, aluWord w srcs d f s = .next t
      ∧ PutResult s t cx w (usesOf srcs [d]) d.toNat (f (cx.fetched (usesOf srcs [d]))) gt := by
  obtain ⟨gt, hp⟩ := hr.putResult d.toNat (f (cx.fetched (usesOf srcs [d]))) Counts.zero
  exact ⟨_, gt, issueMasked_ready _ hr he, hp⟩

/-- A ready word with a register result writes it in the lanes of its mask, and nothing else. -/
theorem aluWord_wrote (hr : Ready s w (usesOf srcs [d]) cx) (f : Cx → RegVal) (v : Nat → Word)
    (hv : ∀ l, laneIn cx.eff l = true → l < cx.g.width → (f (cx.fetched (usesOf srcs [d]))).lane l = v l) :
    ∃ t gt, aluWord w srcs d f s = .next t ∧ WroteReg s t cx w d v gt := by
  by_cases he : cx.eff = 0
  · obtain ⟨gt, hm⟩ := hr.finish_moved (cx.p.pc + 16) false
    exact ⟨_, gt, issueMasked_empty _ hr he, wroteReg_of_moved d v hm he⟩
  · obtain ⟨t, gt, hx, hp⟩ := aluWord_putResult hr he f
    exact ⟨t, gt, hx, hp.wrote hr.regsRising hv⟩

/-- Under a full mask D holds the result, shape and all. -/
theorem aluWord_full (hr : Ready s w (usesOf srcs [d]) cx) (he : cx.eff ≠ 0) (hm : cx.eff = cx.g.full) (f : Cx → RegVal) :
    ∃ t gt, aluWord w srcs d f s = .next t ∧ t.group? cx.gid = some gt
      ∧ gt.val d.toNat = (f (cx.fetched (usesOf srcs [d]))).held cx.g.width := by
  obtain ⟨t, gt, hx, hp⟩ := aluWord_putResult hr he f
  exact ⟨t, gt, hx, hp.next.group, hp.val_full hr.regsRising he hm⟩
end

end Sys2Proof.Machine
end

section
/-! SUPPORT. Lines of values (03 R42, R43): the signed 32-bit range, and the shape of a result with a line. -/

namespace Sys2Proof.Machine

open Sys2Proof.Claims

/-- The signed 32-bit range, by the number. -/
theorem inS32_iff (x : Word) : inS32 x = true ↔ -(2 ^ 31) ≤ x.toInt ∧ x.toInt < 2 ^ 31 := by
  rw [inS32, beq_iff_eq, ← BitVec.toInt_inj, BitVec.toInt_signExtend_of_le (by omega)]
  have hx := x.isLt
  simp only [BitVec.toInt_eq_toNat_cond, BitVec.extractLsb'_toNat, Nat.shiftRight_zero]
  omega

/-- Lane l of the line of base b and stride s. -/
def lineAt (b s : Word) (l : Nat) : Word := b + BitVec.ofNat 64 l * s

/-- Where lanes 0 and 1 are in the range, the lanes of a group lie on a line of numbers (03 R43). -/
theorem toInt_lineAt {b s : Word} (h0 : inS32 b = true) (h1 : inS32 (b + s) = true) {l : Nat} (hl : l < 64) :
    (lineAt b s l).toInt = b.toInt + l * ((b + s).toInt - b.toInt) := by
  have hword : lineAt b s l = BitVec.ofInt 64 (b.toInt + l * ((b + s).toInt - b.toInt)) := by
    rw [lineAt, BitVec.ofInt_add, BitVec.ofInt_mul, Int.sub_eq_add_neg, BitVec.ofInt_add, BitVec.ofInt_neg,
      BitVec.ofInt_toInt, BitVec.ofInt_toInt, BitVec.ofInt_natCast, ← BitVec.sub_eq_add_neg, BitVec.add_comm b s,
      BitVec.add_sub_cancel]
  rw [inS32_iff] at h0 h1
  have hd : |(b + s).toInt - b.toInt| ≤ 2 ^ 32 := abs_le.mpr ⟨by omega, by omega⟩
  have hld : |(l : Int) * ((b + s).toInt - b.toInt)| ≤ 64 * 2 ^ 32 := by
    rw [abs_mul, Nat.abs_cast]
    exact mul_le_mul (by omega) hd (abs_nonneg _) (by omega)
  obtain ⟨hlo, hhi⟩ := abs_le.mp hld
  rw [hword, BitVec.toInt_ofInt_eq_self (by omega)] <;> omega

/-- A line stands under `.w` exactly where it is in the range in every lane (03 R43). -/
theorem lineOk_eq_allS32 {b s : Word} {w : Nat} (hw : 2 ≤ w) (hw' : w ≤ 64) :
    lineOk true w (b, s) = allS32 b s w := by
  rw [Bool.eq_iff_iff]
  simp only [lineOk, allS32, Bool.not_true, Bool.false_or, Bool.and_eq_true, List.all_eq_true, List.mem_range,
    decide_eq_true_eq]
  constructor
  · rintro ⟨⟨h0, h1⟩, hlast⟩ l hl
    have hat := toInt_lineAt h0 h1 (show l < 64 by omega)
    have hend := toInt_lineAt h0 h1 (show w - 1 < 64 by omega)
    rw [inS32_iff] at h0 h1
    rw [show b + BitVec.ofNat 64 (w - 1) * s = lineAt b s (w - 1) from rfl, inS32_iff] at hlast
    rw [show b + BitVec.ofNat 64 l * s = lineAt b s l from rfl, hat]
    rw [hend] at hlast
    have hle : (l : Int) ≤ (w - 1 : Nat) := by omega
    rcases le_total 0 ((b + s).toInt - b.toInt) with hd | hd
    · have hl0 := mul_nonneg (Int.natCast_nonneg l) hd
      have hl1 := mul_le_mul_of_nonneg_right hle hd
      omega
    · have hl0 := mul_nonpos_of_nonneg_of_nonpos (Int.natCast_nonneg l) hd
      have hl1 := mul_le_mul_of_nonpos_right hle hd
      omega
  · intro h
    have h0 := h 0 (by omega)
    have h1 := h 1 (by omega)
    have hlast := h (w - 1) (by omega)
    rw [← inS32_iff] at h0 h1 hlast
    exact ⟨⟨by simpa using h0, by simpa using h1⟩, hlast⟩

/-! ### Shapes -/

theorem shapeOf_uniform_iff (v : RegVal) : (Claims.shapeOf v == .uniform) = v.isUniform := by cases v <;> rfl
theorem shapeOf_affine_iff (v : RegVal) : (Claims.shapeOf v == .affine) = v.isAffine := by cases v <;> rfl
theorem shapeOf_general_iff (v : RegVal) : (Claims.shapeOf v == .general) = v.isGeneral := by cases v <;> rfl

/-- The line of a value is its base and stride, and a general one has none. -/
theorem RegVal.line_eq (v : RegVal) : v.line = if v.isGeneral then none else some (lineOf v) := by cases v <;> rfl

section
variable {w : Nat} {w32 : Bool} {f : Nat → Word}

theorem held_shaped_line {b s : Word} (h : lineOk w32 w (b, s) = true) :
    (shaped w false w32 (some (b, s)) f).held w = .affine b s := by
  simp only [shaped, Bool.false_eq_true, if_false, if_pos h, RegVal.held]

theorem shapeOf_shaped_offLine {b s : Word} (h : lineOk w32 w (b, s) = false) :
    Claims.shapeOf ((shaped w false w32 (some (b, s)) f).held w) = .general := by
  simp only [shaped, Bool.false_eq_true, if_false, h, RegVal.held, Claims.shapeOf]

end

/-- What 03 R42 and R43 say of the shape of a result under a full mask, by the row of the table. -/
def RowShape (w : Nat) (uniform w32 : Bool) (row : Option (Bool × Word × Word)) (v : RegVal) : Prop :=
  (uniform = true → Claims.shapeOf v = .uniform)
  ∧ (uniform = false → ∀ aff b s, row = some (aff, b, s) →
      if aff = true ∧ (w32 = false ∨ allS32 b s w = true) then v = .affine b s else Claims.shapeOf v = .general)
  ∧ (uniform = false → row = none → Claims.shapeOf v = .general)

/-- A shaped result has the shape of its row, where its line is that of the row. -/
theorem shaped_rowShape {w : Nat} (hw : 2 ≤ w) (hw' : w ≤ 64) (uniform w32 : Bool) {ln : Option (Word × Word)}
    {row : Option (Bool × Word × Word)} (f : Nat → Word)
    (hln : uniform = false → ln = row.bind (fun x => if x.1 = true then some x.2 else none)) :
    RowShape w uniform w32 row ((shaped w uniform w32 ln f).held w) := by
  cases uniform with
  | true => exact ⟨fun _ => rfl, fun h => (nomatch h), fun h => (nomatch h)⟩
  | false =>
    obtain rfl := hln rfl
    refine ⟨fun h => (nomatch h), fun _ aff b s hrow => ?_, fun _ hrow => by rw [hrow]; rfl⟩
    rw [hrow, Option.bind_some]
    cases aff with
    | false => rw [if_neg (fun h => (nomatch h.1))]; rfl
    | true =>
      have hok : lineOk w32 w (b, s) = true ↔ w32 = false ∨ allS32 b s w = true := by
        cases w32 with
        | true => rw [lineOk_eq_allS32 hw hw']; simp
        | false => simp [lineOk]
      by_cases h : lineOk w32 w (b, s) = true
      · rw [if_pos ⟨rfl, hok.mp h⟩]
        exact held_shaped_line h
      · rw [if_neg (fun hc => h (hok.mpr hc.2))]
        exact shapeOf_shaped_offLine (by simpa using h)

end Sys2Proof.Machine
end

section
/-! SUPPORT. Integers of w bits: the model's values and those of 03 R41. -/

namespace Sys2Proof.Machine

open Sys2Proof.Claims

/-! ### Modulo 2^w -/

theorem ofInt_emod (n : Int) : BitVec.ofInt 64 (n % 2 ^ 64) = BitVec.ofInt 64 n := by
  refine BitVec.eq_of_toNat_eq ?_
  rw [BitVec.toNat_ofInt, BitVec.toNat_ofInt]
  exact congrArg Int.toNat (Int.emod_emod_of_dvd n (dvd_refl _))

/-- A 64-bit value is the number modulo 2^64. -/
theorem fit_full (u : Bool) (n : Int) : fit false u n = BitVec.ofInt 64 n := ofInt_emod n

theorem toNat_extend_unsigned (w : Bool) (x : Word) : (extend w true x).toNat = low w x := by
  cases w with
  | true => simp [extend, low, wid, BitVec.extractLsb'_toNat]; omega
  | false => simp only [extend, low, wid, Bool.false_eq_true, if_false, Nat.mod_eq_of_lt x.isLt]

/-- A left shift by any amount (03 R46). -/
theorem shlWord_eq_fit (x : Word) (n : Nat) : shlWord x n = fit false false ((x.toNat : Int) * 2 ^ n) := by
  have hcast : (x.toNat : Int) * 2 ^ n = ((x.toNat * 2 ^ n : Nat) : Int) := by push_cast; rfl
  rw [fit_full, hcast, BitVec.ofInt_natCast]
  refine BitVec.eq_of_toNat_eq ?_
  unfold shlWord
  split
  next h =>
    have hd : 2 ^ 64 ∣ x.toNat * 2 ^ n := Dvd.dvd.mul_left (pow_dvd_pow 2 h) _
    rw [BitVec.toNat_ofNat, Nat.mod_eq_zero_of_dvd hd]
    rfl
  next => rw [BitVec.toNat_shiftLeft, Nat.shiftLeft_eq, BitVec.toNat_ofNat]

end Sys2Proof.Machine
end

section
/-! PROOFS. The shapes of integer results (03 R42, R43). -/

namespace Sys2Proof.Proofs

open Sys2Proof Sys2Proof.Machine Sys2Proof.Claims

/-- Every source is uniform. -/
def allUniform (cx : Cx) (srcs : List Src) : Bool := srcs.all (fun x => Claims.shapeOf (cx.src x) == .uniform)

theorem allUniform_eq (cx : Cx) (srcs : List Src) : allUniform cx srcs = srcs.all (fun x => (cx.src x).isUniform) := by
  simp only [allUniform, shapeOf_uniform_iff]

/-- A word's outcome has a result in D whose shape is that of a row of the table. -/
def ShapedBy (cx : Cx) (srcs : List Src) (d : RegIx) (w32 : Bool) (row : Option (Bool × Word × Word))
    (o : Host.Outcome State Fault Refusal) : Prop :=
  ∃ t gt, o = .next t ∧ t.group? cx.gid = some gt ∧ RowShape cx.g.width (allUniform cx srcs) w32 row (gt.val d.toNat)

section
variable {s : State} {g : Guard} {srcs : List Src} {d : RegIx} {cx : Cx}

/-- Without a row `.w` makes no difference to the shape. -/
theorem ShapedBy.plain {w32 : Bool} {o : Host.Outcome State Fault Refusal} (h : ShapedBy cx srcs d w32 none o) (w : Bool) :
    ShapedBy cx srcs d w none o := by
  obtain ⟨t, gt, ho, hgt, hu, -, hn⟩ := h
  exact ⟨t, gt, ho, hgt, hu, fun _ _ _ _ hrow => (nomatch hrow), hn⟩

/-- A word of lane-wise values under a full mask. -/
theorem aluWord_shapedBy (hr : Ready s g (usesOf srcs [d]) cx) (hm : cx.eff = cx.g.full) (h8 : 8 ≤ cx.g.width)
    (h64 : cx.g.width ≤ 64) (f : Cx → RegVal) (w32 : Bool) {ln : Option (Word × Word)} {v : Nat → Word}
    (hf : f (cx.fetched (usesOf srcs [d])) = shaped cx.g.width (allUniform cx srcs) w32 ln v)
    {row : Option (Bool × Word × Word)}
    (hln : allUniform cx srcs = false → ln = row.bind (fun x => if x.1 = true then some x.2 else none)) :
    ShapedBy cx srcs d w32 row (aluWord g srcs d f s) := by
  have h0 : cx.eff ≠ 0 := by
    intro hz
    have h1 : laneIn cx.eff 0 = true := by
      rw [hm, Group.full, laneIn_fullMask]
      simp; omega
    rw [hz] at h1
    exact absurd h1 (by decide)
  obtain ⟨t, gt, hx, hgt, hv⟩ := aluWord_full hr h0 hm f
  refine ⟨t, gt, hx, hgt, ?_⟩
  rw [hv, hf]
  exact shaped_rowShape (by omega) h64 _ w32 v hln

/-- What a row of the table gives as a line. -/
def rowLine (row : Option (Bool × Word × Word)) : Option (Word × Word) :=
  row.bind (fun x => if x.1 = true then some x.2 else none)

/-- An integer result reads its sources as they were before they were made resident. -/
theorem intResult_fetched (cx : Cx) (u : Uses) (w32 : Bool) (r : LineRule) (a b c : Src) (f : Word → Word → Word → Word) :
    intResult w32 r a b c f (cx.fetched u) = shaped cx.g.width (allUniform cx [a, b, c]) w32
      (r.apply (cx.src a) (cx.src b) (cx.src c)) (fun l => f ((cx.src a).lane l) ((cx.src b).lane l) ((cx.src c).lane l)) := by
  simp only [intResult, fetched_src, Cx.w, fetched_width, allUniform_eq, List.all_cons, List.all_nil, Bool.and_true,
    Bool.and_assoc]

theorem allUniform_noSrc (cx : Cx) (srcs : List Src) : allUniform cx (srcs ++ [noSrc]) = allUniform cx srcs := by
  rw [allUniform_eq, allUniform_eq, List.all_append]
  exact Bool.and_true _

section
variable {a b c : Src} {row : Option (Bool × Word × Word)} (hm : cx.eff = cx.g.full) (h8 : 8 ≤ cx.g.width)
  (h64 : cx.g.width ≤ 64) (w32 : Bool) (r : LineRule)
include hm h8 h64

theorem intWord3_shapedBy (hr : Ready s g (usesOf [a, b, c] [d]) cx) (f : Word → Word → Word → Word)
    (hln : allUniform cx [a, b, c] = false → r.apply (cx.src a) (cx.src b) (cx.src c) = rowLine row) :
    ShapedBy cx [a, b, c] d w32 row (intWord3 g w32 r d a b c f s) :=
  aluWord_shapedBy hr hm h8 h64 _ w32 (intResult_fetched cx _ w32 r a b c f) hln

theorem intWord2_shapedBy (hr : Ready s g (usesOf [a, b] [d]) cx) (f : Word → Word → Word)
    (hln : allUniform cx [a, b] = false → r.apply (cx.src a) (cx.src b) (cx.src noSrc) = rowLine row) :
    ShapedBy cx [a, b] d w32 row (intWord2 g w32 r d a b f s) := by
  have hf := intResult_fetched cx (usesOf [a, b] [d]) w32 r a b noSrc (fun x y _ => f x y)
  rw [show [a, b, noSrc] = [a, b] ++ [noSrc] from rfl, allUniform_noSrc] at hf
  exact aluWord_shapedBy hr hm h8 h64 _ w32 hf hln

theorem intWord1_shapedBy (hr : Ready s g (usesOf [a] [d]) cx) (f : Word → Word)
    (hln : allUniform cx [a] = false → r.apply (cx.src a) (cx.src noSrc) (cx.src noSrc) = rowLine row) :
    ShapedBy cx [a] d w32 row (intWord1 g w32 r d a f s) := by
  have hf := intResult_fetched cx (usesOf [a] [d]) w32 r a noSrc noSrc (fun x _ _ => f x)
  rw [show [a, noSrc, noSrc] = [a] ++ [noSrc] ++ [noSrc] from rfl, allUniform_noSrc, allUniform_noSrc] at hf
  exact aluWord_shapedBy hr hm h8 h64 _ w32 hf hln
end

/-! ### The rows of the table (03 R42) -/

/-- Where not every source is uniform, one is affine if none is general. -/
theorem linear_of_mixed {srcs : List Src} (hu : allUniform cx srcs = false) :
    (srcs.all (fun x => Claims.shapeOf (cx.src x) != .general) && srcs.any (fun x => Claims.shapeOf (cx.src x) == .affine))
      = !srcs.any (fun x => (cx.src x).isGeneral) := by
  simp only [bne, shapeOf_general_iff, shapeOf_affine_iff, List.not_any_eq_all_not]
  rw [allUniform_eq, List.all_eq_false] at hu
  obtain ⟨x, hx, hux⟩ := hu
  cases hg : srcs.all (fun x => !(cx.src x).isGeneral) with
  | false => rfl
  | true =>
    have hgx := List.all_eq_true.mp hg x hx
    rw [Bool.true_and, List.any_eq_true]
    refine ⟨x, hx, ?_⟩
    cases hv : cx.src x <;> simp [hv, RegVal.isUniform, RegVal.isGeneral, RegVal.isAffine] at hux hgx ⊢

/-- A uniform value has stride 0. -/
theorem lineOf_stride {v : RegVal} (h : v.isUniform = true) : (lineOf v).2 = 0 := by
  cases v with
  | unwritten => rfl
  | uniform u => rfl
  | affine b st => cases h
  | general xs => cases h

/-- The line of a product: neither factor is general and one is uniform. -/
theorem mulLine_eq (x y : RegVal) : mulLine x y =
    if (!(x.isGeneral || y.isGeneral) && (x.isUniform || y.isUniform)) = true then
      some ((lineOf x).1 * (lineOf y).1, (lineOf x).2 * (lineOf y).1 + (lineOf x).1 * (lineOf y).2)
    else none := by
  simp only [mulLine, RegVal.line_eq]
  cases hgx : x.isGeneral with
  | true => simp
  | false =>
    cases hgy : y.isGeneral with
    | true => simp
    | false =>
      cases huy : y.isUniform with
      | true => simp [lineOf_stride huy]
      | false =>
        cases hux : x.isUniform with
        | true => simp [lineOf_stride hux]
        | false => simp

section
variable {w : Bool} {a b c : Src} (z : RegVal)

theorem addRule_row (hu : allUniform cx [a, b] = false) :
    LineRule.add.apply (cx.src a) (cx.src b) z = rowLine (affineRow (.iadd g w d a b) cx) := by
  simp only [affineRow, rowLine, LineRule.apply, linear_of_mixed hu, RegVal.line_eq]
  cases hga : (cx.src a).isGeneral <;> cases hgb : (cx.src b).isGeneral <;> simp [hga, hgb]

theorem subRule_row (hu : allUniform cx [a, b] = false) :
    LineRule.sub.apply (cx.src a) (cx.src b) z = rowLine (affineRow (.isub g w d a b) cx) := by
  simp only [affineRow, rowLine, LineRule.apply, linear_of_mixed hu, RegVal.line_eq]
  cases hga : (cx.src a).isGeneral <;> cases hgb : (cx.src b).isGeneral <;> simp [hga, hgb]

theorem mulRule_row (hu : allUniform cx [a, b] = false) :
    LineRule.mul.apply (cx.src a) (cx.src b) z = rowLine (affineRow (.imul g w d a b) cx) := by
  simp only [affineRow, rowLine, LineRule.apply, linear_of_mixed hu, mulLine_eq, shapeOf_uniform_iff, Option.bind_some]
  simp only [List.any_cons, List.any_nil, Bool.or_false]

theorem madRule_row (hu : allUniform cx [a, b, c] = false) :
    LineRule.mad.apply (cx.src a) (cx.src b) (cx.src c) = rowLine (affineRow (.imad g w d a b c) cx) := by
  simp only [affineRow, rowLine, LineRule.apply, linear_of_mixed hu, mulLine_eq, shapeOf_uniform_iff, Option.bind_some,
    RegVal.line_eq]
  simp only [List.any_cons, List.any_nil, Bool.or_false]
  cases hgc : (cx.src c).isGeneral with
  | true => simp
  | false =>
    simp only [Bool.or_false, Bool.false_eq_true, if_false]
    cases !((cx.src a).isGeneral || (cx.src b).isGeneral) && ((cx.src a).isUniform || (cx.src b).isUniform) <;> rfl

/-- A value that is not uniform is affine, or general and without a line. -/
theorem affine_of_mixed (hu : allUniform cx [a] = false) :
    (Claims.shapeOf (cx.src a) == .affine) = !(cx.src a).isGeneral := by
  rw [allUniform_eq] at hu
  rw [shapeOf_affine_iff]
  cases hv : cx.src a <;> simp [hv, RegVal.isUniform] at hu ⊢ <;> rfl

theorem negRule_row (hu : allUniform cx [a] = false) :
    LineRule.neg.apply (cx.src a) z z = rowLine (affineRow (.ineg g w d a) cx) := by
  simp only [affineRow, rowLine, LineRule.apply, affine_of_mixed hu, RegVal.line_eq, Option.bind_some]
  cases hga : (cx.src a).isGeneral <;> simp

theorem copyRule_row (hu : allUniform cx [a] = false) :
    LineRule.copy.apply (cx.src a) z z = rowLine (affineRow (.mov g w d a) cx) := by
  simp only [affineRow, rowLine, LineRule.apply, affine_of_mixed hu, RegVal.line_eq, Option.bind_some]
  cases hga : (cx.src a).isGeneral <;> simp

/-- lea adds its offset to the line of its source (03 R50). -/
theorem leaRule_row {off : BitVec 32} (hu : allUniform cx [a] = false) :
    LineRule.add.apply (cx.src a) (cx.src (.imm (off.signExtend 64))) z = rowLine (affineRow (.lea g d a off) cx) := by
  simp only [affineRow, rowLine, LineRule.apply, affine_of_mixed hu, RegVal.line_eq (cx.src a), Option.bind_some]
  cases hga : (cx.src a).isGeneral with
  | true => simp
  | false => simp [Cx.src, srcVal, RegVal.line]

/-- shl shifts the line of an affine A by a uniform amount (03 R42, R46). -/
theorem shlRule_row (hu : allUniform cx [a, b] = false) (n : RegVal)
    (hn : n = if (cx.src b).isUniform then .uniform (extend w true ((cx.src b).lane 0)) else cx.src b) :
    LineRule.shl.apply (cx.src a) n n = rowLine (affineRow (.shl g w d a b) cx) := by
  subst hn
  simp only [affineRow, rowLine, Option.bind_some, shapeOf_affine_iff, shapeOf_uniform_iff]
  cases hub : (cx.src b).isUniform with
  | false =>
    cases hb : cx.src b <;> simp [hb, RegVal.isUniform, LineRule.apply] at hub ⊢
  | true =>
    have hlane : (cx.src b).lane 0 = (lineOf (cx.src b)).1 := by
      cases hb : cx.src b <;> simp [hb, RegVal.isUniform] at hub <;> rfl
    have ha : allUniform cx [a] = false := by
      rw [allUniform_eq] at hu ⊢
      simpa [hub] using hu
    rw [← shapeOf_affine_iff, affine_of_mixed ha, hlane]
    simp only [if_true, LineRule.apply, RegVal.line_eq, shlWord_eq_fit]
    cases hga : (cx.src a).isGeneral with
    | true => rfl
    | false => simp only [Bool.false_eq_true, if_false, toNat_extend_unsigned, Bool.not_false, Bool.and_true, if_true]

end

/-! ### The words -/

/-- The line that shl shifts by: a uniform amount of w bits (03 R42). -/
def shlAmount (w : Bool) (y : RegVal) : RegVal := if y.isUniform then .uniform (extend w true (y.lane 0)) else y

/-- The result of shl with its shape. -/
def shlResult (w : Bool) (a b : Src) (cx : Cx) : RegVal :=
  shaped cx.w ((cx.src a).isUniform && (cx.src b).isUniform) w
    (LineRule.shl.apply (cx.src a) (shlAmount w (cx.src b)) (shlAmount w (cx.src b)))
    (fun l => valShl w ((cx.src a).lane l) ((cx.src b).lane l))

theorem exec_shl (w : Bool) (a b : Src) (s : State) :
    exec (.shl g w d a b) s = aluWord g [a, b] d (shlResult w a b) s := rfl

theorem shlResult_fetched (cx : Cx) (u : Uses) (w : Bool) (a b : Src) :
    shlResult w a b (cx.fetched u) = shaped cx.g.width (allUniform cx [a, b]) w
      (LineRule.shl.apply (cx.src a) (shlAmount w (cx.src b)) (shlAmount w (cx.src b)))
      (fun l => valShl w ((cx.src a).lane l) ((cx.src b).lane l)) := by
  simp only [shlResult, fetched_src, Cx.w, fetched_width, allUniform_eq, List.all_cons, List.all_nil, Bool.and_true]

section
variable {a b c : Src} (hm : cx.eff = cx.g.full) (h8 : 8 ≤ cx.g.width) (h64 : cx.g.width ≤ 64)
include hm h8 h64

theorem shl_shapedBy (hr : Ready s g (usesOf [a, b] [d]) cx) (w : Bool) :
    ShapedBy cx [a, b] d w (affineRow (.shl g w d a b) cx) (exec (.shl g w d a b) s) := by
  rw [exec_shl]
  exact aluWord_shapedBy hr hm h8 h64 (shlResult w a b) w (shlResult_fetched cx _ w a b)
    (fun hu => shlRule_row hu _ rfl)

theorem lea_shapedBy (hr : Ready s g (usesOf [a] [d]) cx) (off : BitVec 32) :
    ShapedBy cx [a] d false (affineRow (.lea g d a off) cx) (exec (.lea g d a off) s) := by
  have hf := intResult_fetched cx (usesOf [a] [d]) false .add a (.imm (off.signExtend 64)) noSrc (fun x y _ => x + y)
  have hu : allUniform cx [a, .imm (off.signExtend 64), noSrc] = allUniform cx [a] := by
    rw [allUniform_eq, allUniform_eq]
    rfl
  rw [hu] at hf
  exact aluWord_shapedBy hr hm h8 h64 _ false hf (leaRule_row _)

/-- Words without a row of the table, by their sources. -/
theorem plain3_shapedBy (hr : Ready s g (usesOf [a, b, c] [d]) cx) (w w' : Bool) (f : Word → Word → Word → Word) :
    ShapedBy cx [a, b, c] d w' none (intWord3 g w .never d a b c f s) :=
  (intWord3_shapedBy hm h8 h64 w .never hr f (fun _ => rfl)).plain w'

theorem plain2_shapedBy (hr : Ready s g (usesOf [a, b] [d]) cx) (w w' : Bool) (f : Word → Word → Word) :
    ShapedBy cx [a, b] d w' none (intWord2 g w .never d a b f s) :=
  (intWord2_shapedBy hm h8 h64 w .never hr f (fun _ => rfl)).plain w'

theorem plain1_shapedBy (hr : Ready s g (usesOf [a] [d]) cx) (w w' : Bool) (f : Word → Word) :
    ShapedBy cx [a] d w' none (intWord1 g w .never d a f s) :=
  (intWord1_shapedBy hm h8 h64 w .never hr f (fun _ => rfl)).plain w'

/-- movi has no source but its immediate, which is uniform. -/
theorem movi_shapedBy (v : Word) (hr : Ready s g (usesOf [.imm v] [d]) cx) (w w' : Bool) :
    ShapedBy cx [.imm v] d w' none (exec (.movi g w d v) s) :=
  (intWord1_shapedBy hm h8 h64 w .copy hr (fun x => extend w false x) (fun hu => (nomatch hu))).plain w'
end

end

/-- A result of the shape of its row, for each word of the table. -/
theorem intForm_shapedBy {i : Instr} {f : IntForm} {s : State} {cx : Cx} (hf : intForm i = some f)
    (hr : Ready s f.w (usesOf f.srcs [f.d]) cx) (hm : cx.eff = cx.g.full) (h8 : 8 ≤ cx.g.width) (h64 : cx.g.width ≤ 64) :
    ShapedBy cx f.srcs f.d (isW i) (affineRow i cx) (exec i s) := by
  unfold intForm at hf
  split at hf
  case h_1 g w d a b =>
    obtain rfl := Option.some.inj hf
    exact intWord2_shapedBy hm h8 h64 w .add hr _ (addRule_row _)
  case h_2 g w d a b =>
    obtain rfl := Option.some.inj hf
    exact intWord2_shapedBy hm h8 h64 w .sub hr _ (subRule_row _)
  case h_3 g w d a b =>
    obtain rfl := Option.some.inj hf
    exact intWord2_shapedBy hm h8 h64 w .mul hr _ (mulRule_row _)
  case h_5 g w d a b c =>
    obtain rfl := Option.some.inj hf
    exact intWord3_shapedBy hm h8 h64 w .mad hr _ madRule_row
  case h_11 g w d a =>
    obtain rfl := Option.some.inj hf
    exact intWord1_shapedBy hm h8 h64 w .neg hr _ (negRule_row _)
  case h_17 g w d a b =>
    obtain rfl := Option.some.inj hf
    exact shl_shapedBy hm h8 h64 hr w
  case h_26 g w d a =>
    obtain rfl := Option.some.inj hf
    exact intWord1_shapedBy hm h8 h64 w .copy hr _ (copyRule_row _)
  case h_27 g w d v =>
    obtain rfl := Option.some.inj hf
    exact movi_shapedBy hm h8 h64 v hr w false
  case h_28 g d a off =>
    obtain rfl := Option.some.inj hf
    exact lea_shapedBy hm h8 h64 hr off
  case h_10 | h_16 | h_21 | h_22 | h_23 =>
    obtain rfl := Option.some.inj hf
    exact plain1_shapedBy hm h8 h64 hr _ _ _
  case h_4 | h_6 | h_7 | h_8 | h_9 | h_12 | h_13 | h_14 | h_15 | h_18 | h_19 | h_20 | h_24 | h_30 =>
    obtain rfl := Option.some.inj hf
    exact plain2_shapedBy hm h8 h64 hr _ _ _
  case h_25 | h_29 =>
    obtain rfl := Option.some.inj hf
    exact plain3_shapedBy hm h8 h64 hr _ _ _
  case h_31 => cases hf

/-- Settles O9: each word's line is that of its row, and the line stands under `.w` where all its lanes are in the range. -/
theorem integerShapes : Obligations.IntegerShapes := by
  unfold Obligations.IntegerShapes
  intro i f s cx hf _ hr hm h8 h64
  exact intForm_shapedBy hf hr hm h8 h64

end Sys2Proof.Proofs
end

section
/-! PROOFS. Where the values of 03 R41 to R47 fail: a line under `.w` in a group of more than 2^32 lanes, which no launch has
(03 R43 reads only lanes 0, 1 and W − 1). -/

namespace Sys2Proof.Proofs

open Sys2Proof Sys2Proof.Machine Sys2Proof.Claims

/-- A group as its launch starts it, but of 2^34 + 1 lanes: lane W − 1 of a line of stride 2^30 is lane 0 again. -/
def wideGroup : Machine.Group := { newGroup oneLaunch oneCore 0 with width := 2 ^ 34 + 1 }

/-- The machine of that group. -/
def wideState : State := (State.reset.withFetchWord 128 0).setGroup oneGroup wideGroup

/-- The word at hand in it: every lane of the path takes it. -/
def wideCx : Cx where
  gid := oneGroup
  slot := 0
  g := wideGroup
  p := Path.start 0 (fullMask 64) none
  l := oneLaunch
  ctx := 0
  eff := fullMask 64
  named := [0]

/-- imul.w v0, lane, 2^30 -/
def wideWord : Instr := .imul Guard.every true 0 (.spec .lane) (.imm 0x40000000)

theorem wide_ready : Ready wideState Guard.every (usesOf [.spec .lane, .imm 0x40000000] [0]) wideCx where
  here := by decide
  slots := by decide
  free := by decide
  uncaptured := by decide
  memory := by decide
  tidy := by decide

/-- The mask of 64 lanes is that of every wider group. -/
theorem fullMask_of_le {n : Nat} (h : 64 ≤ n) : fullMask n = fullMask 64 := by
  refine BitVec.eq_of_getLsbD_eq (fun l hl => ?_)
  have hn := laneIn_fullMask n l
  have h64 := laneIn_fullMask 64 l
  rw [laneIn] at hn h64
  rw [hn, h64]
  simp [hl, show l < n by omega]

/-- Under a full mask, what the machine leaves in v0 is a line, though the word's values wrap from lane 2 on. -/
theorem wideWord_writes : ∃ t gt, exec wideWord wideState = .next t ∧ t.group? wideCx.gid = some gt
    ∧ gt.val 0 = .affine 0 0x40000000 := by
  have hfull : wideCx.eff = wideCx.g.full := (fullMask_of_le (by decide)).symm
  obtain ⟨t, gt, hx, hgt, hv⟩ := aluWord_full wide_ready (by decide) hfull
    (intResult true .mul (.spec .lane) (.imm 0x40000000) noSrc (fun x y _ => extend true false (x * y)))
  refine ⟨t, gt, hx, hgt, hv.trans ?_⟩
  rw [intResult_fetched, show allUniform wideCx [.spec .lane, .imm 0x40000000, noSrc] = false from rfl,
    show LineRule.mul.apply (wideCx.src (.spec .lane)) (wideCx.src (.imm 0x40000000)) (wideCx.src noSrc)
      = some (0, 0x40000000) from rfl]
  exact held_shaped_line (by decide)

/-- Refutes O8: in a group of 2^34 + 1 lanes, imul.w of `lane` by 2^30 has lanes 0, 1 and W − 1 in the signed 32-bit range,
so its line stands, and lane 2 holds 2^31 where the value of 03 R41 is −2^31. -/
theorem not_integerResults : ¬ Obligations.IntegerResults := by
  unfold Obligations.IntegerResults
  intro h
  obtain ⟨t, gt, hx, hw⟩ := h wideWord _ wideState wideCx rfl (by decide) wide_ready
  obtain ⟨t', gt', hx', hgt', hv⟩ := wideWord_writes
  obtain rfl : t = t' := Host.Outcome.next.inj (hx.symm.trans hx')
  obtain rfl : gt = gt' := Option.some.inj (hw.next.group.symm.trans hgt')
  have hlane := hw.value 2 (by decide) (by decide)
  rw [show (0 : RegIx).toNat = 0 from rfl, hv] at hlane
  exact absurd hlane (by decide)

end Sys2Proof.Proofs
end

section
/-! PROOFS. Where the values of 03 R49 fail: sel keeps the line of its operand under `.w`, in a group of more than 2^32
lanes, which no launch has (03 R43 reads only lanes 0, 1 and W − 1). -/

namespace Sys2Proof.Proofs

open Sys2Proof Sys2Proof.Machine Sys2Proof.Claims

/-- The group of 2^34 + 1 lanes with a line of stride 2^30 in v0. -/
def linedGroup : Machine.Group := { wideGroup with regs := [(0, .affine 0 0x40000000)] }

/-- The machine of that group. -/
def linedState : State := wideState.setGroup oneGroup linedGroup

/-- The word at hand in it. -/
def linedCx : Cx := { wideCx with g := linedGroup, named := [0, 0, 1] }

/-- sel.w v1, v0, v0, p7 -/
def linedWord : Instr := .sel Guard.every true 1 (.reg 0) (.reg 0) 7

theorem lined_ready : Ready linedState Guard.every (usesOf [.reg 0, .reg 0] [1]) linedCx where
  here := by decide
  slots := by decide
  free := by decide
  uncaptured := by decide
  memory := by decide
  tidy := by decide

/-- sel reads its operands as they were before they were made resident. -/
theorem selResult_fetched (cx : Cx) (u : Uses) (w32 : Bool) (a b : Src) (p : PredIx) :
    selResult w32 a b p (cx.fetched u) = selResult w32 a b p cx := by
  simp only [selResult, fetched_src, fetched_pred, Cx.w, fetched_width, Machine.Group.full]
  rfl

/-- With p7 true in every lane sel copies the line of v0, though the word's values wrap from lane 2 on. -/
theorem linedWord_writes : ∃ t gt, exec linedWord linedState = .next t ∧ t.group? linedCx.gid = some gt
    ∧ gt.val 1 = .affine 0 0x40000000 := by
  have hfull : linedCx.g.full = fullMask 64 := fullMask_of_le (by decide)
  obtain ⟨t, gt, hx, hgt, hv⟩ := aluWord_full lined_ready (by decide) hfull.symm (selResult true (.reg 0) (.reg 0) 7)
  refine ⟨t, gt, hx, hgt, hv.trans ?_⟩
  rw [selResult_fetched, selResult, hfull]
  exact held_shaped_line (by decide)

theorem not_readResults : ¬ Claims.ReadResults := by
  intro h
  obtain ⟨t, gt, hx, hw⟩ := h linedWord _ linedState linedCx rfl (by decide) lined_ready
  obtain ⟨t', gt', hx', hgt', hv⟩ := linedWord_writes
  obtain rfl : t = t' := Host.Outcome.next.inj (hx.symm.trans hx')
  obtain rfl : gt = gt' := Option.some.inj (hw.next.group.symm.trans hgt')
  have hlane := hw.value 2 (by decide) (by decide)
  rw [show (1 : RegIx).toNat = 1 from rfl, hv] at hlane
  exact absurd hlane (by decide)

/-- Refutes O25: in a group of 2^34 + 1 lanes, sel.w of a line of stride 2^30 has lanes 0, 1 and W − 1 in the signed 32-bit
range, so the line stands in D, and lane 2 holds 2^31 where the value of 03 R49 is −2^31. -/
theorem not_registerResults : ¬ Obligations.RegisterResults := fun ⟨_, _, h⟩ => not_readResults h

end Sys2Proof.Proofs
end
section
/-! SUPPORT. Event counters, which stop at all ones, and values with their events (04 R81). -/

namespace Sys2Proof.Machine

theorem toNat_satAdd {n : Nat} (c : BitVec n) (k : Nat) : (satAdd c k).toNat = min (c.toNat + k) (2 ^ n - 1) := by
  have hp : 0 < 2 ^ n := Nat.two_pow_pos n
  rw [satAdd, BitVec.toNat_ofNat, Nat.mod_eq_of_lt (by omega)]

theorem satAdd_comm {n : Nat} (a b : BitVec n) : satAdd a b.toNat = satAdd b a.toNat :=
  BitVec.eq_of_toNat_eq (by rw [toNat_satAdd, toNat_satAdd, Nat.add_comm])

theorem satAdd_assoc {n : Nat} (a b c : BitVec n) :
    satAdd (satAdd a b.toNat) c.toNat = satAdd a (satAdd b c.toNat).toNat :=
  BitVec.eq_of_toNat_eq (by simp only [toNat_satAdd]; omega)

theorem satAdd_zero {n : Nat} (a : BitVec n) : satAdd a (0 : BitVec n).toNat = a :=
  BitVec.eq_of_toNat_eq (by
    have ha := a.isLt
    rw [toNat_satAdd, show (0 : BitVec n).toNat = 0 from by simp]
    omega)

namespace Counts

theorem add_comm (a b : Counts) : a.add b = b.add a := by
  simp only [Counts.add, satAdd_comm]

theorem add_assoc (a b c : Counts) : (a.add b).add c = a.add (b.add c) := by
  simp only [Counts.add, satAdd_assoc]

@[simp] theorem add_zero (a : Counts) : a.add zero = a := by
  simp only [Counts.add, zero, satAdd_zero]

@[simp] theorem zero_add (a : Counts) : zero.add a = a := by
  rw [add_comm, add_zero]

@[simp] theorem sum_nil : sum [] = zero := rfl

@[simp] theorem sum_cons (c : Counts) (cs : List Counts) : sum (c :: cs) = c.add (sum cs) := by
  have h (a b : Counts) : cs.foldl Counts.add (a.add b) = a.add (cs.foldl Counts.add b) := by
    induction cs generalizing b with
    | nil => rfl
    | cons d cs ih => rw [List.foldl_cons, List.foldl_cons, add_assoc, ih]
  rw [sum, List.foldl_cons, zero_add, sum, ← h, add_zero]

theorem sum_append (xs ys : List Counts) : sum (xs ++ ys) = (sum xs).add (sum ys) := by
  induction xs with
  | nil => simp
  | cons x xs ih => rw [List.cons_append, sum_cons, ih, sum_cons, add_assoc]

/-- The order in which events are added makes no difference. -/
theorem sum_perm {xs ys : List Counts} (h : xs.Perm ys) : sum xs = sum ys := by
  induction h with
  | nil => rfl
  | cons x _ ih => rw [sum_cons, sum_cons, ih]
  | swap x y l => simp only [sum_cons, ← add_assoc, add_comm x y]
  | trans _ _ ih1 ih2 => exact ih1.trans ih2

/-- What has no events may be left out of a sum. -/
theorem sum_map_filter {α : Type} (p : α → Bool) (f : α → Counts) (xs : List α)
    (h : ∀ x ∈ xs, p x = false → f x = zero) : sum ((xs.filter p).map f) = sum (xs.map f) := by
  induction xs with
  | nil => rfl
  | cons x xs ih =>
    have ih := ih (fun y hy => h y (.tail _ hy))
    cases hp : p x with
    | true => rw [List.filter_cons_of_pos hp, List.map_cons, List.map_cons, sum_cons, sum_cons, ih]
    | false =>
      rw [List.filter_cons_of_neg (by simp [hp]), List.map_cons, sum_cons, ih, h x (.head _) hp, zero_add]

end Counts

namespace Tallied
variable {α β γ : Type}

theorem eq_of {x y : Tallied α} (hv : x.val = y.val) (hc : x.cnt = y.cnt) : x = y := by
  cases x
  cases y
  obtain rfl : _ = _ := hv
  obtain rfl : _ = _ := hc
  rfl

@[simp] theorem val_pure (x : α) : (Tallied.pure x).val = x := rfl
@[simp] theorem cnt_pure (x : α) : (Tallied.pure x).cnt = Counts.zero := rfl
@[simp] theorem val_bind (x : Tallied α) (f : α → Tallied β) : (x.bind f).val = (f x.val).val := rfl
@[simp] theorem cnt_bind (x : Tallied α) (f : α → Tallied β) : (x.bind f).cnt = x.cnt.add (f x.val).cnt := rfl

@[simp] theorem pure_bind (x : α) (f : α → Tallied β) : (Tallied.pure x).bind f = f x :=
  eq_of rfl (Counts.zero_add _)

theorem bind_assoc (x : Tallied α) (f : α → Tallied β) (g : β → Tallied γ) :
    (x.bind f).bind g = x.bind (fun a => (f a).bind g) := eq_of rfl (Counts.add_assoc _ _ _)

end Tallied

end Sys2Proof.Machine
end
section
/-! SUPPORT. How a word completes whose effect has changed its group beside its paths (01 R27, R28, 08 R193, R195). -/

namespace Sys2Proof.Machine

/-! ### What issuing leaves of the results in flight and of the performance counters -/

/-- Of the group's performance counters, only those listed may differ. -/
structure Group.Counted (ns : List Nat) (g h : Group) : Prop where
  rising : Sparse.rising 0 g.perf = true → Sparse.rising 0 h.perf = true
  same : Sparse.rising 0 g.perf = true → ∀ n, n ∉ ns → h.perfCount n = g.perfCount n

namespace Group
variable {g h k : Group} {ns : List Nat}

theorem Counted.of_perf (hp : h.perf = g.perf) : Counted ns g h :=
  ⟨fun hg => by rwa [hp], fun _ n _ => by simp only [Group.perfCount, hp]⟩

theorem Counted.trans (h1 : Counted ns g h) (h2 : Counted ns h k) : Counted ns g k :=
  ⟨fun hg => h2.rising (h1.rising hg), fun hg n hn => (h2.same (h1.rising hg) n hn).trans (h1.same hg n hn)⟩

theorem Counted.mono {ms : List Nat} (h1 : Counted ns g h) (hs : ns ⊆ ms) : Counted ms g h :=
  ⟨h1.rising, fun hg n hn => h1.same hg n (fun hm => hn (hs hm))⟩

theorem bump_counted (g : Group) {n : Nat} (k : Nat) (hn : n ∈ ns) : Counted ns g (g.bump n k) :=
  ⟨fun hg => Sparse.rising_put _ _ _ _ hg,
    fun hg _ hm => Sparse.get_put_other _ _ _ _ _ (fun he => hm (he ▸ hn)) hg⟩

theorem spillVictim_counted (g : Group) (named : List Nat) : Counted [2] g (g.spillVictim named) := by
  unfold Group.spillVictim
  split
  · have hb := bump_counted (ns := [2]) g 1 (List.mem_singleton_self 2)
    exact ⟨hb.rising, hb.same⟩
  · exact .of_perf rfl

theorem allocate_counted (g : Group) (named : List Nat) (run : Bool) (v : Nat) : Counted [2] g (g.allocate named run v) := by
  unfold Group.allocate
  split
  · exact .of_perf rfl
  · split
    · split
      · exact .of_perf rfl
      · exact (spillVictim_counted g named).trans (.of_perf rfl)
    · exact .of_perf rfl

theorem materialise_counted (g : Group) (named : List Nat) (run : Bool) (v : Nat) :
    Counted [2] g (g.materialise named run v) := by
  unfold Group.materialise
  split
  · exact .of_perf rfl
  · exact (allocate_counted g named run v).trans (.of_perf rfl)

/-- A result counts a spill or a materialisation at most (08 R193, R195). -/
theorem writeResult_counted (g : Group) (named : List Nat) (run : Bool) (v : Nat) (m : Word) (r : RegVal) :
    Counted [2, 7] g (g.writeResult named run v m r) := by
  have hsub : [2] ⊆ [2, 7] := by simp
  unfold Group.writeResult
  split
  · exact .of_perf rfl
  · split
    · split
      · refine .trans (h := ite _ _ _) ?_ (.of_perf rfl)
        split
        · exact .of_perf rfl
        · exact (allocate_counted g named run v).mono hsub
      · exact .of_perf rfl
    · refine .trans (h := Group.materialise (ite _ _ _) named run v) ?_ (.of_perf rfl)
      refine .trans (h := ite _ _ _) ?_ ((materialise_counted _ _ _ _).mono hsub)
      split
      · exact .of_perf rfl
      · exact bump_counted g 1 (by simp)

theorem trim_counted (g : Group) : Counted [2] g g.trim :=
  foldl_keeps (fun h => Counted [2] g h) _ (fun h _ hh => hh.trans (spillVictim_counted h [])) _ g (.of_perf rfl)

@[simp] theorem perf_setPath (g : Group) (n : Nat) (p : Option Path) : (g.setPath n p).perf = g.perf := by
  unfold Group.setPath
  split <;> rfl

@[simp] theorem perf_touch (g : Group) (rs : List Nat) : (g.touch rs).perf = g.perf := by
  unfold Group.touch
  split <;> rfl

theorem perf_refill_rising (g : Group) (named outside : List Nat) (hg : Sparse.rising 0 g.perf = true) :
    Sparse.rising 0 (g.refill named outside).perf = true := by
  refine foldl_keeps (fun h => Sparse.rising 0 h.perf = true) _ (fun h r hh => ?_) outside g hg
  split
  · split
    · exact (spillVictim_counted h named).rising hh
    · exact hh
  · exact hh

@[simp] theorem flight_setPath (g : Group) (n : Nat) (p : Option Path) : (g.setPath n p).flight = g.flight := by
  unfold Group.setPath
  split <;> rfl

@[simp] theorem flight_trim (g : Group) : g.trim.flight = g.flight := by
  refine foldl_keeps (fun h => h.flight = g.flight) _ (fun h _ hh => Eq.trans ?_ hh) _ g rfl
  have hf := congrArg Group.flight (spillVictim_frame h [])
  exact hf

section
variable (cx : Cx) (w : Guard) (u : Uses) (keep : Option (Nat × RegVal)) (pc : Option Word) {p : Path}

/-- A word covers the results in flight where it carries a park marker (01 R28). -/
theorem flight_finished (hp : g.path cx.slot = some p) :
    (g.finished cx w u keep pc).flight = if w.k then g.flight.map (coverFor cx.slot) else g.flight := by
  rw [finished_eq cx w u keep pc hp, flight_trim, flight_setPath, flight_setPath]

/-- A word counts itself, and spills (07 R181, 08 R195). -/
theorem finished_counted (hp : g.path cx.slot = some p) : Counted [2, 3] g (g.finished cx w u keep pc) := by
  rw [finished_eq cx w u keep pc hp]
  refine .trans ?_ ((trim_counted _).mono (by simp))
  refine .trans (.trans (h := (g.touch u.named).bump 3 1) ?_ (.of_perf rfl)) (.of_perf ?_)
  · exact .trans (.of_perf (perf_touch g _)) (bump_counted _ 1 (by simp))
  · simp
end

theorem onlyRegs.trans (h1 : g.onlyRegs h) (h2 : h.onlyRegs k) : g.onlyRegs k := by
  unfold Group.onlyRegs at *
  rw [← h2] at h1
  exact h1

theorem onlyStored.onlyRegs (hs : g.onlyStored h) : g.onlyRegs h := by
  have h2 := congrArg (fun x : Group => { x with
    used := g.used, useNo := g.useNo, flight := g.flight, p0 := g.p0, p1 := g.p1 }) hs
  exact h2

end Group

/-! ### How a word ends -/

/-- A word has gone on whose effect has left `h` of its group. -/
structure Ended (s t : State) (cx : Cx) (w : Guard) (h gt : Group) : Prop where
  next : Next s t cx w gt
  issue : h.onlyIssue gt
  flight : gt.flight = if w.k then h.flight.map (coverFor cx.slot) else h.flight
  counted : Group.Counted [2, 3] h gt
  memory : s.sameMemory t cx
  rest : s.onlyGroups t

theorem WritesIn.withCores {A : Nat → Prop} {s t : State} (h : WritesIn A s t) (cs : List (CoreId × Core)) :
    WritesIn A { s with cores := cs } { t with cores := cs } where
  rest := congrArg (fun x : State => { x with cores := cs }) h.rest
  wf := h.wf
  bytes := h.bytes
  fewer := h.fewer
  poison := h.poison
  migrations := h.migrations

namespace Placed
variable {s e : State} {cx : Cx} {h : Group}

/-- A word ends whose effect has left its paths. -/
theorem ended (he : Placed s e cx h) (hc : s.ctxOf cx.gid.launch = cx.ctx) (hm : s.memoryOk = true)
    (hpath : cx.g.path cx.slot = some cx.p) (hpaths : ∀ n, h.path n = cx.g.path n) (w : Guard) (u : Uses) :
    ∃ gt, Ended s (e.finish (cx.fetched u) w u (some (cx.p.pc + 16))) cx w h gt := by
  have hp := (hpaths cx.slot).trans hpath
  have hw := he.finish_writesIn hc w u (some (cx.p.pc + 16)) false
  exact ⟨_, he.finish_went hc hp rfl rfl (hpaths (1 - cx.slot)) w u (some (cx.p.pc + 16)) false,
    Group.finished_onlyIssue (cx.fetched u) w u _ _ hp, Group.flight_finished (cx.fetched u) w u _ _ hp,
    Group.finished_counted (cx.fetched u) w u _ _ hp, hw.sameMemory hm, hw.onlyGroups⟩

/-- The effect goes on to change the group, not its dimensions. -/
theorem modGroup (he : Placed s e cx h) (f : Group → Group) (hd : (f h).divdepth = h.divdepth)
    (hw : (f h).width = h.width) (hn : (f h).nr = h.nr) : Placed s (e.modGroup cx.gid f) cx (f h) where
  writes := by
    have hs := he.writes.setGroup cx.gid (f h)
    rwa [State.setGroup_setGroup, ← State.modGroup_some he.writes.group?_same] at hs
  divdepth := hd.trans he.divdepth
  width := hw.trans he.width
  nr := hn.trans he.nr

theorem withSerial (he : Placed s e cx h) (n : Nat) : Placed { s with serial := n } { e with serial := n } cx h :=
  ⟨he.writes.withSerial n, he.divdepth, he.width, he.nr⟩

theorem withCores (he : Placed s e cx h) (cs : List (CoreId × Core)) :
    Placed { s with cores := cs } { e with cores := cs } cx h :=
  ⟨he.writes.withCores cs, he.divdepth, he.width, he.nr⟩

end Placed

/-! ### A result -/

/-- A group that takes a result of a word, which counts as in flight with its events. -/
def Group.took (g : Group) (cx : Cx) (n d : Nat) (r : RegVal) (cnt : Counts) : Group :=
  (g.writeResult cx.named false d cx.eff r).fly
    { serial := n, slot := cx.slot, kind := .alu, covered := false, dests := [d], writes := [], counts := cnt
      due := [], waits := [], job := none, stamps := [] }

section
variable (g : Group) (cx : Cx) (n d : Nat) (r : RegVal) (cnt : Counts)

/-- But for the result in flight, a group that takes a result is what the result makes of it. -/
theorem Group.took_frame : g.onlyStored { g.took cx n d r cnt with flight := g.flight } := by
  have hs := congrArg (fun x : Group => { x with flight := g.flight })
    (Group.writeResult_onlyStored g cx.named false d cx.eff r)
  exact hs

theorem Group.took_onlyRegs : g.onlyRegs (g.took cx n d r cnt) := by
  have hs := (Group.took_frame g cx n d r cnt).onlyRegs
  exact hs

theorem Group.took_counted : Group.Counted [2, 7] g (g.took cx n d r cnt) := by
  have hw := Group.writeResult_counted g cx.named false d cx.eff r
  exact ⟨hw.rising, hw.same⟩

@[simp] theorem Group.path_took (k : Nat) : (g.took cx n d r cnt).path k = g.path k := by
  have hp := congrArg (fun x : Group => x.path k) (Group.took_frame g cx n d r cnt)
  exact hp

/-- The result is the last in flight. -/
theorem Group.flight_took : ∃ f : InFlight, (g.took cx n d r cnt).flight = g.flight ++ [f] ∧ f.kind = .alu ∧ f.counts = cnt := by
  have hf : (g.writeResult cx.named false d cx.eff r).flight = g.flight := by
    have hs := congrArg Group.flight (Group.writeResult_onlyStored g cx.named false d cx.eff r)
    exact hs
  exact ⟨_, congrArg (· ++ _) hf, rfl, rfl⟩
end

theorem Placed.putResult {s e : State} {cx : Cx} {h : Group} (he : Placed s e cx h) (u : Uses) (d : Nat) (r : RegVal)
    (cnt : Counts) : Placed { s with serial := e.serial + 1 } (e.putResult (cx.fetched u) d r cnt) cx
      (h.took (cx.fetched u) e.serial d r cnt) := by
  have hf := Group.took_onlyRegs h (cx.fetched u) e.serial d r cnt
  exact (he.withSerial (e.serial + 1)).modGroup (fun g => g.took (cx.fetched u) e.serial d r cnt)
    (by have := congrArg Group.divdepth hf; exact this) (by have := congrArg Group.width hf; exact this)
    (by have := congrArg Group.nr hf; exact this)

section
variable {g k h : Group} {cx : Cx} {n : Nat} {d : RegIx} {r : RegVal} {cnt : Counts} {v : Nat → Word}
  (hregs : k.regs = g.regs) (hg : Sparse.rising 0 g.regs = true)
  (hh : h.regs = (k.took cx n d.toNat r cnt).regs)
include hregs hg hh

/-- A result stands in D in the lanes of the mask. -/
theorem Group.wrote_took (hwid : k.width = g.width) (hv : ∀ l, laneIn cx.eff l = true → l < g.width → r.lane l = v l) :
    g.wrote h cx.eff d.toNat v := by
  intro l hl hw
  have hval (x : Nat) : h.val x = (k.writeResult cx.named false d.toNat cx.eff r).val x := by
    rw [Group.val, hh]
    rfl
  have hold : k.val d.toNat = g.val d.toNat := by simp only [Group.val, hregs]
  rw [hval, Group.lane_writeResult _ _ _ _ (by rwa [hregs]) hl (by rwa [hwid]), hold]
  cases hm : laneIn cx.eff l with
  | true => exact hv l hm hw
  | false => rfl

/-- Every other register is as before. -/
theorem Group.keeps_took : g.keeps h [d.toNat] := by
  intro q hq
  have hval : h.val q = (k.writeResult cx.named false d.toNat cx.eff r).val q := by
    rw [Group.val, hh]
    rfl
  rw [hval, Group.val_writeResult_other _ _ _ _ (by rwa [hregs]) (by simpa using hq)]
  simp only [Group.val, hregs]
end

end Sys2Proof.Machine
end
section
/-! SUPPORT. Words with a floating-point result: their events in flight, and DRAW (04 R80, R81, R85, R97). -/

namespace Sys2Proof.Machine

open Sys2Proof.Claims

/-! ### DRAW (04 R80) -/

/-- A step of each lane of a list, once. -/
theorem get_foldl_step (ls : List Nat) (hn : ls.Nodup) (l : Nat) : ∀ t : List (Nat × BitVec 32), Sparse.rising 0 t = true →
    Sparse.get 0 (ls.foldl (fun t k => Sparse.put 0 t k (Sparse.get 0 t k + 1)) t) l
      = if l ∈ ls then Sparse.get 0 t l + 1 else Sparse.get 0 t l := by
  induction ls with
  | nil => intro t _; simp
  | cons k ls ih =>
    intro t ht
    obtain ⟨hk, hls⟩ := List.nodup_cons.mp hn
    rw [List.foldl_cons, ih hls _ (Sparse.rising_put _ _ _ _ ht)]
    by_cases hlk : l = k
    · subst hlk
      rw [Sparse.get_put_same _ _ _ _ ht, if_neg hk, if_pos (.head _)]
    · rw [Sparse.get_put_other _ _ _ _ _ hlk ht]
      simp [hlk]

theorem lanes_nodup (m : Word) : (lanes m).Nodup := List.nodup_range.filter _

theorem Group.drawOf_advanceDraw (g : Group) (m : Word) (l : Nat) (hg : Sparse.rising 0 g.draw = true) :
    (g.advanceDraw m).drawOf l = if laneIn m l then g.drawOf l + 1 else g.drawOf l := by
  rw [Group.drawOf, Group.advanceDraw, get_foldl_step _ (lanes_nodup m) l _ hg]
  simp only [mem_lanes, Group.drawOf]

/-- A group whose DRAW has advanced in the lanes of a mask, where `adv` says so. -/
def Group.drawnIf (adv : Bool) (m : Word) (g : Group) : Group := if adv then g.advanceDraw m else g

section
variable (adv : Bool) (m : Word) (g : Group)

/-- It is the group with some DRAW. -/
theorem Group.drawnIf_eq : ∃ D, g.drawnIf adv m = { g with draw := D } := by
  cases adv with
  | true => exact ⟨_, rfl⟩
  | false => exact ⟨g.draw, rfl⟩

@[simp] theorem Group.regs_drawnIf : (g.drawnIf adv m).regs = g.regs := by cases adv <;> rfl
@[simp] theorem Group.flight_drawnIf : (g.drawnIf adv m).flight = g.flight := by cases adv <;> rfl
@[simp] theorem Group.path_drawnIf (n : Nat) : (g.drawnIf adv m).path n = g.path n := by cases adv <;> rfl

theorem Group.drawOf_drawnIf (l : Nat) (hg : Sparse.rising 0 g.draw = true) :
    (g.drawnIf adv m).drawOf l = if adv && laneIn m l then g.drawOf l + 1 else g.drawOf l := by
  cases adv with
  | true => simpa [Group.drawnIf] using Group.drawOf_advanceDraw g m l hg
  | false => simp [Group.drawnIf]
end

/-- DRAW apart, issuing changes no more of a group than any word does. -/
theorem Group.onlyRegs_withDraw {g k h : Group} {D : List (Nat × BitVec 32)} (h1 : g.onlyRegs k)
    (h2 : Group.onlyIssue { k with draw := D } h) : g.onlyRegs { h with draw := g.draw } := by
  have hk := congrArg (fun x : Group => { x with draw := k.draw }) h2.onlyRegs
  have hrest : k.onlyRegs { h with draw := k.draw } := hk
  have hdraw : k.draw = g.draw := by
    have hd := congrArg Group.draw h1
    exact hd
  rw [hdraw] at hrest
  exact h1.trans hrest

theorem Ready.drawRising {s : State} {w : Guard} {u : Uses} {cx : Cx} (hr : Ready s w u cx) :
    Sparse.rising 0 cx.g.draw = true := by
  have ht := hr.groupTidy
  simp only [Group.tidy, Bool.and_eq_true] at ht
  obtain ⟨⟨⟨⟨⟨⟨-, -⟩, -⟩, -⟩, hdraw⟩, -⟩, -⟩ := ht
  exact hdraw

/-! ### How such a word completes -/

theorem Placed.drawIf {s e : State} {cx : Cx} {h : Group} (he : Placed s e cx h) (u : Uses) (adv : Bool) :
    Placed s (e.drawIf (cx.fetched u) adv) cx (h.drawnIf adv cx.eff) := by
  cases adv with
  | true => exact he.modGroup (fun g => g.advanceDraw cx.eff) rfl rfl rfl
  | false => exact he

/-- The serial number that a result has used shows in nothing that a word ends with. -/
theorem Ended.ofSerial {s t : State} {cx : Cx} {w : Guard} {h gt : Group} {n : Nat}
    (he : Ended { s with serial := n } t cx w h gt) : Ended s t cx w h gt where
  next := ⟨he.next.group, he.next.path, he.next.other, he.next.elsewhere⟩
  issue := he.issue
  flight := he.flight
  counted := he.counted
  memory := ⟨he.memory.bytes, he.memory.fewer, he.memory.poison, he.memory.migrations⟩
  rest := by
    have hs := congrArg (fun x : State => { x with serial := s.serial }) he.rest
    exact hs

/-- The last result in flight, behind those that were. -/
theorem owes_of_flight {g h : Group} {f : InFlight} {cnt : Counts} (slot : Nat) (k : Bool) (hc : h.counts = g.counts)
    (hk : f.kind = .alu) (hf : f.counts = cnt)
    (hfl : h.flight = if k then (g.flight ++ [f]).map (coverFor slot) else g.flight ++ [f]) : g.owes h cnt := by
  refine ⟨hc, f, ?_, hk, hf⟩
  have hcover (x : InFlight) : ({ coverFor slot x with covered := false } : InFlight) = { x with covered := false } := by
    unfold coverFor
    split <;> rfl
  rw [hfl]
  cases k with
  | true => simp [Function.comp_def, hcover]
  | false => simp

section
variable {s t : State} {w : Guard} {u : Uses} {cx : Cx} {n : Nat} {d : RegIx} {r : RegVal} {cnt : Counts} {adv : Bool}
  {gt : Group} (hend : Ended s t cx w (((cx.fetched u).g.took (cx.fetched u) n d.toNat r cnt).drawnIf adv cx.eff) gt)
include hend

/-- The registers of a group after a result are those that the result leaves. -/
theorem Ended.regs_took : gt.regs = ((cx.fetched u).g.took (cx.fetched u) n d.toNat r cnt).regs :=
  hend.issue.regs.trans (Group.regs_drawnIf adv cx.eff _)

/-- DRAW apart, a group after a result is as before but for what `onlyRegs` leaves out. -/
theorem Ended.onlyRegs_took : cx.g.onlyRegs { gt with draw := cx.g.draw } := by
  have htook := (Group.refill_onlyIssue cx.g (u.names Members.none).named u.outside).onlyRegs.trans
    (Group.took_onlyRegs (cx.fetched u).g (cx.fetched u) n d.toNat r cnt)
  obtain ⟨D, hD⟩ := Group.drawnIf_eq adv cx.eff ((cx.fetched u).g.took (cx.fetched u) n d.toNat r cnt)
  have hissue := hend.issue
  rw [hD] at hissue
  exact Group.onlyRegs_withDraw htook hissue

/-- The events of a result stand with it, in flight (04 R81, R97). -/
theorem Ended.owes_took : cx.g.owes gt cnt := by
  obtain ⟨f, hf, hkind, hcnt⟩ := Group.flight_took (cx.fetched u).g (cx.fetched u) n d.toNat r cnt
  have hcounts : gt.counts = cx.g.counts := by
    have h := congrArg Group.counts hend.onlyRegs_took
    exact h
  have hflight : (cx.fetched u).g.flight = cx.g.flight := by
    have h := congrArg Group.flight (Group.refill_frame cx.g (u.names Members.none).named u.outside)
    exact h
  exact owes_of_flight cx.slot w.k hcounts hkind hcnt (by rw [hend.flight, Group.flight_drawnIf, hf, hflight])

/-- DRAW advances where `adv` says so (04 R80). -/
theorem Ended.drawOf_took (hg : Sparse.rising 0 cx.g.draw = true) (l : Nat) :
    gt.drawOf l = if adv && laneIn cx.eff l then cx.g.drawOf l + 1 else cx.g.drawOf l := by
  have hold : ((cx.fetched u).g.took (cx.fetched u) n d.toNat r cnt).draw = cx.g.draw := by
    have h := congrArg Group.draw ((Group.refill_onlyIssue cx.g (u.names Members.none).named u.outside).onlyRegs.trans
      (Group.took_onlyRegs (cx.fetched u).g (cx.fetched u) n d.toNat r cnt))
    exact h
  have hissue := congrArg (fun x : Group => x.drawOf l) hend.issue
  refine Eq.trans hissue ?_
  rw [Group.drawOf_drawnIf _ _ _ _ (by rwa [hold])]
  simp only [Group.drawOf, hold]
end

/-- What a result, its events and DRAW leave of the machine as the word's issue ends. -/
theorem Ready.wroteFloat {s : State} {w : Guard} {u : Uses} {cx : Cx} (hr : Ready s w u cx) (d : RegIx) (r : RegVal)
    (cnt : Counts) (adv : Bool) (v : Nat → Word) (hv : ∀ l, laneIn cx.eff l = true → l < cx.g.width → r.lane l = v l) :
    ∃ gt, WroteFloat s ((((s.fetched cx u).putResult (cx.fetched u) d.toNat r cnt).drawIf (cx.fetched u) adv).finish
      (cx.fetched u) w u (some (cx.p.pc + 16))) cx w d v cnt adv gt := by
  have hi : cx.g.onlyIssue (cx.fetched u).g := Group.refill_onlyIssue _ _ _
  have hpl := (hr.placed_fetched.putResult u d.toNat r cnt).drawIf u adv
  obtain ⟨gt, hend⟩ := hpl.ended (s := { s with serial := (s.fetched cx u).serial + 1 }) hr.ctxOf hr.memory hr.path
    (fun n => by rw [Group.path_drawnIf, Group.path_took]; exact Group.path_refill _ _ _ n) w u
  replace hend := hend.ofSerial
  exact ⟨gt, hend.next, Group.wrote_took (cx := cx.fetched u) hi.regs hr.regsRising hend.regs_took hi.width hv,
    Group.keeps_took hi.regs hr.regsRising hend.regs_took, fun _ => hend.owes_took,
    fun l _ => hend.drawOf_took hr.drawRising l, hend.onlyRegs_took, hend.memory, hend.rest⟩

/-- A word with an empty mask writes nothing, and owes no event (01 R27). -/
theorem wroteFloat_of_moved {s t : State} {cx : Cx} {w : Guard} {gt : Group} (d : RegIx) (v : Nat → Word) (cnt : Counts)
    (adv : Bool) (h : Moved s t cx w (cx.p.pc + 16) gt) (he : cx.eff = 0) : WroteFloat s t cx w d v cnt adv gt := by
  have hw := wroteReg_of_moved d v h he
  have hdraw : gt.draw = cx.g.draw := by
    have hd := congrArg Group.draw h.group
    exact hd
  refine ⟨hw.next, hw.value, hw.regs, fun hne => absurd he hne, fun l _ => ?_, ?_, hw.memory, hw.rest⟩
  · simp [he, Group.drawOf, hdraw]
  · rw [← hdraw]
    exact h.group

/-- A ready word whose effect is a floating-point result. -/
theorem issueMasked_wroteFloat {s : State} {w : Guard} {u : Uses} {cx : Cx} (hr : Ready s w u cx) (d : RegIx)
    (r : Cx → Tallied RegVal) (adv : Cx → Bool) (v : Nat → Word) (cnt : Counts) (sto : Bool)
    (hv : ∀ l, laneIn cx.eff l = true → l < cx.g.width → (r (cx.fetched u)).val.lane l = v l)
    (hc : (r (cx.fetched u)).cnt = cnt) (ha : adv (cx.fetched u) = sto) :
    ∃ t gt, issueMasked w u (fun s cx => .done ((s.putResult cx d.toNat (r cx).val (r cx).cnt).drawIf cx (adv cx))) s = .next t
      ∧ WroteFloat s t cx w d v cnt sto gt := by
  subst hc ha
  by_cases he : cx.eff = 0
  · obtain ⟨gt, hm⟩ := hr.finish_moved (cx.p.pc + 16) false
    exact ⟨_, gt, issueMasked_empty _ hr he, wroteFloat_of_moved d v _ _ hm he⟩
  · obtain ⟨gt, hw⟩ := hr.wroteFloat d (r (cx.fetched u)).val (r (cx.fetched u)).cnt (adv (cx.fetched u)) v hv
    exact ⟨_, gt, issueMasked_ready _ hr he, hw⟩

end Sys2Proof.Machine
end
section
/-! SUPPORT. Codes of sub-elements in a register value (04 R74, R90). -/

namespace Sys2Proof.Machine

open Sys2Proof.Claims

theorem bitsOf_succ (n : Nat) (f : Nat → Bool) : bitsOf (n + 1) f = bitsOf n f + if f n then 2 ^ n else 0 := by
  simp only [bitsOf, List.range_succ, List.foldl_append, List.foldl_cons, List.foldl_nil]

theorem bitsOf_lt (n : Nat) (f : Nat → Bool) : bitsOf n f < 2 ^ n := by
  induction n with
  | zero => simp [bitsOf]
  | succ n ih =>
    rw [bitsOf_succ, Nat.pow_succ]
    split <;> omega

theorem testBit_bitsOf (n : Nat) (f : Nat → Bool) (i : Nat) : (bitsOf n f).testBit i = (decide (i < n) && f i) := by
  induction n with
  | zero => simp [bitsOf]
  | succ n ih =>
    have hlt := bitsOf_lt n f
    have hsum : bitsOf (n + 1) f = 2 ^ n * (f n).toNat + bitsOf n f := by
      rw [bitsOf_succ, Nat.add_comm]
      cases f n <;> simp
    rw [hsum, Nat.testBit_two_pow_mul_add _ hlt, ih]
    by_cases hi : i < n
    · simp [hi, show i < n + 1 by omega]
    · rw [if_neg hi]
      by_cases he : i = n
      · subst he
        cases f i <;> simp
      · have hz : (f n).toNat.testBit (i - n) = false := by
          obtain ⟨k, hk⟩ : ∃ k, i - n = k + 1 := ⟨i - n - 1, by omega⟩
          rw [hk]
          cases f n <;> simp [Nat.testBit_succ]
        rw [hz]
        simp [show ¬ i < n + 1 by omega]

/-! ### Codes from the lowest on -/

/-- The codes of a register value, each at its place. -/
theorem packElems_eq_sum (w : Nat) (cs : List Nat) :
    packElems w cs
      = BitVec.ofNat 64 (((List.range cs.length).map (fun j => cs.getD j 0 % 2 ^ w * 2 ^ (j * w))).sum) := by
  unfold packElems
  congr 1
  induction cs with
  | nil => rfl
  | cons c cs ih =>
    rw [List.foldr_cons, ih, List.length_cons, List.range_succ_eq_map, List.map_cons, List.sum_cons, List.map_map,
      ← List.sum_map_mul_right]
    refine congrArg₂ (· + ·) (by simp) (congrArg List.sum (List.map_congr_left (fun j _ => ?_)))
    simp only [Function.comp_apply, List.getD_cons_succ, Nat.mul_assoc, ← Nat.pow_add, Nat.succ_eq_add_one, Nat.add_mul,
      Nat.one_mul]

theorem packElems_singleton (w c : Nat) : packElems w [c] = BitVec.ofNat 64 (c % 2 ^ w) := by
  simp [packElems]

/-! ### Codes from a place on -/

theorem getLsbD_setElem (v : Word) (w j c q : Nat) (hq : q < 64) :
    (setElem v w j c).getLsbD q = if j * w ≤ q ∧ q < (j + 1) * w then c.testBit (q - j * w) else v.getLsbD q := by
  have hw : (j + 1) * w = j * w + w := Nat.succ_mul j w
  simp only [setElem, BitVec.getLsbD_or, BitVec.getLsbD_and, BitVec.getLsbD_not, BitVec.getLsbD_shiftLeft,
    BitVec.getLsbD_ofNat, Nat.testBit_two_pow_sub_one, Nat.testBit_mod_two_pow, hq, decide_true, Bool.true_and, hw]
  by_cases h1 : q < j * w
  · simp [h1, show ¬ j * w ≤ q by omega]
  · by_cases h2 : q - j * w < w
    · simp [h1, h2, show j * w ≤ q ∧ q < j * w + w by omega, show q - j * w < 64 by omega]
    · simp [h1, h2, show ¬ (j * w ≤ q ∧ q < j * w + w) by omega]

theorem getLsbD_withElems (w p : Nat) (codes : List Nat) (c : Word) (q : Nat) (hq : q < 64) :
    (withElems w p codes c).getLsbD q
      = if p * w ≤ q ∧ q < (p + codes.length) * w then (codes.getD (q / w - p) 0).testBit (q % w) else c.getLsbD q := by
  rw [withElems, BitVec.getLsbD_ofNat, testBit_bitsOf]
  simp only [hq, decide_true, Bool.true_and]

/-- Without codes the value stays. -/
theorem withElems_nil (w p : Nat) (c : Word) : withElems w p [] c = c :=
  BitVec.eq_of_getLsbD_eq (fun q hq => by
    rw [getLsbD_withElems _ _ _ _ _ hq, if_neg (by simp only [List.length_nil, Nat.add_zero]; omega)])

/-- One code more. -/
theorem withElems_concat (w p : Nat) (codes : List Nat) (x : Nat) (c : Word) :
    withElems w p (codes ++ [x]) c = setElem (withElems w p codes c) w (p + codes.length) x := by
  refine BitVec.eq_of_getLsbD_eq (fun q hq => ?_)
  have hstep : (p + codes.length + 1) * w = (p + codes.length) * w + w := Nat.succ_mul _ w
  have hbase : p * w ≤ (p + codes.length) * w := Nat.mul_le_mul_right w (Nat.le_add_right p _)
  rw [getLsbD_withElems _ _ _ _ _ hq, getLsbD_setElem _ _ _ _ _ hq, getLsbD_withElems _ _ _ _ _ hq, List.length_append,
    List.length_singleton, ← Nat.add_assoc]
  by_cases hnew : (p + codes.length) * w ≤ q ∧ q < (p + codes.length + 1) * w
  · have hdiv : q / w = p + codes.length := Nat.div_eq_of_lt_le hnew.1 hnew.2
    have hmod : q % w = q - (p + codes.length) * w := by
      rw [Nat.mod_eq_sub_div_mul, hdiv]
    rw [if_pos ⟨by omega, hnew.2⟩, if_pos hnew, hdiv, hmod, Nat.add_sub_cancel_left]
    simp
  · rw [if_neg hnew]
    by_cases hold : p * w ≤ q ∧ q < (p + codes.length) * w
    · have hlt : q / w - p < codes.length := by
        have hw : 0 < w := Nat.pos_of_ne_zero (fun h => by simp [h] at hold)
        have hle := (Nat.le_div_iff_mul_le hw).mpr hold.1
        have hdiv := (Nat.div_lt_iff_lt_mul hw).mpr hold.2
        omega
      rw [if_pos ⟨hold.1, by omega⟩, if_pos hold, List.getD_append _ _ _ _ hlt]
    · rw [if_neg (by omega), if_neg hold]

theorem withElems_singleton (w x : Nat) (c : Word) : withElems w 0 [x] c = setElem c w 0 x := by
  rw [← List.nil_append [x], withElems_concat, withElems_nil]
  rfl

/-- One code in an empty value. -/
theorem withElems_zero (w x : Nat) : withElems w 0 [x] 0 = packElems w [x] := by
  refine BitVec.eq_of_getLsbD_eq (fun q hq => ?_)
  rw [withElems_singleton, getLsbD_setElem _ _ _ _ _ hq, packElems_singleton, BitVec.getLsbD_ofNat, Nat.testBit_mod_two_pow]
  by_cases hqw : q < w
  · simp [hq, hqw]
  · simp [hqw]

end Sys2Proof.Machine
end
section
/-! SUPPORT. What a floating-point word finds, and its result in each lane (04 R81, R83, R85). -/

namespace Sys2Proof.Machine

open Sys2Proof.Claims

section
variable (cx : Cx) (u : Uses)

theorem fetched_slots : (cx.fetched u).g.slots = cx.g.slots := by
  have h := congrArg Group.slots (Group.refill_frame cx.g (u.names Members.none).named u.outside)
  exact h

theorem fetched_soff : (cx.fetched u).g.soff = cx.g.soff := by
  have h := congrArg Group.soff (Group.refill_frame cx.g (u.names Members.none).named u.outside)
  exact h

theorem fetched_draw : (cx.fetched u).g.draw = cx.g.draw := by
  have h := congrArg Group.draw (Group.refill_frame cx.g (u.names Members.none).named u.outside)
  exact h

@[simp] theorem fetched_fmt (fs : BitVec 4) : (cx.fetched u).fmt fs = cx.fmt fs := by
  simp only [Cx.fmt, Group.slotDef, fetched_slots]

@[simp] theorem fetched_key (fs : BitVec 4) (l : Nat) : (cx.fetched u).key fs l = cx.key fs l := by
  refine funext (fun j => ?_)
  simp only [Cx.key, Cx.lanet, Cx.w, Group.drawOf, Group.soffOf, fetched_draw, fetched_soff, Proofs.fetched_width]
  rfl
end

@[simp] theorem Fmt.sto_eq (f : Fmt) : f.sto = decide (f.rnd = 5) := beq_eq_decide _ _

theorem floatResult_of_once {cx : Cx} {srcs : List Src} {sto : Bool} (f : Nat → Tallied Word) (h : once cx srcs sto = true) :
    floatResult cx srcs sto f = { val := .uniform (f 0).val, cnt := (f 0).cnt.times (laneCount cx.eff) } := by
  rw [floatResult, if_pos]
  simpa [once, shapeOf_uniform_iff, and_comm] using h

/-- A value for each active lane, with the events of all. -/
def activeLanes (cx : Cx) (f : Nat → Tallied Word) : Tallied RegVal :=
  let rs := Tallied.all ((List.range cx.g.width).map (fun l => if laneIn cx.eff l then f l else .pure 0))
  { val := .general rs.val, cnt := rs.cnt }

theorem activeLanes_lane (cx : Cx) (f : Nat → Tallied Word) {l : Nat} (hl : laneIn cx.eff l = true) (hw : l < cx.g.width) :
    (activeLanes cx f).val.lane l = (f l).val := by
  simp only [activeLanes, Tallied.all, List.map_map]
  rw [RegVal.lane_general _ _ _ hw, Function.comp_apply, if_pos hl]

theorem activeLanes_cnt (cx : Cx) (f : Nat → Tallied Word) : (activeLanes cx f).cnt = eventsOf cx false f := by
  rw [eventsOf, if_neg Bool.false_ne_true,
    List.map_congr_left (g := fun l => (if laneIn cx.eff l then f l else Tallied.pure 0).cnt)
      (fun l hl => by rw [if_pos (List.mem_filter.mp hl).2]),
    Counts.sum_map_filter (laneIn cx.eff) _ _ (fun l _ hl => by rw [if_neg (by simp [hl])]; rfl)]
  simp only [activeLanes, Tallied.all, List.map_map]
  rfl

theorem floatResult_per_lane {cx : Cx} {srcs : List Src} {sto : Bool} (f : Nat → Tallied Word)
    (h : once cx srcs sto = false) : floatResult cx srcs sto f = activeLanes cx f := by
  rw [floatResult, if_neg]
  · rfl
  · simp only [once, shapeOf_uniform_iff] at h
    rw [Bool.and_comm, h]
    exact Bool.false_ne_true

/-- A result in an active lane. -/
theorem floatResult_lane (cx : Cx) (srcs : List Src) (sto : Bool) (f : Nat → Tallied Word) {l : Nat}
    (hl : laneIn cx.eff l = true) (hw : l < cx.g.width) :
    (floatResult cx srcs sto f).val.lane l = (f (if once cx srcs sto then 0 else l)).val := by
  cases ho : once cx srcs sto with
  | true => rw [floatResult_of_once f ho]; rfl
  | false => rw [floatResult_per_lane f ho, activeLanes_lane cx f hl hw]; rfl

/-- The events of a result. -/
theorem floatResult_cnt (cx : Cx) (srcs : List Src) (sto : Bool) (f : Nat → Tallied Word) :
    (floatResult cx srcs sto f).cnt = eventsOf cx (once cx srcs sto) f := by
  cases ho : once cx srcs sto with
  | true => rw [floatResult_of_once f ho]; rfl
  | false => rw [floatResult_per_lane f ho, activeLanes_cnt]

@[simp] theorem fetched_once (cx : Cx) (u : Uses) (srcs : List Src) (sto : Bool) :
    once (cx.fetched u) srcs sto = once cx srcs sto := by
  simp only [once, Proofs.fetched_src]

theorem fetched_eventsOf (cx : Cx) (u : Uses) (one : Bool) (f : Nat → Tallied Word) :
    eventsOf (cx.fetched u) one f = eventsOf cx one f := by
  simp only [eventsOf, Proofs.fetched_width, Proofs.fetched_eff]

/-- How a floating-point word completes that computes `at_` in a lane. -/
theorem floatWord_wroteFloat {g : Guard} {slots : List (BitVec 4 × BitVec 16)} {srcs : List Src} {d : RegIx}
    {dest : BitVec 4} {s : State} {cx : Cx} (f : Cx → Nat → Tallied Word) (at_ : Nat → Tallied Word)
    (hr : Ready s g ((usesOf srcs [d]).withSlots slots) cx)
    (hf : ∀ l, f (cx.fetched ((usesOf srcs [d]).withSlots slots)) l = at_ l) :
    let sto := decide ((cx.fmt dest).rnd = 5)
    let one := once cx srcs sto
    ∃ t gt, floatWord g slots srcs d dest f s = .next t
      ∧ WroteFloat s t cx g d (fun l => (at_ (if one then 0 else l)).val) (eventsOf cx one at_) sto gt := by
  obtain rfl : f (cx.fetched ((usesOf srcs [d]).withSlots slots)) = at_ := funext hf
  refine issueMasked_wroteFloat hr d (fun cx => floatResult cx srcs (cx.fmt dest).sto (f cx)) (fun cx => (cx.fmt dest).sto)
    _ _ _ (fun l hl hw => ?_) ?_ (by simp)
  · refine (floatResult_lane (cx.fetched _) _ _ _ hl (by simpa using hw)).trans ?_
    simp
  · rw [floatResult_cnt, fetched_eventsOf]
    simp

end Sys2Proof.Machine
end
section
/-! SUPPORT. Floating-point results lane by lane, in the statements' terms (04 R84, R86, R90 to R93). -/

namespace Sys2Proof.Machine

open Sys2Proof.Claims

/-! ### Element-wise (04 R86) -/

/-- The codes of a list of sub-elements, as the statements add them up. -/
theorem ofNat_sum_codes {w k : Nat} {cs : List Nat} (h : cs.length = k) :
    BitVec.ofNat 64 (((List.range k).map (fun j => cs.getD j 0 % 2 ^ w * 2 ^ (j * w))).sum) = packElems w cs := by
  rw [packElems_eq_sum, h]

/-- What `elemWise` makes of a list of rounded sub-elements. -/
def packRounded (w : Nat) (rs : List (Tallied Nat)) : Tallied Word :=
  { val := packElems w (rs.map Tallied.val), cnt := Counts.sum (rs.map Tallied.cnt) }

/-- The same as the statements write it. -/
theorem packRounded_eq (w k : Nat) (r : Nat → Tallied Nat) :
    packRounded w ((List.range k).map r)
      = { val := BitVec.ofNat 64 (((List.range k).map (fun j =>
            (((List.range k).map r).map Tallied.val).getD j 0 % 2 ^ w * 2 ^ (j * w))).sum)
          cnt := Counts.sum (((List.range k).map r).map Tallied.cnt) } :=
  Tallied.eq_of (ofNat_sum_codes (by simp)).symm rfl

theorem elemWise_eq (f : Fmt) (key : Nat → Key) (x : Nat → Tallied Num) :
    elemWise f key x = packRounded f.w ((List.range f.k).map (fun j => (x j).bind (fun q => round f (key j) q))) := rfl

/-- Sub-element j of source i of an element-wise word; a source that is not there is NaN. -/
def elemArg (cx : Cx) (fs : BitVec 4) (srcs : List Src) (l i j : Nat) : Tallied Num :=
  match srcs[i]? with
  | some x => decElem (cx.fmt fs) ((cx.src x).lane l) j
  | none => .pure .nan

/-- A lane of an element-wise word. -/
theorem elemForm_lane {g : Guard} {fs : BitVec 4} {d : RegIx} {srcs : List Src} {op : Fmt → Num → Num → Num → Tallied Num}
    {F : FloatForm} (hF : elemForm g fs d srcs op = some F) (cx : Cx) (l : Nat) :
    F.lane cx l = elemWise (cx.fmt fs) (cx.key fs l) (fun j => (elemArg cx fs srcs l 0 j).bind (fun x =>
      (elemArg cx fs srcs l 1 j).bind (fun y => (elemArg cx fs srcs l 2 j).bind (op (cx.fmt fs) x y)))) := by
  obtain rfl := Option.some.inj hF
  rw [elemWise_eq, packRounded_eq]
  simp only [Tallied.bind_assoc]
  rfl

/-- A word that computes what a form says of it. -/
def Computes (ex : State → Host.Outcome State Fault Refusal) (F : FloatForm) : Prop :=
  ∀ s cx, Ready s F.w ((usesOf F.srcs [F.d]).withSlots F.slots) cx →
    let sto := decide ((cx.fmt F.dest).rnd = 5)
    let one := once cx F.srcs sto
    ∃ t gt, ex s = .next t ∧ WroteFloat s t cx F.w F.d (fun l => (F.lane cx (if one then 0 else l)).val)
      (eventsOf cx one (F.lane cx)) sto gt

theorem floatWord_computes (F : FloatForm) (f : Cx → Nat → Tallied Word)
    (hf : ∀ cx l, f (cx.fetched ((usesOf F.srcs [F.d]).withSlots F.slots)) l = F.lane cx l) :
    Computes (floatWord F.w F.slots F.srcs F.d F.dest f) F :=
  fun _ cx hr => floatWord_wroteFloat f (F.lane cx) hr (hf cx)

section
variable {g : Guard} {fs : BitVec 4} {d : RegIx} {a b c : Src} {srcs : List Src}
  {op : Fmt → Num → Num → Num → Tallied Num} {F : FloatForm}

theorem elemWord_computes (hF : elemForm g fs d srcs op = some F)
    (ex : Fmt → Key → (Src → Nat → Tallied Num) → Nat → Nat → Tallied Num)
    (hex : ∀ cx k l j, ex (cx.fmt fs) k (fun x j => decElem (cx.fmt fs) ((cx.src x).lane l) j) l j
      = (elemArg cx fs srcs l 0 j).bind (fun x => (elemArg cx fs srcs l 1 j).bind (fun y =>
          (elemArg cx fs srcs l 2 j).bind (op (cx.fmt fs) x y)))) :
    Computes (elemWord g fs srcs d ex) F := by
  have hl := elemForm_lane hF
  obtain ⟨L, rfl⟩ : ∃ L, F = { w := g, slots := [(fs, 1)], srcs := srcs, d := d, dest := fs, lane := L } :=
    ⟨_, (Option.some.inj hF).symm⟩
  refine floatWord_computes _ _ (fun cx l => ?_)
  rw [hl]
  simp [hex]

theorem elem1_computes {op : Fmt → Num → Tallied Num} (hF : elemForm g fs d [a] (fun f x _ _ => op f x) = some F) :
    Computes (elem1 g fs d a (fun f _ x => op f x)) F :=
  elemWord_computes hF _ (fun cx k l j => by simp [elemArg])

theorem elem2_computes {op : Fmt → Num → Num → Tallied Num}
    (hF : elemForm g fs d [a, b] (fun f x y _ => op f x y) = some F) : Computes (elem2 g fs d a b op) F :=
  elemWord_computes hF _ (fun cx k l j => by simp [elemArg])

theorem elem3_computes (hF : elemForm g fs d [a, b, c] op = some F) :
    Computes (elemWord g fs [a, b, c] d (fun f _ v _ j =>
      (v a j).bind (fun x => (v b j).bind (fun y => (v c j).bind (op f x y))))) F :=
  elemWord_computes hF _ (fun cx k l j => by simp [elemArg])
end

/-! ### The tree of 04 R92 -/

/-- The sum over the leaves of a node, whichever way the tree is walked. -/
theorem halves_eq_treeNode (f : Fmt) (key : Nat → Key) (leaf : Nat → Option (Tallied Num)) (p n h : Nat)
    (xs : List (Option (Tallied Num))) (hx : xs = (List.range (2 ^ n)).map (fun i => leaf (h * 2 ^ n + i - p))) :
    halves f key n h xs = treeNode leaf (addNode f key) p n h := by
  induction n generalizing h xs with
  | zero => simp [hx, halves, treeNode]
  | succ n ih =>
    have hpow : 2 ^ (n + 1) = 2 ^ n + 2 ^ n := Nat.two_pow_succ n
    have hleft := ih (2 * h) (xs.take (2 ^ n)) (by
      rw [hx, ← List.map_take, List.take_range, Nat.min_eq_left (hpow ▸ Nat.le_add_right _ _), hpow, Nat.mul_add,
        Nat.two_mul, Nat.add_mul])
    have hright := ih (2 * h + 1) (xs.drop (2 ^ n)) (by
      rw [hx, hpow, List.range_add, List.map_append, List.drop_left' (by simp), List.map_map]
      refine List.map_congr_left (fun i _ => ?_)
      simp only [Function.comp_apply, Nat.mul_add, Nat.two_mul, Nat.add_mul, Nat.one_mul, Nat.add_assoc])
    rw [halves, treeNode, hleft, hright]
    cases treeNode leaf (addNode f key) p n (2 * h) with
    | none => rfl
    | some x =>
      cases treeNode leaf (addNode f key) p n (2 * h + 1) with
      | none => rfl
      | some y =>
        refine congrArg some (Tallied.eq_of rfl ?_)
        simp [addNode, roundNode, Counts.add_assoc]

/-- Enough levels for the leaves. -/
theorem treeLevels_eq : ∀ n < 65, ((List.range 8).find? (fun k => decide (n ≤ 2 ^ k))).getD 0 = treeLevels n := by decide

theorem sumOf_eq_treeSum (f : Fmt) (key : Nat → Key) {n : Nat} (leaf : Nat → Tallied Num) (hn : n ≤ 64) :
    sumOf f key n leaf = treeSum leaf (addNode f key) n := by
  unfold sumOf treeSum
  dsimp only
  rw [treeLevels_eq n (by omega), halves_eq_treeNode f key (fun i => if i < n then some (leaf i) else none)
    (2 ^ treeLevels n)]
  simp

theorem Fmt.k_le (f : Fmt) : f.k ≤ 64 := Nat.div_le_self 64 f.w

/-! ### Conversions (04 R90, R91) -/

theorem intIn_eq_num (w u : Bool) (x : Word) : intIn w u x = num w u x := by
  rw [← Proofs.asInt_eq_num]
  cases w <;> cases u <;> simp [intIn, asInt, sInt, uNat]

/-- fcvt replaces sub-elements one after another, and leaves the others. -/
theorem cvtLane_eq (fx fy : Fmt) (key : Nat → Key) (a b c : Word) :
    cvtLane fx fy key a b c
      = let o := b.toNat % 64
        let p := b.toNat / 256 % 64
        let rs := (List.range (min (fx.k - o) (fy.k - p))).map (fun i =>
          (elemOf fx a (o + i)).bind (fun x => round fy (key (p + i)) x))
        { val := withElems fy.w p (rs.map Tallied.val) c, cnt := Counts.sum (rs.map Tallied.cnt) } := by
  have ho : (b.extractLsb' 0 6).toNat = b.toNat % 64 := by simp [BitVec.extractLsb'_toNat]
  have hp : (b.extractLsb' 8 6).toNat = b.toNat / 256 % 64 := by
    simp [BitVec.extractLsb'_toNat, Nat.shiftRight_eq_div_pow]
  unfold cvtLane
  dsimp only
  rw [ho, hp]
  generalize min (fx.k - b.toNat % 64) (fy.k - b.toNat / 256 % 64) = n
  induction n with
  | zero => simp [withElems_nil]; rfl
  | succ n ih =>
    rw [List.range_succ, List.foldl_append, List.foldl_cons, List.foldl_nil, ih]
    refine Tallied.eq_of ?_ ?_
    · simp [withElems_concat, elemOf, decElem, subElem]
    · simp [Counts.sum_append, elemOf, decElem, subElem]

end Sys2Proof.Machine
end
section
/-! PROOFS. Floating-point words with a result in a slot (04 R79 to R81, R84 to R86, R89, R90, R92, R93). -/

namespace Sys2Proof.Proofs

open Sys2Proof Sys2Proof.Machine Sys2Proof.Claims

section
variable {g : Guard} {fs sb sc : BitVec 4} {d : RegIx} {a b c : Src} {F : FloatForm}

theorem execFrnd_computes (hF : floatForm (.frnd g fs d a) = some F) : Computes (execFrnd g fs d a) F := by
  obtain rfl := Option.some.inj hF
  exact floatWord_computes _ (fun cx l => elemWise (cx.fmt fs) (cx.key fs l) (fun j =>
    (decElem (cx.fmt fs) ((cx.src a).lane l) j).bind (fun x => .pure (integralNum (cx.fmt fs) (cx.key fs l j) x))))
    (fun cx l => by simp [decElem])

theorem execFscl_computes (hF : floatForm (.fscl g fs d a b) = some F) : Computes (execFscl g fs d a b) F := by
  obtain rfl := Option.some.inj hF
  exact floatWord_computes _ _ (fun cx l => by simp [decElem])

theorem execI2f_computes {w u : Bool} (hF : floatForm (.i2f g fs w u d a) = some F) :
    Computes (execI2f g fs w u d a) F := by
  obtain rfl := Option.some.inj hF
  exact floatWord_computes _ _ (fun cx l => by simp [intIn_eq_num, packElems_singleton])

theorem execFcvt_computes (hF : floatForm (.fcvt g fs sc d a b c) = some F) : Computes (execFcvt g fs sc d a b c) F := by
  obtain rfl := Option.some.inj hF
  exact floatWord_computes _ _ (fun cx l => by simp [cvtLane_eq])

theorem execFsum_computes (hF : floatForm (.fsum g fs d a) = some F) : Computes (execFsum g fs d a) F := by
  obtain rfl := Option.some.inj hF
  refine floatWord_computes _ _ (fun cx l => ?_)
  simp only [fetched_src, fetched_fmt, fetched_key]
  rw [sumOf_eq_treeSum _ _ _ (Fmt.k_le _)]
  refine Tallied.eq_of ?_ rfl
  simp only [withElems_zero]
  rfl

theorem execFdot_computes (hF : floatForm (.fdot g fs sb sc d a b c) = some F) :
    Computes (execFdot g fs sb sc d a b c) F := by
  obtain rfl := Option.some.inj hF
  refine floatWord_computes _ _ (fun cx l => ?_)
  simp only [fetched_src, fetched_fmt, fetched_key]
  rw [sumOf_eq_treeSum _ _ _ ((Nat.min_le_left _ _).trans (Fmt.k_le _))]
  refine Tallied.eq_of ?_ rfl
  simp only [withElems_singleton]
  rfl
end

/-- Each form of `floatForm` is what its word computes. -/
theorem exec_computes_floatForm {i : Instr} {F : FloatForm} (hF : floatForm i = some F) (s : State) :
    ∃ ex, exec i s = ex s ∧ Computes ex F := by
  unfold floatForm at hF
  split at hF
  case h_1 g fs d a b => exact ⟨execFadd g fs d a b, rfl, elem2_computes hF⟩
  case h_2 g fs d a b => exact ⟨execFsub g fs d a b, rfl, elem2_computes hF⟩
  case h_3 g fs d a b => exact ⟨execFmul g fs d a b, rfl, elem2_computes hF⟩
  case h_4 g fs d a b c => exact ⟨execFfma g fs d a b c, rfl, elem3_computes hF⟩
  case h_5 g fs d a b => exact ⟨execFmin g fs d a b, rfl, elem2_computes hF⟩
  case h_6 g fs d a b => exact ⟨execFmax g fs d a b, rfl, elem2_computes hF⟩
  case h_7 g fs d a b => exact ⟨execFdiv g fs d a b, rfl, elem2_computes hF⟩
  case h_8 g fs d a => exact ⟨execFsqrt g fs d a, rfl, elem1_computes hF⟩
  case h_9 g fs d a => exact ⟨execFrcp g fs d a, rfl, elem1_computes hF⟩
  case h_10 g fs d a => exact ⟨execFrsq g fs d a, rfl, elem1_computes hF⟩
  case h_11 g fs d a => exact ⟨execFex2 g fs d a, rfl, elem1_computes hF⟩
  case h_12 g fs d a => exact ⟨execFlg2 g fs d a, rfl, elem1_computes hF⟩
  case h_13 g fs d a => exact ⟨execFrnd g fs d a, rfl, execFrnd_computes hF⟩
  case h_14 g fs d a b => exact ⟨execFscl g fs d a b, rfl, execFscl_computes hF⟩
  case h_15 g fs sc d a b c => exact ⟨execFcvt g fs sc d a b c, rfl, execFcvt_computes hF⟩
  case h_16 g fs w u d a => exact ⟨execI2f g fs w u d a, rfl, execI2f_computes hF⟩
  case h_17 g fs sb sc d a b c => exact ⟨execFdot g fs sb sc d a b c, rfl, execFdot_computes hF⟩
  case h_18 g fs d a => exact ⟨execFsum g fs d a, rfl, execFsum_computes hF⟩
  case h_19 => cases hF

theorem floatResults : FloatResults :=
  fun i F s cx hF _ hr => by
    obtain ⟨ex, hex, hc⟩ := exec_computes_floatForm hF s
    rw [hex]
    exact hc s cx hr

end Sys2Proof.Proofs
end
section
/-! SUPPORT. The ranges that a floating scan combines (03 R66). -/

namespace Sys2Proof.Machine

open Sys2Proof.Claims

/-! ### How deep a range goes -/

/-- The parts of a range of n positions are reached within `fuel` steps. -/
def fits : Nat → Nat → Bool
  | 0, _ => false
  | fuel + 1, n => decide (n ≤ 1) || (fits fuel (n - rightPart n) && fits fuel (rightPart n))

theorem fits_of_le : ∀ n < 65, fits 15 n = true := by decide

/-- A range of a power of two, behind a multiple of the next, ends with the power's half or with the power. -/
theorem rightPart_two_pow : ∀ m < 6, rightPart (2 ^ m + 2 ^ m) = 2 ^ m := by decide

theorem rightPart_add_two_pow : ∀ m < 6, ∀ k < 64, 0 < k → 2 * k * 2 ^ m + 2 ^ m < 65 →
    rightPart (2 * k * 2 ^ m + 2 ^ m) = 2 ^ m := by decide

section
variable (leaf : Nat → Option Word) (f : CombineFn)

theorem rangeVal_succ {fuel x n : Nat} (h : fits fuel n = true) : rangeVal leaf f (fuel + 1) x n = rangeVal leaf f fuel x n := by
  induction fuel generalizing x n with
  | zero => cases h
  | succ fuel ih =>
    rw [rangeVal]
    conv_rhs => rw [rangeVal]
    by_cases hn : n ≤ 1
    · obtain rfl | rfl : n = 0 ∨ n = 1 := by omega
      · simp
      · simp
    · simp only [fits, hn, decide_false, Bool.false_or, Bool.and_eq_true] at h
      dsimp only
      rw [ih h.1, ih h.2]

theorem rangeNodes_succ {fuel x n : Nat} (h : fits fuel n = true) : rangeNodes (fuel + 1) x n = rangeNodes fuel x n := by
  induction fuel generalizing x n with
  | zero => cases h
  | succ fuel ih =>
    rw [rangeNodes]
    conv_rhs => rw [rangeNodes]
    by_cases hn : n ≤ 1
    · simp [hn]
    · simp only [fits, hn, decide_false, Bool.false_or, Bool.and_eq_true] at h
      dsimp only
      rw [ih h.1, ih h.2]

/-- The value of a range and its lowest present lane. -/
def spanVal (x n : Nat) : Option (Nat × Word) := rangeVal leaf f 16 x n

/-- The values of two ranges side by side, combined where both are present. -/
def besides : Option (Nat × Word) → Option (Nat × Word) → Option (Nat × Word)
  | some a, some b => some (a.1, (f a.1 a.2 b.2).val)
  | some a, none => some a
  | none, b => b

theorem rangeVal_parts (fuel x n : Nat) (h : 1 < n) :
    rangeVal leaf f (fuel + 1) x n = besides f (rangeVal leaf f fuel x (n - rightPart n))
      (rangeVal leaf f fuel (x + (n - rightPart n)) (rightPart n)) :=
  (if_neg (Nat.ne_of_gt (Nat.lt_of_succ_lt h))).trans (if_neg (Nat.ne_of_gt h))

theorem spanVal_zero (x : Nat) : spanVal leaf f x 0 = none := rfl
theorem spanVal_one (x : Nat) : spanVal leaf f x 1 = (leaf x).map (fun v => (x, v)) := rfl

/-- A range is the combination of its parts. -/
theorem spanVal_parts {x m r : Nat} (hr : rightPart (m + r) = r) (hn : m + r < 65) (h1 : 1 < m + r) :
    spanVal leaf f x (m + r) = besides f (spanVal leaf f x m) (spanVal leaf f (x + m) r) := by
  rw [spanVal, rangeVal_parts leaf f 15 x (m + r) h1, hr, Nat.add_sub_cancel,
    ← rangeVal_succ leaf f (fits_of_le m (by omega)), ← rangeVal_succ leaf f (fits_of_le r (by omega))]
  rfl

theorem rangeNodes_parts {x m r : Nat} (hr : rightPart (m + r) = r) (hn : m + r < 65) (h1 : 1 < m + r) :
    rangeNodes 16 x (m + r) = (x, m + r) :: rangeNodes 16 x m ++ rangeNodes 16 (x + m) r := by
  conv_lhs => rw [rangeNodes]
  rw [if_neg (by omega), hr]
  dsimp only
  rw [Nat.add_sub_cancel, rangeNodes_succ (fits_of_le m (by omega)), rangeNodes_succ (fits_of_le r (by omega))]

/-- Both parts of a node are present. -/
def meets (q : Nat × Nat) : Bool :=
  (spanVal leaf f q.1 (q.2 - rightPart q.2)).isSome && (spanVal leaf f (q.1 + (q.2 - rightPart q.2)) (rightPart q.2)).isSome

/-- A node with its events, named as the model names it. -/
def eventsAt (q : Nat × Nat) : (Nat × Nat) × Counts := ((q.1, q.1 + q.2), nodeEvents leaf f q.1 q.2)

/-- What a part of a scan has combined is a range: its value, and of its nodes those with both parts. -/
structure Combined.Covers (c : Combined) (x n : Nat) : Prop where
  val : c.val = (spanVal leaf f x n).map Prod.swap
  nodes : ∀ e, e ∈ c.nodes ↔ ∃ q ∈ rangeNodes 16 x n, meets leaf f q = true ∧ eventsAt leaf f q = e
  absent : c.val = none → c.nodes = []

variable {leaf f}

theorem Combined.Covers.empty (x : Nat) : Combined.Covers leaf f { val := none, nodes := [] } x 0 where
  val := rfl
  nodes e := by simp [rangeNodes]
  absent _ := rfl

theorem Combined.Covers.single (x : Nat) : Combined.Covers leaf f { val := (leaf x).map (fun v => (v, x)), nodes := [] } x 1 where
  val := by simp [spanVal_one, Function.comp_def]
  nodes e := by simp [rangeNodes]
  absent _ := rfl

/-- Two ranges side by side. -/
theorem Combined.Covers.join {a b : Combined} {x m r : Nat} (ha : a.Covers leaf f x m) (hb : b.Covers leaf f (x + m) r)
    (hr : rightPart (m + r) = r) (hn : m + r < 65) (h1 : 1 < m + r) :
    (Combined.join f x (x + (m + r)) a b).Covers leaf f x (m + r) := by
  have hval := spanVal_parts leaf f (x := x) hr hn h1
  have hmeets : meets leaf f (x, m + r) = ((spanVal leaf f x m).isSome && (spanVal leaf f (x + m) r).isSome) := by
    simp only [meets, hr, Nat.add_sub_cancel]
  have hnodes (e) : (∃ q ∈ rangeNodes 16 x (m + r), meets leaf f q = true ∧ eventsAt leaf f q = e)
      ↔ (meets leaf f (x, m + r) = true ∧ eventsAt leaf f (x, m + r) = e) ∨ e ∈ a.nodes ∨ e ∈ b.nodes := by
    rw [ha.nodes, hb.nodes, rangeNodes_parts hr hn h1]
    simp only [List.cons_append, List.mem_cons, List.mem_append, or_and_right, exists_or, exists_eq_left]
  have hav := ha.val
  have hbv := hb.val
  cases hx : spanVal leaf f x m with
  | none =>
    rw [hx, Option.map_none] at hav
    have hjoin : Combined.join f x (x + (m + r)) a b = { val := b.val, nodes := b.nodes } := by
      simp only [Combined.join, hav]
    rw [hjoin]
    refine ⟨by rw [hval, hx]; exact hbv, fun e => ?_, hb.absent⟩
    rw [hnodes, hmeets, ha.absent hav, hx]
    simp
  | some p =>
    rw [hx, Option.map_some] at hav
    cases hy : spanVal leaf f (x + m) r with
    | none =>
      rw [hy, Option.map_none] at hbv
      have hjoin : Combined.join f x (x + (m + r)) a b = { val := some p.swap, nodes := a.nodes } := by
        simp only [Combined.join, hav, hbv]
      rw [hjoin]
      refine ⟨by rw [hval, hx, hy]; rfl, fun e => ?_, fun h => by cases h⟩
      rw [hnodes, hmeets, hb.absent hbv, hy]
      simp
    | some q =>
      rw [hy, Option.map_some] at hbv
      have hjoin : Combined.join f x (x + (m + r)) a b
          = { val := some ((f p.1 p.2 q.2).val, p.1)
              nodes := a.nodes ++ b.nodes ++ [((x, x + (m + r)), (f p.1 p.2 q.2).cnt)] } := by
        simp only [Combined.join, hav, hbv]
        rfl
      have hevents : eventsAt leaf f (x, m + r) = ((x, x + (m + r)), (f p.1 p.2 q.2).cnt) := by
        have hx' : rangeVal leaf f 16 x m = some p := hx
        have hy' : rangeVal leaf f 16 (x + m) r = some q := hy
        simp only [eventsAt, nodeEvents, hr, Nat.add_sub_cancel, hx', hy']
      rw [hjoin]
      refine ⟨by rw [hval, hx, hy]; rfl, fun e => ?_, fun h => by cases h⟩
      rw [hnodes, hmeets, hx, hy, hevents]
      simp only [List.mem_append, List.mem_singleton, Option.isSome_some, Bool.and_self, true_and, eq_comm (a := e)]
      exact or_comm

/-! ### Blocks and prefixes -/

theorem scanBlock_covers (m x : Nat) (hm : m < 7) : (scanBlock leaf f m x).Covers leaf f x (2 ^ m) := by
  induction m generalizing x with
  | zero => exact .single x
  | succ m ih =>
    have hpow : 2 ^ (m + 1) = 2 ^ m + 2 ^ m := Nat.two_pow_succ m
    have hle : 2 ^ (m + 1) ≤ 2 ^ 6 := Nat.pow_le_pow_right (by omega) (by omega)
    have hpos : 0 < 2 ^ m := Nat.two_pow_pos m
    rw [scanBlock, hpow]
    exact (ih x (by omega)).join (ih (x + 2 ^ m) (by omega)) (rightPart_two_pow m (by omega)) (by omega) (by omega)

/-- A block behind what the higher bits of a count have combined. -/
theorem Combined.Covers.step {c : Combined} {x k m : Nat} (hc : c.Covers leaf f x (2 * k * 2 ^ m)) (hm : m < 7)
    (hn : 2 * k * 2 ^ m + 2 ^ m < 65) :
    (Combined.join f x (x + 2 * k * 2 ^ m + 2 ^ m) c (scanBlock leaf f m (x + 2 * k * 2 ^ m))).Covers leaf f x
      (2 * k * 2 ^ m + 2 ^ m) := by
  have hb := scanBlock_covers (leaf := leaf) (f := f) m (x + 2 * k * 2 ^ m) hm
  have hpos : 0 < 2 ^ m := Nat.two_pow_pos m
  rcases Nat.eq_zero_or_pos k with rfl | hk
  · have hnone : c.val = none := by simpa [spanVal_zero] using hc.val
    have hjoin (y : Combined) (lo hi : Nat) : Combined.join f lo hi c y = y := by simp only [Combined.join, hnone]
    rw [hjoin]
    simpa using hb
  · have hk64 : k < 64 := by nlinarith
    have hm6 : m < 6 := by
      by_contra h
      obtain rfl : m = 6 := by omega
      omega
    rw [Nat.add_assoc]
    exact hc.join hb (rightPart_add_two_pow m hm6 k hk64 hk hn) hn (by nlinarith)

theorem scanPrefix_covers (t cnt m : Nat) (hm : m ≤ 7) (hcnt : cnt ≤ 64) (c : Combined)
    (hc : c.Covers leaf f t (cnt / 2 ^ m * 2 ^ m)) :
    (scanPrefix leaf f t cnt m (t + cnt / 2 ^ m * 2 ^ m) c).Covers leaf f t cnt := by
  induction m generalizing c with
  | zero => simpa [scanPrefix] using hc
  | succ m ih =>
    have hdiv : cnt / 2 ^ (m + 1) = cnt / 2 ^ m / 2 := by rw [Nat.pow_succ, Nat.div_div_eq_div_mul]
    have hhigh : cnt / 2 ^ (m + 1) * 2 ^ (m + 1) = 2 * (cnt / 2 ^ (m + 1)) * 2 ^ m := by rw [Nat.pow_succ]; ring
    have hle : cnt / 2 ^ m * 2 ^ m ≤ cnt := Nat.div_mul_le_self cnt _
    rw [scanPrefix]
    rw [hhigh] at hc ⊢
    cases hbit : cnt.testBit m with
    | true =>
      have hodd : cnt / 2 ^ m % 2 = 1 := by simpa [Nat.testBit_eq_decide_div_mod_eq] using hbit
      have hnow : cnt / 2 ^ m * 2 ^ m = 2 * (cnt / 2 ^ (m + 1)) * 2 ^ m + 2 ^ m := by
        rw [← Nat.succ_mul]
        congr 1
        omega
      rw [if_pos rfl, Nat.add_assoc, ← hnow]
      refine ih (by omega) _ ?_
      rw [hnow, ← Nat.add_assoc]
      exact hc.step (by omega) (by omega)
    | false =>
      have heven : cnt / 2 ^ m % 2 = 0 := by simpa [Nat.testBit_eq_decide_div_mod_eq] using hbit
      have hnow : cnt / 2 ^ m * 2 ^ m = 2 * (cnt / 2 ^ (m + 1)) * 2 ^ m := by
        congr 1
        omega
      rw [if_neg Bool.false_ne_true, ← hnow]
      exact ih (by omega) _ (by rwa [hnow])

/-- The first positions of a segment, by the bits of their number. -/
theorem scanPrefix_covers_count (t cnt : Nat) (hcnt : cnt ≤ 64) :
    (scanPrefix leaf f t cnt 7 t { val := none, nodes := [] }).Covers leaf f t cnt := by
  have hz : cnt / 2 ^ 7 * 2 ^ 7 = 0 := by omega
  have h := scanPrefix_covers (leaf := leaf) (f := f) t cnt 7 (Nat.le_refl 7) hcnt { val := none, nodes := [] }
    (by rw [hz]; exact .empty t)
  rwa [hz] at h

/-! ### Each node once (04 R81) -/

/-- Where a key determines its entry, to keep an entry whose key is new is to insert it. -/
theorem insertNew_eq {acc : List ((Nat × Nat) × Counts)} {x : (Nat × Nat) × Counts}
    (h : ∀ y ∈ acc, y.1 = x.1 → y = x) :
    (if acc.any (fun y => y.1 == x.1) then acc else x :: acc) = acc.insert x := by
  by_cases hx : x ∈ acc
  · rw [List.insert_of_mem hx, if_pos]
    exact List.any_eq_true.mpr ⟨x, hx, beq_self_eq_true _⟩
  · rw [List.insert_of_not_mem hx, if_neg]
    intro hany
    obtain ⟨y, hy, hk⟩ := List.any_eq_true.mp hany
    exact hx (h y hy (eq_of_beq hk) ▸ hy)

theorem foldl_insertNew (xs acc : List ((Nat × Nat) × Counts))
    (h : ∀ x ∈ acc ++ xs, ∀ y ∈ acc ++ xs, x.1 = y.1 → x = y) :
    xs.foldl (fun acc x => if acc.any (fun y => y.1 == x.1) then acc else x :: acc) acc
      = xs.foldl (fun acc x => acc.insert x) acc := by
  induction xs generalizing acc with
  | nil => rfl
  | cons x xs ih =>
    rw [List.foldl_cons, List.foldl_cons, insertNew_eq (fun y hy => h y (by simp [hy]) x (by simp))]
    refine ih _ (fun y hy z hz => h y ?_ z ?_)
    · simp only [List.mem_append, List.mem_insert_iff, List.mem_cons] at hy ⊢
      tauto
    · simp only [List.mem_append, List.mem_insert_iff, List.mem_cons] at hz ⊢
      tauto

theorem foldl_insert_spec {α : Type} [BEq α] [LawfulBEq α] (xs acc : List α) (hacc : acc.Nodup) :
    (xs.foldl (fun acc x => acc.insert x) acc).Nodup
      ∧ ∀ x, x ∈ xs.foldl (fun acc x => acc.insert x) acc ↔ x ∈ acc ∨ x ∈ xs := by
  induction xs generalizing acc with
  | nil => simp [hacc]
  | cons y xs ih =>
    obtain ⟨hn, hm⟩ := ih (acc.insert y) hacc.insert
    refine ⟨hn, fun x => (hm x).trans ?_⟩
    simp only [List.mem_insert_iff, List.mem_cons]
    tauto

section
variable (leaf f)

theorem eventsAt_injective : Function.Injective (eventsAt leaf f) := by
  intro p q h
  have hk := congrArg Prod.fst h
  simp only [eventsAt, Prod.mk.injEq] at hk
  exact Prod.ext hk.1 (by omega)

/-- A node without both parts has no events. -/
theorem nodeEvents_of_not_meets (q : Nat × Nat) (h : meets leaf f q = false) : nodeEvents leaf f q.1 q.2 = Counts.zero := by
  unfold nodeEvents
  dsimp only
  split
  case h_1 a b ha hb => simp [meets, spanVal, ha, hb] at h
  case h_2 => rfl
end

/-- The events of the distinct nodes that several scans have combined. -/
theorem distinctCounts_eq {nodes : List ((Nat × Nat) × Counts)} {qs : List (Nat × Nat)}
    (h : ∀ e, e ∈ nodes ↔ ∃ q ∈ qs, meets leaf f q = true ∧ eventsAt leaf f q = e) :
    distinctCounts nodes = Counts.sum (qs.dedup.map (fun q => nodeEvents leaf f q.1 q.2)) := by
  have hkey : ∀ x ∈ [] ++ nodes, ∀ y ∈ [] ++ nodes, x.1 = y.1 → x = y := by
    intro x hx y hy hxy
    obtain ⟨p, -, -, rfl⟩ := (h x).mp hx
    obtain ⟨q, -, -, rfl⟩ := (h y).mp hy
    have hpq : p = q := by
      simp only [eventsAt, Prod.mk.injEq] at hxy
      exact Prod.ext hxy.1 (by omega)
    rw [hpq]
  obtain ⟨hnodup, hmem⟩ := foldl_insert_spec nodes [] List.nodup_nil
  have hperm : (nodes.foldl (fun acc x => acc.insert x) []).Perm
      ((qs.dedup.filter (meets leaf f)).map (eventsAt leaf f)) := by
    refine (List.perm_ext_iff_of_nodup hnodup
      (((List.nodup_dedup qs).filter _).map (eventsAt_injective leaf f))).mpr (fun e => ?_)
    rw [hmem, h]
    simp only [List.not_mem_nil, false_or, List.mem_map, List.mem_filter, List.mem_dedup, and_assoc]
  rw [distinctCounts, foldl_insertNew nodes [] hkey, Counts.sum_perm (hperm.map Prod.snd), List.map_map,
    ← Counts.sum_map_filter (meets leaf f) _ qs.dedup (fun q _ hq => nodeEvents_of_not_meets leaf f q hq)]
  rfl
end

end Sys2Proof.Machine
end
section
/-! SUPPORT. Floating scans and reductions (03 R65, R66, 04 R80, R81). -/

namespace Sys2Proof.Machine

open Sys2Proof.Claims

/-! ### One combination, and the first value -/

theorem scanCombine_eq {op : ScanOp} (hop : isFloatOp op = true) (cx : Cx) (fs : BitVec 4) :
    scanCombine op cx fs = fun l => combineNum (cx.fmt fs) (cx.fmt fs).k op (cx.key fs l) := by
  funext l x y
  rw [scanCombine, if_pos hop]
  dsimp only
  rw [elemWise_eq, packRounded_eq]
  simp only [Tallied.bind_assoc]
  cases op with
  | fadd => rfl
  | fmin => rfl
  | fmax => rfl
  | _ => cases hop

theorem packElems_replicate (w k c : Nat) :
    packElems w (List.replicate k c) = BitVec.ofNat 64 (((List.range k).map (fun j => c % 2 ^ w * 2 ^ (j * w))).sum) := by
  rw [← ofNat_sum_codes (List.length_replicate (n := k) (a := c))]
  congr 2
  refine List.map_congr_left (fun j hj => ?_)
  rw [List.getD_replicate _ (List.mem_range.mp hj)]

theorem scanFirst_eq {op : ScanOp} (hop : isFloatOp op = true) (f : Fmt) : scanFirst op f = scanFirstFloat op f := by
  cases op with
  | fadd => exact packElems_replicate _ _ _
  | fmin => exact packElems_replicate _ _ _
  | fmax =>
    refine (packElems_replicate _ _ _).trans ?_
    simp [scanFirstFloat, extremeCode]
  | _ => cases hop

/-! ### The lanes -/

theorem pickLane_map {ls : List Nat} (v : Nat → Word) {l : Nat} (hl : l ∈ ls) :
    pickLane (ls.map (fun k => (k, v k))) l = v l := by
  induction ls with
  | nil => cases hl
  | cons k ls ih =>
    rw [pickLane, Tab.get?, List.map_cons, List.find?_cons]
    by_cases hk : k = l
    · simp [hk]
    · rw [decide_eq_false hk]
      exact ih ((List.mem_cons.mp hl).resolve_left (Ne.symm hk))

section
variable (cx : Cx) (n : Nat) (op : ScanOp) (fs : BitVec 4) (a : Src) (count : Nat → Nat)

/-- The values that a scan combines: those of the active lanes. -/
def scanLeaf (l : Nat) : Option Word := if laneIn cx.eff l then some ((cx.src a).lane l) else none

/-- What a scan writes in a lane. -/
def scanAt (l : Nat) : Word :=
  ((rangeVal (scanLeaf cx a) (scanCombine op cx fs) 16 (l - l % n) (count l)).map Prod.snd).getD (scanFirst op (cx.fmt fs))

/-- The nodes of the ranges of all active lanes. -/
def scanNodes : List (Nat × Nat) := ((lanes cx.eff).flatMap (fun l => rangeNodes 16 (l - l % n) (count l))).dedup

/-- Their events. -/
def scanEvents : Counts :=
  Counts.sum ((scanNodes cx n count).map (fun q => nodeEvents (scanLeaf cx a) (scanCombine op cx fs) q.1 q.2))

variable {count} (hcount : ∀ l, count l ≤ 64)
include hcount

theorem scanLanes_lane {l : Nat} (hl : laneIn cx.eff l = true) :
    pickLane (scanLanes cx n op fs a count).1 l = scanAt cx n op fs a count l := by
  have hc := scanPrefix_covers_count (leaf := scanLeaf cx a) (f := scanCombine op cx fs) (l - l % n) (count l) (hcount l)
  have hlane : pickLane (scanLanes cx n op fs a count).1 l
      = match (scanPrefix (scanLeaf cx a) (scanCombine op cx fs) (l - l % n) (count l) 7 (l - l % n)
          { val := none, nodes := [] }).val with
        | some v => v.1
        | none => scanFirst op (cx.fmt fs) := by
    simp only [scanLanes, List.map_map]
    exact pickLane_map _ ((mem_lanes _ _).mpr hl)
  rw [hlane, hc.val, scanAt, spanVal]
  cases rangeVal (scanLeaf cx a) (scanCombine op cx fs) 16 (l - l % n) (count l) with
  | none => rfl
  | some v => rfl

theorem scanLanes_cnt : (scanLanes cx n op fs a count).2 = scanEvents cx n op fs a count := by
  refine distinctCounts_eq (leaf := scanLeaf cx a) (f := scanCombine op cx fs) (fun e => ?_)
  have hc (l : Nat) := (scanPrefix_covers_count (leaf := scanLeaf cx a) (f := scanCombine op cx fs) (l - l % n) (count l)
    (hcount l)).nodes e
  have hnodes : (∃ l ∈ lanes cx.eff, ∃ q ∈ rangeNodes 16 (l - l % n) (count l),
      meets (scanLeaf cx a) (scanCombine op cx fs) q = true ∧ eventsAt (scanLeaf cx a) (scanCombine op cx fs) q = e)
      ↔ ∃ q ∈ (lanes cx.eff).flatMap (fun l => rangeNodes 16 (l - l % n) (count l)),
      meets (scanLeaf cx a) (scanCombine op cx fs) q = true ∧ eventsAt (scanLeaf cx a) (scanCombine op cx fs) q = e := by
    simp only [List.mem_flatMap]
    grind
  rw [← hnodes, List.flatMap_map, List.mem_flatMap]
  exact exists_congr (fun l => and_congr_right (fun _ => hc l))
end

section
variable (cx : Cx) (u : Uses) (n : Nat) {op : ScanOp} (fs : BitVec 4) (a : Src) (count : Nat → Nat)

theorem fetched_scanCombine (hop : isFloatOp op = true) :
    scanCombine op (cx.fetched u) fs = scanCombine op cx fs := by
  simp only [scanCombine_eq hop, fetched_fmt, fetched_key]

theorem fetched_scanLeaf : scanLeaf (cx.fetched u) a = scanLeaf cx a := by
  funext l
  simp only [scanLeaf, Proofs.fetched_src, Proofs.fetched_eff]

theorem fetched_scanAt (hop : isFloatOp op = true) : scanAt (cx.fetched u) n op fs a count = scanAt cx n op fs a count := by
  funext l
  simp only [scanAt, fetched_scanLeaf, fetched_scanCombine cx u fs hop, fetched_fmt]

theorem fetched_scanEvents (hop : isFloatOp op = true) :
    scanEvents (cx.fetched u) n op fs a count = scanEvents cx n op fs a count := by
  simp only [scanEvents, scanNodes, fetched_scanLeaf, fetched_scanCombine cx u fs hop, Proofs.fetched_eff]
end

/-- Where the segment is the group and every lane is active, each lane's range begins at lane 0. -/
theorem sub_mod_of_segUniform {cx : Cx} {n l : Nat} (h : segUniform cx n = true) (hl : l < cx.g.width) : l - l % n = 0 := by
  simp only [segUniform, Bool.and_eq_true, beq_iff_eq] at h
  rw [h.1, Cx.w, Nat.mod_eq_of_lt hl, Nat.sub_self]

theorem laneIn_zero_of_segUniform {cx : Cx} {n : Nat} (h : segUniform cx n = true) (hl : 0 < cx.g.width) :
    laneIn cx.eff 0 = true := by
  simp only [segUniform, Cx.full, Bool.and_eq_true, beq_iff_eq] at h
  rw [h.2, Group.full, laneIn_fullMask]
  simp [hl]

/-- The register value of a scan. -/
def scanResult (cx : Cx) (n : Nat) (op : ScanOp) (fs : BitVec 4) (a : Src) (count : Nat → Nat) (equal : Bool) :
    Tallied RegVal :=
  let r := scanLanes cx n op fs a count
  { val := if equal && segUniform cx n then .uniform (pickLane r.1 0) else generalVal cx.w (pickLane r.1), cnt := r.2 }

theorem scanResult_lane (cx : Cx) (n : Nat) (op : ScanOp) (fs : BitVec 4) (a : Src) {count : Nat → Nat} {equal : Bool}
    (hcount : ∀ l, count l ≤ 64) (hequal : equal = true → ∀ l, count l = count 0) {l : Nat}
    (hl : laneIn cx.eff l = true) (hw : l < cx.g.width) :
    (scanResult cx n op fs a count equal).val.lane l = scanAt cx n op fs a count l := by
  cases hu : equal && segUniform cx n with
  | false =>
    simp only [scanResult, hu, Bool.false_eq_true, if_false]
    exact (RegVal.lane_general _ _ _ hw).trans (scanLanes_lane cx n op fs a hcount hl)
  | true =>
    obtain ⟨he, hseg⟩ := Bool.and_eq_true_iff.mp hu
    simp only [scanResult, hu, if_true]
    refine (scanLanes_lane cx n op fs a hcount (laneIn_zero_of_segUniform hseg (by omega))).trans ?_
    simp only [scanAt, sub_mod_of_segUniform hseg hw, hequal he l, Nat.zero_mod, Nat.sub_self]

/-- How a floating scan or reduction completes. -/
theorem scanWord_wroteFloat {g : Guard} {sp : BitVec 3} {op : ScanOp} {fs : BitVec 4} {d : RegIx} {a : Src}
    {count : Nat → Nat} {equal : Bool} {s : State} {cx : Cx} (hop : isFloatOp op = true)
    (hr : Ready s g ((usesOf [a] [d]).withSlots [(fs, 1)]) cx) (hcount : ∀ l, count l ≤ 64)
    (hequal : equal = true → ∀ l, count l = count 0) :
    ∃ t gt, scanWord g sp op fs d a count equal s = .next t
      ∧ WroteFloat s t cx g d (scanAt cx (spanOf sp) op fs a count) (scanEvents cx (spanOf sp) op fs a count)
        (decide ((cx.fmt fs).rnd = 5)) gt := by
  have hu : (usesOf [a] [d]).withSlots (if isFloatOp op then fsSlot fs else []) = (usesOf [a] [d]).withSlots [(fs, 1)] := by
    rw [if_pos hop]
    rfl
  rw [scanWord, hu]
  refine issueMasked_wroteFloat hr d (fun cx => scanResult cx (spanOf sp) op fs a count equal)
    (fun cx => isFloatOp op && (cx.fmt fs).sto) _ _ _ (fun l hl hw => ?_) ?_ ?_
  · rw [scanResult_lane _ _ _ _ _ hcount hequal (by simpa using hl) (by simpa using hw), fetched_scanAt _ _ _ _ _ _ hop]
  · exact (scanLanes_cnt (cx.fetched _) _ op fs a hcount).trans (fetched_scanEvents _ _ _ _ _ _ hop)
  · simp [hop]

end Sys2Proof.Machine
end
section
/-! PROOFS. Floating-point words round the exact result once (03 R65, R66, 04 R79 to R81, R84 to R93). -/

namespace Sys2Proof.Proofs

open Sys2Proof Sys2Proof.Machine Sys2Proof.Claims

theorem spanOf_le {e : Env} {sp : BitVec 3} (h : WellFormed.span e sp = true) : spanOf sp ≤ 64 := by
  simp only [WellFormed.span, Bool.and_eq_true, decide_eq_true_eq] at h
  exact (Nat.pow_le_pow_right (by omega) (show sp.toNat + 1 ≤ 6 by omega) : 2 ^ (sp.toNat + 1) ≤ 2 ^ 6)

theorem floatScan : FloatScan := by
  intro g sp op fs excl isScan d a s cx i hi hop hwf hr n f leaf comb len val nodes
  have hcomb : comb = scanCombine op cx fs := (scanCombine_eq hop cx fs).symm
  have hval : val = scanAt cx n op fs a len := by
    funext l
    have hleaf : leaf = scanLeaf cx a := rfl
    simp only [val, scanAt, hcomb, hleaf, scanFirst_eq hop]
    cases rangeVal (scanLeaf cx a) (scanCombine op cx fs) 16 (l - l % n) (len l) with
    | none => rfl
    | some v => rfl
  have hevents : Counts.sum (nodes.map (fun x => nodeEvents leaf comb x.1 x.2)) = scanEvents cx n op fs a len := by
    rw [hcomb]
    rfl
  rw [hval, hevents]
  cases isScan with
  | true =>
    subst hi
    replace hwf : wellFormed cx.env (.scan g sp op fs excl d a) = true := hwf
    simp only [wellFormed, Bool.and_eq_true] at hwf
    obtain ⟨⟨⟨⟨-, hsp⟩, -⟩, -⟩, -⟩ := hwf
    have hspan := spanOf_le hsp
    have hpos : 0 < spanOf sp := Nat.two_pow_pos _
    have hlen : len = fun l => l % spanOf sp + if excl then 0 else 1 := by
      funext l
      cases excl <;> rfl
    rw [hlen]
    exact scanWord_wroteFloat hop hr (fun l => by
      have := Nat.mod_lt l hpos
      split <;> omega) (fun h => by cases h)
  | false =>
    subst hi
    replace hwf : wellFormed cx.env (.redl g sp op fs d a) = true := hwf
    simp only [wellFormed, Bool.and_eq_true] at hwf
    obtain ⟨⟨⟨⟨-, hsp⟩, -⟩, -⟩, -⟩ := hwf
    exact scanWord_wroteFloat (count := fun _ => spanOf sp) hop hr (fun _ => spanOf_le hsp) (fun _ _ => rfl)

/-- Settles O27: each form's word computes it lane by lane, and a scan's prefixes and blocks are the ranges of 03 R66. -/
theorem floatArithmetic : Obligations.FloatArithmetic := ⟨floatResults, floatScan⟩

end Sys2Proof.Proofs
end
section
/-! SUPPORT. Conversions to integers, and products of three factors (04 R91, 06 R149). -/

namespace Sys2Proof.Machine

open Sys2Proof.Claims

/-! ### A number as an integer register value (03 R41, 04 R91) -/

theorem narrow_eq_fit (w u : Bool) (n : Int) : narrow w u n = fit w u n := by
  cases w with
  | false => rw [fit_full]; rfl
  | true =>
    cases u with
    | true =>
      refine BitVec.eq_of_toNat_eq ?_
      rw [narrow, toNat_extend_unsigned]
      simp only [low, wid, fit, if_true, BitVec.toNat_ofInt, Bool.not_true, Bool.and_false, Bool.false_and,
        Bool.false_eq_true, if_false]
      omega
    | false =>
      refine BitVec.eq_of_toInt_eq ?_
      have hlow : ((BitVec.ofInt 64 n).extractLsb' 0 32).toNat = (n % 2 ^ 32).toNat := by
        simp only [BitVec.extractLsb'_toNat, Nat.shiftRight_zero, BitVec.toNat_ofInt]
        omega
      have hs : (narrow true false n).toInt = ((BitVec.ofInt 64 n).extractLsb' 0 32).toInt :=
        BitVec.toInt_signExtend_of_le (by omega)
      rw [hs, BitVec.toInt_eq_toNat_cond, hlow]
      simp only [fit, wid, if_true, Bool.not_false, Bool.true_and, decide_eq_true_eq, BitVec.toInt_ofInt]
      split <;> split <;> simp only [Int.bmod_def] <;> omega

/-- A value beyond a range, told from above or from below. -/
theorem saturated_eq {α : Type} {lo hi r : Int} (h : lo ≤ hi) (below above inside : α) :
    (if hi < r then above else if r < lo then below else inside)
      = if r < lo ∨ hi < r then (if r < lo then below else above) else inside := by
  by_cases h1 : hi < r
  · rw [if_pos h1, if_pos (.inr h1), if_neg (by omega)]
  · by_cases h2 : r < lo
    · rw [if_neg h1, if_pos h2, if_pos (.inl h2), if_pos h2]
    · rw [if_neg h1, if_neg h2, if_neg (by omega)]

theorem lowest_le_highest (w u : Bool) :
    (if u then 0 else -(2 ^ (wid w - 1)) : Int) ≤ if u then 2 ^ wid w - 1 else 2 ^ (wid w - 1) - 1 := by
  cases w <;> cases u <;> decide

/-- A number rounded to the grid of integers, and saturated (04 R91). -/
theorem toIntLane_eq (f : Fmt) (key : Key) (w u : Bool) (a : Word) :
    toIntLane f key w u a
      = (f.decode (a.toNat % 2 ^ f.w)).bind (fun x =>
        let lo : Int := if u then 0 else -(2 ^ (wid w - 1))
        let hi : Int := if u then 2 ^ wid w - 1 else 2 ^ (wid w - 1) - 1
        (match x with
        | .nan => { val := 0, cnt := { Counts.zero with nanl := 1 } }
        | .inf neg => { val := fit w u (if neg then lo else hi), cnt := { Counts.zero with sat := 1 } }
        | .zero _ => .pure 0
        | x =>
          let r := roundToGrid f key x 1
          if r < lo ∨ hi < r then { val := fit w u (if r < lo then lo else hi), cnt := { Counts.zero with sat := 1 } }
          else .pure (fit w u r) : Tallied Word)) := by
  have hsub : subElem a f.w 0 = a.toNat % 2 ^ f.w := by simp [subElem]
  have hout (v : Int) : toIntLane.intOut w u v = fit w u v := narrow_eq_fit w u v
  have hnumber (r : Int) := saturated_eq (r := r) (lowest_le_highest w u)
    ({ val := fit w u (if u then 0 else -(2 ^ (wid w - 1))), cnt := Counts.oneSat } : Tallied Word)
    { val := fit w u (if u then 2 ^ wid w - 1 else 2 ^ (wid w - 1) - 1), cnt := Counts.oneSat } (.pure (fit w u r))
  have hone (p : Prop) [Decidable p] (x y : Int) :
      (if p then { val := fit w u x, cnt := Counts.oneSat } else { val := fit w u y, cnt := Counts.oneSat } : Tallied Word)
        = { val := fit w u (if p then x else y), cnt := Counts.oneSat } := by split <;> rfl
  unfold toIntLane
  rw [decElem, hsub]
  dsimp only
  refine congrArg (Tallied.bind _) (funext (fun x => ?_))
  simp only [hout]
  simp only [hone] at hnumber
  cases x with
  | nan => rfl
  | inf n => rfl
  | zero n => rfl
  | _ => exact hnumber _

/-! ### A product of three factors (06 R149) -/

namespace Num

def isInf : Num → Bool
  | .inf _ => true
  | _ => false

def isZero : Num → Bool
  | .zero _ => true
  | _ => false

theorem isInf_iff (x : Num) : x.isInf = true ↔ ∃ n, x = .inf n := by cases x <;> simp [isInf]
theorem isZero_iff (x : Num) : x.isZero = true ↔ ∃ n, x = .zero n := by cases x <;> simp [isZero]

/-- An infinity meets a zero. -/
def clash (x y : Num) : Bool := x.isInf && y.isZero || x.isZero && y.isInf

/-- Such a product is invalid (04 R79). -/
theorem mul_of_clash {x y : Num} (h : clash x y = true) : mul x y = (.nan, true) := by
  simp only [clash, Bool.or_eq_true, Bool.and_eq_true, isInf_iff, isZero_iff] at h
  obtain ⟨⟨a, rfl⟩, ⟨b, rfl⟩⟩ | ⟨⟨a, rfl⟩, ⟨b, rfl⟩⟩ := h
  · rfl
  · rfl

/-- Another product of numbers is a number, infinite or zero where a factor is: the table of 04 R79. -/
theorem mul_of_not_clash {x y : Num} (hx : x ≠ .nan) (hy : y ≠ .nan) (h : clash x y = false) :
    (mul x y).1 ≠ .nan ∧ (mul x y).2 = false ∧ (mul x y).1.isInf = (x.isInf || y.isInf)
      ∧ (mul x y).1.isZero = (x.isZero || y.isZero) := by
  cases x <;> cases y <;> simp_all [mul, clash, isInf, isZero]

theorem mul_flag {x y : Num} (hx : x ≠ .nan) (hy : y ≠ .nan) : (mul x y).2 = clash x y := by
  cases h : clash x y with
  | true => rw [mul_of_clash h]
  | false => exact (mul_of_not_clash hx hy h).2.1

theorem isZero_of_isInf {x : Num} (h : x.isInf = true) : x.isZero = false := by
  obtain ⟨n, rfl⟩ := (isInf_iff x).mp h
  rfl
end Num

/-- Three factors clash where one is an infinity and one a zero. -/
theorem clash3_eq (x y z : Num) :
    ((x.isInf || y.isInf || z.isInf) && (x.isZero || y.isZero || z.isZero))
      = (Num.clash x y || ((x.isInf || y.isInf) && z.isZero || (x.isZero || y.isZero) && z.isInf)) := by
  have hx := @Num.isZero_of_isInf x
  have hy := @Num.isZero_of_isInf y
  have hz := @Num.isZero_of_isInf z
  unfold Num.clash
  grind

theorem product3_eq (x y z : Num) : product3 x y z
    = if x = .nan ∨ y = .nan ∨ z = .nan then (.nan, false)
      else if (x.isInf || y.isInf || z.isInf) && (x.isZero || y.isZero || z.isZero) then (.nan, true)
      else ((Num.mul (Num.mul x y).1 z).1, false) := rfl

theorem mulNums_eq_product3 (x y z : Num) : mulNums [x, y, z] = product3 x y z := by
  rw [product3_eq]
  have hc : [x, y, z].contains .nan = true ↔ x = .nan ∨ y = .nan ∨ z = .nan := by
    simp only [List.contains_iff_mem, List.mem_cons, List.not_mem_nil, or_false, @eq_comm _ Num.nan]
  by_cases hnan : x = .nan ∨ y = .nan ∨ z = .nan
  · rw [if_pos hnan, mulNums, if_pos (hc.mpr hnan)]
  · obtain ⟨hx, hy, hz⟩ : x ≠ .nan ∧ y ≠ .nan ∧ z ≠ .nan := by simpa using hnan
    have hmul : mulNums [x, y, z] = ((Num.mul (Num.mul x y).1 z).1, (Num.mul x y).2 || (Num.mul (Num.mul x y).1 z).2) := by
      rw [mulNums, if_neg (fun h => hnan (hc.mp h))]
      simp
    rw [if_neg hnan, hmul, clash3_eq]
    cases hxy : Num.clash x y with
    | true =>
      have hnan : Num.mul .nan z = (.nan, false) := rfl
      simp [Num.mul_of_clash hxy, hnan]
    | false =>
      obtain ⟨hnum, hflag, hinf, hzero⟩ := Num.mul_of_not_clash hx hy hxy
      rw [hflag, ← hinf, ← hzero, Bool.false_or, Bool.false_or]
      cases hp : Num.clash (Num.mul x y).1 z with
      | true =>
        rw [Num.mul_of_clash hp, if_pos (by simpa only [Num.clash] using hp)]
      | false =>
        rw [Num.mul_flag hnum hz, hp, if_neg (by simpa only [Num.clash, Bool.not_eq_true] using hp)]

theorem bandLane_eq (fx fb fy : Fmt) (key : Nat → Key) (a b : Word) :
    bandLane fx fb fy key a b
      = packRounded fy.w ((List.range (min fx.k fy.k)).map (fun j =>
          (fx.decode (subElem a fx.w j)).bind (fun x => (fb.decode (subElem b fb.w 0)).bind (fun y =>
            (fb.decode (subElem b fb.w 1)).bind (fun z =>
              (Tallied.ofOp (product3 x y z)).bind (fun q => round fy (key j) q)))))) := by
  simp only [bandLane, mulNums_eq_product3]
  rfl

end Sys2Proof.Machine
end
section
/-! PROOFS. fclass, f2i and bscl (04 R88, R91, 06 R149). -/

namespace Sys2Proof.Machine

open Sys2Proof.Claims

@[simp] theorem fetched_live (cx : Cx) (u : Uses) : (cx.fetched u).g.live = cx.g.live := by
  have hx : (cx.fetched u).g.exited = cx.g.exited := by
    have h := congrArg Group.exited (Group.refill_frame cx.g (u.names Members.none).named u.outside)
    exact h
  simp only [Group.live, Group.full, hx, Proofs.fetched_width]

/-- A ready word whose effect is a result without events. -/
theorem issueMasked_wroteReg {s : State} {w : Guard} {u : Uses} {cx : Cx} (hr : Ready s w u cx) (d : RegIx)
    (r : Cx → RegVal) (v : Nat → Word) (hv : ∀ l, laneIn cx.eff l = true → l < cx.g.width → (r (cx.fetched u)).lane l = v l) :
    ∃ t gt, issueMasked w u (fun s cx => .done (s.putResult cx d.toNat (r cx) Counts.zero)) s = .next t
      ∧ WroteReg s t cx w d v gt := by
  by_cases he : cx.eff = 0
  · obtain ⟨gt, hm⟩ := hr.finish_moved (cx.p.pc + 16) false
    exact ⟨_, gt, issueMasked_empty _ hr he, wroteReg_of_moved d v hm he⟩
  · obtain ⟨gt, hp⟩ := hr.putResult d.toNat (r (cx.fetched u)) Counts.zero
    exact ⟨_, gt, issueMasked_ready _ hr he, hp.wrote hr.regsRising hv⟩

/-- The class that fclass writes, of the sub-element that its lane of b names (04 R88). -/
theorem class_eq (cx : Cx) (fs : BitVec 4) (a b : Src) (l : Nat) :
    (if (cx.fmt fs).k ≤ (((cx.src b).lane l).extractLsb' 0 6).toNat then 0
      else BitVec.ofNat 64 (classOf (cx.fmt fs)
        (subElem ((cx.src a).lane l) (cx.fmt fs).w (((cx.src b).lane l).extractLsb' 0 6).toNat)))
      = classWord cx fs a b l := by
  have hi : (((cx.src b).lane l).extractLsb' 0 6).toNat = ((cx.src b).lane l).toNat % 64 := by
    simp [BitVec.extractLsb'_toNat]
  simp only [hi, classWord]
  by_cases h : ((cx.src b).lane l).toNat % 64 < (cx.fmt fs).k
  · rw [if_neg (by omega), if_pos h]
  · rw [if_pos (by omega), if_neg h]

theorem lane_of_isUniform {v : RegVal} (h : v.isUniform = true) (l : Nat) : v.lane 0 = v.lane l := by
  cases v with
  | unwritten => rfl
  | uniform x => rfl
  | affine b st => cases h
  | general xs => cases h

/-- A lane's class under uniform sources is every lane's. -/
theorem classWord_once {cx : Cx} {fs : BitVec 4} {a b : Src} (h : once cx [a, b] false = true) (l : Nat) :
    classWord cx fs a b 0 = classWord cx fs a b l := by
  simp only [once, shapeOf_uniform_iff, List.all_cons, List.all_nil, Bool.not_false, Bool.true_and, Bool.and_true,
    Bool.and_eq_true] at h
  simp only [classWord, lane_of_isUniform h.1 l, lane_of_isUniform h.2 l]

end Sys2Proof.Machine

namespace Sys2Proof.Proofs

open Sys2Proof Sys2Proof.Machine Sys2Proof.Claims

theorem classResult : ClassResult := by
  intro g fs d a b s cx _ hr
  refine issueMasked_wroteReg hr d (fun cx => (floatResult cx [a, b] false (fun l =>
    .pure (if (cx.fmt fs).k ≤ (((cx.src b).lane l).extractLsb' 0 6).toNat then 0
      else BitVec.ofNat 64 (classOf (cx.fmt fs)
        (subElem ((cx.src a).lane l) (cx.fmt fs).w (((cx.src b).lane l).extractLsb' 0 6).toNat))))).val)
    (classWord cx fs a b) (fun l hl hw => ?_)
  rw [floatResult_lane _ _ _ _ (by simpa using hl) (by simpa using hw)]
  simp only [Tallied.val_pure, fetched_fmt, fetched_src, fetched_once, class_eq]
  cases ho : once cx [a, b] false with
  | true => exact classWord_once ho l
  | false => rfl

theorem toIntegerResult : ToIntegerResult := by
  intro g fs w u d a s cx _ hr f one at_
  exact floatWord_wroteFloat (fun cx l => toIntLane (cx.fmt fs) (cx.key fs l 0) w u ((cx.src a).lane l)) at_ hr
    (fun l => by
      simp only [fetched_fmt, fetched_key, fetched_src]
      exact toIntLane_eq f (cx.key fs l 0) w u ((cx.src a).lane l))

theorem bandScale : BandScale := by
  intro g fs sb sc d a b s cx _ hr hlive hw32 fx fb fy at_
  let u := (usesOf [a, b] [d]).withSlots [(fs, 1), (sb, 2), (sc, 3)]
  have hat (l : Nat) : bandLane fx fb fy (cx.key sc l) ((cx.src a).lane l) ((cx.src b).lane l) = at_ l := bandLane_eq ..
  have hex : exec (.bscl g fs sb sc d a b) s
      = .next ((((s.fetched cx u).putResult (cx.fetched u) d.toNat (activeLanes cx at_).val (activeLanes cx at_).cnt).drawIf
          (cx.fetched u) fy.sto).finish (cx.fetched u) g u (some (cx.p.pc + 16))) := by
    change execBscl g fs sb sc d a b s = _
    rw [execBscl, issueWord_ready _ hr, if_neg (by simpa using hlive), if_neg (by simpa using hw32)]
    simp only [fetched_fmt, fetched_key, fetched_src, fetched_eff, Cx.w, fetched_width, activeLanes, ← hat]
    rfl
  rw [hex, ← activeLanes_cnt]
  obtain ⟨gt, hw⟩ := hr.wroteFloat d (activeLanes cx at_).val (activeLanes cx at_).cnt fy.sto (fun l => (at_ l).val)
    (fun l hl hw => activeLanes_lane cx at_ hl hw)
  exact ⟨_, gt, rfl, hw⟩

/-- Settles O28: classes and integers lane by lane, and the product of three factors by the table of 04 R79. -/
theorem floatConversions : Obligations.FloatConversions := ⟨classResult, toIntegerResult, bandScale⟩

end Sys2Proof.Proofs
end
section
/-! PROOFS. fcmp (04 R87). -/

namespace Sys2Proof.Machine

open Sys2Proof.Claims

/-- A group whose predicates and event counters have changed. -/
def Group.withTests (g : Group) (ps : List (Nat × Word)) (cnt : Counts) : Group := { g with preds := ps, counts := cnt }

theorem Group.setPred_addCounts (g : Group) (p : PredIx) (m v : Word) (cnt : Counts) :
    (g.setPred p m v).addCounts cnt = g.withTests (g.setPred p m v).preds (g.counts.add cnt) := rfl

theorem Group.onlyPreds_withTests {g r h : Group} {ps : List (Nat × Word)} {cnt : Counts} (hi : g.onlyIssue r)
    (hf : (r.withTests ps cnt).onlyIssue h) : g.onlyPreds { h with counts := g.counts } := by
  have hr : r.onlyIssue { h with preds := r.preds, counts := r.counts } := by
    have he := congrArg (fun x : Group => { x with preds := r.preds, counts := r.counts }) hf
    exact he
  have hcounts : r.counts = g.counts := by
    have h := congrArg Group.counts hi
    exact h
  rw [Group.onlyPreds, ← hi.preds, ← hcounts]
  exact (hi.trans hr).onlyRegs

/-- fcmp lane by lane. -/
theorem fcmpLane_eq (f : Fmt) (cc : FCond) (a b : Word) :
    fcmpLane f cc a b
      = { val := (List.range f.k).all (fun j => fcondHolds cc (decElem f a j).val (decElem f b j).val)
          cnt := Counts.sum ((List.range f.k).map (fun j => (decElem f a j).cnt.add (decElem f b j).cnt)) } := by
  refine Tallied.eq_of ?_ ?_
  · simp [fcmpLane, Tallied.all, Function.comp_def]
  · simp [fcmpLane, Tallied.all, Function.comp_def]

/-- The lanes in which a test holds. -/
def testMask (m : Word) (test : Nat → Tallied Bool) : Word :=
  maskOf ((((lanes m).map (fun k => (k, test k))).filter (fun x => x.2.val)).map Prod.fst)

theorem laneIn_testMask (m : Word) (test : Nat → Tallied Bool) {l : Nat} (hl : laneIn m l = true) :
    laneIn (testMask m test) l = (test l).val := by
  rw [testMask, laneIn_maskOf _ _ (lt_of_laneIn hl), List.filter_map, List.map_map]
  simp [mem_lanes, hl, Function.comp_def]

end Sys2Proof.Machine

namespace Sys2Proof.Proofs

open Sys2Proof Sys2Proof.Machine Sys2Proof.Claims

/-- A word has set a predicate and counted events. -/
structure Tested (s t : State) (cx : Cx) (w : Guard) (p : PredIx) (v : Nat → Bool) (cnt : Counts) (gt : Machine.Group) :
    Prop where
  next : Next s t cx w gt
  regs : cx.g.keeps gt []
  value : cx.g.setTo gt cx.eff p v
  counts : gt.counts = cx.g.counts.add cnt
  group : cx.g.onlyPreds { gt with counts := cx.g.counts }
  memory : s.sameMemory t cx
  rest : s.onlyGroups t

section
variable {s : State} {w : Guard} {u : Uses} {cx : Cx} (hr : Ready s w u cx)
include hr

/-- A ready word that sets a predicate and counts events completes. -/
theorem tests_done (p : PredIx) (m : Word) (cnt : Counts) (v : Nat → Bool)
    (hv : ∀ l, laneIn cx.eff l = true → l < cx.g.width → laneIn m l = v l) :
    ∃ gt, Tested s (((s.fetched cx u).modGroup cx.gid (fun x => (x.setPred p cx.eff m).addCounts cnt)).finish
        (cx.fetched u) w u (some (cx.p.pc + 16))) cx w p v cnt gt := by
  have hi : cx.g.onlyIssue (cx.fetched u).g := Group.refill_onlyIssue _ _ _
  have hcounts : (cx.fetched u).g.counts = cx.g.counts := by
    have h := congrArg Group.counts hi
    exact h
  obtain ⟨gt, hend⟩ := (hr.placed_fetched.modGroup (fun x => (x.setPred p cx.eff m).addCounts cnt) rfl rfl rfl).ended
    hr.ctxOf hr.memory hr.path (fun n => Group.path_refill cx.g _ _ n) w u
  have hissue := hend.issue
  have hset := Group.setPred_setTo (cx.fetched u).g p cx.eff m v (by rw [hi.preds]; exact hr.predsRising)
    (fun l hl hlw => hv l hl (by rwa [hi.width] at hlw))
  have hpred (q : PredIx) : gt.pred q = ((cx.fetched u).g.setPred p cx.eff m).pred q := hissue.pred q
  have hadded : gt.counts = (cx.fetched u).g.counts.add cnt := by
    have h := congrArg Group.counts hissue
    exact h
  rw [Group.setPred_addCounts] at hissue
  refine ⟨gt, hend.next, ?_, ⟨fun hp l hl hlw => ?_, fun q hq => ?_⟩, by rw [hadded, hcounts],
    Group.onlyPreds_withTests hi hissue, hend.memory, hend.rest⟩
  · exact (hi.keeps []).trans (fun q hq => hissue.keeps [] q hq)
  · rw [hpred, hset.1 hp l hl (by rwa [hi.width]), hi.pred]
  · rw [hpred, hset.2 q hq, hi.pred]
end

/-- A word without an active lane sets no predicate and counts nothing (01 R27). -/
theorem tested_of_moved {s t : State} {cx : Cx} {w : Guard} {gt : Machine.Group} (p : PredIx) (v : Nat → Bool)
    (hm : Moved s t cx w (cx.p.pc + 16) gt) (he : cx.eff = 0) : Tested s t cx w p v Counts.zero gt := by
  have hw := wrotePred_of_moved p v hm he
  have hcounts : gt.counts = cx.g.counts := by
    have h := congrArg Group.counts hm.group
    exact h
  refine ⟨hw.next, hw.regs, hw.value, hcounts.trans (Counts.add_zero _).symm, ?_, hw.memory, hw.rest⟩
  rw [← hcounts]
  exact hw.group

/-- How fcmp completes. -/
theorem execFcmp_tested {g : Guard} {fs : BitVec 4} {a b : Src} {s : State} {cx : Cx} (cc : FCond) (d : PredIx)
    (hr : Ready s g ((usesOf [a, b] []).withSlots [(fs, 1)]) cx) (test : Nat → Tallied Bool)
    (ht : ∀ l, fcmpLane (cx.fmt fs) cc ((cx.src a).lane l) ((cx.src b).lane l) = test l) :
    ∃ t gt, execFcmp g cc fs d a b s = .next t ∧ Tested s t cx g d (fun l => (test l).val)
      (Counts.sum ((lanes cx.eff).map (fun l => (test l).cnt))) gt := by
  rw [execFcmp]
  by_cases he : cx.eff = 0
  · obtain ⟨gt, hm⟩ := hr.finish_moved (cx.p.pc + 16) false
    refine ⟨_, gt, issueMasked_empty _ hr he, ?_⟩
    rw [he]
    exact tested_of_moved d _ hm he
  · obtain ⟨gt, hd⟩ := tests_done hr d (testMask cx.eff test) (Counts.sum ((lanes cx.eff).map (fun l => (test l).cnt)))
      (fun l => (test l).val) (fun l hl _ => laneIn_testMask cx.eff test hl)
    refine ⟨_, gt, (issueMasked_ready _ hr he).trans ?_, hd⟩
    simp only [fetched_fmt, fetched_src, fetched_eff, ht, List.map_map]
    rfl

/-- Settles O12: the mask of the lanes in which every sub-element's test holds, with the flushes of all. -/
theorem floatCompare : Obligations.FloatCompare := by
  intro g cc fs d a b s cx _ hr f pairs
  have hlane (l : Nat) : fcmpLane f cc ((cx.src a).lane l) ((cx.src b).lane l)
      = { val := (pairs l).all (fun x => fcondHolds cc x.1.val x.2.val)
          cnt := Counts.sum ((pairs l).map (fun x => x.1.cnt.add x.2.cnt)) } := by
    rw [fcmpLane_eq, List.all_map, List.map_map]
    rfl
  obtain ⟨t, gt, hx, hd⟩ := execFcmp_tested cc d hr _ hlane
  exact ⟨t, gt, hx, hd.next, hd.regs, hd.value, hd.counts, hd.group, hd.memory, hd.rest⟩

end Sys2Proof.Proofs
end
section
/-! PROOFS. matz, perf.clr and fstat (03 R68, 07 R181, 04 R97). -/

namespace Sys2Proof.Machine

open Sys2Proof.Claims

/-! ### What storing a result leaves of a group -/

namespace Group
variable {g h : Group}

theorem onlyStored.divdepth (hs : g.onlyStored h) : h.divdepth = g.divdepth := by
  have he := congrArg Group.divdepth hs
  exact he

theorem onlyStored.width (hs : g.onlyStored h) : h.width = g.width := by
  have he := congrArg Group.width hs
  exact he

theorem onlyStored.nr (hs : g.onlyStored h) : h.nr = g.nr := by
  have he := congrArg Group.nr hs
  exact he

theorem onlyStored.path (hs : g.onlyStored h) (n : Nat) : h.path n = g.path n := by
  have he := congrArg (fun x : Group => x.path n) hs
  exact he
end Group

/-! ### A materialised register (08 R192, R193) -/

section
variable (g : Group) (named : List Nat) (run : Bool) {v : Nat} (hg : Sparse.rising 0 g.regs = true)
include hg

theorem Group.val_materialise_same :
    (g.materialise named run v).val v = if (g.val v).isGeneral then g.val v else .general ((g.val v).lanes g.width) := by
  unfold Group.materialise
  split
  · rfl
  · exact Group.val_setVal_same _ _ _ (by rwa [Group.regs_allocate])

theorem Group.val_materialise_other {q : Nat} (hq : q ≠ v) : (g.materialise named run v).val q = g.val q := by
  unfold Group.materialise
  split
  · rfl
  · refine (Group.val_setVal_other _ _ _ _ (by rwa [Group.regs_allocate]) hq).trans ?_
    simp only [Group.val, Group.regs_allocate]

theorem Group.shape_materialise : Claims.shapeOf ((g.materialise named run v).val v) = .general := by
  rw [Group.val_materialise_same g named run hg]
  split
  next h =>
    cases hv : g.val v with
    | general xs => rfl
    | _ => simp [hv, RegVal.isGeneral] at h
  next => rfl

theorem Group.lane_materialise {l : Nat} (hl : l < g.width) :
    ((g.materialise named run v).val v).lane l = (g.val v).lane l := by
  rw [Group.val_materialise_same g named run hg]
  split
  · rfl
  · exact RegVal.lane_lanes _ _ _ hl
end

/-! ### A result behind another effect -/

/-- A result behind an effect, as its word's issue ends. -/
theorem Placed.result_ended {s e : State} {cx : Cx} {h : Group} (he : Placed s e cx h)
    (hc : s.ctxOf cx.gid.launch = cx.ctx) (hm : s.memoryOk = true) (hpath : cx.g.path cx.slot = some cx.p)
    (hpaths : ∀ n, h.path n = cx.g.path n) (w : Guard) (u : Uses) (d : Nat) (r : RegVal) (cnt : Counts) :
    ∃ gt, Ended s ((e.putResult (cx.fetched u) d r cnt).finish (cx.fetched u) w u (some (cx.p.pc + 16))) cx w
      (h.took (cx.fetched u) e.serial d r cnt) gt := by
  obtain ⟨gt, hend⟩ := (he.putResult u d r cnt).ended (s := { s with serial := e.serial + 1 }) hc hm hpath
    (fun n => (Group.path_took h _ _ _ _ _ n).trans (hpaths n)) w u
  exact ⟨gt, hend.ofSerial⟩

/-- What an effect on the cores leaves as its word ends. -/
theorem Ended.ofCores {s t : State} {cx : Cx} {w : Guard} {h gt : Group} {cs : List (CoreId × Core)}
    (he : Ended { s with cores := cs } t cx w h gt) :
    Next s t cx w gt ∧ t.cores = cs ∧ s.sameMemory t cx ∧ s.onlyGroups { t with cores := s.cores } := by
  refine ⟨⟨he.next.group, he.next.path, he.next.other, he.next.elsewhere⟩, ?_,
    ⟨he.memory.bytes, he.memory.fewer, he.memory.poison, he.memory.migrations⟩, ?_⟩
  · have hcores := congrArg State.cores he.rest
    exact hcores
  · have hrest := congrArg (fun x : State => { x with cores := s.cores }) he.rest
    exact hrest

/-! ### Performance counters (07 R181) -/

theorem Ready.perfRising {s : State} {w : Guard} {u : Uses} {cx : Cx} (hr : Ready s w u cx) :
    Sparse.rising 0 (cx.fetched u).g.perf = true := by
  refine Group.perf_refill_rising cx.g _ _ ?_
  have ht := hr.groupTidy
  simp only [Group.tidy, Bool.and_eq_true] at ht
  exact ht.2

/-- A group with a counter cleared. -/
def Group.clearCount (g : Group) (n : Nat) : Group := { g with perf := Sparse.put 0 g.perf n 0 }

theorem Group.clearCount_onlyRegs (g : Group) (n : Nat) : g.onlyRegs (g.clearCount n) := rfl

theorem fetched_cores {s : State} {w : Guard} {u : Uses} {cx : Cx} (hr : Ready s w u cx) :
    (s.fetched cx u).cores = s.cores := by
  have h := congrArg State.cores hr.fetched_writesIn.rest
  exact h

theorem fetched_coreId (cx : Cx) (u : Uses) : (cx.fetched u).g.core = cx.g.core := by
  have h := congrArg Group.core (Group.refill_frame cx.g (u.names Members.none).named u.outside)
  exact h

theorem fetched_core {s : State} {w : Guard} {u : Uses} {cx : Cx} (hr : Ready s w u cx) :
    (s.fetched cx u).core (cx.fetched u).g.core = s.core cx.g.core := by
  rw [fetched_coreId, State.core, State.core, fetched_cores hr]

theorem State.clearPerf_group (s : State) (cx : Cx) {n : Nat} (h : n < 256) :
    s.clearPerf cx n = s.modGroup cx.gid (fun g => g.clearCount n) := if_pos h

theorem State.clearPerf_core (s : State) (cx : Cx) {n : Nat} (h : ¬ n < 256) :
    s.clearPerf cx n = s.modCore cx.g.core (fun c => { c with perf := Sparse.put 0 c.perf n 0 }) := if_neg h

/-- What a result behind an effect leaves of the group, where the effect has left its registers. -/
theorem Ended.result_group {s t : State} {w : Guard} {u : Uses} {cx : Cx} {h gt : Group} {n : Nat} {d : RegIx} {x : Word}
    {cnt : Counts} (hr : Ready s w u cx) {s' : State}
    (hend : Ended s' t cx w (h.took (cx.fetched u) n d.toNat (.uniform x) cnt) gt) (hregs : h.regs = cx.g.regs)
    (hwidth : h.width = cx.g.width) (honly : cx.g.onlyRegs h) :
    cx.g.wrote gt cx.eff d.toNat (fun _ => x) ∧ cx.g.keeps gt [d.toNat] ∧ cx.g.onlyRegs gt :=
  ⟨Group.wrote_took (cx := cx.fetched u) hregs hr.regsRising hend.issue.regs hwidth (fun _ _ _ => rfl),
    Group.keeps_took hregs hr.regsRising hend.issue.regs,
    (honly.trans (Group.took_onlyRegs _ _ _ _ _ _)).trans hend.issue.onlyRegs⟩

/-! ### Event counters (04 R81, R97) -/

theorem Counts.word_eq (c : Counts) : c.word
    = BitVec.ofNat 64 (c.inv.toNat * 2 ^ 48 + c.nanl.toNat * 2 ^ 32 + c.flush.toNat * 2 ^ 16 + c.sat.toNat) := by
  refine BitVec.eq_of_toNat_eq ?_
  have h (m n : Nat) (hn : n < 2 ^ 16) : m <<< 16 ||| n = m * 2 ^ 16 + n := by
    rw [← Nat.shiftLeft_add_eq_or_of_lt hn, Nat.shiftLeft_eq]
  rw [Counts.word, BitVec.toNat_append, BitVec.toNat_append, BitVec.toNat_append, h _ _ c.nanl.isLt, h _ _ c.flush.isLt,
    h _ _ c.sat.isLt, BitVec.toNat_ofNat]
  have hinv := c.inv.isLt
  have hnanl := c.nanl.isLt
  have hflush := c.flush.isLt
  have hsat := c.sat.isLt
  omega

theorem Group.onlyRegs.counts {g h : Group} (ho : g.onlyRegs h) : h.counts = g.counts := by
  have he := congrArg Group.counts ho
  exact he

/-- A group whose event counters are cleared, where `clr` says so. -/
def Group.clearEvents (clr : Bool) (g : Group) : Group := if clr then { g with counts := Counts.zero } else g

section
variable (clr : Bool) (g : Group)

theorem Group.clearEvents_eq : g.clearEvents clr = g.withTests g.preds (if clr then Counts.zero else g.counts) := by
  cases clr <;> rfl

@[simp] theorem Group.regs_clearEvents : (g.clearEvents clr).regs = g.regs := by cases clr <;> rfl
@[simp] theorem Group.path_clearEvents (n : Nat) : (g.clearEvents clr).path n = g.path n := by cases clr <;> rfl
@[simp] theorem Group.counts_clearEvents : (g.clearEvents clr).counts = if clr then Counts.zero else g.counts := by
  cases clr <;> rfl
end

theorem Placed.clearEvents {s e : State} {cx : Cx} {h : Group} (he : Placed s e cx h) (clr : Bool) :
    Placed s (if clr then e.modGroup cx.gid (fun g => { g with counts := Counts.zero }) else e) cx (h.clearEvents clr) := by
  cases clr with
  | true => exact he.modGroup (fun g => g.clearEvents true) rfl rfl rfl
  | false => exact he

/-- Event counters apart, issuing changes no more of a group than any word does. -/
theorem Group.onlyRegs_withCounts {g k h : Group} {c : Counts} (h1 : g.onlyRegs k)
    (h2 : (k.withTests k.preds c).onlyIssue h) : g.onlyRegs { h with counts := g.counts } := by
  have hk := congrArg (fun x : Group => { x with counts := k.counts }) h2.onlyRegs
  have hrest : k.onlyRegs { h with counts := k.counts } := hk
  rw [h1.counts] at hrest
  exact h1.trans hrest

end Sys2Proof.Machine

namespace Sys2Proof.Proofs

open Sys2Proof Sys2Proof.Machine Sys2Proof.Claims

theorem matzResult : MatzResult := by
  intro g d s cx _ hr
  change ∃ t gt, execMatz g d s = .next t ∧ _
  rw [execMatz]
  by_cases he : cx.eff = 0
  · obtain ⟨gt, hm⟩ := hr.finish_moved (cx.p.pc + 16) false
    have hval (q : Nat) : gt.val q = cx.g.val q := hm.regs q List.not_mem_nil
    exact ⟨_, gt, issueMasked_empty _ hr he, hm.went, fun q _ => hval q, hm.group, fun hne => absurd he hne,
      fun _ => hval _, fun l _ => by rw [hval], hm.memory, hm.rest⟩
  · have hi : cx.g.onlyIssue (cx.fetched (usesOf [] [d])).g := Group.refill_onlyIssue _ _ _
    have hrising : Sparse.rising 0 (cx.fetched (usesOf [] [d])).g.regs = true := by
      rw [hi.regs]
      exact hr.regsRising
    have hold (q : Nat) : (cx.fetched (usesOf [] [d])).g.val q = cx.g.val q := hi.keeps [] q List.not_mem_nil
    have hst := Group.materialise_onlyStored (cx.fetched (usesOf [] [d])).g (cx.fetched (usesOf [] [d])).named false d.toNat
    obtain ⟨gt, hend⟩ := (hr.placed_fetched.modGroup (fun x => x.materialise (cx.fetched (usesOf [] [d])).named false d.toNat)
      hst.divdepth hst.width hst.nr).ended hr.ctxOf hr.memory hr.path (fun n => (hst.path n).trans (Group.path_refill cx.g _ _ n))
      g (usesOf [] [d])
    have hval (q : Nat) := hend.issue.keeps [] q List.not_mem_nil
    refine ⟨_, gt, issueMasked_ready _ hr he, hend.next, fun q hq => ?_, ?_, fun _ => ?_, fun h => absurd h he,
      fun l hl => ?_, hend.memory, hend.rest⟩
    · rw [hval, Group.val_materialise_other _ _ _ hrising (by simpa using hq), hold]
    · exact (hi.onlyRegs.trans hst.onlyRegs).trans hend.issue.onlyRegs
    · rw [hval]
      exact Group.shape_materialise _ _ _ hrising
    · rw [hval, Group.lane_materialise _ _ _ hrising (by simpa using hl), hold]

section
variable {s : State} {g : Guard} {d : RegIx} {cx : Cx} (hr : Ready s g (usesOf [] [d]) cx)
include hr

/-- The counter that perf reads. -/
theorem perfValue_fetched (n : Nat) :
    (perfValue (s.fetched cx (usesOf [] [d])) (cx.fetched (usesOf [] [d])) n).setWidth 64
      = if n < 256 then ((cx.g.refill [d.toNat]).perfCount n).setWidth 64
        else (Sparse.get 0 (s.core cx.g.core).perf n).setWidth 64 := by
  rw [perfValue, fetched_core hr]
  split
  · rfl
  · rfl

variable {sel : BitVec 16} {x : Word}
  (hx : (perfValue (s.fetched cx (usesOf [] [d])) (cx.fetched (usesOf [] [d])) sel.toNat).setWidth 64 = x)
include hx

/-- perf.clr of a counter of the group. -/
theorem perf_clr_group (he : cx.eff ≠ 0) (hsel : sel.toNat < 256) :
    ∃ t gt n, execPerf g true d sel s = .next t ∧ Ended s t cx g (((cx.fetched (usesOf [] [d])).g.clearCount sel.toNat).took
      (cx.fetched (usesOf [] [d])) n d.toNat (.uniform x) Counts.zero) gt := by
  subst hx
  obtain ⟨gt, hend⟩ := (hr.placed_fetched.modGroup (fun x => x.clearCount sel.toNat) rfl rfl rfl).result_ended hr.ctxOf
    hr.memory hr.path (fun n => Group.path_refill cx.g _ _ n) g (usesOf [] [d]) d.toNat
    (.uniform ((perfValue (s.fetched cx (usesOf [] [d])) (cx.fetched (usesOf [] [d])) sel.toNat).setWidth 64)) Counts.zero
  refine ⟨_, gt, _, (issueMasked_ready _ hr he).trans ?_, hend⟩
  rw [if_pos rfl, State.clearPerf_group _ _ hsel]
  rfl

/-- perf.clr of a counter of the core. -/
theorem perf_clr_core (he : cx.eff ≠ 0) (hsel : ¬ sel.toNat < 256) :
    ∃ t gt n, execPerf g true d sel s = .next t
      ∧ Ended { s with cores := Tab.put s.cores cx.g.core { s.core cx.g.core with
          perf := Sparse.put 0 (s.core cx.g.core).perf sel.toNat 0 } } t cx g
        ((cx.fetched (usesOf [] [d])).g.took (cx.fetched (usesOf [] [d])) n d.toNat (.uniform x) Counts.zero) gt := by
  subst hx
  obtain ⟨gt, hend⟩ := (hr.placed_fetched.withCores (Tab.put s.cores cx.g.core { s.core cx.g.core with
      perf := Sparse.put 0 (s.core cx.g.core).perf sel.toNat 0 })).result_ended hr.ctxOf
    hr.memory hr.path (fun n => Group.path_refill cx.g _ _ n) g (usesOf [] [d]) d.toNat
    (.uniform ((perfValue (s.fetched cx (usesOf [] [d])) (cx.fetched (usesOf [] [d])) sel.toNat).setWidth 64)) Counts.zero
  refine ⟨_, gt, _, (issueMasked_ready _ hr he).trans ?_, hend⟩
  rw [if_pos rfl, State.clearPerf_core _ _ hsel, State.modCore, fetched_core hr, fetched_cores hr, fetched_coreId]
  rfl
end

theorem perfClears : PerfClears := by
  intro g d sel s cx _ hr he
  have hi : cx.g.onlyIssue (cx.fetched (usesOf [] [d])).g := Group.refill_onlyIssue _ _ _
  have hx := perfValue_fetched hr sel.toNat
  change ∃ t gt, execPerf g true d sel s = .next t ∧ _
  by_cases hsel : sel.toNat < 256
  · obtain ⟨t, gt, n, hex, hend⟩ := perf_clr_group hr hx he hsel
    obtain ⟨hwrote, hkeeps, honly⟩ := hend.result_group hr hi.regs hi.width
      (hi.onlyRegs.trans (Group.clearCount_onlyRegs _ sel.toNat))
    refine ⟨t, gt, hex, hend.next, hkeeps, honly, hwrote, fun _ hn => ?_, fun h => absurd hsel (by omega), hend.memory, ?_⟩
    · have hcounted := ((Group.took_counted _ _ _ _ _ _).mono (ms := [2, 3, 7]) (by simp)).trans
        (hend.counted.mono (ms := [2, 3, 7]) (by simp))
      rw [hcounted.same (Sparse.rising_put _ _ _ _ hr.perfRising) _ hn]
      exact Sparse.get_put_same _ _ _ _ hr.perfRising
    · have hrest := congrArg (fun x : State => { x with cores := s.cores }) hend.rest
      exact hrest
  · obtain ⟨t, gt, n, hex, hend⟩ := perf_clr_core hr hx he hsel
    obtain ⟨hwrote, hkeeps, honly⟩ := hend.result_group hr hi.regs hi.width hi.onlyRegs
    obtain ⟨hnext, hcores, hmemory, hrest⟩ := hend.ofCores
    refine ⟨t, gt, hex, hnext, hkeeps, honly, hwrote, fun h => absurd h hsel, fun _ => ?_, hmemory, hrest⟩
    rw [State.core, hcores, Tab.get?_put_same]
    rfl

theorem eventWord : EventWord := by
  intro g clr d s cx _ hr he c
  change ∃ t gt, execFstat g clr d s = .next t ∧ _
  rw [execFstat]
  have hi : cx.g.onlyIssue (cx.fetched (usesOf [] [d])).g := Group.refill_onlyIssue _ _ _
  have hcounts := hi.onlyRegs.counts
  have hpl := ((hr.placed_fetched.putResult (usesOf [] [d]) d.toNat (.uniform c.word) Counts.zero).clearEvents clr)
  obtain ⟨gt, hend⟩ := hpl.ended hr.ctxOf hr.memory hr.path
    (fun n => (Group.path_clearEvents _ _ n).trans ((Group.path_took _ _ _ _ _ _ n).trans (Group.path_refill cx.g _ _ n)))
    g (usesOf [] [d])
  replace hend := hend.ofSerial
  refine ⟨_, gt, (issueMasked_ready _ hr he).trans ?_, hend.next, ?_, ?_, ?_, ?_, hend.memory, hend.rest⟩
  · dsimp only
    rw [hcounts]
    rfl
  · exact Group.keeps_took (cx := cx.fetched (usesOf [] [d])) hi.regs hr.regsRising
      (hend.issue.regs.trans (Group.regs_clearEvents _ _))
  · exact Group.wrote_took (cx := cx.fetched (usesOf [] [d])) hi.regs hr.regsRising
      (hend.issue.regs.trans (Group.regs_clearEvents _ _)) hi.width (fun _ _ _ => Counts.word_eq c)
  · rw [hend.issue.onlyRegs.counts, Group.counts_clearEvents, (Group.took_onlyRegs _ _ _ _ _ _).counts, hcounts]
  · have hissue := hend.issue
    rw [Group.clearEvents_eq] at hissue
    exact Group.onlyRegs_withCounts (hi.onlyRegs.trans (Group.took_onlyRegs _ _ _ _ _ _)) hissue

/-- Settles O26: what each word writes stands as its issue ends, and a cleared counter counts only the word itself. -/
theorem counterWords : Obligations.CounterWords := ⟨matzResult, perfClears, eventWord⟩

end Sys2Proof.Proofs
end
section
/-! PROOFS. fmtdef and fseed (04 R71, R94, R96). -/

namespace Sys2Proof.Machine

open Sys2Proof.Claims

/-! ### A value that the lanes of a mask hold alike -/

theorem lanes_ne_nil {m : Word} (hm : m ≠ 0) : lanes m ≠ [] := by
  intro h
  refine hm (BitVec.eq_of_getLsbD_eq (fun l hl => ?_))
  refine Eq.trans (Bool.eq_false_iff.mpr (fun hl => ?_)) (BitVec.getLsbD_zero (w := 64) (i := l)).symm
  have hmem : l ∈ lanes m := (mem_lanes m l).mpr hl
  rw [h] at hmem
  exact List.not_mem_nil hmem

/-- Every lane of the mask holds what its lowest lane holds. -/
theorem RegVal.equalIn_iff (x : RegVal) (m : Word) :
    x.equalIn m = true ↔ ∀ l, laneIn m l = true → x.lane l = x.firstIn m := by
  simp only [RegVal.equalIn, RegVal.firstIn, ← mem_lanes]
  cases Machine.lanes m with
  | nil => simp
  | cons k ks => simp

theorem RegVal.exists_firstIn (x : RegVal) {m : Word} (hm : m ≠ 0) : ∃ l, laneIn m l = true ∧ x.firstIn m = x.lane l := by
  have hne := lanes_ne_nil hm
  simp only [RegVal.firstIn, ← mem_lanes]
  cases hl : Machine.lanes m with
  | nil => exact absurd hl hne
  | cons k ks => exact ⟨k, List.mem_cons_self, rfl⟩

/-- Lanes that all hold `v`. -/
theorem RegVal.equalIn_const {x : RegVal} {m v : Word} (hm : m ≠ 0) (h : ∀ l, laneIn m l = true → x.lane l = v) :
    x.equalIn m = true ∧ x.firstIn m = v := by
  obtain ⟨k, hk, hfirst⟩ := x.exists_firstIn hm
  have hv : x.firstIn m = v := hfirst.trans (h k hk)
  exact ⟨(x.equalIn_iff m).mpr (fun l hl => (h l hl).trans hv.symm), hv⟩

/-- Lanes that differ. -/
theorem RegVal.equalIn_ne {x : RegVal} {m : Word} {l k : Nat} (hl : laneIn m l = true) (hk : laneIn m k = true)
    (hne : x.lane l ≠ x.lane k) : x.equalIn m = false := by
  refine Bool.eq_false_iff.mpr (fun h => hne ?_)
  have heq := (x.equalIn_iff m).mp h
  exact (heq l hl).trans (heq k hk).symm

theorem convergedValue_fetched (cx : Cx) (u : Uses) (a : Src) : convergedValue (cx.fetched u) a
    = if cx.eff = cx.g.live ∧ (cx.src a).equalIn cx.eff = true then some ((cx.src a).firstIn cx.eff) else none := by
  simp only [convergedValue, Proofs.fetched_eff, Proofs.fetched_src, fetched_live]

/-! ### The format state of a group -/

/-- A group with its format state changed. -/
def Group.onFormats (fsl : List (Nat × Word) → List (Nat × Word)) (fso fdr : List (Nat × BitVec 32) → List (Nat × BitVec 32))
    (g : Group) : Group := { g with slots := fsl g.slots, soff := fso g.soff, draw := fdr g.draw }

section
variable {fsl : List (Nat × Word) → List (Nat × Word)} {fso fdr : List (Nat × BitVec 32) → List (Nat × BitVec 32)}

/-- The format state apart, issuing changes no more of a group than any word does. -/
theorem Group.onlyIssue_onFormats {g r h : Group} (hi : g.onlyIssue r) (hf : (r.onFormats fsl fso fdr).onlyIssue h) :
    h.slots = fsl g.slots ∧ h.soff = fso g.soff ∧ h.draw = fdr g.draw
      ∧ g.onlyRegs { h with slots := g.slots, soff := g.soff, draw := g.draw } := by
  have hslots : h.slots = fsl r.slots := by
    have he := congrArg Group.slots hf
    exact he
  have hsoff : h.soff = fso r.soff := by
    have he := congrArg Group.soff hf
    exact he
  have hdraw : h.draw = fdr r.draw := by
    have he := congrArg Group.draw hf
    exact he
  have hr : r.onlyIssue { h with slots := r.slots, soff := r.soff, draw := r.draw } := by
    have he := congrArg (fun x : Group => { x with slots := r.slots, soff := r.soff, draw := r.draw }) hf
    exact he
  have hs : r.slots = g.slots := by
    have he := congrArg Group.slots hi
    exact he
  have ho : r.soff = g.soff := by
    have he := congrArg Group.soff hi
    exact he
  have hd : r.draw = g.draw := by
    have he := congrArg Group.draw hi
    exact he
  rw [← hs, ← ho, ← hd]
  exact ⟨hslots, hsoff, hdraw, (hi.trans hr).onlyRegs⟩

/-- How a ready word completes that changes the format state. -/
theorem Ready.formats_done {s : State} {w : Guard} {u : Uses} {cx : Cx} (hr : Ready s w u cx) :
    ∃ gt, Ended s (((s.fetched cx u).modGroup cx.gid (fun x => x.onFormats fsl fso fdr)).finish (cx.fetched u) w u
        (some (cx.p.pc + 16))) cx w ((cx.fetched u).g.onFormats fsl fso fdr) gt ∧ cx.g.keeps gt [] := by
  have hi : cx.g.onlyIssue (cx.fetched u).g := Group.refill_onlyIssue _ _ _
  obtain ⟨gt, hend⟩ := (hr.placed_fetched.modGroup (fun x => x.onFormats fsl fso fdr) rfl rfl rfl).ended hr.ctxOf
    hr.memory hr.path (fun n => Group.path_refill cx.g _ _ n) w u
  exact ⟨gt, hend, (hi.keeps []).trans (fun q hq => hend.issue.keeps [] q hq)⟩
end

theorem Ready.formatsRising {s : State} {w : Guard} {u : Uses} {cx : Cx} (hr : Ready s w u cx) :
    Sparse.rising 0 cx.g.slots = true ∧ Sparse.rising 0 cx.g.soff = true := by
  have ht := hr.groupTidy
  simp only [Group.tidy, Bool.and_eq_true] at ht
  obtain ⟨⟨⟨⟨⟨⟨-, -⟩, hslots⟩, hsoff⟩, -⟩, -⟩, -⟩ := ht
  exact ⟨hslots, hsoff⟩

end Sys2Proof.Machine

namespace Sys2Proof.Proofs

open Sys2Proof Sys2Proof.Machine Sys2Proof.Claims

section
variable {s : State} {g : Guard} {fs : BitVec 4} {a : Src} {cx : Cx} {v : Word}

theorem convergedValue_const (u : Uses) (hlive : cx.eff = cx.g.live) (he : cx.eff ≠ 0)
    (hv : ∀ l, laneIn cx.eff l = true → (cx.src a).lane l = v) : convergedValue (cx.fetched u) a = some v := by
  obtain ⟨heq, hfirst⟩ := RegVal.equalIn_const he hv
  rw [convergedValue_fetched, if_pos ⟨hlive, heq⟩, hfirst]

theorem convergedValue_diverged (u : Uses) (h : cx.eff ≠ cx.g.live
    ∨ ∃ l m, laneIn cx.eff l = true ∧ laneIn cx.eff m = true ∧ (cx.src a).lane l ≠ (cx.src a).lane m) :
    convergedValue (cx.fetched u) a = none := by
  rw [convergedValue_fetched, if_neg]
  rintro ⟨hlive, heq⟩
  obtain hne | ⟨l, m, hl, hm, hne⟩ := h
  · exact hne hlive
  · rw [RegVal.equalIn_ne hl hm hne] at heq
    cases heq

/-! ### fmtdef (04 R94) -/

theorem execFmtdef_done (hr : Ready s g (usesOf [a] []) cx)
    (hconv : convergedValue (cx.fetched (usesOf [a] [])) a = some v) (hvalid : Fmt.invalid v = none) :
    execFmtdef g fs a s = .next (((s.fetched cx (usesOf [a] [])).modGroup cx.gid (fun x =>
      x.onFormats (fun t => Sparse.put 0 t fs.toNat v) id id)).finish (cx.fetched (usesOf [a] [])) g (usesOf [a] [])
        (some (cx.p.pc + 16))) := by
  rw [execFmtdef, issueWord_ready _ hr]
  simp only [hconv, hvalid]
  rfl

theorem execFmtdef_diverged (hr : Ready s g (usesOf [a] []) cx)
    (hconv : convergedValue (cx.fetched (usesOf [a] [])) a = none) :
    execFmtdef g fs a s = (s.fetched cx (usesOf [a] [])).raise cx.gid (cx.precise 0x04 0 0) := by
  rw [execFmtdef, issueWord_ready _ hr]
  simp only [hconv]
  rfl

theorem execFmtdef_invalid {r : BitVec 8} (hr : Ready s g (usesOf [a] []) cx)
    (hconv : convergedValue (cx.fetched (usesOf [a] [])) a = some v) (hinvalid : Fmt.invalid v = some r) :
    execFmtdef g fs a s = (s.fetched cx (usesOf [a] [])).raise cx.gid (cx.precise 0x03 (r.setWidth 16) v) := by
  rw [execFmtdef, issueWord_ready _ hr]
  simp only [hconv, hinvalid]
  rfl

/-! ### fseed (04 R96) -/

theorem execFseed_done (hr : Ready s g ((usesOf [a] []).withSlots [(fs, 1)]) cx)
    (hconv : convergedValue (cx.fetched ((usesOf [a] []).withSlots [(fs, 1)])) a = some v) :
    execFseed g fs a s = .next (((s.fetched cx ((usesOf [a] []).withSlots [(fs, 1)])).modGroup cx.gid (fun x =>
      x.onFormats id (fun t => Sparse.put 0 t fs.toNat (v.extractLsb' 0 32)) (fun _ => []))).finish
        (cx.fetched ((usesOf [a] []).withSlots [(fs, 1)])) g ((usesOf [a] []).withSlots [(fs, 1)])
        (some (cx.p.pc + 16))) := by
  refine (issueWord_ready _ hr).trans ?_
  simp only [hconv]
  rfl

theorem execFseed_diverged (hr : Ready s g ((usesOf [a] []).withSlots [(fs, 1)]) cx)
    (hconv : convergedValue (cx.fetched ((usesOf [a] []).withSlots [(fs, 1)])) a = none) :
    execFseed g fs a s = (s.fetched cx ((usesOf [a] []).withSlots [(fs, 1)])).raise cx.gid (cx.precise 0x04 0 0) := by
  refine (issueWord_ready _ hr).trans ?_
  simp only [hconv]
  rfl
end

/-! ### The statements -/

theorem slotWords : SlotWords := by
  intro g fs a seed s cx i v hi _ hr hlive hv he hvalid
  obtain ⟨hrs, hro⟩ := hr.formatsRising
  cases seed with
  | false =>
    subst hi
    replace hr : Ready s g (usesOf [a] []) cx := hr
    have hex := execFmtdef_done (fs := fs) hr (convergedValue_const _ hlive he hv) (hvalid rfl)
    obtain ⟨gt, hend, hkeeps⟩ := hr.formats_done (fsl := fun t => Sparse.put 0 t fs.toNat v) (fso := id) (fdr := id)
    obtain ⟨hslots, hsoff, hdraw, honly⟩ := Group.onlyIssue_onFormats (Group.refill_onlyIssue _ _ _) hend.issue
    have hget (n : Nat) : gt.slotDef n = Sparse.get 0 (Sparse.put 0 cx.g.slots fs.toNat v) n :=
      congrArg (fun t => Sparse.get 0 t n) hslots
    refine ⟨_, gt, hex, hend.next, hkeeps, fun _ => ⟨?_, fun n hn => ?_, ?_⟩, nofun, hend.memory, hend.rest⟩
    · exact (hget _).trans (Sparse.get_put_same _ _ _ _ hrs)
    · exact (hget _).trans (Sparse.get_put_other _ _ _ _ _ hn hrs)
    · simp only [id] at hsoff hdraw
      rw [← hsoff, ← hdraw] at honly
      exact honly
  | true =>
    subst hi
    replace hr : Ready s g ((usesOf [a] []).withSlots [(fs, 1)]) cx := hr
    have hex := execFseed_done hr (convergedValue_const _ hlive he hv)
    obtain ⟨gt, hend, hkeeps⟩ := hr.formats_done (fsl := id)
      (fso := fun t => Sparse.put 0 t fs.toNat (v.extractLsb' 0 32)) (fdr := fun _ => [])
    obtain ⟨hslots, hsoff, hdraw, honly⟩ := Group.onlyIssue_onFormats (Group.refill_onlyIssue _ _ _) hend.issue
    have hget (n : Nat) : gt.soffOf n = Sparse.get 0 (Sparse.put 0 cx.g.soff fs.toNat (v.extractLsb' 0 32)) n :=
      congrArg (fun t => Sparse.get 0 t n) hsoff
    refine ⟨_, gt, hex, hend.next, hkeeps, nofun, fun _ => ⟨?_, fun n hn => ?_, fun l => ?_, ?_⟩,
      hend.memory, hend.rest⟩
    · exact (hget _).trans (Sparse.get_put_same _ _ _ _ hro)
    · exact (hget _).trans (Sparse.get_put_other _ _ _ _ _ hn hro)
    · exact congrArg (fun t => Sparse.get 0 t l) hdraw
    · simp only [id] at hslots
      rw [← hslots] at honly
      exact honly

theorem slotWordTraps : SlotWordTraps := by
  constructor
  · intro g fs a s cx seed i u hi _ hr
    suffices hdiverged : (cx.eff ≠ cx.g.live
        ∨ ∃ l m, laneIn cx.eff l = true ∧ laneIn cx.eff m = true ∧ (cx.src a).lane l ≠ (cx.src a).lane m) →
        exec i s = (s.fetched cx u).raise cx.gid (cx.precise 0x04 0 0) from
      ⟨hdiverged, fun he hlive => hdiverged (.inl (he ▸ hlive.symm))⟩
    intro h
    cases seed with
    | false =>
      obtain ⟨rfl, rfl⟩ := Prod.mk.inj hi
      exact execFmtdef_diverged hr (convergedValue_diverged _ h)
    | true =>
      obtain ⟨rfl, rfl⟩ := Prod.mk.inj hi
      exact execFseed_diverged hr (convergedValue_diverged _ h)
  · intro g fs a s cx _ hr _ _ v r hlive heq hv hinvalid
    exact execFmtdef_invalid hr (by rw [convergedValue_fetched, if_pos ⟨hlive, heq⟩, hv]) hinvalid

/-- Settles O29: the value that the live lanes agree on decides between the slot's write and the trap. -/
theorem formatSlots : Obligations.FormatSlots := ⟨slotWords, slotWordTraps⟩

end Sys2Proof.Proofs
end
section
/-! SUPPORT. How a word ends whose effect has changed more than its group: caches, memory, teams and messages (01 R27 to
R31, 08 R190, R195). -/

namespace Sys2Proof.Machine

open Sys2Proof.Claims

/-! ### The group in the midst of its word -/

theorem WritesIn.hostMem {A : Nat → Prop} {s t : State} (h : WritesIn A s t) : t.hostMem = s.hostMem := by
  have := congrArg State.hostMem h.rest; exact this
theorem WritesIn.teams {A : Nat → Prop} {s t : State} (h : WritesIn A s t) : t.teams = s.teams := by
  have := congrArg State.teams h.rest; exact this

theorem WritesIn.memoryOk {A : Nat → Prop} {s t : State} (h : WritesIn A s t) (hs : s.memoryOk = true) :
    t.memoryOk = true := by
  have hm := (State.memoryOk_iff s).mp hs
  rw [State.memoryOk_iff, h.hostMem, h.teams]
  exact ⟨h.wf hm.1, hm.2⟩

theorem Tab.put_self {κ β : Type} [DecidableEq κ] (t : List (κ × β)) (k : κ) (v : β) (h : Tab.get? t k = some v) :
    Tab.put t k v = t := by
  induction t with
  | nil => simp [Tab.get?] at h
  | cons e t ih =>
    obtain ⟨a, x⟩ := e
    by_cases ha : a = k
    · simp only [Tab.get?, List.find?_cons, ha, decide_true, Option.map_some, Option.some.injEq] at h
      simp [Tab.put, ha, h]
    · simp only [Tab.get?, List.find?_cons, ha, decide_false] at h
      simp only [Tab.put, ha, if_false, ih h]

theorem State.setGroup_self {s : State} {gid : GroupId} {g : Group} (h : s.group? gid = some g) : s.setGroup gid g = s := by
  simp only [State.setGroup, Tab.put_self _ _ _ h]

/-- A state of a word's effect: the word's group has changed no more than issuing changes it, its path is where it was
with the lanes it had, and memory has its form. -/
structure Midword (cx : Cx) (e : State) (h : Group) (p : Path) : Prop where
  group : e.group? cx.gid = some h
  issue : cx.g.onlyIssue h
  path : h.path cx.slot = some p
  pc : p.pc = cx.p.pc
  mask : p.mask = cx.p.mask
  jx : p.jx = cx.p.jx
  acquiring : p.acquiring = cx.p.acquiring
  other : h.path (1 - cx.slot) = cx.g.path (1 - cx.slot)
  ctxOf : e.ctxOf cx.gid.launch = cx.ctx
  ok : e.memoryOk = true

namespace Midword
variable {cx : Cx} {e f : State} {h : Group} {p : Path}

theorem same (hm : Midword cx e h p) (hs : SameWork e f) : Midword cx f h p :=
  { hm with group := (hs.group? _).trans hm.group, ctxOf := (hs.ctxOf _).trans hm.ctxOf, ok := hs.ok hm.ok }

/-- The group stands in the state, and nothing has been written beside it. -/
theorem placed (hm : Midword cx e h p) : Placed e e cx h where
  writes := by
    rw [State.setGroup_self hm.group]
    exact WritesIn.refl _ e
  divdepth := hm.issue.divdepth
  width := hm.issue.width
  nr := hm.issue.nr
end Midword

/-- The state once a word's operands are resident is one of its effect. -/
theorem Ready.midword {s : State} {w : Guard} {u : Uses} {cx : Cx} (hr : Ready s w u cx) (m : Members := Members.none) :
    Midword cx (s.fetched cx u m) (cx.fetched u m).g cx.p := by
  have hi : cx.g.onlyIssue (cx.fetched u m).g := Group.refill_onlyIssue _ _ _
  have hw : WritesIn _ (s.setGroup cx.gid (cx.fetched u m).g) (s.fetched cx u m) :=
    State.storeSpills_writesIn (State.group?_setGroup_same s cx.gid (cx.fetched u m).g) cx.g
  refine ⟨hw.group?_same, hi, (Group.path_refill _ _ _ _).trans hr.path, rfl, rfl, rfl, rfl, Group.path_refill _ _ _ _,
    ?_, hw.memoryOk (State.memoryOk_setGroup _ _ _ hr.memory)⟩
  simp only [← hr.ctxOf, State.ctxOf, State.launch?, hw.launches, State.setGroup_launches]

/-! ### How the word ends -/

/-- A word ends whose effect has left its slot a path of the same lanes. -/
theorem Placed.ended_at {s e : State} {cx : Cx} {h : Group} {p : Path} (he : Placed s e cx h)
    (hc : s.ctxOf cx.gid.launch = cx.ctx) (hm : s.memoryOk = true) (hp : h.path cx.slot = some p)
    (hmask : p.mask = cx.p.mask) (hjx : p.jx = cx.p.jx) (ho : h.path (1 - cx.slot) = cx.g.path (1 - cx.slot)) {cx1 : Cx}
    (hgid : cx1.gid = cx.gid) (hslot : cx1.slot = cx.slot) (w : Guard) (u : Uses) :
    ∃ gt keep, Ended s (e.finish cx1 w u (some (cx.p.pc + 16))) cx w h gt
      ∧ gt.path cx.slot = some (p.finished w keep (some (cx.p.pc + 16))) := by
  have hg : e.group? cx1.gid = some h := by rw [hgid]; exact he.writes.group?_same
  have hp1 : h.path cx1.slot = some p := by rwa [hslot]
  have hctx : e.ctx (e.ctxOf cx.gid.launch) = s.ctx cx.ctx := by
    rw [← hc]
    simp only [State.ctx, State.ctxOf, State.launch?, he.writes.ctxs, he.writes.launches]
    rfl
  have hf := State.finish_writesIn w u (some (cx.p.pc + 16)) false hg hp1
  have hw := he.writes.setGroup cx.gid
    (h.finished cx1 w u (cx1.kept w u (some (cx.p.pc + 16)) false) (some (cx.p.pc + 16)))
  rw [State.setGroup_setGroup] at hw
  rw [hgid, hctx] at hf
  have hall := hw.trans (hf.mono (fun a ha => by
    simpa only [groupSpan, he.divdepth, he.width, he.nr] using ha))
  have hpath := Group.path_finished cx1 w u (cx1.kept w u (some (cx.p.pc + 16)) false) (some (cx.p.pc + 16)) hp1
  have hother := Group.path_finished_other cx1 w u (cx1.kept w u (some (cx.p.pc + 16)) false) (some (cx.p.pc + 16)) hp1
  have hflight := Group.flight_finished cx1 w u (cx1.kept w u (some (cx.p.pc + 16)) false) (some (cx.p.pc + 16)) hp1
  rw [hslot] at hpath hother hflight
  refine ⟨_, _, ⟨⟨hall.group?_same, ⟨_, hpath, rfl, hmask, hjx, rfl⟩, hother.trans (by rw [ho]),
    fun _ hne => hall.group?_other hne⟩, Group.finished_onlyIssue cx1 w u _ _ hp1, hflight,
    Group.finished_counted cx1 w u _ _ hp1, hall.sameMemory hm, hall.onlyGroups⟩, hpath⟩

/-- What an effect has made of the machine `s`: `h` of its group, as `Midword` has it, and beside it only the group's areas
have been written. -/
structure Effected (s : State) (cx : Cx) (e : State) (h : Group) (p : Path) : Prop where
  placed : Placed s e cx h
  issue : cx.g.onlyIssue h
  path : h.path cx.slot = some p
  mask : p.mask = cx.p.mask
  jx : p.jx = cx.p.jx
  other : h.path (1 - cx.slot) = cx.g.path (1 - cx.slot)
  ctxOf : s.ctxOf cx.gid.launch = cx.ctx
  ok : s.memoryOk = true

theorem Midword.effected {cx : Cx} {e : State} {h : Group} {p : Path} (hm : Midword cx e h p) : Effected e cx e h p :=
  ⟨hm.placed, hm.issue, hm.path, hm.mask, hm.jx, hm.other, hm.ctxOf, hm.ok⟩

theorem Ready.effected {s : State} {w : Guard} {u : Uses} {cx : Cx} (hr : Ready s w u cx) :
    Effected s cx (s.fetched cx u) (cx.fetched u).g cx.p :=
  ⟨hr.placed_fetched, hr.midword.issue, hr.midword.path, rfl, rfl, hr.midword.other, hr.ctxOf, hr.memory⟩

theorem WritesIn.withClusters {A : Nat → Prop} {s t : State} (h : WritesIn A s t) (cs : List (Nat × Cluster)) :
    WritesIn A { s with clusters := cs } { t with clusters := cs } where
  rest := congrArg (fun x : State => { x with clusters := cs }) h.rest
  wf := h.wf
  bytes := h.bytes
  fewer := h.fewer
  poison := h.poison
  migrations := h.migrations

/-- The effect goes on in the cluster's tables. -/
theorem Effected.modCluster {s e : State} {cx : Cx} {h : Group} {p : Path} (he : Effected s cx e h p) (c : Nat)
    (f : Cluster → Cluster) : Effected (s.modCluster c f) cx (e.modCluster c f) h p := by
  have hc : e.clusters = s.clusters := by
    have := congrArg State.clusters he.placed.writes.rest; exact this
  have hw := he.placed.writes.withClusters (Sparse.put Cluster.reset s.clusters c (f (s.cluster c)))
  have hmod : e.modCluster c f = { e with clusters := Sparse.put Cluster.reset s.clusters c (f (s.cluster c)) } := by
    simp only [State.modCluster, State.cluster, hc]
  rw [hmod]
  exact { he with placed := ⟨hw, he.placed.divdepth, he.placed.width, he.placed.nr⟩,
                  ok := State.memoryOk_modCluster s c f he.ok }

section
variable {s e : State} {cx cx1 : Cx} {h : Group} {p : Path} (hm : Effected s cx e h p) (hgid : cx1.gid = cx.gid)
  (hslot : cx1.slot = cx.slot) (w : Guard) (u : Uses)
include hm hgid hslot

/-- A word that has done its effect and changed no more of its group than issuing does. -/
theorem Effected.done : ∃ gt, Done s (e.finish cx1 w u (some (cx.p.pc + 16))) cx w gt := by
  obtain ⟨gt, _, hend, -⟩ := hm.placed.ended_at hm.ctxOf hm.ok hm.path hm.mask hm.jx hm.other hgid hslot w u
  have hi := hm.issue.trans hend.issue
  exact ⟨gt, hend.next, hi.keeps [], hi.onlyRegs, hend.memory, hend.rest⟩
end

/-! ### Results that come with a reply -/

/-- The result that a load puts in flight. -/
def replyOf (n : Nat) (cx : Cx) (kind : FlightKind) (dests : List Nat) (ws : List RegWrite) (due : List TrapInfo)
    (stamps : List (Nat × BitVec 32)) : InFlight :=
  { serial := n, slot := cx.slot, kind := kind, covered := false, dests := dests, writes := ws, counts := Counts.zero
    due := due, waits := [], job := none, stamps := stamps }

theorem State.flyReply_eq (s : State) (cx : Cx) (kind : FlightKind) (dests : List Nat) (ws : List RegWrite)
    (due : List TrapInfo) (stamps : List (Nat × BitVec 32)) :
    s.flyReply cx kind dests ws due stamps = ({ s with serial := s.serial + 1 } : State).modGroup cx.gid (fun g =>
      g.fly (replyOf s.serial cx kind dests ws due stamps)) := rfl

/-- A result after the word that put it in flight: a park marker may cover it (01 R28). -/
theorem coverFor_cases (slot : Nat) (f : InFlight) : coverFor slot f = f ∨ coverFor slot f = { f with covered := true } := by
  unfold coverFor
  split
  · exact .inr rfl
  · exact .inl rfl

/-- A result in flight differs from another at most in what covers it. -/
def InFlight.alike (f k : InFlight) : Prop := k = f ∨ k = { f with covered := true }

theorem Ended.mem_flight {s t : State} {cx : Cx} {w : Guard} {h gt : Group} (he : Ended s t cx w h gt) {f : InFlight}
    (hf : f ∈ h.flight) : ∃ k ∈ gt.flight, f.alike k := by
  rw [he.flight]
  split
  · exact ⟨_, List.mem_map_of_mem hf, coverFor_cases _ _⟩
  · exact ⟨f, hf, .inl rfl⟩

section
variable {f k : InFlight} (ha : f.alike k)
include ha
theorem InFlight.alike.kind : k.kind = f.kind := by obtain rfl | rfl := ha <;> rfl
theorem InFlight.alike.slot : k.slot = f.slot := by obtain rfl | rfl := ha <;> rfl
theorem InFlight.alike.dests : k.dests = f.dests := by obtain rfl | rfl := ha <;> rfl
theorem InFlight.alike.writes : k.writes = f.writes := by obtain rfl | rfl := ha <;> rfl
theorem InFlight.alike.due : k.due = f.due := by obtain rfl | rfl := ha <;> rfl
theorem InFlight.alike.waits : k.waits = f.waits := by obtain rfl | rfl := ha <;> rfl
end

/-- A word goes on whose result is in flight; `acs` is what it has made of the arrival counters. -/
theorem Effected.flew {s e : State} {cx cx1 : Cx} {h : Group} {p : Path} (hm : Effected s cx e h p) (hgid : cx1.gid = cx.gid)
    (hslot : cx1.slot = cx.slot) (w : Guard) (u : Uses) (kind : FlightKind) (dests : List Nat) (ws : List RegWrite)
    (due : List TrapInfo) (stamps : List (Nat × BitVec 32)) (acs : List (Nat × Nat) → List (Nat × Nat))
    (hacs : (∀ n, kind ≠ .ldi n) → acs = id) :
    ∃ gt k, Flew s (((e.flyReply cx1 kind dests ws due stamps).modGroup cx.gid (fun g => { g with acs := acs g.acs })).finish
        cx1 w u (some (cx.p.pc + 16))) cx w k gt
      ∧ k.kind = kind ∧ k.dests = dests ∧ k.writes = ws ∧ k.due = due ∧ gt.acs = acs cx.g.acs := by
  have hpl := (hm.placed.withSerial (e.serial + 1)).modGroup
    (fun g => g.fly (replyOf e.serial cx1 kind dests ws due stamps)) rfl rfl rfl
  have hpl := hpl.modGroup (fun g => { g with acs := acs g.acs }) rfl rfl rfl
  obtain ⟨gt, _, hend, -⟩ := hpl.ended_at hm.ctxOf (State.memoryOk_same hm.ok rfl rfl rfl) hm.path hm.mask hm.jx hm.other
    hgid hslot w u
  replace hend := hend.ofSerial
  obtain ⟨k, hk, hlike⟩ := hend.mem_flight (List.mem_append_right h.flight (List.mem_singleton_self _))
  have hacs0 : h.acs = cx.g.acs := by have := congrArg Group.acs hm.issue; exact this
  have hgt : gt.acs = acs cx.g.acs := by
    have hq := congrArg Group.acs hend.issue
    rw [← hacs0]
    exact hq
  have hissue : h.onlyIssue { gt with acs := h.acs } := by
    have hq := congrArg (fun x : Group => { x with acs := h.acs, flight := h.flight }) hend.issue
    exact hq
  have hall := hm.issue.trans hissue
  rw [hacs0] at hall
  rw [State.flyReply_eq, hgid]
  refine ⟨gt, k, ⟨hend.next, ?_, hall.onlyRegs, fun hne => ?_, hend.memory, hend.rest, hk, ?_⟩, hlike.kind, hlike.dests,
    hlike.writes, hlike.due, hgt⟩
  · exact hall.keeps []
  · rw [hlike.kind] at hne
    rw [hgt, hacs hne]
    rfl
  · rw [hlike.slot]
    exact hslot

/-- A word goes on whose result is in flight, and no other trap with it. -/
theorem Effected.flew_plain {s e : State} {cx cx1 : Cx} {h : Group} {p : Path} (hm : Effected s cx e h p) (hgid : cx1.gid = cx.gid)
    (hslot : cx1.slot = cx.slot) (w : Guard) (u : Uses) (kind : FlightKind) (dests : List Nat) (ws : List RegWrite)
    (due : List TrapInfo) (stamps : List (Nat × BitVec 32)) :
    ∃ gt k, Flew s ((e.flyReply cx1 kind dests ws due stamps).finish cx1 w u (some (cx.p.pc + 16))) cx w k gt
      ∧ k.kind = kind ∧ k.dests = dests ∧ k.writes = ws ∧ k.due = due := by
  obtain ⟨gt, k, hf, hk, hd, hw, hdue, -⟩ := hm.flew hgid hslot w u kind dests ws due stamps id (fun _ => rfl)
  have hid : (e.flyReply cx1 kind dests ws due stamps).modGroup cx.gid (fun g => { g with acs := id g.acs })
      = e.flyReply cx1 kind dests ws due stamps := by
    unfold State.modGroup
    split
    next g hg => exact State.setGroup_self hg
    next => rfl
  rw [hid] at hf
  exact ⟨gt, k, hf, hk, hd, hw, hdue⟩

end Sys2Proof.Machine
end
section
/-! SUPPORT. A word's operands once they are resident, runs among them: they hold what they held (01 R27, 08 R195). -/

namespace Sys2Proof.Machine

section
variable (cx : Cx) (u : Uses) (m : Members)

theorem Cx.onlyIssue_fetched : cx.g.onlyIssue (cx.fetched u m).g := Group.refill_onlyIssue _ _ _

theorem Cx.val_fetched (r : Nat) : (cx.fetched u m).g.val r = cx.g.val r := Group.val_refill _ _ _ _

@[simp] theorem Cx.src_fetched (x : Src) : (cx.fetched u m).src x = cx.src x := by
  cases x with
  | reg i => exact cx.val_fetched u m _
  | spec x => rfl
  | imm v => rfl

@[simp] theorem Cx.eff_fetched : (cx.fetched u m).eff = cx.eff := rfl
@[simp] theorem Cx.gid_fetched : (cx.fetched u m).gid = cx.gid := rfl
@[simp] theorem Cx.slot_fetched : (cx.fetched u m).slot = cx.slot := rfl
@[simp] theorem Cx.path_fetched : (cx.fetched u m).p = cx.p := rfl
@[simp] theorem Cx.lrec_fetched : (cx.fetched u m).l = cx.l := rfl
@[simp] theorem Cx.ctx_fetched : (cx.fetched u m).ctx = cx.ctx := rfl
@[simp] theorem Cx.scratchSize_fetched : (cx.fetched u m).scratchSize = cx.scratchSize := rfl

theorem Cx.width_fetched : (cx.fetched u m).g.width = cx.g.width := (cx.onlyIssue_fetched u m).width
@[simp] theorem Cx.w_fetched : (cx.fetched u m).w = cx.w := cx.width_fetched u m
theorem Cx.nr_fetched : (cx.fetched u m).g.nr = cx.g.nr := (cx.onlyIssue_fetched u m).nr

@[simp] theorem Cx.core_fetched : (cx.fetched u m).g.core = cx.g.core := by
  have := congrArg Group.core (cx.onlyIssue_fetched u m); exact this
@[simp] theorem Cx.acs_fetched : (cx.fetched u m).g.acs = cx.g.acs := by
  have := congrArg Group.acs (cx.onlyIssue_fetched u m); exact this
@[simp] theorem Cx.ac_fetched (n : Nat) : (cx.fetched u m).g.ac n = cx.g.ac n := by
  simp only [Group.ac, Cx.acs_fetched]
theorem Cx.full_fetched : (cx.fetched u m).g.full = cx.g.full := by
  simp only [Group.full, Cx.width_fetched]
@[simp] theorem Cx.live_fetched : (cx.fetched u m).g.live = cx.g.live := by
  simp only [Group.live, Cx.full_fetched, (cx.onlyIssue_fetched u m).exited]
@[simp] theorem Cx.slotDef_fetched (n : Nat) : (cx.fetched u m).g.slotDef n = cx.g.slotDef n := by
  have := congrArg (fun g : Group => g.slotDef n) (cx.onlyIssue_fetched u m); exact this
@[simp] theorem Cx.soffOf_fetched (n : Nat) : (cx.fetched u m).g.soffOf n = cx.g.soffOf n := by
  have := congrArg (fun g : Group => g.soffOf n) (cx.onlyIssue_fetched u m); exact this
@[simp] theorem Cx.drawOf_fetched (n : Nat) : (cx.fetched u m).g.drawOf n = cx.g.drawOf n := by
  have := congrArg (fun g : Group => g.drawOf n) (cx.onlyIssue_fetched u m); exact this
@[simp] theorem Cx.fmt_fetched (fs : BitVec 4) : (cx.fetched u m).fmt fs = cx.fmt fs := by
  simp only [Cx.fmt, Cx.slotDef_fetched]
@[simp] theorem Cx.isFull_fetched : (cx.fetched u m).full = cx.full := by
  simp only [Cx.full, Cx.full_fetched, Cx.eff_fetched]

@[simp] theorem laneAddr_fetched (a : Addr) (l : Nat) : laneAddr (cx.fetched u m) a l = laneAddr cx a l := by
  unfold laneAddr
  simp only [Cx.src_fetched, Cx.val_fetched]

@[simp] theorem byteAccs_fetched (a : Addr) (n : Nat) : byteAccs (cx.fetched u m) a n = byteAccs cx a n := by
  simp only [byteAccs, laneAddr_fetched, Cx.eff_fetched]

@[simp] theorem uniformAddr_fetched (a : Addr) : uniformAddr (cx.fetched u m) a = uniformAddr cx a := by
  unfold uniformAddr
  simp only [Cx.src_fetched, Cx.val_fetched]

@[simp] theorem earlyFault_fetched (z : Nat) (accs : List LaneAcc) :
    earlyFault (cx.fetched u m) z accs = earlyFault cx z accs := rfl
@[simp] theorem lowLane_fetched : lowLane (cx.fetched u m) = lowLane cx := rfl

/-- Making operands resident writes the group and its areas: the tables of the caches stay. -/
theorem State.fetched_writesIn (s : State) : ∃ A, WritesIn A (s.setGroup cx.gid (cx.fetched u m).g) (s.fetched cx u m) :=
  ⟨_, State.storeSpills_writesIn (State.group?_setGroup_same s cx.gid (cx.fetched u m).g) cx.g⟩

@[simp] theorem State.fetched_clusters (s : State) : (s.fetched cx u m).clusters = s.clusters := by
  obtain ⟨A, hw⟩ := s.fetched_writesIn cx u m
  have := congrArg State.clusters hw.rest
  exact this
@[simp] theorem State.fetched_teams (s : State) : (s.fetched cx u m).teams = s.teams := by
  obtain ⟨A, hw⟩ := s.fetched_writesIn cx u m
  exact hw.teams
@[simp] theorem State.fetched_l2 (s : State) : (s.fetched cx u m).l2 = s.l2 := by
  obtain ⟨A, hw⟩ := s.fetched_writesIn cx u m
  have := congrArg State.l2 hw.rest
  exact this
@[simp] theorem State.fetched_cores (s : State) : (s.fetched cx u m).cores = s.cores := by
  obtain ⟨A, hw⟩ := s.fetched_writesIn cx u m
  have := congrArg State.cores hw.rest
  exact this
@[simp] theorem State.fetched_l2tlb (s : State) : (s.fetched cx u m).l2tlb = s.l2tlb := by
  obtain ⟨A, hw⟩ := s.fetched_writesIn cx u m
  have := congrArg State.l2tlb hw.rest
  exact this
@[simp] theorem State.bank_fetched (s : State) (c b : Nat) : (s.fetched cx u m).bank c b = s.bank c b := by
  simp only [State.bank, State.cluster, State.fetched_clusters]
end

/-- The place of a lane among those of an ascending list. -/
theorem findIdx_eq_filter_length (xs : List Nat) (hs : xs.Pairwise (· < ·)) (l : Nat) (hl : l ∈ xs) :
    xs.findIdx (fun k => k == l) = (xs.filter (fun j => decide (j < l))).length := by
  induction xs with
  | nil => cases hl
  | cons x xs ih =>
    obtain ⟨hx, hxs⟩ := List.pairwise_cons.mp hs
    obtain rfl | hl := List.mem_cons.mp hl
    · have hnone : xs.filter (fun j => decide (j < l)) = [] :=
        List.filter_eq_nil_iff.mpr (fun j hj => by simpa using (hx j hj).le)
      simp [List.findIdx_cons, hnone]
    · have hlt := hx l hl
      have hne : (x == l) = false := by simpa using hlt.ne
      simp [List.findIdx_cons, hlt, hne, ih hxs hl]

theorem lanes_ascending (m : Word) : (lanes m).Pairwise (· < ·) := List.pairwise_lt_range.filter _

/-- The bank after its strand changes, in the tables of its cluster (10 R226). -/
theorem State.bank_modBank {s : State} (hs : s.tidy = true) (c b : Nat) (f : Bank → Bank) :
    (s.modBank c b f).bank c b = f (s.bank c b) := by
  simp only [State.tidy, Bool.and_eq_true, List.all_eq_true] at hs
  obtain ⟨⟨⟨⟨⟨⟨-, hclus⟩, hbanks⟩, -⟩, -⟩, -⟩, -⟩ := hs
  have hrise : Sparse.rising 0 (s.cluster c).banks = true := by
    have hget (t : List (Nat × Cluster)) (ht : ∀ x ∈ t, Sparse.rising 0 x.2.banks = true) :
        Sparse.rising 0 (Sparse.get Cluster.reset t c).banks = true := by
      induction t with
      | nil => rfl
      | cons e t ih =>
        simp only [Sparse.get]
        split
        · exact ht e (List.mem_cons_self ..)
        · split
          · rfl
          · exact ih (fun x hx => ht x (List.mem_cons_of_mem _ hx))
    exact hget _ (fun x hx => (hbanks x hx).1)
  simp only [State.bank, State.modBank, State.modCluster, State.cluster]
  rw [Sparse.get_put_same _ _ _ _ hclus]
  exact Sparse.get_put_same _ _ _ _ hrise

theorem Effected.modBank {s e : State} {cx : Cx} {h : Group} {p : Path} (he : Effected s cx e h p) (c b : Nat)
    (f : Bank → Bank) : Effected (s.modBank c b f) cx (e.modBank c b f) h p :=
  he.modCluster c (fun x => { x with banks := Sparse.put Bank.reset x.banks b (f (x.bank b)) })

theorem lane_generalVal (w : Nat) (f : Nat → Word) {l : Nat} (hl : l < w) : (generalVal w f).lane l = f l :=
  RegVal.lane_general w f l hl

end Sys2Proof.Machine
end

section
/-! SUPPORT. Releases and acquires leave the groups and launches, and memory's form (12 R255, 14 R315). -/

namespace Sys2Proof.Machine

section
variable (s : State) (cx : Cx)

theorem State.wbAllL2_sameWork (ctx : Nat) (who : Nat → Option (GroupId × TrapInfo)) : SameWork s (s.wbAllL2 ctx who).1 := by
  unfold State.wbAllL2
  exact foldl_keeps (fun acc : State × List Nat => SameWork s acc.1) _
    (fun acc e h => h.trans (State.wbL2_sameWork acc.1 ctx e.1 (who e.1))) s.l2 (s, []) (.refl s)

theorem State.dropL2_sameWork : SameWork s s.dropL2 := .of_fields rfl rfl rfl rfl rfl

theorem State.dropCluster_sameWork (clus : Nat) : SameWork s (s.dropCluster clus) :=
  .trans (State.wbCluster_sameWork s clus) (.of_fields rfl rfl rfl rfl rfl)

theorem State.acquireAt_sameWork (clus ctx : Nat) (who : Nat → Option (GroupId × TrapInfo)) (sc : Scope) :
    SameWork s (s.acquireAt clus ctx who sc) := by
  cases sc with
  | grp => exact .refl s
  | team => exact .refl s
  | dev => exact State.dropCluster_sameWork s clus
  | sys => exact ((State.dropCluster_sameWork s clus).trans (State.wbAllL2_sameWork _ ctx who)).trans (State.dropL2_sameWork _)

/-- A release that is complete. -/
theorem State.releaseAt_sameWork {s t : State} {cx : Cx} {sc : Scope} {who : Nat → Option (GroupId × TrapInfo)}
    (h : s.releaseAt cx sc who = (true, t)) : SameWork s t := by
  cases sc with
  | grp =>
    obtain ⟨-, rfl⟩ := Prod.mk.inj h
    exact .refl s
  | team =>
    obtain ⟨-, rfl⟩ := Prod.mk.inj h
    exact .refl s
  | dev =>
    obtain ⟨-, rfl⟩ := Prod.mk.inj h
    exact State.wbCluster_sameWork s _
  | sys =>
    simp only [State.releaseAt] at h
    split at h
    · cases h
    · split at h
      · obtain ⟨-, rfl⟩ := Prod.mk.inj h
        exact .refl s
      · generalize (if cx.p.released = 0 then _ else _ : List Nat) = ws at h
        split at h
        · obtain ⟨-, rfl⟩ := Prod.mk.inj h
          exact (State.wbCluster_sameWork s _).trans (State.wbAllL2_sameWork _ _ _)
        · cases h

/-- The release that an order asks for, once it is complete. -/
theorem State.releaseIf_sameWork {s t : State} {cx : Cx} {sc : Scope} {who : Nat → Option (GroupId × TrapInfo)} {b : Bool}
    (h : (if b then s.releaseAt cx sc who else (true, s)) = (true, t)) : SameWork s t := by
  cases b with
  | true => exact State.releaseAt_sameWork h
  | false =>
    obtain ⟨-, rfl⟩ := Prod.mk.inj h
    exact .refl s

theorem State.acquireIf_sameWork (clus ctx : Nat) (who : Nat → Option (GroupId × TrapInfo)) (sc : Scope) (b : Bool) :
    SameWork s (if b then s.acquireAt clus ctx who sc else s) := by
  cases b with
  | true => exact State.acquireAt_sameWork s clus ctx who sc
  | false => exact .refl s
end

end Sys2Proof.Machine
end

section
/-! PROOFS. ldq and stq on strands, waitac, qfence and fence (05 R112, R117, R123, R124, 10 R226, R227). -/

namespace Sys2Proof.Proofs

open Sys2Proof Sys2Proof.Machine Sys2Proof.Claims

/-! ### Strands (05 R117, 10 R226, R227) -/

section
variable {s : State} {cx : Cx} {u : Uses} {g : Guard} {wd : Width} {d : RegIx} {a v : Src} {off : BitVec 32} {b : Nat}

theorem strandOf_fetched (s : State) (cx : Cx) (u : Uses) (a : Src) (off : BitVec 32) (push : Bool) :
    strandOf (s.fetched cx u) (cx.fetched u) a off push = strandOf s cx a off push := by
  simp only [strandOf, Cx.src_fetched, Cx.eff_fetched, Cx.core_fetched, Cx.ctx_fetched, State.strandOpen,
    State.bank_fetched, lowLane_fetched]
  rfl

theorem exec_ldq (g : Guard) (wd : Width) (d : RegIx) (a : Src) (off : BitVec 32) (s : State) :
    exec (.ldq g wd d a off) s = issueMasked g (usesOf [a] [d]) (ldqBody wd d a off) s := rfl

theorem exec_stq (g : Guard) (wd : Width) (a : Src) (off : BitVec 32) (v : Src) (s : State) :
    exec (.stq g wd a off v) s = issueMasked g (usesOf [a, v] []) (stqBody wd a off v) s := rfl

/-- A word on a strand that it may not use traps. -/
theorem strandWord_traps {push : Bool} {i : Instr}
    (hi : (i, u) = (if push then (.stq g wd a off v, usesOf [a, v] []) else (.ldq g wd d a off, usesOf [a] [d])))
    (hr : Ready s g u cx) (he : cx.eff ≠ 0) {c : Cause} (hc : strandOf s cx a off push = .inr c) :
    exec i s = (s.fetched cx u).raise cx.gid (cx.info c cx.p.pc) := by
  cases push with
  | true =>
    obtain ⟨rfl, rfl⟩ := Prod.mk.inj hi
    rw [exec_stq, issueMasked_ready _ hr he, stqBody, strandOf_fetched, hc]
    rfl
  | false =>
    obtain ⟨rfl, rfl⟩ := Prod.mk.inj hi
    rw [exec_ldq, issueMasked_ready _ hr he, ldqBody, strandOf_fetched, hc]
    rfl

theorem strandWord_differ {push : Bool} (h : (cx.src a).equalIn cx.eff = false) :
    strandOf s cx a off push = .inr (cause 0x04 0) := by
  simp [strandOf, h]

theorem strandWord_refused {push : Bool} (h : (cx.src a).equalIn cx.eff = true)
    (hx : let x := ((cx.src a).firstIn cx.eff + off.signExtend 64).toNat
      32 ≤ x ∨ s.strandOpen cx.g.core.clus x cx.ctx = false
        ∨ (push = true ∧ (s.bank cx.g.core.clus x).target ≠ none)) :
    strandOf s cx a off push = .inr { cause 0x09 3 with lane := BitVec.ofNat 16 (lowLane cx) } := by
  simp only [strandOf, h, Bool.not_true, Bool.false_eq_true, if_false]
  rw [if_neg]
  rintro ⟨hlt, hopen, hpush⟩
  obtain hge | hclosed | ⟨hp, ht⟩ := hx
  · omega
  · rw [hopen] at hclosed
    cases hclosed
  · obtain hq | hq := hpush
    · rw [hq] at hp
      cases hp
    · exact ht hq

theorem ldq_waits (hr : Ready s g (usesOf [a] [d]) cx) (he : cx.eff ≠ 0) (hb : strandOf s cx a off false = .inl b)
    (hn : filledHead (ceilDiv (laneCount cx.eff * widthBytes wd) 64) (s.bank cx.g.core.clus b).strand = none) :
    exec (.ldq g wd d a off) s = .next (s.fetched cx (usesOf [a] [d])) := by
  rw [exec_ldq, issueMasked_ready _ hr he, ldqBody, strandOf_fetched, hb]
  simp only [Cx.eff_fetched, Cx.core_fetched, State.bank_fetched, hn]
  rfl

/-- What the lanes of ldq take of the entries: each its own bytes, in the order of the active lanes. -/
theorem ldq_value (cx : Cx) (wd : Width) (bs : List Byte) {l : Nat} (hl : l < cx.g.width) (hin : laneIn cx.eff l = true) :
    (generalVal cx.w (fun l => if laneIn cx.eff l then
        extendLoad wd ((bs.drop (activeIndex cx l * widthBytes wd)).take (widthBytes wd)) else 0)).lane l
      = extendLoad wd ((bs.drop (((lanes cx.eff).filter (fun j => decide (j < l))).length * widthBytes wd)).take
          (widthBytes wd)) := by
  rw [lane_generalVal cx.w _ hl, if_pos hin, activeIndex,
    findIdx_eq_filter_length _ (lanes_ascending _) l ((mem_lanes _ _).mpr hin)]

theorem ldq_takes (hr : Ready s g (usesOf [a] [d]) cx) (he : cx.eff ≠ 0) (hb : strandOf s cx a off false = .inl b)
    {bs : List Byte}
    (hn : filledHead (ceilDiv (laneCount cx.eff * widthBytes wd) 64) (s.bank cx.g.core.clus b).strand = some bs) :
    ∃ t gt f e, exec (.ldq g wd d a off) s = .next t ∧ Flew e t cx g f gt
      ∧ e.bank cx.g.core.clus b = { s.bank cx.g.core.clus b with
          strand := (s.bank cx.g.core.clus b).strand.drop (ceilDiv (laneCount cx.eff * widthBytes wd) 64) }
      ∧ e.mem = s.mem ∧ e.hostMem = s.hostMem ∧ f.dests = [d.toNat] ∧ f.due = []
      ∧ ∀ l, l < cx.g.width → laneIn cx.eff l = true → ∃ w ∈ f.writes, w.reg = d.toNat ∧ laneIn w.mask l = true
        ∧ w.val.lane l = extendLoad wd ((bs.drop (((lanes cx.eff).filter (fun j => decide (j < l))).length
            * widthBytes wd)).take (widthBytes wd)) := by
  have hm := hr.effected.modBank cx.g.core.clus b (fun k =>
    { k with strand := k.strand.drop (ceilDiv (laneCount cx.eff * widthBytes wd) 64) })
  obtain ⟨gt, f, hflew, -, hdests, hwrites, hdue⟩ := hm.flew_plain (cx1 := cx.fetched (usesOf [a] [d])) rfl rfl g
    (usesOf [a] [d]) .load [d.toNat] [⟨d.toNat, cx.eff, generalVal cx.w (fun l =>
      if laneIn cx.eff l then extendLoad wd ((bs.drop (activeIndex cx l * widthBytes wd)).take (widthBytes wd)) else 0),
      false⟩] [] []
  refine ⟨_, gt, f, _, ?_, hflew, State.bank_modBank hr.tidy _ _ _, rfl, rfl, hdests, hdue, fun l hl hin => ?_⟩
  · rw [exec_ldq, issueMasked_ready _ hr he, ldqBody, strandOf_fetched, hb]
    simp only [Cx.eff_fetched, Cx.core_fetched, State.bank_fetched, hn, Cx.w_fetched]
    rfl
  · rw [hwrites]
    exact ⟨_, List.mem_singleton_self _, rfl, hin, ldq_value cx wd bs hl hin⟩

theorem stq_waits (hr : Ready s g (usesOf [a, v] []) cx) (he : cx.eff ≠ 0) (hb : strandOf s cx a off true = .inl b)
    {es : List StrandEntry} (hes : es = entriesOf 0 ((lanes cx.eff).flatMap (fun l =>
      toBytes (widthBytes wd) ((cx.src v).lane l).toNat)))
    (hn : 1024 < (s.bank cx.g.core.clus b).strand.length + es.length) :
    exec (.stq g wd a off v) s = .next (s.fetched cx (usesOf [a, v] [])) := by
  subst hes
  rw [exec_stq, issueMasked_ready _ hr he, stqBody, strandOf_fetched, hb]
  simp only [Cx.eff_fetched, Cx.core_fetched, State.bank_fetched, Cx.src_fetched]
  rw [if_pos hn]
  rfl

theorem stq_adds (hr : Ready s g (usesOf [a, v] []) cx) (he : cx.eff ≠ 0) (hb : strandOf s cx a off true = .inl b)
    {es : List StrandEntry} (hes : es = entriesOf 0 ((lanes cx.eff).flatMap (fun l =>
      toBytes (widthBytes wd) ((cx.src v).lane l).toNat)))
    (hn : (s.bank cx.g.core.clus b).strand.length + es.length ≤ 1024) :
    ∃ t gt e, exec (.stq g wd a off v) s = .next t ∧ Done e t cx g gt
      ∧ e.bank cx.g.core.clus b = { s.bank cx.g.core.clus b with strand := (s.bank cx.g.core.clus b).strand ++ es }
      ∧ e.mem = s.mem ∧ e.hostMem = s.hostMem := by
  subst hes
  have hm := hr.effected.modBank cx.g.core.clus b (fun k =>
    { k with strand := k.strand ++ entriesOf 0 ((lanes cx.eff).flatMap (fun l =>
      toBytes (widthBytes wd) ((cx.src v).lane l).toNat)) })
  obtain ⟨gt, hdone⟩ := hm.done (cx1 := cx.fetched (usesOf [a, v] [])) rfl rfl g (usesOf [a, v] [])
  refine ⟨_, gt, _, ?_, hdone, State.bank_modBank hr.tidy _ _ _, rfl, rfl⟩
  rw [exec_stq, issueMasked_ready _ hr he, stqBody, strandOf_fetched, hb]
  simp only [Cx.eff_fetched, Cx.core_fetched, State.bank_fetched, Cx.src_fetched]
  rw [if_neg (by omega)]
  rfl
end

theorem strandWords : StrandWords := by
  refine ⟨?_, ?_, ?_⟩
  · intro g wd d a v off push s cx i u hi _ hr he
    refine ⟨fun h => ?_, fun h hx => ?_⟩
    · have htrap := strandWord_traps hi hr he (strandWord_differ h)
      exact htrap
    · have htrap := strandWord_traps hi hr he (strandWord_refused h hx)
      exact htrap
  · intro g wd d a off s cx b _ hr he hb
    exact ⟨ldq_waits hr he hb, fun bs hn => ldq_takes hr he hb hn⟩
  · intro g wd a off v s cx b _ hr he hb k bs es
    exact ⟨stq_waits hr he hb rfl, stq_adds hr he hb rfl⟩

/-! ### waitac, qfence and fence (05 R112, R123, R124) -/

section
variable {s : State} {cx : Cx} {g : Guard}

theorem exec_waitac (g : Guard) (n : BitVec 4) (t0 : BitVec 6) (s : State) : exec (.waitac g n t0) s
    = issueWord g Uses.none (fun s cx => if t0.toNat < cx.g.ac n.toNat then .wait s else .done s) s := rfl

theorem exec_fence (g : Guard) (o : Order) (sc : Scope) (s : State) :
    exec (.fence g o sc) s = issueMasked g Uses.none (fenceBody o sc) s := rfl

/-- A copy of one of the queues that the bits name is pending. -/
def copiesPending (q : BitVec 8) (t : Team) : Bool :=
  (List.range 8).any (fun k => q.getLsbD k && !(t.queue k).pending.isEmpty)

theorem exec_qfence (g : Guard) (q : BitVec 8) (s : State) : exec (.qfence g q) s
    = issueWord g Uses.none (fun s cx => match s.team? (tidOf cx.gid) with
      | some t => if copiesPending q t then .wait s else .done s
      | none => .done s) s := rfl

theorem copiesPending_iff (q : BitVec 8) (t : Team) :
    copiesPending q t = true ↔ ∃ k, k < 8 ∧ q.getLsbD k = true ∧ (t.queue k).pending ≠ [] := by
  simp [copiesPending]

theorem waitac_word (n : BitVec 4) (t0 : BitVec 6) (hr : Ready s g Uses.none cx) :
    (cx.g.ac n.toNat ≤ t0.toNat → ∃ t gt, exec (.waitac g n t0) s = .next t ∧ Moved s t cx g (cx.p.pc + 16) gt)
    ∧ (t0.toNat < cx.g.ac n.toNat → exec (.waitac g n t0) s = .next (s.fetched cx Uses.none)) := by
  rw [exec_waitac, issueWord_ready _ hr]
  simp only [Cx.ac_fetched]
  refine ⟨fun hle => ?_, fun hlt => ?_⟩
  · obtain ⟨gt, hm⟩ := hr.finish_moved (cx.p.pc + 16) false
    rw [if_neg (Nat.not_lt.mpr hle)]
    exact ⟨_, gt, rfl, hm⟩
  · rw [if_pos hlt]
    rfl

theorem qfence_word (q : BitVec 8) {tm : Team} (hr : Ready s g Uses.none cx) (ht : s.team? (tidOf cx.gid) = some tm) :
    ((∀ k, k < 8 → q.getLsbD k = true → (tm.queue k).pending = []) →
      ∃ t gt, exec (.qfence g q) s = .next t ∧ Moved s t cx g (cx.p.pc + 16) gt)
    ∧ ((∃ k, k < 8 ∧ q.getLsbD k = true ∧ (tm.queue k).pending ≠ []) →
      exec (.qfence g q) s = .next (s.fetched cx Uses.none)) := by
  have hteam : (s.fetched cx Uses.none).team? (tidOf (cx.fetched Uses.none).gid) = some tm := by
    rw [State.team?, State.fetched_teams]
    exact ht
  rw [exec_qfence, issueWord_ready _ hr]
  simp only [hteam]
  refine ⟨fun hall => ?_, fun hsome => ?_⟩
  · obtain ⟨gt, hm⟩ := hr.finish_moved (cx.p.pc + 16) false
    have hnone : copiesPending q tm = false := Bool.eq_false_iff.mpr (fun h => by
      obtain ⟨k, hk, hq, hne⟩ := (copiesPending_iff q tm).mp h
      exact hne (hall k hk hq))
    rw [hnone]
    exact ⟨_, gt, rfl, hm⟩
  · rw [(copiesPending_iff q tm).mpr hsome]
    rfl

theorem fence_word (o : Order) (sc : Scope) {s1 : State} {ready : Bool} (hr : Ready s g Uses.none cx) (he : cx.eff ≠ 0)
    (hrel : (if releases o then (s.fetched cx Uses.none).releaseAt (cx.fetched Uses.none) sc
      else (true, s.fetched cx Uses.none)) = (ready, s1)) :
    (ready = true → releases o = false ∨ (s.fetched cx Uses.none).openOf cx.gid = false →
      ∃ t gt, exec (.fence g o sc) s = .next t ∧ Done (if acquires o then
        s1.acquireAt cx.g.core.clus cx.ctx (fun _ => (cx.fetched Uses.none).who) sc else s1) t cx g gt)
    ∧ (ready = false ∨ (releases o = true ∧ (s.fetched cx Uses.none).openOf cx.gid = true) →
      exec (.fence g o sc) s = .next s1) := by
  rw [exec_fence, issueMasked_ready _ hr he, fenceBody, hrel]
  simp only [Cx.core_fetched, Cx.ctx_fetched, Cx.gid_fetched]
  refine ⟨fun hready hopen => ?_, fun hwait => ?_⟩
  · subst hready
    have hm := (hr.midword.same (State.releaseIf_sameWork hrel)).same
      (State.acquireIf_sameWork s1 cx.g.core.clus cx.ctx (fun _ => (cx.fetched Uses.none).who) sc (acquires o))
    obtain ⟨gt, hdone⟩ := hm.effected.done (cx1 := cx.fetched Uses.none) rfl rfl g Uses.none
    rw [if_neg (by obtain h | h := hopen <;> simp [h])]
    exact ⟨_, gt, rfl, hdone⟩
  · rw [if_pos (by obtain h | ⟨h1, h2⟩ := hwait <;> simp [*])]
    rfl
end

theorem waitWords : WaitWords :=
  ⟨fun _ n t0 _ _ _ hr => waitac_word n t0 hr, fun _ q _ _ _ _ hr ht => qfence_word q hr ht,
    fun _ o sc _ _ _ _ hr he _ hrel => fence_word o sc hr he hrel⟩

/-- Settles O44: a strand word by the bank it names and the entries there, waitac, qfence and fence by what they wait for. -/
theorem strandAndWaitWords : Obligations.StrandAndWaitWords := ⟨strandWords, waitWords⟩

end Sys2Proof.Proofs
end
section
/-! SUPPORT. What sending requests leaves as it was, and that cached sectors stay whole: 64 bytes, and every byte that they owe
(12 R252, 14 R293 to R302). -/

namespace Sys2Proof.Machine

/-! ### Sending (14 R293, R299, R302) -/

/-- Of the state, nothing but serial pairs, requests, messages and the serial counter differs. -/
def State.onlySends (s t : State) : Prop :=
  { t with ctxs := s.ctxs, remotes := s.remotes, heldOut := s.heldOut, fabOut := s.fabOut, unacked := s.unacked
           serial := s.serial } = s

theorem State.onlySends.refl (s : State) : s.onlySends s := rfl

theorem State.onlySends.trans {s t v : State} (h1 : s.onlySends t) (h2 : t.onlySends v) : s.onlySends v := by
  unfold State.onlySends at *
  rw [← h2] at h1
  exact h1

theorem State.putOut_onlySends (s : State) (m : FabMsg) : s.onlySends (s.putOut m) := by
  unfold State.putOut
  dsimp only
  split <;> rfl

theorem State.modPair_onlySends (s : State) (ctx owner : Nat) (f : SerialPair → SerialPair) :
    s.onlySends (s.modPair ctx owner f) := by
  unfold State.modPair
  split <;> rfl

theorem State.transmit_onlySends (s : State) (n : Nat) (retx renew : Bool) : s.onlySends (s.transmit n retx renew) := by
  unfold State.transmit
  split
  · rfl
  · dsimp only
    refine .trans ?_ (State.putOut_onlySends _ _)
    refine .trans (t := ite _ _ _) ?_ rfl
    split
    · rfl
    · exact State.modPair_onlySends ..

theorem State.sendQueued_onlySends (s : State) : s.onlySends s.sendQueued := by
  unfold State.sendQueued
  refine foldl_keeps (fun acc : State × List Remote => s.onlySends acc.1) _ (fun acc e h => ?_) s.remotes (s, []) rfl
  dsimp only
  split
  · exact h.trans (State.transmit_onlySends ..)
  · exact h

theorem State.sendRemote_onlySends (s : State) (ctx owner sec : Nat) (q : RemoteReq) (p : Purpose) :
    s.onlySends (s.sendRemote ctx owner sec q p).2 :=
  .trans (t := { s with serial := s.serial + 1, remotes := _ }) rfl (State.sendQueued_onlySends _)

/-! ### Cached sectors (12 R252) -/

/-- Cached sectors have 64 bytes and hold every byte that they owe, and the clusters' table has its form. -/
structure State.SectorsTidy (s : State) : Prop where
  rising : Sparse.rising 0 s.clusters = true
  l1 : ∀ c ∈ s.clusters, ∀ x ∈ c.2.l1, x.2.tidy = true
  l2 : ∀ x ∈ s.l2, x.2.tidy = true

theorem State.sectorsTidy_of_tidy {s : State} (h : s.tidy = true) : s.SectorsTidy := by
  simp only [State.tidy, Bool.and_eq_true, List.all_eq_true] at h
  obtain ⟨⟨⟨⟨⟨⟨-, hclus⟩, hl1⟩, hl2⟩, -⟩, -⟩, -⟩ := h
  exact ⟨hclus, fun c hc => (hl1 c hc).2, hl2⟩

/-- Groups, launches and teams are the same, memory keeps its form and cached sectors theirs. -/
structure Tended (s t : State) : Prop extends SameWork s t where
  teams : t.teams = s.teams
  sectors : s.SectorsTidy → t.SectorsTidy

namespace Tended
variable {s t v : State}

theorem refl (s : State) : Tended s s := ⟨.refl s, rfl, id⟩

theorem trans (h : Tended s t) (k : Tended t v) : Tended s v :=
  ⟨h.toSameWork.trans k.toSameWork, k.teams.trans h.teams, fun hs => k.sectors (h.sectors hs)⟩

/-- Where neither clusters nor copies of the L2 change. -/
theorem of_same (h : SameWork s t) (h1 : t.teams = s.teams) (h2 : t.clusters = s.clusters) (h3 : t.l2 = s.l2) : Tended s t :=
  ⟨h, h1, fun hs => ⟨by rw [h2]; exact hs.rising, by rw [h2]; exact hs.l1, by rw [h3]; exact hs.l2⟩⟩

theorem foldl {α : Type} (f : State → α → State) (hf : ∀ t x, Tended t (f t x)) (xs : List α) (s : State) :
    Tended s (xs.foldl f s) :=
  foldl_keeps (Tended s) f (fun t x h => h.trans (hf t x)) xs s (refl s)

theorem team? (h : Tended s t) (tid : TeamId) : t.team? tid = s.team? tid := by
  simp only [State.team?, h.teams]
end Tended

theorem State.onlySends.tended {s t : State} (h : s.onlySends t) : Tended s t := by
  have hg := congrArg State.groups h
  have hl := congrArg State.launches h
  have hm := congrArg State.mem h
  have hh := congrArg State.hostMem h
  have ht := congrArg State.teams h
  have hc := congrArg State.clusters h
  have h2 := congrArg State.l2 h
  exact .of_same (.of_fields hg hl hm hh ht) ht hc h2

/-! ### Sectors -/

theorem Sector.tidy_iff (x : Sector) :
    x.tidy = true ↔ x.bytes.length = 64 ∧ ∀ i, laneIn x.mask i = true → laneIn x.valid i = true := by
  simp only [Sector.tidy, Bool.and_eq_true, beq_iff_eq]
  refine and_congr_right (fun _ => ⟨fun h i hi => ?_, fun h => ?_⟩)
  · have hlt := lt_of_laneIn hi
    have hz := congrArg (fun w => laneIn w i) h
    simp only [laneIn_and, laneIn_not _ _ hlt, hi, Bool.true_and] at hz
    simpa [laneIn] using hz
  · refine BitVec.eq_of_getLsbD_eq (fun i hi => ?_)
    change laneIn (x.mask &&& ~~~x.valid) i = laneIn 0#64 i
    rw [laneIn_and, laneIn_not _ _ hi, laneIn_zero]
    cases hm : laneIn x.mask i with
    | false => rfl
    | true => simp [h i hm]

@[simp] theorem length_overlay (valid : Word) (own fill : List Byte) : (overlay valid own fill).length = 64 := by
  simp [overlay]

theorem getD_overlay (valid : Word) (own fill : List Byte) {i : Nat} (hi : i < 64) :
    (overlay valid own fill).getD i 0 = if laneIn valid i then own.getD i 0 else fill.getD i 0 := by
  simp [overlay, hi]

@[simp] theorem laneIn_fullMask64 {i : Nat} (hi : i < 64) : laneIn (fullMask 64) i = true := by
  rw [laneIn_fullMask]
  simp [hi]

theorem Sector.tidy_blank : Sector.blank.tidy = true := by decide

section
variable {x : Sector} (hx : x.tidy = true)

theorem Sector.tidy_fill (x : Sector) (bs : List Byte) : (x.fill bs).tidy = true :=
  (Sector.tidy_iff _).mpr ⟨length_overlay .., fun _ hi => laneIn_fullMask64 (lt_of_laneIn hi)⟩

include hx

theorem Sector.tidy_write (bs : List Byte) (m : Word) (whole : Bool) : (x.write bs m whole).tidy = true := by
  obtain ⟨-, hm⟩ := (Sector.tidy_iff _).mp hx
  refine (Sector.tidy_iff _).mpr ⟨length_overlay .., fun i hi => ?_⟩
  simp only [Sector.write, laneIn_or, Bool.or_eq_true] at hi ⊢
  exact hi.imp (hm i) id

theorem Sector.tidy_clean : x.clean.tidy = true := by
  obtain ⟨hl, -⟩ := (Sector.tidy_iff _).mp hx
  exact (Sector.tidy_iff _).mpr ⟨hl, fun i hi => by simp [Sector.clean, laneIn] at hi⟩

theorem Sector.tidy_pass (bs : List Byte) (m : Word) : (x.pass bs m).tidy = true := by
  obtain ⟨-, hm⟩ := (Sector.tidy_iff _).mp hx
  refine (Sector.tidy_iff _).mpr ⟨length_overlay .., fun i hi => ?_⟩
  simp only [Sector.pass, laneIn_and, laneIn_or, Bool.and_eq_true, Bool.or_eq_true] at hi ⊢
  exact .inl (hm i hi.1)

theorem Sector.tidy_invalidate {y : Sector} (h : x.invalidate = some y) : y.tidy = true := by
  unfold Sector.invalidate at h
  split at h
  · cases h
  · cases h
    exact (Sector.tidy_iff _).mpr ⟨((Sector.tidy_iff _).mp hx).1, fun _ hi => hi⟩

/-- Merged bytes in a copy of the L2. -/
theorem Sector.tidy_merge (bs : List Byte) (m : Word) :
    Sector.tidy { x with bytes := overlay m bs x.bytes, valid := x.valid ||| m, mask := x.mask ||| m } = true := by
  have h := Sector.tidy_write hx bs m false
  exact h
end

theorem mem_setSector {t : List (Nat × Sector)} {sec : Nat} {x : Option Sector} {e : Nat × Sector}
    (h : e ∈ setSector t sec x) : e ∈ t ∨ x = some e.2 := by
  cases x with
  | some v =>
    obtain rfl | h := Tab.mem_put _ _ _ _ h
    · exact .inr rfl
    · exact .inl h
  | none => exact .inl (List.mem_of_mem_filter h)

section
variable {s : State} (hs : s.SectorsTidy)
include hs

theorem State.SectorsTidy.cluster (c : Nat) : ∀ x ∈ (s.cluster c).l1, x.2.tidy = true := by
  have hget (t : List (Nat × Cluster)) (ht : ∀ e ∈ t, ∀ x ∈ e.2.l1, x.2.tidy = true) :
      ∀ x ∈ (Sparse.get Cluster.reset t c).l1, x.2.tidy = true := by
    induction t with
    | nil => exact fun x hx => absurd hx List.not_mem_nil
    | cons e t ih =>
      simp only [Sparse.get]
      split
      · exact ht e (List.mem_cons_self ..)
      · split
        · exact fun x hx => absurd hx List.not_mem_nil
        · exact ih (fun x hx => ht x (List.mem_cons_of_mem _ hx))
  exact hget _ hs.l1

theorem State.SectorsTidy.l1Sector {c sec : Nat} {x : Sector} (h : s.l1Sector c sec = some x) : x.tidy = true :=
  hs.cluster c _ (Tab.get?_mem _ _ _ h)

theorem State.SectorsTidy.l2Sector {sec : Nat} {x : Sector} (h : s.l2Sector sec = some x) : x.tidy = true :=
  hs.l2 _ (Tab.get?_mem _ _ _ h)

theorem State.SectorsTidy.l2OrBlank (sec : Nat) : ((s.l2Sector sec).getD Sector.blank).tidy = true := by
  cases h : s.l2Sector sec with
  | none => exact Sector.tidy_blank
  | some x => exact hs.l2Sector h
end

/-- An entry after a put of the sparse tables. -/
theorem Sparse.mem_put {β : Type} [DecidableEq β] (d : β) (t : List (Nat × β)) (k : Nat) (v : β) (e : Nat × β)
    (h : e ∈ Sparse.put d t k v) : e ∈ t ∨ e.2 = v := by
  induction t with
  | nil =>
    simp only [Sparse.put] at h
    split at h
    · cases h
    · exact .inr (by rw [List.mem_singleton.mp h])
  | cons a t ih =>
    obtain ⟨a, x⟩ := a
    simp only [Sparse.put] at h
    split at h
    · split at h
      · exact .inl h
      · obtain rfl | h := List.mem_cons.mp h
        · exact .inr rfl
        · exact .inl h
    · split at h
      · split at h
        · exact .inl (List.mem_cons_of_mem _ h)
        · obtain rfl | h := List.mem_cons.mp h
          · exact .inr rfl
          · exact .inl (List.mem_cons_of_mem _ h)
      · obtain rfl | h := List.mem_cons.mp h
        · exact .inl (List.mem_cons_self ..)
        · exact (ih h).imp (List.mem_cons_of_mem _) id

/-- A cluster changes whose sectors stay as they must be. -/
theorem State.modCluster_tended (s : State) (c : Nat) (f : Cluster → Cluster)
    (hf : (∀ x ∈ (s.cluster c).l1, x.2.tidy = true) → ∀ x ∈ (f (s.cluster c)).l1, x.2.tidy = true) :
    Tended s (s.modCluster c f) := by
  refine ⟨.of_fields rfl rfl rfl rfl rfl, rfl, fun hs => ⟨Sparse.rising_put _ _ _ _ hs.rising, fun e he => ?_, hs.l2⟩⟩
  obtain he | he := Sparse.mem_put _ _ _ _ _ he
  · exact hs.l1 e he
  · rw [he]
    exact hf (hs.cluster c)

section
variable (s : State)

theorem State.noteLine_tended (clus sec : Nat) (h : Hint) : Tended s (s.noteLine clus sec h) :=
  s.modCluster_tended clus _ id

theorem State.setL1_tended (clus sec : Nat) (x : Option Sector) (hx : s.SectorsTidy → ∀ y, x = some y → y.tidy = true) :
    Tended s (s.setL1 clus sec x) := by
  have hall (hs : s.SectorsTidy) (e : Nat × Sector) (he : e ∈ setSector (s.cluster clus).l1 sec x) : e.2.tidy = true := by
    obtain he | he := mem_setSector he
    · exact hs.cluster clus e he
    · exact hx hs _ he
  refine ⟨State.setL1_sameWork .., rfl, fun hs => ?_⟩
  refine (s.modCluster_tended clus _ (fun _ e he => hall hs e ?_)).sectors hs
  dsimp only at he
  split at he <;> exact he

theorem State.setL2_tended (sec : Nat) (x : Option Sector) (hx : s.SectorsTidy → ∀ y, x = some y → y.tidy = true) :
    Tended s (s.setL2 sec x) := by
  refine ⟨State.setL2_sameWork .., rfl, fun hs => ⟨hs.rising, hs.l1, fun e he => ?_⟩⟩
  obtain he | he := mem_setSector he
  · exact hs.l2 e he
  · exact hx hs _ he

theorem State.homeWrite_tended (sec : Nat) (bs : List Byte) (m : Word) (w : Bool) : Tended s (s.homeWrite sec bs m w) :=
  .of_same (State.homeWrite_sameWork ..) rfl rfl rfl

theorem State.hostWrite_tended (a : Nat) (bs : List Byte) (m : Word) : Tended s (s.hostWrite a bs m) :=
  .of_same (State.hostWrite_sameWork ..) rfl rfl rfl

/-- Other fields of the L2: its lines and the sectors found bad. -/
theorem Tended.of_lines (ls : List (Nat × Hint)) (bad : List Nat) : Tended s { s with l2lines := ls, l2bad := bad } :=
  .of_same (.of_fields rfl rfl rfl rfl rfl) rfl rfl rfl

/-! ### The package's L2 (12 R248, R252) -/

theorem State.wbL2_tended (ctx sec : Nat) (who : Option (GroupId × TrapInfo)) : Tended s (s.wbL2 ctx sec who).1 := by
  unfold State.wbL2
  split
  · exact .refl s
  next x hx =>
    split
    · exact .refl s
    · split
      · refine .trans (State.hostWrite_tended ..) (State.setL2_tended _ _ _ (fun hs y hy => ?_))
        cases hy
        have hx1 := hs.l2Sector (sec := sec) hx
        exact (Sector.tidy_iff _).mpr ⟨((Sector.tidy_iff _).mp hx1).1, fun i hi => by simp [laneIn] at hi⟩
      · exact (State.sendRemote_onlySends ..).tended

theorem State.evictL2_tended (line : Nat) : Tended s (s.evictL2 line) := by
  have hw := Tended.foldl _ (fun t sec => State.wbL2_tended t 0 sec none)
    ((s.l2.filter (fun e => e.1 / 8 == line)).map Prod.fst) s
  refine hw.trans ?_
  exact ⟨.of_fields rfl rfl rfl rfl rfl, rfl, fun hs => ⟨hs.rising, hs.l1, fun e he => hs.l2 e (List.mem_of_mem_filter he)⟩⟩

theorem State.roomL2_tended (line : Nat) : Tended s (s.roomL2 line).2 := by
  unfold State.roomL2
  split
  · exact .refl s
  · dsimp only
    split
    · exact State.evictL2_tended ..
    · cases (byClass Prod.snd (s.sliceOfLine line)).head? with
      | none => exact .refl s
      | some e => exact State.evictL2_tended ..

theorem State.noteL2_tended (sec : Nat) (h : Option Hint) : Tended s (s.noteL2 sec h) := by
  unfold State.noteL2
  dsimp only
  split
  · cases h with
    | none => exact .refl s
    | some k => exact .of_lines s _ s.l2bad
  · split
    · exact .trans (State.roomL2_tended ..) (.of_lines _ _ _)
    · exact State.roomL2_tended ..

theorem State.putL2_tended (sec : Nat) (x : Sector) (h : Option Hint) (hx : x.tidy = true) : Tended s (s.putL2 sec x h) := by
  unfold State.putL2
  dsimp only
  split
  · exact .trans (State.noteL2_tended ..) (State.setL2_tended _ _ _ (fun _ y hy => by cases hy; exact hx))
  · exact State.noteL2_tended ..

theorem State.l2Merge_tended (sec : Nat) (bs : List Byte) (m : Word) (h : Option Hint) :
    Tended s (s.l2Merge sec bs m h) := by
  unfold State.l2Merge
  dsimp only
  refine .trans (State.noteL2_tended s sec h) ?_
  split
  · exact State.hostWrite_tended ..
  · refine State.setL2_tended _ _ _ (fun hs y hy => ?_)
    cases hy
    exact Sector.tidy_merge (hs.l2OrBlank sec) bs m

theorem State.wbAllL2_tended (ctx : Nat) (who : Nat → Option (GroupId × TrapInfo)) : Tended s (s.wbAllL2 ctx who).1 := by
  unfold State.wbAllL2
  exact foldl_keeps (fun acc : State × List Nat => Tended s acc.1) _
    (fun acc e h => h.trans (State.wbL2_tended acc.1 ctx e.1 (who e.1))) s.l2 (s, []) (.refl s)

/-! ### The cluster L1 (12 R252, R255) -/

theorem State.wbL1_tended (clus sec : Nat) : Tended s (s.wbL1 clus sec) := by
  unfold State.wbL1
  split
  · exact .refl s
  next x hx =>
    have hclean {t : State} (ht : Tended s t) (hs : s.SectorsTidy) : ∀ y, some x.clean = some y → y.tidy = true := by
      intro y hy
      cases hy
      exact Sector.tidy_clean (hs.l1Sector hx)
    split
    · exact .refl s
    · split
      · have hw := s.homeWrite_tended sec x.bytes x.mask x.whole
        exact ⟨.trans hw.toSameWork (State.setL1_sameWork ..), hw.teams, fun hs =>
          (State.setL1_tended _ clus sec _ (fun _ => hclean hw hs)).sectors (hw.sectors hs)⟩
      · split
        · exact .refl s
        · split
          · have hw := s.l2Merge_tended sec x.bytes x.mask none
            exact ⟨.trans hw.toSameWork (State.setL1_sameWork ..), hw.teams, fun hs =>
              (State.setL1_tended _ clus sec _ (fun _ => hclean hw hs)).sectors (hw.sectors hs)⟩
          · exact State.roomL2_tended ..

theorem State.wbCluster_tended (clus : Nat) : Tended s (s.wbCluster clus) := by
  unfold State.wbCluster
  exact .foldl _ (fun t (e : Nat × Sector) => State.wbL1_tended t clus e.1) _ s

/-- A release that is complete. -/
theorem State.releaseAt_tended {s t : State} {cx : Cx} {sc : Scope} {who : Nat → Option (GroupId × TrapInfo)}
    (h : s.releaseAt cx sc who = (true, t)) : Tended s t := by
  cases sc with
  | grp =>
    obtain ⟨-, rfl⟩ := Prod.mk.inj h
    exact .refl s
  | team =>
    obtain ⟨-, rfl⟩ := Prod.mk.inj h
    exact .refl s
  | dev =>
    obtain ⟨-, rfl⟩ := Prod.mk.inj h
    exact State.wbCluster_tended s _
  | sys =>
    simp only [State.releaseAt] at h
    split at h
    · cases h
    · split at h
      · obtain ⟨-, rfl⟩ := Prod.mk.inj h
        exact .refl s
      · generalize (if cx.p.released = 0 then _ else _ : List Nat) = ws at h
        split at h
        · obtain ⟨-, rfl⟩ := Prod.mk.inj h
          exact (State.wbCluster_tended s _).trans (State.wbAllL2_tended _ _ _)
        · cases h

theorem State.evictL1_tended (clus line : Nat) : Tended s (s.evictL1 clus line) := by
  have hw := Tended.foldl _ (fun t sec => State.wbL1_tended t clus sec)
    (((s.cluster clus).l1.filter (fun x => x.1 / 8 == line)).map Prod.fst) s
  unfold State.evictL1
  exact hw.trans (State.modCluster_tended _ clus _ (fun h x hx => h x (List.mem_of_mem_filter hx)))

theorem State.enterLine_tended {s t : State} {clus line : Nat} {h : Hint} (ht : s.enterLine clus line h = some t) :
    Tended s t := by
  unfold State.enterLine at ht
  dsimp only at ht
  split at ht
  · cases ht
    exact State.modCluster_tended s clus _ id
  · split at ht
    · cases ht
      exact .trans (State.evictL1_tended ..) (State.modCluster_tended _ clus _ id)
    · cases ht

theorem State.makeRoom_tended {s t : State} {clus sec : Nat} {h : Hint} (ht : s.makeRoom clus sec h = some t) :
    Tended s t := by
  unfold State.makeRoom at ht
  dsimp only at ht
  split at ht
  · split at ht
    · cases ht
      exact State.noteLine_tended ..
    · split at ht
      · cases ht
      · exact .trans (State.evictL1_tended ..) (State.enterLine_tended ht)
  · exact State.enterLine_tended ht

/-! ### Reads and writes (12 R249, R253) -/

theorem State.below_tended (sec : Nat) (h : Option Hint) : Tended s (s.below sec h).2 := by
  have hnote : Tended s (if h.isSome = true then s.noteL2 sec h else s) := by
    split
    · exact State.noteL2_tended ..
    · exact .refl s
  unfold State.below
  dsimp only
  split
  · exact hnote
  · split
    · exact .of_lines s s.l2lines _
    · split
      · split
        · exact hnote
        · split
          · exact State.putL2_tended _ _ _ _ (Sector.tidy_fill _ _)
          · exact .refl s
      · split
        · exact State.putL2_tended _ _ _ _ (Sector.tidy_fill _ _)
        · exact .refl s

theorem State.plainRead_tended (clus p n : Nat) (h h2 : Hint) : Tended s (s.plainRead clus p n h h2).2 := by
  have hb := s.below_tended (sectorOf p) (some h2)
  unfold State.plainRead
  dsimp only
  split
  next x hx =>
    have hset (y : Sector) (hy : s.SectorsTidy → y.tidy = true) {b : Below} {t : State}
        (hbt : s.below (sectorOf p) (some h2) = (b, t)) :
        Tended s ((t.setL1 clus (sectorOf p) (some y)).noteLine clus (sectorOf p) h) := by
      rw [hbt] at hb
      refine .trans ⟨hb.toSameWork.trans (State.setL1_sameWork ..), hb.teams, fun hs => ?_⟩ (State.noteLine_tended ..)
      exact (State.setL1_tended _ clus _ _ (fun _ z hz => by cases hz; exact hy hs)).sectors (hb.sectors hs)
    split
    · split
      next bs t hbt =>
        exact hset _ (fun hs => (Sector.tidy_iff _).mpr ⟨length_overlay .., fun i hi => laneIn_fullMask64 (lt_of_laneIn hi)⟩)
          hbt
      · exact hb
    · split
      · exact .refl s
      · split
        · exact State.noteLine_tended ..
        · split
          next bs t hbt => exact hset _ (fun _ => Sector.tidy_fill _ _) hbt
          · exact hb
  · split
    next bs t hbt =>
      rw [hbt] at hb
      split
      · exact hb.trans (State.noteLine_tended ..)
      · split
        next v hv =>
          exact (hb.trans (State.makeRoom_tended hv)).trans
            (State.setL1_tended _ _ _ _ (fun _ y hy => by cases hy; exact Sector.tidy_fill _ _))
        · exact hb
    · exact hb

theorem State.writeBelow_tended (sec : Nat) (bs : List Byte) (m : Word) (h : Option Hint) (whole : Bool) :
    Tended s (s.writeBelow sec bs m h whole) := by
  unfold State.writeBelow
  split
  · refine .trans (t := ite _ _ _) ?_ (State.homeWrite_tended ..)
    split
    · exact State.noteL2_tended ..
    · exact .refl s
  · exact State.l2Merge_tended ..

theorem State.writeThrough_tended (clus sec : Nat) (bs : List Byte) (m : Word) (h : Option Hint) (whole : Bool) :
    Tended s (s.writeThrough clus sec bs m h whole) := by
  have hb := s.writeBelow_tended sec bs m h whole
  unfold State.writeThrough
  dsimp only
  split
  next x hx =>
    exact hb.trans (State.setL1_tended _ _ _ _ (fun hs y hy => by cases hy; exact Sector.tidy_pass (hs.l1Sector hx) _ _))
  · exact hb

theorem State.storeRoom_tended {s t : State} {clus sec : Nat} {h : Hint} (ht : s.storeRoom clus sec h = some t) :
    Tended s t := by
  unfold State.storeRoom at ht
  split at ht
  · cases ht
  · split at ht
    · cases ht
      exact State.noteLine_tended ..
    · exact State.makeRoom_tended ht

theorem State.plainWrite_tended (clus sec : Nat) (bs : List Byte) (m : Word) (h h2 : Hint) (whole : Bool) :
    Tended s (s.plainWrite clus sec bs m h h2 whole) := by
  unfold State.plainWrite
  split
  · exact .trans (State.writeThrough_tended ..) (State.noteLine_tended ..)
  next t ht =>
    have htend := State.storeRoom_tended ht
    have hold (hs : t.SectorsTidy) : ((t.l1Sector clus sec).getD Sector.blank).tidy = true := by
      cases hx : t.l1Sector clus sec with
      | none => exact Sector.tidy_blank
      | some x => exact hs.l1Sector hx
    dsimp only
    split
    · exact (htend.trans (State.noteL2_tended ..)).trans (State.setL1_tended _ _ _ _ (fun _ y hy => by
        cases hy; exact Sector.tidy_write (Sector.tidy_fill _ _) _ _ _))
    · exact htend.trans (State.setL1_tended _ _ _ _ (fun hs y hy => by
        cases hy; exact Sector.tidy_write (hold hs) _ _ _))

theorem State.countL1_tended (cx : Cx) (sec : Nat) (m : Word) : Tended s (s.countL1 cx sec m) :=
  .of_same (.of_fields rfl rfl rfl rfl rfl) rfl rfl rfl

theorem State.installL2_tended (sec : Nat) (bs : List Byte) : Tended s (s.installL2 sec bs) := by
  unfold State.installL2
  dsimp only
  split
  · exact .of_lines s s.l2lines _
  · exact .trans (.of_lines s s.l2lines _) (State.putL2_tended _ _ _ _ (Sector.tidy_fill _ _))

theorem State.recall_tended (clus sec : Nat) : Tended s (s.recall clus sec) := by
  have hw := s.wbL1_tended clus sec
  unfold State.recall
  dsimp only
  split
  next x hx =>
    exact hw.trans (State.setL1_tended _ _ _ _ (fun hs y hy => Sector.tidy_invalidate (hs.l1Sector hx) hy))
  · exact hw
end

end Sys2Proof.Machine
end
section
/-! SUPPORT. A probe that lets its word go on, and what the operations of an atomic leave of groups (05 R102, R125 to R127, 15
R326, R335). -/

namespace Sys2Proof.Machine

open Sys2Proof.Claims

/-! ### Translations (08 R197, 15 R322 to R326) -/

section
variable (s : State)

theorem State.homeWriteAt_tended (p : Nat) (bs : List Byte) : Tended s (s.homeWriteAt p bs) := State.homeWrite_tended ..

theorem State.markLeaf_tended (p : Nat) (w : BitVec 128) (write : Bool) : Tended s (s.markLeaf p w write).1 := by
  rw [State.markLeaf]
  generalize w ||| _ ||| _ = w1
  by_cases h : w1 = w
  · simp only [h, if_true]
    exact .refl s
  · simp only [h, if_false]
    exact State.homeWriteAt_tended ..

theorem State.fillTlb_tended (a : Asker) (e : TlbEntry) : Tended s (s.fillTlb a e) := by
  have hl2 (k : Nat) : Tended s (s.fillL2 k e) := .of_same (.of_fields rfl rfl rfl rfl rfl) rfl rfl rfl
  cases a with
  | core c => exact (hl2 (dieOf c.clus)).trans (t := s.fillL2 (dieOf c.clus) e) (.of_same (.of_fields rfl rfl rfl rfl rfl) rfl rfl rfl)
  | engine clus => exact hl2 _
  | hub => exact .refl s

theorem State.lookup_tended (a : Asker) (ctx : Nat) (seg : BitVec 8) (off : Nat) (k : Kind) :
    Tended s (s.lookup a ctx seg off k).2 := by
  unfold State.lookup
  split
  · exact .refl s
  · split
    · exact .refl s
    · exact .refl s
    next w p level _ =>
      split
      · exact .refl s
      · exact (State.markLeaf_tended ..).trans (State.fillTlb_tended ..)

theorem State.translateAll_tended (a : Asker) (ctx : Nat) (k : Kind) (xs : List Run) :
    Tended s (s.translateAll a ctx k xs).2 := by
  unfold State.translateAll
  exact foldl_keeps (fun acc : List Region × State => Tended s acc.2) _
    (fun acc r h => h.trans (State.lookup_tended ..)) (regionsOf xs) ([], s) (.refl s)
end

/-! ### The probe (15 R326) -/

/-- A region of a probe that lets its word go on: translated, and no page of it refused. -/
def Region.good (r : Region) : Prop := ∃ p h, r.res = .ok p h ∧ r.refused = []

theorem Region.good_of_causes {abort : Bool} {r : Region} (hc : regionCause abort r = none) (hr : r.res ≠ .recoverable) :
    r.good := by
  unfold regionCause at hc
  split at hc
  next p h hres =>
    split at hc
    next he => exact ⟨p, h, hres, List.isEmpty_iff.mp he⟩
    next => cases hc
  · cases hc
  · cases hc
  next hres => exact absurd hres hr

/-- A probe that lets its word go on has its regions from the translations, all of them good; of the state it changes what
they change, and perhaps the mark of an aborted fault. -/
theorem State.probe_ok {s t : State} {cx : Cx} {k : Kind} {accs : List LaneAcc} {rs : List Region}
    (h : s.probe cx k accs = .ok rs t) :
    let x := s.translateAll (.core cx.g.core) cx.ctx k (accRuns accs)
    rs = x.1 ∧ (t = x.2 ∨ t = x.2.endAbort cx) ∧ ∀ r ∈ rs, r.good := by
  intro x
  unfold State.probe at h
  dsimp only at h
  split at h
  · cases h
  next hnone =>
    split at h
    next hrec =>
      cases h
      refine ⟨rfl, ?_, fun r hr => ?_⟩
      · split
        · exact .inr rfl
        · exact .inl rfl
      · refine Region.good_of_causes (List.findSome?_eq_none_iff.mp hnone r hr) (fun he => ?_)
        have := List.filter_eq_nil_iff.mp hrec r hr
        simp [he] at this
    · split at h <;> split at h <;> cases h

/-- A change of the word's path that leaves what `Midword` says of it. -/
theorem Midword.modPath {cx : Cx} {e : State} {h : Group} {p : Path} (hm : Midword cx e h p) (f : Path → Path)
    (hpc : (f p).pc = p.pc) (hmask : (f p).mask = p.mask) (hjx : (f p).jx = p.jx) (hacq : (f p).acquiring = p.acquiring) :
    Midword cx (e.modGroup cx.gid (fun g => g.modPath cx.slot f)) (h.modPath cx.slot f) (f p) := by
  rw [State.modGroup_some hm.group]
  refine ⟨State.group?_setGroup_same .., hm.issue.trans (Group.setPath_onlyIssue ..), ?_, hpc.trans hm.pc,
    hmask.trans hm.mask, hjx.trans hm.jx, hacq.trans hm.acquiring, ?_, hm.ctxOf, State.memoryOk_setGroup _ _ _ hm.ok⟩
  · rw [Group.path_modPath_same, hm.path, Option.map_some]
  · rw [← hm.other]
    exact Group.path_setPath_other _ _ _ _ (Group.slot_ne cx.slot)

theorem Midword.endAbort {cx cx1 : Cx} {e : State} {h : Group} {p : Path} (hm : Midword cx e h p) (hgid : cx1.gid = cx.gid)
    (hslot : cx1.slot = cx.slot) : ∃ h1 p1, Midword cx (e.endAbort cx1) h1 p1 := by
  have hmod := hm.modPath (fun q => { q with abortNext := false }) rfl rfl rfl rfl
  unfold State.endAbort
  rw [hgid, hslot]
  exact ⟨_, _, hmod⟩

/-- A probe that lets its word go on leaves the state one of the word's effect. -/
theorem Midword.probe {cx cx1 : Cx} {e t : State} {h : Group} {p : Path} {k : Kind} {accs : List LaneAcc}
    {rs : List Region} (hm : Midword cx e h p) (hgid : cx1.gid = cx.gid) (hslot : cx1.slot = cx.slot)
    (hp : e.probe cx1 k accs = .ok rs t) : ∃ h1 p1, Midword cx t h1 p1 := by
  obtain ⟨-, ht, -⟩ := State.probe_ok hp
  have hm1 := hm.same (State.translateAll_tended e (.core cx1.g.core) cx1.ctx k (accRuns accs)).toSameWork
  obtain rfl | rfl := ht
  · exact ⟨_, _, hm1⟩
  · exact hm1.endAbort hgid hslot

theorem Group.onlyIssue.counts {g h : Group} (hi : g.onlyIssue h) : h.counts = g.counts := by
  have := congrArg Group.counts hi; exact this
theorem Group.onlyIssue.draw {g h : Group} (hi : g.onlyIssue h) : h.draw = g.draw := by
  have := congrArg Group.draw hi; exact this

/-! ### The operations of an atomic -/

section
variable (s : State)

theorem State.atomL1_tended (clus p nb : Nat) (fills : List (Nat × FillRes)) (ret : Hint) (f : Rmw) :
    Tended s (s.atomL1 clus p nb fills ret f).2 := by
  have hread (t : State) : Tended t (t.plainRead clus p nb .dflt ret).2 := State.plainRead_tended ..
  unfold State.atomL1
  dsimp only
  split
  · exact State.roomL2_tended ..
  · have h1 := hread s
    split
    next heq => rw [heq] at h1; exact h1.trans (State.plainWrite_tended ..)
    next heq => rw [heq] at h1; exact h1
    next s1 heq =>
      rw [heq] at h1
      split
      · exact h1
      · exact h1
      · exact h1
      next bs _ =>
        have h2 := (h1.trans (State.installL2_tended s1 (sectorOf p) bs)).trans (hread _)
        split
        next heq2 => rw [heq2] at h2; exact h2.trans (State.plainWrite_tended ..)
        next heq2 => rw [heq2] at h2; exact h2

theorem State.atomDev_tended (clus p nb : Nat) (fills : List (Nat × FillRes)) (f : Rmw) (ret : Option Hint) :
    Tended s (s.atomDev clus p nb fills f ret).2 := by
  have hnote : Tended s (if ret.isSome then s.noteL2 (sectorOf p) ret else s) := by
    split
    · exact State.noteL2_tended ..
    · exact .refl s
  unfold State.atomDev
  dsimp only
  generalize (if ret.isSome then s.noteL2 (sectorOf p) ret else s) = s0 at hnote
  split
  · have h1 := hnote.trans (s0.recall_tended clus (sectorOf p))
    split
    · exact h1
    · exact h1.trans (State.homeWriteAt_tended ..)
  · split
    · exact State.roomL2_tended ..
    · have h1 := (s.recall_tended clus (sectorOf p)).trans (State.below_tended _ (sectorOf p) ret)
      split
      next heq => rw [heq] at h1; exact h1.trans (State.l2Merge_tended ..)
      next heq => rw [heq] at h1; exact h1
      next s2 heq =>
        rw [heq] at h1
        split
        · exact h1
        · exact h1
        · exact h1
        next bs _ =>
          have h2 := (h1.trans (State.installL2_tended s2 (sectorOf p) bs)).trans (State.below_tended _ (sectorOf p) ret)
          split
          next heq2 => rw [heq2] at h2; exact h2.trans (State.l2Merge_tended ..)
          next heq2 => rw [heq2] at h2; exact h2

theorem State.atomHost_sameWork (ctx clus p nb : Nat) (f : Rmw) : SameWork s (s.atomHost ctx clus p nb f).2 := by
  have h1 := (s.recall_tended clus (sectorOf p)).toSameWork.trans (State.wbL2_sameWork _ ctx (sectorOf p) none)
  unfold State.atomHost
  dsimp only
  split
  · exact (h1.trans (State.setL2_sameWork ..)).trans (State.hostWriteN_sameWork ..)
  · exact h1.trans (State.hostWriteN_sameWork ..)

theorem State.sendAtom_sameWork (cx : Cx) (w : AtomWord) (j : AtomJob) (p : Nat) : SameWork s (s.sendAtom cx w j p).2 :=
  State.sendRemote_sameWork ..

theorem State.clearPeer_tended (cx : Cx) (ps : List Piece) (sec : Nat) : Tended s (s.clearPeer cx ps sec) :=
  (State.recall_tended ..).trans (State.wbL2_tended ..)

/-- Bytes written to the scratch of a team. -/
theorem State.scratchWrite_sameWork (tid : TeamId) (o : Nat) (bs : List Byte) : SameWork s (s.scratchWrite tid o bs) := by
  unfold State.scratchWrite State.modTeam
  split
  next t ht =>
    refine ⟨rfl, rfl, fun hs => ?_⟩
    rw [State.memoryOk_iff] at hs ⊢
    refine ⟨hs.1, hs.2.1, fun x hx => ?_⟩
    obtain rfl | hx := Tab.mem_put _ _ _ _ hx
    · exact Memory.wf_writeN _ _ _ (hs.2.2 _ (Tab.get?_mem _ _ _ ht))
    · exact hs.2.2 x hx
  · exact .refl s

theorem State.perform_sameWork (cx : Cx) (w : AtomWord) (rs : List Region) (j : AtomJob) :
    SameWork s (s.perform cx w rs j).2 := by
  have hl1 (p nb : Nat) (m : Word) (ret : Hint) (f : Rmw) :
      SameWork s ((s.countL1 cx (sectorOf p) m).atomL1 cx.g.core.clus p nb cx.p.fills ret f).2 :=
    ((s.countL1_tended cx (sectorOf p) m).trans (State.atomL1_tended ..)).toSameWork
  have hdev (p nb : Nat) (f : Rmw) (ret : Option Hint) :
      SameWork s (s.atomDev cx.g.core.clus p nb cx.p.fills f ret).2 := (State.atomDev_tended ..).toSameWork
  unfold State.perform
  dsimp only
  split
  · exact State.scratchWrite_sameWork ..
  · cases w.sc with
    | grp => exact hl1 ..
    | team => exact hl1 ..
    | dev => exact hdev ..
    | sys =>
      dsimp only
      split
      · exact hdev ..
      · split
        · exact State.atomHost_sameWork ..
        · split
          · exact .refl s
          · split
            · exact (State.setL2_sameWork ..).trans (State.sendAtom_sameWork ..)
            · exact State.sendAtom_sameWork ..

theorem State.performAll_sameWork (cx : Cx) (w : AtomWord) (rs : List Region) (js : List AtomJob) :
    SameWork s (s.performAll cx w rs js).2 := by
  unfold State.performAll
  exact foldl_keeps (fun acc : List (AtomJob × Perf) × State => SameWork s acc.2) _
    (fun acc j h => h.trans (State.perform_sameWork ..)) js ([], s) (.refl s)
end

end Sys2Proof.Machine
end
section
/-! PROOFS. Atomics between their release and their acquire (05 R126, R128, 12 R255). -/

namespace Sys2Proof.Proofs

open Sys2Proof Sys2Proof.Machine Sys2Proof.Claims

/-! ### The result of an atomic -/

/-- The result in flight of atom and acas where nothing is an obstacle. -/
def atomFlight (cx : Cx) (w : AtomWord) (xs : List (AtomJob × Perf)) (d : Nat) : InFlight :=
  { serial := w.serial, slot := cx.slot, kind := .atom, covered := false, dests := [d]
    writes := laneWrites cx.w d (localResults cx w xs).1, counts := Counts.zero, due := []
    waits := xs.filterMap (fun x => match x.2 with
      | .sent n => some n
      | _ => none)
    job := none, stamps := [] }

/-- A group once an atomic has performed its operations: their events, and the result in flight. -/
def withAtom (cx : Cx) (w : AtomWord) (xs : List (AtomJob × Perf)) (g : Group) : Group :=
  match w.reg with
  | some d => (g.addCounts (localResults cx w xs).2).fly (atomFlight cx w xs d)
  | none => g.addCounts (localResults cx w xs).2

section
variable {cx : Cx} {w : AtomWord} {rs : List Region} {xs : List (AtomJob × Perf)}

/-- An operation that is no obstacle was performed or is on its way. -/
theorem goesOn_cases {x : AtomJob × Perf} (h : xs.all (fun x => goesOn x.2) = true) (hx : x ∈ xs) :
    (∃ old cnt, x.2 = .done old cnt) ∨ ∃ n, x.2 = .sent n := by
  have hg := List.all_eq_true.mp h x hx
  cases hq : x.2 with
  | done old cnt => exact .inl ⟨old, cnt, rfl⟩
  | sent n => exact .inr ⟨n, rfl⟩
  | need sec => rw [hq] at hg; cases hg
  | busy => rw [hq] at hg; cases hg
  | poisoned => rw [hq] at hg; cases hg
  | lost d => rw [hq] at hg; cases hg

/-- Such operations meet no poison. -/
theorem jobTraps_nil (h : xs.all (fun x => goesOn x.2) = true) : xs.filterMap (fun x => jobTrap cx x.1 x.2) = [] := by
  refine List.filterMap_eq_nil_iff.mpr (fun x hx => ?_)
  obtain ⟨old, cnt, hq⟩ | ⟨n, hq⟩ := goesOn_cases h hx <;> rw [hq] <;> rfl

/-- They have lost no read. -/
theorem jobsLost_nil (h : xs.all (fun x => goesOn x.2) = true) :
    lostTraps cx (xs.map (fun x => (jobPiece w rs x.1, x.2.got))) = [] := by
  refine List.filterMap_eq_nil_iff.mpr (fun f _ => ?_)
  split
  next d _ =>
    rw [Option.map_eq_none_iff, List.find?_eq_none]
    intro y hy
    obtain ⟨x, hx, rfl⟩ := List.mem_map.mp hy
    have hgot : x.2.got = .bytes [] := by
      obtain ⟨old, cnt, hq⟩ | ⟨n, hq⟩ := goesOn_cases h hx <;> rw [hq] <;> rfl
    simp only [hgot, reduceCtorEq, beq_iff_eq, Bool.and_eq_true, and_false, not_false_eq_true]
  · rfl

/-- They wait for no read. -/
theorem perfNeeds_nil (h : xs.all (fun x => goesOn x.2) = true) : perfNeeds xs = [] := by
  unfold perfNeeds
  rw [List.dedup_eq_nil, List.filterMap_eq_nil_iff]
  intro x hx
  obtain ⟨old, cnt, hq⟩ | ⟨n, hq⟩ := goesOn_cases h hx <;> rw [hq]

theorem noneBusy (h : xs.all (fun x => goesOn x.2) = true) : xs.any (fun x => x.2 == .busy) = false := by
  rw [List.any_eq_false]
  intro x hx
  obtain ⟨old, cnt, hq⟩ | ⟨n, hq⟩ := goesOn_cases h hx <;> rw [hq] <;> simp

/-- The result of operations that are no obstacle. -/
theorem atomResult_eq (s : State) (h : xs.all (fun x => goesOn x.2) = true) :
    s.atomResult cx w rs xs = match w.reg with
      | some d => (s.modGroup cx.gid (fun g => g.addCounts (localResults cx w xs).2)).modGroup cx.gid
          (fun g => g.fly (atomFlight cx w xs d))
      | none => s.modGroup cx.gid (fun g => g.addCounts (localResults cx w xs).2) := by
  unfold State.atomResult
  dsimp only
  rw [jobTraps_nil h, jobsLost_nil h]
  cases w.reg <;> rfl

theorem placed_atomResult {s e : State} {cx0 : Cx} {h : Group} (hp : Placed s e cx0 h) (hgid : cx.gid = cx0.gid)
    (hgo : xs.all (fun x => goesOn x.2) = true) : Placed s (e.atomResult cx w rs xs) cx0 (withAtom cx w xs h) := by
  rw [atomResult_eq e hgo, hgid, withAtom]
  have h1 := hp.modGroup (fun g => g.addCounts (localResults cx w xs).2) rfl rfl rfl
  cases w.reg with
  | some d => exact h1.modGroup (fun g => g.fly (atomFlight cx w xs d)) rfl rfl rfl
  | none => exact h1

section
variable (cx w xs) (g : Group)
theorem path_withAtom (n : Nat) : (withAtom cx w xs g).path n = g.path n := by
  unfold withAtom
  split <;> rfl
theorem draw_withAtom : (withAtom cx w xs g).draw = g.draw := by
  unfold withAtom
  split <;> rfl
theorem counts_withAtom : (withAtom cx w xs g).counts = g.counts.add (localResults cx w xs).2 := by
  unfold withAtom
  split <;> rfl
theorem withAtom_onlyIssue : g.onlyIssue { withAtom cx w xs g with counts := g.counts } := by
  unfold withAtom
  split <;> rfl
end

/-! ### The end of the word -/

/-- The word of an atomic ends: `h1` is its group once its operations have their results, but for DRAW. -/
theorem atomWord_ended {cx cx1 : Cx} {e e1 : State} {h h1 : Group} {p p1 : Path} (hm : Midword cx e h p)
    (hpl : Placed e e1 cx h1) (hpath : h1.path cx.slot = some p1) (hmask : p1.mask = p.mask) (hjx : p1.jx = p.jx)
    (hother : h1.path (1 - cx.slot) = h.path (1 - cx.slot)) (hframe : h.onlyIssue { h1 with counts := h.counts })
    (adv : Bool) (hgid : cx1.gid = cx.gid) (hslot : cx1.slot = cx.slot) (heff : cx1.eff = cx.eff) (g : Guard) (u : Uses) :
    ∃ gt keep, Ended e ((e1.drawIf cx1 adv).finish cx1 g u (some (cx.p.pc + 16))) cx g (h1.drawnIf adv cx.eff) gt
      ∧ gt.path cx.slot = some (p1.finished g keep (some (cx.p.pc + 16)))
      ∧ cx.g.onlyIssue { gt with counts := cx.g.counts, draw := cx.g.draw } := by
  have hdraw : Placed e (e1.drawIf cx1 adv) cx (h1.drawnIf adv cx.eff) := by
    cases adv with
    | true =>
      have h := hpl.modGroup (fun g => g.advanceDraw cx.eff) rfl rfl rfl
      rw [← hgid, ← heff] at h
      rw [← heff]
      exact h
    | false => exact hpl
  obtain ⟨gt, keep, hend, hp⟩ := hdraw.ended_at hm.ctxOf hm.ok (by rw [Group.path_drawnIf]; exact hpath)
    (hmask.trans hm.mask) (hjx.trans hm.jx) (by rw [Group.path_drawnIf, hother]; exact hm.other) hgid hslot g u
  refine ⟨gt, keep, hend, hp, ?_⟩
  obtain ⟨D, hD⟩ := Group.drawnIf_eq adv cx.eff h1
  have hissue := hend.issue
  rw [hD] at hissue
  have hcounts := hm.issue.counts
  have hdraw0 : h1.draw = cx.g.draw := hframe.draw.trans hm.issue.draw
  have hlast : Group.onlyIssue { h1 with counts := h.counts } { gt with counts := cx.g.counts, draw := cx.g.draw } := by
    have hq := congrArg (fun x : Group => { x with counts := cx.g.counts, draw := cx.g.draw }) hissue
    rw [Group.onlyIssue, hcounts, ← hdraw0]
    rw [← hdraw0] at hq
    exact hq
  exact (hm.issue.trans hframe).trans hlast

/-- The group of a word, where the acquire of an atomic follows an answer that is still to come. -/
def waitsAnswer (later : Bool) (slot n : Nat) (h : Group) : Group :=
  if later then h.modPath slot (fun q => { q with acquiring := some n }) else h

theorem placed_waitsAnswer {cx cx1 : Cx} {e : State} {h : Group} (hp : Placed e e cx h) (hgid : cx1.gid = cx.gid)
    (hslot : cx1.slot = cx.slot) (later : Bool) (n : Nat) :
    Placed e (if later then e.modCur cx1 (fun q => { q with acquiring := some n }) else e) cx
      (waitsAnswer later cx.slot n h) := by
  cases later with
  | true =>
    have hmod := hp.modGroup (fun x => x.modPath cx.slot (fun q => { q with acquiring := some n }))
      (by simp [Group.modPath]) (by simp [Group.modPath]) (by simp [Group.modPath])
    simp only [if_true, State.modCur, hgid, hslot]
    exact hmod
  | false => exact hp

section
variable (later : Bool) (n slot : Nat) (h : Group)

theorem path_waitsAnswer {p : Path} (hp : h.path slot = some p) :
    (waitsAnswer later slot n h).path slot = some { p with acquiring := if later then some n else p.acquiring } := by
  cases later with
  | true => simp [waitsAnswer, Group.path_modPath_same, hp]
  | false => exact hp

theorem path_waitsAnswer_other : (waitsAnswer later slot n h).path (1 - slot) = h.path (1 - slot) := by
  cases later with
  | true => exact Group.path_setPath_other _ _ _ _ (Group.slot_ne slot)
  | false => rfl

theorem waitsAnswer_onlyIssue : h.onlyIssue (waitsAnswer later slot n h) := by
  cases later with
  | true => exact Group.setPath_onlyIssue ..
  | false => exact .refl h
end

/-! ### The word -/

/-- The parameters of an atomic's operations. -/
def atomWordOf (op : AtomOp) (b64 : Bool) (fs : BitVec 4) (d : Option RegIx) (sc : Scope) (n : Nat) : AtomWord :=
  { op := op, b64 := b64, fs := fs, fetches := d.isSome, sc := sc, reg := d.map (·.toNat), serial := n }

/-- The operations of an atomic: one a lane, or one for all lanes that name one word (05 R126, R127). -/
def atomJobs (cx : Cx) (op : AtomOp) (b64 : Bool) (fs : BitVec 4) (d : Option RegIx) (b : Src) (c : Option Src)
    (accs : List LaneAcc) : List AtomJob :=
  if c.isSome || op == .exch then accs.map (jobOne cx b64 d.isSome b c)
  else (addrSets accs).map (jobOf cx op b64 d.isSome fs b)

section
variable {op : AtomOp} {b64 : Bool} {fs : BitVec 4} {o : Order} {sc : Scope} {d : Option RegIx} {m : Addr} {b : Src}
  {c : Option Src} {s s1 s2 s3 : State} {cx : Cx} {rs : List Region} {xs : List (AtomJob × Perf)} {w : AtomWord}
  {js : List AtomJob}

/-- An atomic that no check and no DET holds back runs its operations. -/
theorem atomBody_run (hslot : isFloatAtom op = true → (cx.fmt fs).w ≤ 8 * atomBytes b64)
    (hearly : earlyFault cx (atomBytes b64) (byteAccs cx m (atomBytes b64)) = none)
    (hprobe : s.probe cx .atomic (byteAccs cx m (atomBytes b64)) = .ok rs s1)
    (hpeer : isFloatAtom op = true ∨ c.isSome = true → plainPeer s1 rs (byteAccs cx m (atomBytes b64)) = none)
    (hdet : cx.l.det = false ∨ op ≠ .fadd) :
    atomBody op b64 fs o sc d m b c s cx = drawAfter cx op fs (atomRun o
      (atomWordOf op b64 fs d (accScope (byteAccs cx m (atomBytes b64)) sc) s1.serial) rs
      (atomJobs cx op b64 fs d b c (byteAccs cx m (atomBytes b64))) s1.take.2 cx) := by
  have hwide : (isFloatAtom op && decide (8 * atomBytes b64 < (cx.fmt fs).w)) = false := by
    cases hf : isFloatAtom op with
    | true => simpa using hslot hf
    | false => rfl
  have hplain : (if isFloatAtom op || c.isSome then plainPeer s1 rs (byteAccs cx m (atomBytes b64)) else none) = none := by
    split
    next h => exact hpeer (by simpa using h)
    next => rfl
  have hnodet : (cx.l.det && op == .fadd) = false := by
    obtain h | h := hdet
    · rw [h]; rfl
    · simp [h]
  unfold atomBody
  dsimp only
  rw [hwide, hearly, hprobe]
  dsimp only [Bool.false_eq_true, if_false]
  rw [hplain, hnodet]
  rfl

/-- Operations of which none is an obstacle, between the release and the acquire of their word. -/
theorem atomRun_done
    (hrel : (if releases o || acquires o then s.releaseAt cx w.sc (storeWho cx (jobPieces w rs js)) else (true, s)) = (true, s2))
    (hwin : windowFull ((sysSectors w rs js).foldl (fun s sec => s.clearPeer cx (jobPieces w rs js) sec) s2) cx w rs js = false)
    (hperf : ((sysSectors w rs js).foldl (fun s sec => s.clearPeer cx (jobPieces w rs js) sec) s2).performAll cx w rs js
      = (xs, s3)) (hgo : xs.all (fun x => goesOn x.2) = true) {later : Bool}
    (hlater : later = (acquires o && xs.any (fun x => x.2.isSent))) :
    atomRun o w rs js s cx = .done (State.atomResult
      (if later then s3.modCur cx (fun p => { p with acquiring := some w.serial })
        else if acquires o then s3.acquireAt cx.g.core.clus cx.ctx (storeWho cx (jobPieces w rs js)) w.sc else s3)
      cx w rs xs) := by
  subst hlater
  unfold atomRun
  dsimp only
  rw [hrel]
  dsimp only
  rw [hwin, hperf]
  dsimp only
  rw [perfNeeds_nil hgo, noneBusy hgo]
  rfl
end

section
variable {op : AtomOp} {b64 : Bool} {fs : BitVec 4} {o : Order} {sc : Scope} {d : Option RegIx} {m : Addr} {b : Src}
  {c : Option Src} {s s1 s2 s3 : State} {cx : Cx} {rs : List Region} {xs : List (AtomJob × Perf)} {w : AtomWord}
  {js : List AtomJob} {g : Guard} {u : Uses}

/-- What the end of an atomic's word leaves of its group and of the machine `e` (05 R126, R128). -/
theorem atomWord_completes {e : State} {h : Group} {p : Path} (hm : Midword cx e h p) (hr : Ready s g u cx)
    (hgo : xs.all (fun x => goesOn x.2) = true) (later : Bool) (adv : Bool) :
    ∃ gt p1, let t := ((State.atomResult
        (if later then e.modCur (cx.fetched u) (fun p => { p with acquiring := some w.serial }) else e)
        (cx.fetched u) w rs xs).drawIf (cx.fetched u) adv).finish (cx.fetched u) g u (some (cx.p.pc + 16))
      Next e t cx g gt ∧ cx.g.keeps gt [] ∧ gt.path cx.slot = some p1
      ∧ p1.acquiring = (if later then some w.serial else cx.p.acquiring)
      ∧ gt.counts = cx.g.counts.add (localResults (cx.fetched u) w xs).2
      ∧ (∀ l, l < 64 → gt.drawOf l = if adv && laneIn cx.eff l then cx.g.drawOf l + 1 else cx.g.drawOf l)
      ∧ (adv = false → gt.draw = cx.g.draw)
      ∧ cx.g.onlyRegs { gt with counts := cx.g.counts, draw := cx.g.draw } ∧ e.sameMemory t cx ∧ e.onlyGroups t
      ∧ ∀ d, w.reg = some d → ∃ f ∈ gt.flight, (atomFlight (cx.fetched u) w xs d).alike f := by
  have hw := placed_waitsAnswer (cx1 := cx.fetched u) hm.placed rfl rfl later w.serial
  have hpl := placed_atomResult (cx := cx.fetched u) (w := w) (rs := rs) hw rfl hgo
  have hissue := (waitsAnswer_onlyIssue later w.serial cx.slot h).trans
    (withAtom_onlyIssue (cx.fetched u) w xs (waitsAnswer later cx.slot w.serial h))
  have hcw := (waitsAnswer_onlyIssue later w.serial cx.slot h).counts
  rw [hcw] at hissue
  obtain ⟨gt, keep, hend, hpath, hframe⟩ := atomWord_ended (cx1 := cx.fetched u) hm hpl
    ((path_withAtom ..).trans (path_waitsAnswer later w.serial cx.slot h hm.path)) rfl rfl
    ((path_withAtom ..).trans (path_waitsAnswer_other ..)) hissue adv rfl rfl rfl g u
  have hcounts : gt.counts = cx.g.counts.add (localResults (cx.fetched u) w xs).2 := by
    obtain ⟨D, hD⟩ := Group.drawnIf_eq adv cx.eff (withAtom (cx.fetched u) w xs (waitsAnswer later cx.slot w.serial h))
    have hq := congrArg Group.counts hend.issue
    rw [hD] at hq
    rw [← hm.issue.counts, ← hcw, ← counts_withAtom]
    exact hq
  have hdraw : (withAtom (cx.fetched u) w xs (waitsAnswer later cx.slot w.serial h)).draw = cx.g.draw :=
    ((draw_withAtom ..).trans (waitsAnswer_onlyIssue later w.serial cx.slot h).draw).trans hm.issue.draw
  refine ⟨gt, _, hend.next, hframe.keeps [], hpath, ?_, hcounts, fun l _ => ?_, fun hadv => ?_, hframe.onlyRegs, hend.memory,
    hend.rest, fun d hd => ?_⟩
  · cases later with
    | true => rfl
    | false => exact hm.acquiring
  · have hq := congrArg (fun x : Group => x.drawOf l) hend.issue
    refine Eq.trans hq ?_
    rw [Group.drawOf_drawnIf _ _ _ _ (by rw [hdraw]; exact hr.drawRising)]
    simp only [Group.drawOf, hdraw]
  · subst hadv
    exact (congrArg Group.draw hend.issue).trans hdraw
  · refine hend.mem_flight ?_
    rw [Group.flight_drawnIf, withAtom, hd]
    exact List.mem_append_right _ (List.mem_singleton_self _)

/-- The machine between the release of an atomic and its acquire is still in the midst of the word. -/
theorem midword_performed (hr : Ready s g u cx) (hprobe : (s.fetched cx u).probe (cx.fetched u) .atomic (byteAccs cx m (atomBytes b64)) = .ok rs s1)
    {ps : List Piece} (hrel : (if releases o || acquires o then s1.take.2.releaseAt (cx.fetched u) w.sc (storeWho (cx.fetched u) ps)
      else (true, s1.take.2)) = (true, s2)) {secs : List Nat}
    (hperf : (secs.foldl (fun s sec => s.clearPeer (cx.fetched u) ps sec) s2).performAll (cx.fetched u) w rs js = (xs, s3)) :
    ∃ h p, Midword cx s3 h p := by
  obtain ⟨h, p, hm⟩ := (hr.midword).probe (cx1 := cx.fetched u) rfl rfl hprobe
  have htake : SameWork s1 s1.take.2 := .of_fields rfl rfl rfl rfl rfl
  have hclear := SameWork.foldl (fun s sec => s.clearPeer (cx.fetched u) ps sec)
    (fun t x => (t.clearPeer_tended (cx.fetched u) ps x).toSameWork) secs s2
  have hall := State.performAll_sameWork (secs.foldl (fun s sec => s.clearPeer (cx.fetched u) ps sec) s2) (cx.fetched u) w rs js
  rw [hperf] at hall
  exact ⟨h, p, hm.same (((htake.trans (State.releaseIf_sameWork hrel)).trans hclear).trans hall)⟩
end

end

theorem exec_red (g : Guard) (op : AtomOp) (b64 : Bool) (fs : BitVec 4) (o : Order) (sc : Scope) (m : Addr) (b : Src)
    (s : State) : exec (.red g op b64 fs o sc m b) s
      = issueMasked g ((memUses m b (.spec .zero) []).withSlots (atomSlots op fs)) (atomBody op b64 fs o sc none m b none) s := rfl

theorem exec_atom (g : Guard) (op : AtomOp) (b64 : Bool) (fs : BitVec 4) (o : Order) (sc : Scope) (d : RegIx) (m : Addr)
    (b : Src) (s : State) : exec (.atom g op b64 fs o sc d m b) s
      = issueMasked g ((memUses m b (.spec .zero) [d.toNat]).withSlots (atomSlots op fs))
          (atomBody op b64 fs o sc (some d) m b none) s := rfl

theorem exec_acas (g : Guard) (b64 : Bool) (o : Order) (sc : Scope) (d : RegIx) (m : Addr) (b c : Src) (s : State) :
    exec (.acas g b64 o sc d m b c) s
      = issueMasked g (memUses m b c [d.toNat]) (atomBody .exch b64 0 o sc (some d) m b (some c)) s := rfl

section
variable {g : Guard} {op : AtomOp} {b64 : Bool} {fs : BitVec 4} {o : Order} {sc : Scope} {d : Option RegIx} {m : Addr}
  {b : Src} {c : Option Src} {s s1 s2 s3 : State} {cx : Cx} {i : Instr} {u : Uses} {rs : List Region}
  {xs : List (AtomJob × Perf)}

/-- Any atomic, told by its destination and its swap operand. -/
theorem atom_completes {at_ : Scope} {w : AtomWord} {js : List AtomJob}
    (hat : at_ = accScope (byteAccs cx m (atomBytes b64)) sc) (hw : w = atomWordOf op b64 fs d at_ s1.serial)
    (hjs : js = atomJobs (cx.fetched u) op b64 fs d b c (byteAccs cx m (atomBytes b64)))
    (hexec : exec i s = issueMasked g u (atomBody op b64 fs o sc d m b c) s) (hr : Ready s g u cx) (he : cx.eff ≠ 0)
    (hdet : cx.l.det = false ∨ op ≠ .fadd) (hslot : isFloatAtom op = true → (cx.fmt fs).w ≤ 8 * atomBytes b64)
    (hearly : earlyFault cx (atomBytes b64) (byteAccs cx m (atomBytes b64)) = none)
    (hprobe : (s.fetched cx u).probe (cx.fetched u) .atomic (byteAccs cx m (atomBytes b64)) = .ok rs s1)
    (hpeer : isFloatAtom op = true ∨ c.isSome = true → plainPeer s1 rs (byteAccs cx m (atomBytes b64)) = none)
    (hrel : (if releases o || acquires o then
      s1.take.2.releaseAt (cx.fetched u) at_ (storeWho (cx.fetched u) (jobPieces w rs js)) else (true, s1.take.2)) = (true, s2))
    (hwin : windowFull ((sysSectors w rs js).foldl (fun s sec => s.clearPeer (cx.fetched u) (jobPieces w rs js) sec) s2)
      (cx.fetched u) w rs js = false)
    (hperf : ((sysSectors w rs js).foldl (fun s sec => s.clearPeer (cx.fetched u) (jobPieces w rs js) sec) s2).performAll
      (cx.fetched u) w rs js = (xs, s3)) (hgo : xs.all (fun x => goesOn x.2) = true) {later : Bool}
    (hlater : later = (acquires o && xs.any (fun x => x.2.isSent))) {e : State}
    (hacq : e = if acquires o && !later then
      s3.acquireAt cx.g.core.clus cx.ctx (storeWho (cx.fetched u) (jobPieces w rs js)) at_ else s3) :
    ∃ t gt p, exec i s = .next t ∧ Next e t cx g gt ∧ cx.g.keeps gt []
      ∧ gt.path cx.slot = some p ∧ p.acquiring = (if later then some w.serial else cx.p.acquiring)
      ∧ gt.counts = cx.g.counts.add (localResults (cx.fetched u) w xs).2
      ∧ (∀ l, l < 64 → gt.drawOf l = if isFloatAtom op && (cx.fmt fs).sto && laneIn cx.eff l then cx.g.drawOf l + 1
          else cx.g.drawOf l)
      ∧ ((isFloatAtom op && (cx.fmt fs).sto) = false → gt.draw = cx.g.draw)
      ∧ cx.g.onlyRegs { gt with counts := cx.g.counts, draw := cx.g.draw } ∧ e.sameMemory t cx ∧ e.onlyGroups t
      ∧ ∀ d0, d = some d0 → ∃ f ∈ gt.flight, f.kind = .atom ∧ f.dests = [d0.toNat] ∧ f.due = []
          ∧ f.waits = xs.filterMap (fun x => match x.2 with
              | .sent n => some n
              | _ => none)
          ∧ f.writes = laneWrites cx.g.width d0.toNat (localResults (cx.fetched u) w xs).1 := by
  have hsc : w.sc = at_ := by rw [hw]; rfl
  rw [← hsc] at hrel
  obtain ⟨h, p, hm⟩ := midword_performed hr hprobe hrel hperf
  replace hm : Midword cx e h p := by
    rw [hacq]
    exact hm.same (State.acquireIf_sameWork ..)
  have hrun : atomBody op b64 fs o sc d m b c (s.fetched cx u) (cx.fetched u) = .done (State.drawIf (State.atomResult
      (if later then e.modCur (cx.fetched u) (fun p => { p with acquiring := some w.serial }) else e)
      (cx.fetched u) w rs xs) (cx.fetched u) (isFloatAtom op && (cx.fmt fs).sto)) := by
    rw [atomBody_run (cx := cx.fetched u) (rs := rs) (s1 := s1) (by simpa using hslot) (by simpa using hearly)
      (by simpa using hprobe) (by simpa using hpeer) hdet]
    simp only [byteAccs_fetched]
    rw [← hat, ← hw, ← hjs, atomRun_done hrel hwin hperf hgo hlater]
    have hst : (if later then s3.modCur (cx.fetched u) (fun p => { p with acquiring := some w.serial })
        else if acquires o then s3.acquireAt (cx.fetched u).g.core.clus (cx.fetched u).ctx
          (storeWho (cx.fetched u) (jobPieces w rs js)) w.sc else s3)
        = if later then e.modCur (cx.fetched u) (fun p => { p with acquiring := some w.serial }) else e := by
      cases later with
      | true => simp [hacq]
      | false => simp [hacq, hsc]
    rw [hst, drawAfter, Cx.fmt_fetched]
    rfl
  obtain ⟨gt, p1, hnext, hkeeps, hpath, hacq1, hcounts, hdraw, hsame, honly, hmem, hrest, hfly⟩ :=
    atomWord_completes (w := w) (rs := rs) hm hr hgo later (isFloatAtom op && (cx.fmt fs).sto)
  refine ⟨_, gt, p1, ?_, hnext, hkeeps, hpath, hacq1, hcounts, hdraw, hsame, honly, hmem, hrest, fun d0 hd => ?_⟩
  · rw [hexec, issueMasked_ready _ hr he, hrun]
    rfl
  · obtain ⟨f, hf, hlike⟩ := hfly d0.toNat (by rw [hw, atomWordOf, hd]; rfl)
    refine ⟨f, hf, hlike.kind, hlike.dests, hlike.due, hlike.waits, ?_⟩
    rw [hlike.writes]
    simp only [atomFlight, Cx.w_fetched]
    rfl
end

/-- Settles O16: the three words are one word with or without a destination and a swap operand. -/
theorem atomicCompletes : Obligations.AtomicCompletes := by
  unfold Obligations.AtomicCompletes
  intro g op b64 fs o sc kind d m b c s s1 s2 s3 cx i u rs xs hi hkind _ hr he hdet nb cx0 accs dst at_ w js ps hslot hearly
    hprobe hpeer hrel s2' hwin hperf hgo later e
  obtain rfl | rfl | ⟨k, rfl⟩ : kind = 0 ∨ kind = 1 ∨ ∃ k, kind = k + 2 := by
    obtain h | h | h : kind = 0 ∨ kind = 1 ∨ 2 ≤ kind := by omega
    · exact .inl h
    · exact .inr (.inl h)
    · exact .inr (.inr ⟨kind - 2, by omega⟩)
  · obtain ⟨rfl, rfl⟩ := Prod.mk.inj hi
    obtain ⟨t, gt, p, hx, hn, hk, hp, ha, hc, hd, -, ho, hm, hg, -⟩ := atom_completes (d := none) (c := none) rfl rfl
      (by simp [js, atomJobs, dst, cx0, accs, nb]) (exec_red ..) hr he hdet hslot hearly hprobe (by simpa using hpeer) hrel
      hwin hperf hgo rfl rfl
    exact ⟨t, gt, p, hx, hn, hk, hp, ha, hc, hd, ho, hm, hg, fun h0 => absurd rfl h0⟩
  · obtain ⟨rfl, rfl⟩ := Prod.mk.inj hi
    obtain ⟨t, gt, p, hx, hn, hk, hp, ha, hc, hd, -, ho, hm, hg, hf⟩ := atom_completes (d := some d) (c := none) rfl rfl
      (by simp [js, atomJobs, dst, cx0, accs, nb]) (exec_atom ..) hr he hdet hslot hearly hprobe (by simpa using hpeer) hrel
      hwin hperf hgo rfl rfl
    exact ⟨t, gt, p, hx, hn, hk, hp, ha, hc, hd, ho, hm, hg, fun _ => hf d rfl⟩
  · obtain ⟨rfl, rfl⟩ := Prod.mk.inj hi
    obtain ⟨rfl, rfl⟩ := hkind.resolve_left (by omega)
    obtain ⟨t, gt, p, hx, hn, hk, hp, ha, hc, hd, -, ho, hm, hg, hf⟩ := atom_completes (d := some d) (c := some c) rfl rfl
      (by simp [js, atomJobs, cx0, accs, nb]) (exec_acas ..) hr he hdet hslot hearly hprobe
      (fun _ => hpeer (.inr (by omega))) hrel hwin hperf hgo rfl rfl
    exact ⟨t, gt, p, hx, hn, hk, hp, ha, hc, hd, ho, hm, hg, fun _ => hf d rfl⟩

end Sys2Proof.Proofs
end
section
/-! SUPPORT. Bytes as a cluster holds them, owes them and finds them beneath its L1, and how those change with a cached
sector (12 R249, R252). -/

namespace Sys2Proof.Machine

open Sys2Proof.Claims

/-! ### One sector -/

/-- The byte that a cached sector holds. -/
def Sector.heldByte (x : Sector) (i : Nat) : Option Byte := if laneIn x.valid i then some (x.bytes.getD i 0) else none

/-- The byte that a cached sector owes the level beneath. -/
def Sector.owedByte (x : Sector) (i : Nat) : Option Byte := if laneIn x.mask i then some (x.bytes.getD i 0) else none

/-- A masked byte of a store. -/
def maskedByte (bs : List Byte) (m : Word) (i : Nat) : Option Byte := if laneIn m i then some (bs.getD i 0) else none

section
variable (x : Sector) (bs : List Byte) (m : Word) {i : Nat} (hi : i < 64)

@[simp] theorem Sector.heldByte_blank (i : Nat) : Sector.blank.heldByte i = none := by simp [heldByte, blank]
@[simp] theorem Sector.owedByte_blank (i : Nat) : Sector.blank.owedByte i = none := by simp [owedByte, blank]
@[simp] theorem Sector.heldByte_clean : x.clean.heldByte i = x.heldByte i := rfl
@[simp] theorem Sector.owedByte_clean : x.clean.owedByte i = none := by simp [owedByte, clean]

/-- Of a tidy sector, a byte that it owes is the one it holds. -/
theorem Sector.held_of_owed (hx : x.tidy = true) {v : Byte} (h : x.owedByte i = some v) : x.heldByte i = some v := by
  unfold owedByte at h
  split at h
  next hm =>
    rw [heldByte, if_pos (((Sector.tidy_iff x).mp hx).2 i hm)]
    exact h
  next => cases h

include hi

theorem Sector.heldByte_fill : (x.fill bs).heldByte i = some ((x.heldByte i).getD (bs.getD i 0)) := by
  simp only [heldByte, fill, laneIn_fullMask64 hi, if_true, getD_overlay _ _ _ hi]
  split <;> rfl

theorem Sector.owedByte_fill (hx : x.tidy = true) : (x.fill bs).owedByte i = x.owedByte i := by
  simp only [owedByte, fill, getD_overlay _ _ _ hi]
  split
  next hm => rw [if_pos (((Sector.tidy_iff x).mp hx).2 i hm)]
  next => rfl

theorem Sector.heldByte_write (w : Bool) : (x.write bs m w).heldByte i = (maskedByte bs m i).or (x.heldByte i) := by
  simp only [heldByte, write, laneIn_or, getD_overlay _ _ _ hi, maskedByte]
  cases laneIn m i <;> simp

theorem Sector.owedByte_write (w : Bool) : (x.write bs m w).owedByte i = (maskedByte bs m i).or (x.owedByte i) := by
  simp only [owedByte, write, laneIn_or, getD_overlay _ _ _ hi, maskedByte]
  cases laneIn m i <;> simp

theorem Sector.heldByte_pass : (x.pass bs m).heldByte i = (maskedByte bs m i).or (x.heldByte i) := by
  simp only [heldByte, pass, laneIn_or, getD_overlay _ _ _ hi, maskedByte]
  cases laneIn m i <;> simp

theorem Sector.owedByte_pass : (x.pass bs m).owedByte i = if laneIn m i then none else x.owedByte i := by
  simp only [owedByte, pass, laneIn_and, laneIn_not _ _ hi, getD_overlay _ _ _ hi]
  cases laneIn m i <;> simp
end

/-! ### One byte of a place -/

/-- The byte that the cluster L1 holds of a place. -/
def heldAt (s : State) (clus q : Nat) : Option Byte := (s.l1Sector clus (sectorOf q)).bind (fun x => x.heldByte (q % 64))

/-- The byte that the cluster L1 owes the level beneath. -/
def owedAt (s : State) (clus q : Nat) : Option Byte := (s.l1Sector clus (sectorOf q)).bind (fun x => x.owedByte (q % 64))

theorem seenAt_eq (s : State) (clus q : Nat) : seenAt s clus q = (heldAt s clus q).getD (belowAt s q) := by
  unfold seenAt heldAt
  cases s.l1Sector clus (sectorOf q) with
  | none => rfl
  | some x =>
    simp only [Option.bind_some, Sector.heldByte]
    split <;> rfl

theorem hintAt_byp (s : State) (clus q : Nat) : hintAt s .byp clus q = (owedAt s clus q).getD (belowAt s q) := by
  unfold hintAt owedAt
  rw [if_pos rfl]
  cases s.l1Sector clus (sectorOf q) with
  | none => rfl
  | some x =>
    simp only [Option.bind_some, Sector.owedByte]
    split <;> rfl

theorem hintAt_of_ne (s : State) {h : Hint} (hh : h ≠ .byp) (clus q : Nat) : hintAt s h clus q = seenAt s clus q := if_neg hh

theorem sectorBase_sectorOf (q : Nat) : sectorBase (sectorOf q) + q % 64 = q := by
  simp only [sectorOf, sectorBase]; omega

theorem isLocal_sectorBase (q : Nat) : isLocal (sectorBase (sectorOf q)) = isLocal q := by
  refine decide_eq_decide.mpr ?_
  simp only [sectorOf, sectorBase]
  omega

theorem placeTier_sectorBase (q : Nat) : placeTier (sectorBase (sectorOf q)) = placeTier q := by
  simp only [placeTier, sectorOf, sectorBase]; omega

theorem isHost_sectorBase (q : Nat) : isHost (sectorBase (sectorOf q)) = isHost q := by
  simp only [isHost, placeTier_sectorBase]

theorem isPeer_sectorBase (q : Nat) : isPeer (sectorBase (sectorOf q)) = isPeer q := by
  simp only [isPeer, placeTier_sectorBase]

theorem placeAddr_sectorBase (q : Nat) : placeAddr (sectorBase (sectorOf q)) + q % 64 = placeAddr q := by
  simp only [placeAddr, sectorOf, sectorBase]; omega

/-! ### States whose memory stands still -/

/-- What an access through the caches needs of a state: no frame is redirected, cached sectors and memory have their
form. -/
structure State.Sound (s : State) : Prop where
  unmoved : unmoved s
  sectors : s.SectorsTidy
  ok : s.memoryOk = true

theorem State.Sound.wf {s : State} (hs : s.Sound) : Memory.wf s.mem = true := ((State.memoryOk_iff s).mp hs.ok).1

theorem State.Sound.of_tended {s t : State} (hs : s.Sound) (ht : Tended s t)
    (hm : t.migrations.map unfiltered = s.migrations.map unfiltered) : t.Sound :=
  ⟨fun p => (State.redirect_of_migrations hm p).trans (hs.unmoved p), ht.sectors hs.sectors, ht.ok hs.ok⟩

theorem belowAt_of_isLocal {s : State} (hs : unmoved s) {q : Nat} (hq : isLocal q = true) :
    belowAt s q = Memory.read s.mem q := by
  rw [belowAt, if_pos hq, hs q]

/-! ### The clusters' tables -/

theorem Tab.get?_erase {κ β : Type} [DecidableEq κ] (t : List (κ × β)) (k j : κ) :
    Tab.get? (Tab.erase t k) j = if j = k then none else Tab.get? t j := by
  unfold Tab.get? Tab.erase
  rw [List.find?_filter]
  split
  next h =>
    subst h
    simp
  next h =>
    congr 2
    funext e
    by_cases he : e.1 = j
    · simp [he, h]
    · simp [he]

theorem Tab.get?_setSector (t : List (Nat × Sector)) (sec : Nat) (x : Option Sector) (k : Nat) :
    Tab.get? (setSector t sec x) k = if k = sec then x else Tab.get? t k := by
  cases x with
  | none => exact Tab.get?_erase t sec k
  | some v =>
    split
    next h => rw [h]; exact Tab.get?_put_same _ _ _
    next h => exact Tab.get?_put_other _ _ _ _ h

section
variable {s : State} (hs : Sparse.rising 0 s.clusters = true)
include hs

theorem State.cluster_modCluster_same (c : Nat) (f : Cluster → Cluster) : (s.modCluster c f).cluster c = f (s.cluster c) :=
  Sparse.get_put_same _ _ _ _ hs

theorem State.cluster_modCluster_other {c d : Nat} (h : d ≠ c) (f : Cluster → Cluster) :
    (s.modCluster c f).cluster d = s.cluster d := Sparse.get_put_other _ _ _ _ _ h hs

/-- A change of a cluster that leaves its sectors. -/
theorem State.l1Sector_modCluster (c : Nat) (f : Cluster → Cluster) (hf : (f (s.cluster c)).l1 = (s.cluster c).l1) (d sec : Nat) :
    (s.modCluster c f).l1Sector d sec = s.l1Sector d sec := by
  unfold State.l1Sector
  by_cases h : d = c
  · rw [h, State.cluster_modCluster_same hs, hf]
  · rw [State.cluster_modCluster_other hs h]

@[simp] theorem State.l1Sector_noteLine (c sec : Nat) (h : Hint) (d k : Nat) :
    (s.noteLine c sec h).l1Sector d k = s.l1Sector d k := State.l1Sector_modCluster hs c _ rfl d k

theorem State.l1Sector_setL1 (c sec : Nat) (x : Option Sector) (k : Nat) :
    (s.setL1 c sec x).l1Sector c k = if k = sec then x else s.l1Sector c k := by
  have hget : (s.setL1 c sec x).l1Sector c k = Tab.get? (setSector (s.cluster c).l1 sec x) k := by
    unfold State.setL1 State.l1Sector
    rw [State.cluster_modCluster_same hs]
    cases x <;> rfl
  rw [hget]
  exact Tab.get?_setSector _ _ _ _

theorem heldAt_setL1 (c sec : Nat) (x : Sector) (q : Nat) :
    heldAt (s.setL1 c sec (some x)) c q = if sectorOf q = sec then x.heldByte (q % 64) else heldAt s c q := by
  unfold heldAt
  rw [State.l1Sector_setL1 hs]
  split <;> rfl

theorem owedAt_setL1 (c sec : Nat) (x : Sector) (q : Nat) :
    owedAt (s.setL1 c sec (some x)) c q = if sectorOf q = sec then x.owedByte (q % 64) else owedAt s c q := by
  unfold owedAt
  rw [State.l1Sector_setL1 hs]
  split <;> rfl
end

end Sys2Proof.Machine
end
section
/-! SUPPORT. What accesses through the caches leave of the bytes that a cluster sees: the package's L2 (05 R114, 12 R248, R252,
14 R315). -/

namespace Sys2Proof.Machine

open Sys2Proof.Claims

/-! ### Accesses that store some bytes -/

/-- From `s` to `t` accesses through the caches of a cluster have stored the bytes `w`. Every other byte of local memory, and
with `room` in the L2 of any memory, is seen as before or, where its line has left the L1, as `.byp` finds it, and `.byp`
finds it as before; what the cluster owed of it is owed still or stands beneath. -/
structure Stored (clus : Nat) (w : Nat → Option Byte) (room : Prop) (s t : State) : Prop where
  seen : ∀ q, w q = none → isLocal q = true ∨ room →
    seenAt t clus q = seenAt s clus q ∨ seenAt t clus q = hintAt s .byp clus q
  byp : ∀ q, w q = none → isLocal q = true ∨ room → hintAt t .byp clus q = hintAt s .byp clus q
  put : ∀ q v, w q = some v → isLocal q = true ∨ room → seenAt t clus q = v ∧ hintAt t .byp clus q = v
  owed : ∀ q, w q = none → owedAt t clus q = none ∨ owedAt t clus q = owedAt s clus q
  mem : ∀ a, w a = none → Memory.read t.mem a = Memory.read s.mem a ∨ owedAt s clus a = some (Memory.read t.mem a)
  poison : ∀ x ∈ t.poison, x ∈ s.poison
  host : room → t.hostMem = s.hostMem
  remotes : room → t.remotes = s.remotes
  moves : t.migrations.map unfiltered = s.migrations.map unfiltered

/-- Accesses that store nothing. -/
abbrev Served (clus : Nat) (room : Prop) (s t : State) : Prop := Stored clus (fun _ => none) room s t

namespace Stored
variable {clus : Nat} {w w' : Nat → Option Byte} {room room' : Prop} {s t v : State}

theorem refl (clus : Nat) (room : Prop) (s : State) : Served clus room s s :=
  ⟨fun _ _ _ => .inl rfl, fun _ _ _ => rfl, fun _ _ h => (by cases h), fun _ _ => .inr rfl, fun _ _ => .inl rfl, fun _ h => h,
    fun _ => rfl, fun _ => rfl, rfl⟩

theorem mono (h : Stored clus w room s t) (hr : room' → room) : Stored clus w room' s t :=
  ⟨fun q hq hc => h.seen q hq (hc.imp id hr), fun q hq hc => h.byp q hq (hc.imp id hr),
    fun q x hq hc => h.put q x hq (hc.imp id hr), h.owed, h.mem, h.poison, fun r => h.host (hr r),
    fun r => h.remotes (hr r), h.moves⟩

theorem congr (h : Stored clus w room s t) (hw : ∀ q, w' q = w q) : Stored clus w' room s t := by
  have he : w' = w := funext hw
  rw [he]
  exact h

/-- Stores after stores: the later ones lie over the earlier ones. -/
theorem trans (h : Stored clus w room s t) (k : Stored clus w' room' t v) (hr : room → room') :
    Stored clus (fun q => (w' q).or (w q)) room s v := by
  replace k := k.mono hr
  refine ⟨fun q hq hc => ?_, fun q hq hc => ?_, fun q x hq hc => ?_, fun q hq => ?_, fun a ha => ?_,
    fun x hx => h.poison x (k.poison x hx), fun r => (k.host r).trans (h.host r), fun r => (k.remotes r).trans (h.remotes r),
    k.moves.trans h.moves⟩
  · obtain ⟨h2, h1⟩ := Option.or_eq_none_iff.mp hq
    obtain hs | hs := k.seen q h2 hc
    · rw [hs]
      exact h.seen q h1 hc
    · exact .inr (hs.trans (h.byp q h1 hc))
  · obtain ⟨h2, h1⟩ := Option.or_eq_none_iff.mp hq
    exact (k.byp q h2 hc).trans (h.byp q h1 hc)
  · cases h2 : w' q with
    | some y =>
      rw [h2, Option.some_or] at hq
      exact k.put q x (h2.trans hq) hc
    | none =>
      rw [h2, Option.none_or] at hq
      obtain ⟨hseen, hbyp⟩ := h.put q x hq hc
      refine ⟨?_, (k.byp q h2 hc).trans hbyp⟩
      obtain hs | hs := k.seen q h2 hc
      · exact hs.trans hseen
      · exact hs.trans hbyp
  · obtain ⟨h2, h1⟩ := Option.or_eq_none_iff.mp hq
    obtain ho | ho := k.owed q h2
    · exact .inl ho
    · rw [ho]
      exact h.owed q h1
  · obtain ⟨h2, h1⟩ := Option.or_eq_none_iff.mp ha
    obtain hm | hm := k.mem a h2
    · rw [hm]
      exact h.mem a h1
    · obtain ho | ho := h.owed a h1
      · rw [ho] at hm; cases hm
      · exact .inr (ho ▸ hm)

theorem served (h : Served clus room s t) (k : Served clus room' t v) (hr : room → room') : Served clus room s v :=
  h.trans k hr

theorem sound (h : Stored clus w room s t) (hs : s.Sound) (ht : Tended s t) : t.Sound := hs.of_tended ht h.moves
end Stored

/-! ### The package's L2 -/

/-- Of the state, nothing but the package's L2 copies, host memory, requests and the serial counter differs. -/
def State.onlyPackage (s t : State) : Prop :=
  { t with l2 := s.l2, l2lines := s.l2lines, l2bad := s.l2bad, hostMem := s.hostMem, ctxs := s.ctxs, remotes := s.remotes
           heldOut := s.heldOut, fabOut := s.fabOut, unacked := s.unacked, serial := s.serial } = s

section
variable {s t v : State}

theorem State.onlyPackage.refl (s : State) : s.onlyPackage s := rfl

theorem State.onlyPackage.trans (h1 : s.onlyPackage t) (h2 : t.onlyPackage v) : s.onlyPackage v := by
  unfold State.onlyPackage at *
  rw [← h2] at h1
  exact h1

theorem State.onlySends.onlyPackage (h : s.onlySends t) : s.onlyPackage t := by
  have := congrArg (fun x : State => { x with l2 := s.l2, l2lines := s.l2lines, l2bad := s.l2bad, hostMem := s.hostMem }) h
  exact this

section
variable (h : s.onlyPackage t)
include h
theorem State.onlyPackage.mem : t.mem = s.mem := by have := congrArg State.mem h; exact this
theorem State.onlyPackage.clusters : t.clusters = s.clusters := by have := congrArg State.clusters h; exact this
theorem State.onlyPackage.migrations : t.migrations = s.migrations := by have := congrArg State.migrations h; exact this
theorem State.onlyPackage.poison : t.poison = s.poison := by have := congrArg State.poison h; exact this
theorem State.onlyPackage.atsEn : t.atsEn = s.atsEn := by have := congrArg State.atsEn h; exact this
theorem State.onlyPackage.atc : t.atc = s.atc := by have := congrArg State.atc h; exact this

theorem State.onlyPackage.bus (a : Nat) : t.bus a = s.bus a := by simp only [State.bus, h.atsEn, h.atc]

theorem State.onlyPackage.l1Sector (c k : Nat) : t.l1Sector c k = s.l1Sector c k := by
  simp only [State.l1Sector, State.cluster, h.clusters]

theorem State.onlyPackage.heldAt (c q : Nat) : heldAt t c q = heldAt s c q := by
  simp only [Machine.heldAt, h.l1Sector]

theorem State.onlyPackage.owedAt (c q : Nat) : owedAt t c q = owedAt s c q := by
  simp only [Machine.owedAt, h.l1Sector]

theorem State.onlyPackage.belowAt_of_isLocal {q : Nat} (hq : isLocal q = true) : belowAt t q = belowAt s q := by
  simp only [Claims.belowAt, if_pos hq, h.mem, State.redirect, h.migrations]

/-- Such a step stores nothing, where with room the L2 keeps what it gives. -/
theorem Stored.of_package {clus : Nat} {room : Prop}
    (hr : room → (∀ q, isLocal q = false → belowAt t q = belowAt s q) ∧ t.hostMem = s.hostMem ∧ t.remotes = s.remotes) :
    Served clus room s t := by
  have hbelow (q : Nat) (hc : isLocal q = true ∨ room) : belowAt t q = belowAt s q := by
    cases hq : isLocal q with
    | true => exact h.belowAt_of_isLocal hq
    | false => exact (hr (hc.resolve_left (by simp [hq]))).1 q hq
  exact ⟨fun q _ hc => .inl (by rw [seenAt_eq, seenAt_eq, h.heldAt, hbelow q hc]),
    fun q _ hc => by rw [hintAt_byp, hintAt_byp, h.owedAt, hbelow q hc], fun _ _ hq => (by cases hq),
    fun q _ => .inr (h.owedAt clus q), fun a _ => .inl (by rw [h.mem]), fun x hx => by rwa [h.poison] at hx,
    fun r => (hr r).2.1, fun r => (hr r).2.2, by rw [h.migrations]⟩
end
end

section
variable (s : State)

theorem State.wbL2_onlyPackage (ctx sec : Nat) (who : Option (GroupId × TrapInfo)) : s.onlyPackage (s.wbL2 ctx sec who).1 := by
  unfold State.wbL2
  split
  · rfl
  · split
    · rfl
    · split
      · rfl
      · exact (State.sendRemote_onlySends ..).onlyPackage

theorem State.evictL2_onlyPackage (line : Nat) : s.onlyPackage (s.evictL2 line) := by
  have hw := foldl_keeps (fun t => s.onlyPackage t) (fun (t : State) sec => (t.wbL2 0 sec none).1)
    (fun t x h => h.trans (State.wbL2_onlyPackage ..)) ((s.l2.filter (fun e => e.1 / 8 == line)).map Prod.fst) s (.refl s)
  exact hw.trans rfl

theorem State.roomL2_onlyPackage (line : Nat) : s.onlyPackage (s.roomL2 line).2 := by
  unfold State.roomL2
  split
  · rfl
  · dsimp only
    split
    · exact State.evictL2_onlyPackage ..
    · cases (byClass Prod.snd (s.sliceOfLine line)).head? with
      | none => rfl
      | some e => exact State.evictL2_onlyPackage ..

theorem State.noteL2_onlyPackage (sec : Nat) (h : Option Hint) : s.onlyPackage (s.noteL2 sec h) := by
  unfold State.noteL2
  dsimp only
  split
  · cases h <;> rfl
  · split
    · exact (State.roomL2_onlyPackage ..).trans rfl
    · exact State.roomL2_onlyPackage ..

theorem State.putL2_onlyPackage (sec : Nat) (x : Sector) (h : Option Hint) : s.onlyPackage (s.putL2 sec x h) := by
  unfold State.putL2
  dsimp only
  split
  · exact (State.noteL2_onlyPackage ..).trans rfl
  · exact State.noteL2_onlyPackage ..

theorem State.l2Merge_onlyPackage (sec : Nat) (bs : List Byte) (m : Word) (h : Option Hint) :
    s.onlyPackage (s.l2Merge sec bs m h) := by
  unfold State.l2Merge
  dsimp only
  refine (State.noteL2_onlyPackage s sec h).trans ?_
  split <;> rfl
end

/-! ### Room in the L2 -/

/-- The L2's lines once it holds a line too. -/
def State.lineUse (s : State) (line : Nat) : Nat := s.l2lines.length + if s.holdsLine line then 0 else 1

theorem State.holdsLine_map (s : State) (f : Nat × Hint → Nat × Hint) (hf : ∀ e, (f e).1 = e.1) (k : Nat) :
    State.holdsLine { s with l2lines := s.l2lines.map f } k = s.holdsLine k := by
  simp only [State.holdsLine, List.any_map, Function.comp_def, hf]

/-- From `s` to `t` the L2 has taken at most one line, `line`, and no line has left it. -/
structure OneLine (line : Nat) (s t : State) : Prop where
  use : t.lineUse line ≤ s.lineUse line
  holds : ∀ k, s.holdsLine k = true → t.holdsLine k = true

namespace OneLine
variable {line : Nat} {s t v : State}

theorem of_lines (h : t.l2lines = s.l2lines) : OneLine line s t := by
  have hk (k : Nat) : t.holdsLine k = s.holdsLine k := by simp only [State.holdsLine, h]
  exact ⟨by simp only [State.lineUse, h, hk, le_refl], fun k => by rw [hk]; exact id⟩

theorem refl (s : State) : OneLine line s s := .of_lines rfl

theorem trans (h : OneLine line s t) (k : OneLine line t v) : OneLine line s v :=
  ⟨k.use.trans h.use, fun n hn => k.holds n (h.holds n hn)⟩

theorem of_map (s : State) (f : Nat × Hint → Nat × Hint) (hf : ∀ e, (f e).1 = e.1) :
    OneLine line s { s with l2lines := s.l2lines.map f } := by
  have hk := State.holdsLine_map s f hf
  exact ⟨by simp only [State.lineUse, hk, List.length_map, le_refl], fun k hn => (hk k).trans hn⟩

/-- As another line counts them, that is one line more. -/
theorem lineUse_le (h : OneLine line s t) (k : Nat) : t.lineUse k ≤ s.lineUse k + 1 := by
  have hk := h.holds k
  have hu := h.use
  simp only [State.lineUse] at hu ⊢
  split at hu <;> split at hu <;> split <;> split <;> simp_all <;> omega
end OneLine

section
variable {s : State} {line : Nat} (hroom : s.lineUse line ≤ sliceLines)
include hroom

theorem State.roomL2_room : s.roomL2 line = (true, s) := by
  have h : (s.holdsLine line || s.sliceRoom line 1) = true := by
    unfold State.lineUse at hroom
    split at hroom
    next hh => rw [hh]; rfl
    next => simp [State.sliceRoom, hroom]
  unfold State.roomL2
  rw [if_pos h]
end

/-- With room, a note of an access adds at most its line. -/
theorem State.noteL2_room (s : State) (sec : Nat) (h : Option Hint) (hroom : s.lineUse (sec / 8) ≤ sliceLines) :
    ∃ ls, s.noteL2 sec h = { s with l2lines := ls } ∧ OneLine (sec / 8) s { s with l2lines := ls }
      ∧ State.holdsLine { s with l2lines := ls } (sec / 8) = true := by
  unfold State.noteL2
  dsimp only
  split
  next hh =>
    cases h with
    | none => exact ⟨s.l2lines, rfl, .refl s, hh⟩
    | some k =>
      have hf {c : Hint} (e : Nat × Hint) : (if e.1 = sec / 8 then (sec / 8, c) else e).1 = e.1 := by
        split
        next he => exact he.symm
        next => rfl
      exact ⟨_, rfl, .of_map s _ hf, (State.holdsLine_map s _ hf _).trans hh⟩
  next hh =>
    rw [State.roomL2_room hroom]
    dsimp only
    rw [if_pos rfl]
    generalize (if h.getD Hint.dflt = Hint.stky then _ else 0 : Nat) = sticky
    have hmem (n : Nat) (hn : s.holdsLine n = true ∨ n = sec / 8) : State.holdsLine { s with l2lines := s.l2lines ++
        [(sec / 8, capped (sliceLines / 2) sticky (h.getD .dflt))] } n = true := by
      simp only [State.holdsLine, List.any_append, Bool.or_eq_true]
      obtain hn | rfl := hn
      · exact .inl hn
      · exact .inr (by simp)
    refine ⟨_, rfl, ⟨?_, fun n hn => hmem n (.inl hn)⟩, hmem _ (.inr rfl)⟩
    simp only [State.lineUse, hmem _ (.inr rfl), hh, if_true, List.length_append, List.length_singleton]
    simp

end Sys2Proof.Machine
end
section
/-! SUPPORT. What accesses through the caches leave of the bytes that a cluster sees: reads beneath the L1, write-backs and
evictions (12 R249, R252, R253). -/

namespace Sys2Proof.Machine

open Sys2Proof.Claims

/-! ### Accesses that touch one line of the L2 -/

/-- The L2 holds the line or has room for it. -/
def State.hasRoom (s : State) (line : Nat) : Prop := s.lineUse line ≤ sliceLines

/-- Accesses that store the bytes `w`; where the L2 has room for a line, they add no other. -/
structure Access (clus line : Nat) (w : Nat → Option Byte) (s t : State) : Prop where
  stored : Stored clus w (s.hasRoom line) s t
  lines : s.hasRoom line → OneLine line s t

namespace Access
variable {clus line : Nat} {w w' : Nat → Option Byte} {s t v : State}

theorem refl (clus line : Nat) (s : State) : Access clus line (fun _ => none) s s := ⟨.refl .., fun _ => .refl s⟩

theorem room (h : Access clus line w s t) (hr : s.hasRoom line) : t.hasRoom line := ((h.lines hr).use).trans hr

theorem trans (h : Access clus line w s t) (k : Access clus line w' t v) :
    Access clus line (fun q => (w' q).or (w q)) s v :=
  ⟨h.stored.trans k.stored h.room, fun hr => (h.lines hr).trans (k.lines (h.room hr))⟩

theorem served (h : Access clus line (fun _ => none) s t) (k : Access clus line (fun _ => none) t v) :
    Access clus line (fun _ => none) s v := h.trans k
end Access

theorem Access.of_package {clus line : Nat} {s t : State} (h : s.onlyPackage t)
    (hr : s.hasRoom line → ((∀ q, isLocal q = false → belowAt t q = belowAt s q) ∧ t.hostMem = s.hostMem
      ∧ t.remotes = s.remotes) ∧ OneLine line s t) : Access clus line (fun _ => none) s t :=
  ⟨.of_package h (fun r => (hr r).1), fun r => (hr r).2⟩

/-! ### Beneath the L1 -/

theorem belowAt_of_not_isLocal (s : State) {q : Nat} (hq : isLocal q = false) :
    belowAt s q = ((s.l2Sector (sectorOf q)).bind (fun x => x.heldByte (q % 64))).getD
      (if isHost q then Memory.read s.hostMem (s.bus (placeAddr q)) else 0) := by
  rw [belowAt, if_neg (by simp [hq])]
  cases s.l2Sector (sectorOf q) with
  | none => rfl
  | some x =>
    simp only [Option.bind_some, Sector.heldByte]
    split <;> rfl

theorem belowAt_of_l2 {s t : State} (hl : ∀ k, t.l2Sector k = s.l2Sector k) (hh : t.hostMem = s.hostMem) (ha : t.atsEn = s.atsEn)
    (hc : t.atc = s.atc) {q : Nat} (hq : isLocal q = false) : belowAt t q = belowAt s q := by
  rw [belowAt_of_not_isLocal _ hq, belowAt_of_not_isLocal _ hq, hl, hh]
  simp only [State.bus, ha, hc]

theorem State.noteL2_access (s : State) (clus sec : Nat) (h : Option Hint) :
    Access clus (sec / 8) (fun _ => none) s (s.noteL2 sec h) := by
  refine .of_package (State.noteL2_onlyPackage ..) (fun hr => ?_)
  obtain ⟨ls, he, hone, -⟩ := State.noteL2_room s sec h hr
  rw [he]
  exact ⟨⟨fun q hq => belowAt_of_l2 (fun _ => rfl) rfl rfl rfl hq, rfl, rfl⟩, hone⟩

theorem State.noteIf_access (s : State) (clus sec : Nat) (h : Option Hint) :
    Access clus (sec / 8) (fun _ => none) s (if h.isSome then s.noteL2 sec h else s) := by
  split
  · exact State.noteL2_access ..
  · exact .refl ..

theorem State.l2Sector_setL2 (s : State) (sec : Nat) (x : Option Sector) (k : Nat) :
    (s.setL2 sec x).l2Sector k = if k = sec then x else s.l2Sector k := Tab.get?_setSector _ _ _ _

/-- A copy that holds what the L2 gave already comes into it. -/
theorem State.putL2_access (s : State) (clus sec : Nat) (x : Sector) (h : Option Hint)
    (hx : ∀ q, sectorOf q = sec → isLocal q = false → x.heldByte (q % 64) = some (belowAt s q)) :
    Access clus (sec / 8) (fun _ => none) s (s.putL2 sec x h) := by
  refine .of_package (State.putL2_onlyPackage ..) (fun hr => ?_)
  obtain ⟨ls, he, hone, hheld⟩ := State.noteL2_room s sec h hr
  unfold State.putL2
  dsimp only
  rw [he, if_pos hheld]
  refine ⟨⟨fun q hq => ?_, rfl, rfl⟩, hone.trans (.of_lines rfl)⟩
  have hget := State.l2Sector_setL2 { s with l2lines := ls } sec (some x) (sectorOf q)
  by_cases hsec : sectorOf q = sec
  · rw [belowAt_of_not_isLocal _ hq, hget, if_pos hsec, Option.bind_some, hx q hsec hq]
    rfl
  · rw [belowAt_of_not_isLocal _ hq, belowAt_of_not_isLocal s hq, hget, if_neg hsec]
    rfl

theorem Sector.bytes_of_held {x : Sector} {i : Nat} {v : Byte} (h : x.heldByte i = some v) : x.bytes.getD i 0 = v := by
  unfold Sector.heldByte at h
  split at h
  · exact Option.some.inj h
  · cases h

/-- The copy of a host sector, or a blank one, once host memory has filled it. -/
theorem State.heldByte_hostFill {s : State} {sec : Nat} {x : Sector}
    (hx : s.l2Sector sec = some x ∨ s.l2Sector sec = none ∧ x = Sector.blank) (hhost : isHost (sectorBase sec) = true)
    (hloc : isLocal (sectorBase sec) = false) {q : Nat} (hq : sectorOf q = sec) :
    (x.fill (s.hostRead (placeAddr (sectorBase sec)) 64)).heldByte (q % 64) = some (belowAt s q) := by
  subst hq
  have hi : q % 64 < 64 := Nat.mod_lt _ (by decide)
  rw [isHost_sectorBase] at hhost
  rw [isLocal_sectorBase] at hloc
  have hread : (s.hostRead (placeAddr (sectorBase (sectorOf q))) 64).getD (q % 64) 0
      = Memory.read s.hostMem (s.bus (placeAddr (sectorBase (sectorOf q)) + q % 64)) := by
    simp [State.hostRead, hi]
  rw [Sector.heldByte_fill _ _ hi, belowAt_of_not_isLocal _ hloc, if_pos hhost, ← placeAddr_sectorBase q, hread]
  obtain hx | ⟨hx, rfl⟩ := hx
  · rw [hx]; rfl
  · rw [hx, Sector.heldByte_blank]; rfl

/-- What the level beneath the L1 gives of a sector is what a cluster finds there, and giving it stores nothing (12 R249). -/
theorem State.below_spec {s : State} (hs : s.Sound) (clus sec : Nat) (h : Option Hint) :
    Access clus (sec / 8) (fun _ => none) s (s.below sec h).2
      ∧ ∀ bs, (s.below sec h).1 = .bytes bs →
        bs.length = 64 ∧ ∀ q, sectorOf q = sec → bs.getD (q % 64) 0 = belowAt s q := by
  have hnote := s.noteIf_access clus sec h
  have hfilled (x : Sector) (hx : s.l2Sector sec = some x ∨ s.l2Sector sec = none ∧ x = Sector.blank)
      (hhost : isHost (sectorBase sec) = true) (hloc : isLocal (sectorBase sec) = false) :
      ∀ bs, (x.fill (s.hostRead (placeAddr (sectorBase sec)) 64)).bytes = bs →
        bs.length = 64 ∧ ∀ q, sectorOf q = sec → bs.getD (q % 64) 0 = belowAt s q := by
    rintro bs rfl
    exact ⟨length_overlay .., fun q hq => Sector.bytes_of_held (State.heldByte_hostFill hx hhost hloc hq)⟩
  unfold State.below
  dsimp only
  split
  next hloc =>
    refine ⟨hnote, fun bs hbs => ?_⟩
    split at hbs
    · cases hbs
    · cases hbs
      refine ⟨by simp [State.homeRead], fun q hq => ?_⟩
      subst hq
      rw [isLocal_sectorBase] at hloc
      have hi : q % 64 < 64 := Nat.mod_lt _ (by decide)
      rw [belowAt_of_isLocal hs.unmoved hloc]
      have hread : (s.homeRead (sectorBase (sectorOf q)) 64).getD (q % 64) 0
          = s.homeByte (sectorBase (sectorOf q) + q % 64) := by simp [State.homeRead, hi]
      rw [hread, sectorBase_sectorOf, State.homeByte, hs.unmoved]
  next hloc =>
    replace hloc : isLocal (sectorBase sec) = false := by simpa using hloc
    split
    · refine ⟨.of_package rfl (fun _ => ⟨⟨fun q hq => belowAt_of_l2 (fun _ => rfl) rfl rfl rfl hq, rfl, rfl⟩, .of_lines rfl⟩),
        fun bs hbs => by cases hbs⟩
    · split
      next x hx =>
        split
        next hfull =>
          refine ⟨hnote, fun bs hbs => ?_⟩
          cases hbs
          refine ⟨((Sector.tidy_iff x).mp (hs.sectors.l2Sector hx)).1, fun q hq => ?_⟩
          subst hq
          rw [isLocal_sectorBase] at hloc
          rw [belowAt_of_not_isLocal _ hloc, hx, Option.bind_some, Sector.heldByte, hfull,
            if_pos (laneIn_fullMask64 (Nat.mod_lt _ (by decide)))]
          rfl
        next =>
          split
          next hhost =>
            exact ⟨State.putL2_access _ _ _ _ _ (fun q hq _ => State.heldByte_hostFill (.inl hx) hhost hloc hq),
              fun bs hbs => hfilled x (.inl hx) hhost hloc bs (by cases hbs; rfl)⟩
          next => exact ⟨.refl .., fun bs hbs => by cases hbs⟩
      next hx =>
        split
        next hhost =>
          exact ⟨State.putL2_access _ _ _ _ _ (fun q hq _ => State.heldByte_hostFill (.inr ⟨hx, rfl⟩) hhost hloc hq),
            fun bs hbs => hfilled _ (.inr ⟨hx, rfl⟩) hhost hloc bs (by cases hbs; rfl)⟩
        next => exact ⟨.refl .., fun bs hbs => by cases hbs⟩

/-- A reading beneath the L1 leaves the clusters. -/
theorem State.below_onlyPackage (s : State) (sec : Nat) (h : Option Hint) : s.onlyPackage (s.below sec h).2 := by
  have hnote : s.onlyPackage (if h.isSome then s.noteL2 sec h else s) := by
    split
    · exact State.noteL2_onlyPackage ..
    · exact .refl s
  unfold State.below
  dsimp only
  split
  · exact hnote
  · split
    · rfl
    · split
      · split
        · exact hnote
        · split
          · exact State.putL2_onlyPackage ..
          · exact .refl s
      · split
        · exact State.putL2_onlyPackage ..
        · exact .refl s

end Sys2Proof.Machine
end
section
/-! SUPPORT. What accesses through the caches leave of the bytes that a cluster sees: writes beneath the L1, write-backs and
lines that leave it (12 R249, R252, R253, 14 R315). -/

namespace Sys2Proof.Machine

open Sys2Proof.Claims

/-! ### Writes beneath the L1 -/

/-- From `s` to `t` bytes of a sector have reached the level beneath the L1; `b` gives them by their place in the sector. -/
structure Lowered (sec : Nat) (b : Nat → Option Byte) (s t : State) : Prop where
  clusters : t.clusters = s.clusters
  below : ∀ q, isLocal q = true ∨ s.hasRoom (sec / 8) →
    belowAt t q = if sectorOf q = sec then (b (q % 64)).getD (belowAt s q) else belowAt s q
  mem : ∀ a, Memory.read t.mem a = Memory.read s.mem a ∨ sectorOf a = sec ∧ b (a % 64) = some (Memory.read t.mem a)
  poison : ∀ x ∈ t.poison, x ∈ s.poison
  host : s.hasRoom (sec / 8) → t.hostMem = s.hostMem
  remotes : s.hasRoom (sec / 8) → t.remotes = s.remotes
  moves : t.migrations.map unfiltered = s.migrations.map unfiltered
  lines : s.hasRoom (sec / 8) → OneLine (sec / 8) s t

section
variable {s : State} (hs : s.Sound) {sec : Nat} {bs : List Byte} (hlen : bs.length = 64) (m : Word) (whole : Bool)
include hs hlen

/-- A byte of memory after a write to its sector at home, where no frame is redirected (12 R250). -/
theorem State.read_homeWrite_unmoved (a : Nat) : Memory.read (s.homeWrite sec bs m whole).mem a
    = if sectorOf a = sec then (maskedByte bs m (a % 64)).getD (Memory.read s.mem a) else Memory.read s.mem a := by
  have h := State.read_homeWrite s sec bs m whole hs.wf a
  dsimp only at h
  rw [hs.unmoved, hlen] at h
  rw [h]
  by_cases hsec : sectorOf a = sec
  · have ha : a - sectorBase sec = a % 64 := by subst hsec; simp only [sectorBase, sectorOf]; omega
    have hle : sectorBase sec ≤ a ∧ a < sectorBase sec + 64 := by subst hsec; simp only [sectorBase, sectorOf]; omega
    rw [if_pos hsec, ha, maskedByte]
    have hbit : (m.toNat.testBit (a % 64) = true) ↔ laneIn m (a % 64) = true := Iff.rfl
    simp only [hle.1, hle.2, true_and, hbit]
    split <;> rfl
  · rw [if_neg hsec, if_neg]
    rintro ⟨h1, h2, -⟩
    simp only [sectorBase, sectorOf] at h1 h2 hsec
    omega

theorem State.homeWrite_lowered (hl : isLocal (sectorBase sec) = true) :
    Lowered sec (maskedByte bs m) s (s.homeWrite sec bs m whole) := by
  have hread := State.read_homeWrite_unmoved hs hlen (sec := sec) m whole
  have hsound : unmoved (s.homeWrite sec bs m whole) := fun p => (State.redirect_homeWrite ..).trans (hs.unmoved p)
  refine ⟨rfl, fun q hc => ?_, fun a => ?_, fun x hx => ?_, fun _ => rfl, fun _ => rfl, State.homeWrite_migrations ..,
    fun _ => .of_lines rfl⟩
  · cases hq : isLocal q with
    | true => rw [belowAt_of_isLocal hsound hq, belowAt_of_isLocal hs.unmoved hq, hread]
    | false =>
      have hsec : sectorOf q ≠ sec := by
        rintro rfl
        rw [isLocal_sectorBase, hq] at hl
        cases hl
      rw [if_neg hsec]
      exact belowAt_of_l2 (s := s) (t := s.homeWrite sec bs m whole) (fun _ => rfl) rfl rfl rfl hq
  · rw [hread]
    split
    next hsec =>
      cases hb : maskedByte bs m (a % 64) with
      | none => exact .inl rfl
      | some v => exact .inr ⟨hsec, rfl⟩
    next => exact .inl rfl
  · simp only [State.homeWrite] at hx
    split at hx
    · exact List.mem_of_mem_filter hx
    · exact hx
end

/-- A copy with masked bytes merged into it. -/
def Sector.merged (x : Sector) (bs : List Byte) (m : Word) : Sector :=
  { x with bytes := overlay m bs x.bytes, valid := x.valid ||| m, mask := x.mask ||| m }

theorem Sector.heldByte_merged (x : Sector) (bs : List Byte) (m : Word) {i : Nat} (hi : i < 64) :
    (x.merged bs m).heldByte i = (maskedByte bs m i).or (x.heldByte i) := Sector.heldByte_write x bs m hi true

/-- With room, a merge of bytes adds at most its line and changes the copy. -/
theorem State.l2Merge_room (s : State) (sec : Nat) (bs : List Byte) (m : Word) (h : Option Hint)
    (hr : s.hasRoom (sec / 8)) : ∃ ls, OneLine (sec / 8) s { s with l2lines := ls }
      ∧ s.l2Merge sec bs m h
        = State.setL2 { s with l2lines := ls } sec (some (((s.l2Sector sec).getD Sector.blank).merged bs m)) := by
  obtain ⟨ls, he, hone, hheld⟩ := State.noteL2_room s sec h hr
  refine ⟨ls, hone, ?_⟩
  unfold State.l2Merge
  dsimp only
  rw [he, hheld, if_neg (by simp)]
  rfl

theorem State.l2Merge_lowered (s : State) {sec : Nat} (hl : isLocal (sectorBase sec) = false) (bs : List Byte) (m : Word)
    (h : Option Hint) : Lowered sec (maskedByte bs m) s (s.l2Merge sec bs m h) := by
  have hpkg := s.l2Merge_onlyPackage sec bs m h
  refine ⟨hpkg.clusters, fun q hc => ?_, fun a => .inl (by rw [hpkg.mem]), fun x hx => by rwa [hpkg.poison] at hx, fun hr => ?_,
    fun hr => ?_, by rw [hpkg.migrations], fun hr => ?_⟩
  · cases hq : isLocal q with
    | true =>
      have hsec : sectorOf q ≠ sec := by
        rintro rfl
        rw [isLocal_sectorBase, hq] at hl
        cases hl
      rw [if_neg hsec, hpkg.belowAt_of_isLocal hq]
    | false =>
      obtain ⟨ls, -, he⟩ := s.l2Merge_room sec bs m h (hc.resolve_left (by simp [hq]))
      rw [belowAt_of_not_isLocal _ hq, belowAt_of_not_isLocal s hq, he, State.l2Sector_setL2]
      split
      next hsec =>
        rw [Option.bind_some, Sector.heldByte_merged _ _ _ (Nat.mod_lt _ (by decide)), hsec]
        have hold : ((s.l2Sector sec).getD Sector.blank).heldByte (q % 64)
            = (s.l2Sector sec).bind (fun x => x.heldByte (q % 64)) := by
          cases s.l2Sector sec with
          | none => exact Sector.heldByte_blank _
          | some x => rfl
        rw [hold]
        cases maskedByte bs m (q % 64) <;> rfl
      next => rfl
  · obtain ⟨ls, -, he⟩ := s.l2Merge_room sec bs m h hr
    rw [he]; rfl
  · obtain ⟨ls, -, he⟩ := s.l2Merge_room sec bs m h hr
    rw [he]; rfl
  · obtain ⟨ls, hone, he⟩ := s.l2Merge_room sec bs m h hr
    rw [he]
    exact hone.trans (.of_lines rfl)

/-- A note in the L2 before a write beneath. -/
theorem Lowered.of_note {sec : Nat} {b : Nat → Option Byte} {s t : State} (h : Option Hint)
    (hn : Lowered sec b (if h.isSome then s.noteL2 sec h else s) t) : Lowered sec b s t := by
  have hpkg : s.onlyPackage (if h.isSome then s.noteL2 sec h else s) := by
    split
    · exact State.noteL2_onlyPackage ..
    · exact .refl s
  have hacc := s.noteIf_access 0 sec h
  have hb (q : Nat) (hc : isLocal q = true ∨ s.hasRoom (sec / 8)) :
      belowAt (if h.isSome then s.noteL2 sec h else s) q = belowAt s q := by
    cases hq : isLocal q with
    | true => exact hpkg.belowAt_of_isLocal hq
    | false =>
      have hr := hc.resolve_left (by simp [hq])
      split
      next hh =>
        obtain ⟨ls, he, -⟩ := State.noteL2_room s sec h hr
        rw [he]
        exact belowAt_of_l2 (fun _ => rfl) rfl rfl rfl hq
      next => rfl
  refine ⟨hn.clusters.trans hpkg.clusters, fun q hc => ?_, fun a => ?_, fun x hx => ?_, fun hr => ?_, fun hr => ?_, ?_,
    fun hr => (hacc.lines hr).trans (hn.lines (hacc.room hr))⟩
  · rw [hn.below q (hc.imp id hacc.room), hb q hc]
  · rw [← hpkg.mem]
    exact hn.mem a
  · exact hacc.stored.poison x (hn.poison x hx)
  · exact (hn.host (hacc.room hr)).trans (hacc.stored.host hr)
  · exact (hn.remotes (hacc.room hr)).trans (hacc.stored.remotes hr)
  · exact hn.moves.trans hacc.stored.moves

theorem State.writeBelow_lowered {s : State} (hs : s.Sound) {sec : Nat} {bs : List Byte} (hlen : bs.length = 64) (m : Word)
    (h : Option Hint) (whole : Bool) : Lowered sec (maskedByte bs m) s (s.writeBelow sec bs m h whole) := by
  unfold State.writeBelow
  split
  next hl =>
    have hpkg : s.onlyPackage (if h.isSome then s.noteL2 sec h else s) ∧
        Tended s (if h.isSome then s.noteL2 sec h else s) := by
      split
      · exact ⟨State.noteL2_onlyPackage .., State.noteL2_tended ..⟩
      · exact ⟨.refl s, .refl s⟩
    exact .of_note h (State.homeWrite_lowered (hs.of_tended hpkg.2 (by rw [hpkg.1.migrations])) hlen m whole hl)
  next hl => exact State.l2Merge_lowered s (by simpa using hl) bs m h

/-! ### A sector of the L1 changes with the level beneath it -/

section
variable {s t : State} {clus sec : Nat} {b : Nat → Option Byte} (hl : Lowered sec b s t)
include hl

theorem Lowered.l1Sector (k : Nat) : t.l1Sector clus k = s.l1Sector clus k := by
  simp only [State.l1Sector, State.cluster, hl.clusters]

theorem Lowered.heldAt_eq (q : Nat) : heldAt t clus q = heldAt s clus q := by simp only [heldAt, hl.l1Sector]
theorem Lowered.owedAt_eq (q : Nat) : owedAt t clus q = owedAt s clus q := by simp only [owedAt, hl.l1Sector]
end

theorem belowAt_setL1 (s : State) (clus sec : Nat) (x : Option Sector) (q : Nat) :
    belowAt (s.setL1 clus sec x) q = belowAt s q := rfl

theorem owed_of_held {s : State} (hs : s.SectorsTidy) {clus q : Nat} {v : Byte} (h : owedAt s clus q = some v) :
    heldAt s clus q = some v := by
  unfold owedAt at h
  unfold heldAt
  cases hx : s.l1Sector clus (sectorOf q) with
  | none => rw [hx] at h; cases h
  | some x =>
    rw [hx] at h
    exact Sector.held_of_owed x (hs.l1Sector hx) h

/-- A write-back: what a sector owes has reached the level beneath, and it owes no more. -/
theorem Lowered.writeBack {s t : State} {clus sec : Nat} {x : Sector} (hs : s.Sound) (hx : s.l1Sector clus sec = some x)
    (hl : Lowered sec x.owedByte s t) : Access clus (sec / 8) (fun _ => none) s (t.setL1 clus sec (some x.clean)) := by
  have hrise : Sparse.rising 0 t.clusters = true := by rw [hl.clusters]; exact hs.sectors.rising
  have hxq {q : Nat} (hq : sectorOf q = sec) : heldAt s clus q = x.heldByte (q % 64) ∧ owedAt s clus q = x.owedByte (q % 64) := by
    unfold heldAt owedAt
    rw [hq, hx]
    exact ⟨rfl, rfl⟩
  have hheld (q : Nat) : heldAt (t.setL1 clus sec (some x.clean)) clus q = heldAt s clus q := by
    rw [heldAt_setL1 hrise, hl.heldAt_eq]
    split
    next hq => exact (hxq hq).1.symm
    next => rfl
  have howed (q : Nat) : owedAt (t.setL1 clus sec (some x.clean)) clus q
      = if sectorOf q = sec then none else owedAt s clus q := by
    rw [owedAt_setL1 hrise, hl.owedAt_eq]
    split
    · exact Sector.owedByte_clean x
    · rfl
  refine ⟨⟨fun q _ hc => .inl ?_, fun q _ hc => ?_, fun _ _ hq => (by cases hq), fun q _ => ?_, fun a _ => ?_, hl.poison, hl.host,
    hl.remotes, hl.moves⟩, fun hr => (hl.lines hr).trans (.of_lines rfl)⟩
  · rw [seenAt_eq, seenAt_eq, hheld, belowAt_setL1, hl.below q hc]
    split
    next hq =>
      cases ho : x.owedByte (q % 64) with
      | none => rfl
      | some v =>
        rw [owed_of_held hs.sectors ((hxq hq).2.trans ho)]
        rfl
    next => rfl
  · rw [hintAt_byp, hintAt_byp, howed, belowAt_setL1, hl.below q hc]
    split
    next hq => rw [(hxq hq).2]; rfl
    next => rfl
  · rw [howed]
    split
    · exact .inl rfl
    · exact .inr rfl
  · refine (hl.mem a).imp id (fun h => ?_)
    rw [(hxq h.1).2]
    exact h.2

/-- A dirty sector of the cluster L1 is written back (12 R252). -/
theorem State.wbL1_access {s : State} (hs : s.Sound) (clus sec : Nat) :
    Access clus (sec / 8) (fun _ => none) s (s.wbL1 clus sec) := by
  unfold State.wbL1
  split
  · exact .refl ..
  next x hx =>
    have hlen : x.bytes.length = 64 := ((Sector.tidy_iff x).mp (hs.sectors.l1Sector hx)).1
    split
    · exact .refl ..
    · split
      next hl => exact Lowered.writeBack hs hx (State.homeWrite_lowered hs hlen x.mask x.whole hl)
      next hl =>
        split
        · exact .refl ..
        · split
          · exact Lowered.writeBack hs hx (State.l2Merge_lowered s (by simpa using hl) x.bytes x.mask none)
          · refine .of_package (State.roomL2_onlyPackage ..) (fun hr => ?_)
            rw [State.roomL2_room hr]
            exact ⟨⟨fun _ _ => rfl, rfl, rfl⟩, .refl s⟩

theorem State.takesWrite_of_room {s : State} {sec : Nat} (hr : s.hasRoom (sec / 8)) (hw : s.wbOpen sec = false) :
    s.takesWrite sec = true := by
  have hfits : s.fitsL2 [sec / 8] (sec / 8) = true := by
    unfold State.hasRoom State.lineUse at hr
    unfold State.fitsL2
    split at hr
    next hh => rw [hh]; rfl
    next => simp [State.sliceRoom, hr]
  simp [State.takesWrite, hw, hfits]

/-- A write-back that may go leaves nothing of its sector owed. -/
theorem State.owedAt_wbL1 {s : State} (hs : s.Sound) (clus : Nat) {q : Nat}
    (hc : isLocal q = true ∨ s.hasRoom (sectorOf q / 8) ∧ s.wbOpen (sectorOf q) = false) :
    owedAt (s.wbL1 clus (sectorOf q)) clus q = none := by
  have hclean (t : State) (ht : t.clusters = s.clusters) (x : Sector) :
      owedAt (t.setL1 clus (sectorOf q) (some x.clean)) clus q = none := by
    rw [owedAt_setL1 (by rw [ht]; exact hs.sectors.rising), if_pos rfl]
    exact Sector.owedByte_clean x
  unfold State.wbL1
  split
  next hx =>
    unfold owedAt
    rw [hx]; rfl
  next x hx =>
    split
    next hm =>
      unfold owedAt
      rw [hx, Option.bind_some, Sector.owedByte, hm, if_neg (by simp [laneIn])]
    · split
      · exact hclean _ rfl x
      next hl =>
        rw [isLocal_sectorBase] at hl
        obtain ⟨hr, hw⟩ := hc.resolve_left hl
        rw [if_neg (by simp [hw]), if_pos (State.takesWrite_of_room hr hw)]
        exact hclean _ (State.l2Merge_onlyPackage ..).clusters x

end Sys2Proof.Machine
end
section
/-! SUPPORT. What accesses through the caches leave of the bytes that a cluster sees: lines that enter and leave the L1 (10 R223
to R225, 12 R253). -/

namespace Sys2Proof.Machine

open Sys2Proof.Claims

/-! ### A line leaves the L1 -/

theorem Tab.get?_filter_key {β : Type} (t : List (Nat × β)) (p : Nat → Bool) (k : Nat) :
    Tab.get? (t.filter (fun e => p e.1)) k = if p k then Tab.get? t k else none := by
  unfold Tab.get?
  rw [List.find?_filter]
  split
  next h =>
    congr 2
    funext e
    by_cases he : e.1 = k
    · simp [he, h]
    · simp [he]
  next h =>
    rw [Option.map_eq_none_iff, List.find?_eq_none]
    intro e _
    by_cases he : e.1 = k
    · simp [he, h]
    · simp [he]

section
variable (clus line : Nat)

/-- The write-backs of sectors of one line. -/
theorem State.wbL1s_access (secs : List Nat) (hsecs : ∀ sec ∈ secs, sec / 8 = line) : ∀ {s : State}, s.Sound →
    Access clus line (fun _ => none) s (secs.foldl (fun s sec => s.wbL1 clus sec) s)
      ∧ (secs.foldl (fun s sec => s.wbL1 clus sec) s).Sound
      ∧ ∀ q, (owedAt s clus q = none ∨ sectorOf q ∈ secs ∧
          (isLocal q = true ∨ s.hasRoom line ∧ s.wbOpen (sectorOf q) = false)) →
        owedAt (secs.foldl (fun s sec => s.wbL1 clus sec) s) clus q = none := by
  induction secs with
  | nil => exact fun {s} hs => ⟨.refl .., hs, fun q hq => hq.resolve_right (fun h => List.not_mem_nil h.1)⟩
  | cons sec secs ih =>
    intro s hs
    have hline := hsecs sec (List.mem_cons_self ..)
    have hacc := State.wbL1_access hs clus sec
    rw [hline] at hacc
    have hs1 := hacc.stored.sound hs (s.wbL1_tended clus sec)
    obtain ⟨hrest, hs2, howed⟩ := ih (fun x hx => hsecs x (List.mem_cons_of_mem _ hx)) hs1
    have hkept (q : Nat) (h : owedAt s clus q = none) : owedAt (s.wbL1 clus sec) clus q = none := by
      obtain ho | ho := hacc.stored.owed q rfl
      · exact ho
      · exact ho.trans h
    refine ⟨hacc.served hrest, hs2, fun q hq => howed q ?_⟩
    obtain hq | ⟨hq, hc⟩ := hq
    · exact .inl (hkept q hq)
    · obtain hq | hq := List.mem_cons.mp hq
      · subst hq
        exact .inl (State.owedAt_wbL1 hs clus (by rwa [hline]))
      · refine .inr ⟨hq, hc.imp id (fun h => ⟨hacc.room h.1, ?_⟩)⟩
        rw [State.wbOpen, hacc.stored.remotes h.1]
        exact h.2

/-- A cluster without the sectors of a line. -/
def Cluster.without (c : Cluster) (line : Nat) : Cluster :=
  { c with l1 := c.l1.filter (fun x => x.1 / 8 != line), lines := c.lines.filter (fun e => e.line != line) }

/-- A line goes of which nothing is owed. -/
theorem Stored.without {s : State} (hs : s.Sound) {room : Prop}
    (howed : ∀ q, sectorOf q / 8 = line → isLocal q = true ∨ room → owedAt s clus q = none) :
    Served clus room s (s.modCluster clus (fun c => c.without line)) := by
  have hl1 (k : Nat) : (s.modCluster clus (fun c => c.without line)).l1Sector clus k
      = if k / 8 = line then none else s.l1Sector clus k := by
    unfold State.l1Sector
    rw [State.cluster_modCluster_same hs.sectors.rising, Cluster.without]
    rw [Tab.get?_filter_key (s.cluster clus).l1 (fun k => k / 8 != line) k]
    by_cases hk : k / 8 = line <;> simp [hk]
  have hheld (q : Nat) : heldAt (s.modCluster clus (fun c => c.without line)) clus q
      = if sectorOf q / 8 = line then none else heldAt s clus q := by
    unfold heldAt
    rw [hl1]
    split <;> rfl
  have how (q : Nat) : owedAt (s.modCluster clus (fun c => c.without line)) clus q
      = if sectorOf q / 8 = line then none else owedAt s clus q := by
    unfold owedAt
    rw [hl1]
    split <;> rfl
  have hbelow (q : Nat) : belowAt (s.modCluster clus (fun c => c.without line)) q = belowAt s q := rfl
  refine ⟨fun q _ hc => ?_, fun q _ hc => ?_, fun _ _ hq => (by cases hq), fun q _ => ?_, fun _ _ => .inl rfl, fun _ hx => hx,
    fun _ => rfl, fun _ => rfl, rfl⟩
  · rw [seenAt_eq, seenAt_eq, hintAt_byp, hheld, hbelow]
    split
    next hq => rw [howed q hq hc]; exact .inr rfl
    next => exact .inl rfl
  · rw [hintAt_byp, hintAt_byp, how, hbelow]
    split
    next hq => rw [howed q hq hc]
    next => rfl
  · rw [how]
    split
    · exact .inl rfl
    · exact .inr rfl

/-- A line leaves the L1 that may (12 R253). -/
theorem State.evictL1_access {s : State} (hs : s.Sound) (hleave : s.canLeave clus line = true) :
    Access clus line (fun _ => none) s (s.evictL1 clus line) := by
  have hsecs : ∀ sec ∈ ((s.cluster clus).l1.filter (fun x => x.1 / 8 == line)).map Prod.fst, sec / 8 = line := by
    intro sec hsec
    obtain ⟨x, hx, rfl⟩ := List.mem_map.mp hsec
    simpa using (List.mem_filter.mp hx).2
  obtain ⟨hacc, hs1, howed⟩ := State.wbL1s_access clus line _ hsecs hs
  have hdrop := Stored.without (room := s.hasRoom line) clus line hs1 (fun q hq hc => ?_)
  · exact ⟨hacc.stored.served hdrop id, fun hr => (hacc.lines hr).trans (.of_lines rfl)⟩
  · refine howed q ?_
    cases hx : s.l1Sector clus (sectorOf q) with
    | none => exact .inl (by unfold owedAt; rw [hx]; rfl)
    | some x =>
      have hmem := Tab.get?_mem _ _ _ hx
      have hmay := List.all_eq_true.mp hleave _ hmem
      have hsec : sectorOf q ∈ ((s.cluster clus).l1.filter (fun x => x.1 / 8 == line)).map Prod.fst :=
        List.mem_map.mpr ⟨_, List.mem_filter.mpr ⟨hmem, by simpa using hq⟩, rfl⟩
      simp only [Bool.or_eq_true, bne_iff_ne, ne_eq, hq, not_true_eq_false, false_or, beq_iff_eq, Bool.and_eq_true,
        Bool.not_eq_true', isLocal_sectorBase] at hmay
      obtain (hm | hm) | hm := hmay
      · exact .inl (by unfold owedAt; rw [hx, Option.bind_some, Sector.owedByte, hm, if_neg (by simp [laneIn])])
      · exact .inr ⟨hsec, .inl hm⟩
      · exact .inr ⟨hsec, hc.imp id (fun h => ⟨h, hm.1⟩)⟩

end

/-! ### A line enters the L1 (10 R223 to R225) -/

/-- The L1 holds the line in a bank that takes new lines. -/
def Cluster.settled (c : Cluster) (line : Nat) : Bool :=
  match c.lines.find? (fun e => e.line == line) with
  | some e => c.openBanks.contains e.bank
  | none => false

def State.settled (s : State) (clus line : Nat) : Bool := (s.cluster clus).settled line

/-- The L2's lines once it holds a line too, and another one that leaves the L1 for it. -/
def State.lineCost (s : State) (clus line : Nat) : Nat := s.lineUse line + if s.settled clus line then 0 else 1

/-- Accesses to a line through the L1 that store the bytes `w`. -/
structure Through (clus line : Nat) (w : Nat → Option Byte) (s t : State) : Prop where
  stored : Stored clus w (s.lineCost clus line ≤ sliceLines) s t
  cost : s.lineCost clus line ≤ sliceLines → t.lineCost clus line ≤ s.lineCost clus line

/-- A change of the cluster that leaves its sectors. -/
theorem Stored.of_modCluster {s : State} {clus : Nat} {room : Prop} (hs : s.Sound) (f : Cluster → Cluster)
    (hf : (f (s.cluster clus)).l1 = (s.cluster clus).l1) : Served clus room s (s.modCluster clus f) := by
  have hl1 (k : Nat) := State.l1Sector_modCluster hs.sectors.rising clus f hf clus k
  have hheld (q : Nat) : heldAt (s.modCluster clus f) clus q = heldAt s clus q := by simp only [heldAt, hl1]
  have howed (q : Nat) : owedAt (s.modCluster clus f) clus q = owedAt s clus q := by simp only [owedAt, hl1]
  have hbelow (q : Nat) : belowAt (s.modCluster clus f) q = belowAt s q := rfl
  refine ⟨fun q _ _ => .inl ?_, fun q _ _ => ?_, fun _ _ hq => (by cases hq), fun q _ => .inr (howed q),
    fun _ _ => .inl rfl, fun _ hx => hx, fun _ => rfl, fun _ => rfl, rfl⟩
  · rw [seenAt_eq, seenAt_eq, hheld, hbelow]
  · rw [hintAt_byp, hintAt_byp, howed, hbelow]

namespace Through
variable {clus line : Nat} {w w' : Nat → Option Byte} {s t v : State}

theorem refl (clus line : Nat) (s : State) : Through clus line (fun _ => none) s s := ⟨.refl .., fun _ => le_rfl⟩

theorem trans (h : Through clus line w s t) (k : Through clus line w' t v) : Through clus line (fun q => (w' q).or (w q)) s v :=
  ⟨h.stored.trans k.stored (fun hr => (h.cost hr).trans hr),
    fun hr => (k.cost ((h.cost hr).trans hr)).trans (h.cost hr)⟩

theorem congr (h : Through clus line w s t) (hw : ∀ q, w' q = w q) : Through clus line w' s t :=
  ⟨h.stored.congr hw, h.cost⟩

/-- After accesses that store nothing. -/
theorem served (h : Through clus line (fun _ => none) s t) (k : Through clus line w t v) : Through clus line w s v :=
  (h.trans k).congr (fun q => by simp)

/-- Accesses beneath the L1 that leave its lines. -/
theorem of_access (h : Access clus line w s t) (hl : s.settled clus line = true → t.settled clus line = true) :
    Through clus line w s t := by
  have hle : s.lineUse line ≤ s.lineCost clus line := Nat.le_add_right _ _
  refine ⟨h.stored.mono (fun hr => hle.trans hr), fun hr => ?_⟩
  have huse := (h.lines (hle.trans hr)).use
  unfold State.lineCost
  cases hs : s.settled clus line with
  | true => rw [hl hs]; simpa using huse
  | false => split <;> simp <;> omega

theorem of_modCluster (hs : s.Sound) (f : Cluster → Cluster) (hf : (f (s.cluster clus)).l1 = (s.cluster clus).l1)
    (hl : (s.cluster clus).settled line = true → (f (s.cluster clus)).settled line = true) :
    Through clus line (fun _ => none) s (s.modCluster clus f) := by
  refine .of_access ⟨.of_modCluster hs f hf, fun _ => .of_lines rfl⟩ (fun h => ?_)
  unfold State.settled at *
  rw [State.cluster_modCluster_same hs.sectors.rising]
  exact hl h
end Through

/-- An access touches a line. -/
theorem Cluster.settled_note (c : Cluster) (line k : Nat) (h : Hint) : (c.note line h).settled k = c.settled k := by
  have hfind : (c.note line h).lines.find? (fun e => e.line == k)
      = (c.lines.find? (fun e => e.line == k)).map (fun e => if e.line = line then { e with hint := c.record line h } else e) := by
    unfold Cluster.note
    rw [List.find?_map]
    congr 2
    funext e
    simp only [Function.comp_apply]
    split <;> rfl
  unfold Cluster.settled
  rw [hfind]
  cases c.lines.find? (fun e => e.line == k) with
  | none => rfl
  | some e =>
    simp only [Option.map_some]
    split <;> rfl

section
variable {s : State} (hs : s.Sound) (clus : Nat)
include hs

theorem State.noteLine_through (sec line : Nat) (h : Hint) : Through clus line (fun _ => none) s (s.noteLine clus sec h) :=
  .of_modCluster hs _ rfl (fun hl => (Cluster.settled_note ..).trans hl)

/-- A write-back changes of the cluster its sectors alone. -/
theorem State.cluster_wbL1 (sec : Nat) : ∃ l1, (s.wbL1 clus sec).cluster clus = { s.cluster clus with l1 := l1 } := by
  have hset (t : State) (ht : t.clusters = s.clusters) (x : Sector) :
      ∃ l1, (t.setL1 clus sec (some x)).cluster clus = { s.cluster clus with l1 := l1 } := by
    unfold State.setL1
    rw [State.cluster_modCluster_same (by rw [ht]; exact hs.sectors.rising)]
    simp only [State.cluster, ht]
    exact ⟨_, rfl⟩
  unfold State.wbL1
  split
  · exact ⟨_, rfl⟩
  next x hx =>
    split
    · exact ⟨_, rfl⟩
    · split
      · exact hset _ rfl _
      · split
        · exact ⟨_, rfl⟩
        · split
          · exact hset _ (State.l2Merge_onlyPackage ..).clusters _
          · refine ⟨(s.cluster clus).l1, ?_⟩
            simp only [State.cluster, (State.roomL2_onlyPackage s (sec / 8)).clusters]

theorem State.cluster_evictL1 (line : Nat) : ∃ l1, (s.evictL1 clus line).cluster clus
    = { s.cluster clus with l1 := l1, lines := (s.cluster clus).lines.filter (fun e => e.line != line) } := by
  have hfold (secs : List Nat) : ∀ {t : State}, t.Sound → (∃ l1, t.cluster clus = { s.cluster clus with l1 := l1 }) →
      Sparse.rising 0 (secs.foldl (fun s sec => s.wbL1 clus sec) t).clusters = true
        ∧ ∃ l1, (secs.foldl (fun s sec => s.wbL1 clus sec) t).cluster clus = { s.cluster clus with l1 := l1 } := by
    induction secs with
    | nil => exact fun ht h => ⟨ht.sectors.rising, h⟩
    | cons sec secs ih =>
      rintro t ht ⟨l1, hl1⟩
      obtain ⟨l2, hl2⟩ := State.cluster_wbL1 ht clus sec
      refine ih ((State.wbL1_access ht clus sec).stored.sound ht (t.wbL1_tended clus sec)) ⟨l2, ?_⟩
      rw [hl2, hl1]
  obtain ⟨hrise, l1, hl1⟩ := hfold (((s.cluster clus).l1.filter (fun x => x.1 / 8 == line)).map Prod.fst) hs ⟨_, rfl⟩
  unfold State.evictL1
  dsimp only
  rw [State.cluster_modCluster_same hrise, hl1]
  exact ⟨_, rfl⟩

theorem State.evictL1_sound {line : Nat} (hleave : s.canLeave clus line = true) : (s.evictL1 clus line).Sound :=
  (State.evictL1_access clus line hs hleave).stored.sound hs (State.evictL1_tended ..)
end

/-- A cluster that takes a line in a bank that is open. -/
def Cluster.enter (c : Cluster) (line b : Nat) (h : Hint) : Cluster :=
  { c with lines := c.lines ++ [{ line := line, hint := c.record line h, bank := b }] }

theorem Cluster.settled_enter {c : Cluster} {line b : Nat} (h : Hint)
    (hnone : c.lines.find? (fun e => e.line == line) = none) (hb : b ∈ c.openBanks) : (c.enter line b h).settled line = true := by
  have hfind : (c.enter line b h).lines.find? (fun e => e.line == line)
      = some { line := line, hint := c.record line h, bank := b } := by
    unfold Cluster.enter
    rw [List.find?_append, hnone]
    simp
  unfold Cluster.settled
  rw [hfind]
  exact List.contains_iff_mem.mpr hb

theorem State.enterLine_eq (s : State) (clus line : Nat) (h : Hint) :
    s.enterLine clus line h = match (s.cluster clus).freeBank line with
      | some b => some (s.modCluster clus (fun c => c.enter line b h))
      | none => match (byClass L1Line.hint ((s.cluster clus).set line)).find? (fun e => s.canLeave clus e.line) with
        | some e => some ((s.evictL1 clus e.line).modCluster clus (fun c => c.enter line e.bank h))
        | none => none := rfl

theorem mem_of_mem_byClass {α : Type} {hint : α → Hint} {xs : List α} {x : α} (h : x ∈ byClass hint xs) : x ∈ xs := by
  simp only [byClass, List.mem_append, List.mem_filter] at h
  obtain (⟨h, -⟩ | ⟨h, -⟩) | ⟨h, -⟩ := h <;> exact h

/-- A line enters that the L1 does not hold. -/
theorem State.enterLine_through {s t : State} (hs : s.Sound) {clus line : Nat} {h : Hint}
    (hnone : (s.cluster clus).lines.find? (fun e => e.line == line) = none) (ht : s.enterLine clus line h = some t) :
    Through clus line (fun _ => none) s t ∧ t.settled clus line = true := by
  have hset {v : State} (hv : v.Sound) {b : Nat} (hn : (v.cluster clus).lines.find? (fun e => e.line == line) = none)
      (hb : b ∈ (v.cluster clus).openBanks) : (v.modCluster clus (fun c => c.enter line b h)).settled clus line = true := by
    unfold State.settled
    rw [State.cluster_modCluster_same hv.sectors.rising]
    exact Cluster.settled_enter h hn hb
  have hunset : s.settled clus line = false := by
    unfold State.settled Cluster.settled
    rw [hnone]
  rw [State.enterLine_eq] at ht
  split at ht
  next b hb =>
    cases ht
    have hopen : b ∈ (s.cluster clus).openBanks := List.mem_of_find?_eq_some hb
    exact ⟨.of_modCluster hs _ rfl (fun _ => Cluster.settled_enter h hnone hopen), hset hs hnone hopen⟩
  next =>
    split at ht
    next e he =>
      cases ht
      have hleave : s.canLeave clus e.line = true := by simpa using List.find?_some he
      have hmem : e ∈ (s.cluster clus).set line := mem_of_mem_byClass (List.mem_of_find?_eq_some he)
      have hopen : e.bank ∈ (s.cluster clus).openBanks := by
        have := (List.mem_filter.mp hmem).2
        simp only [Bool.and_eq_true, List.contains_iff_mem] at this
        exact this.2
      have hv := State.evictL1_sound hs clus hleave
      obtain ⟨l1, hl1⟩ := State.cluster_evictL1 hs clus e.line
      have hn : ((s.evictL1 clus e.line).cluster clus).lines.find? (fun e => e.line == line) = none := by
        rw [hl1]
        rw [List.find?_eq_none] at hnone ⊢
        exact fun x hx => hnone x (List.mem_of_mem_filter hx)
      have hb : e.bank ∈ ((s.evictL1 clus e.line).cluster clus).openBanks := by
        rw [hl1]
        exact hopen
      have hacc := State.evictL1_access clus e.line hs hleave
      have hset1 := hset hv hn hb
      have hroom (hr : s.lineCost clus line ≤ sliceLines) : s.hasRoom e.line := by
        unfold State.hasRoom State.lineUse
        simp only [State.lineCost, State.lineUse, hunset] at hr
        split <;> simp at hr <;> omega
      refine ⟨⟨(hacc.stored.mono hroom).served (.of_modCluster (room := True) hv _ rfl) (fun _ => trivial), fun hr => ?_⟩, hset1⟩
      have huse := (hacc.lines (hroom hr)).lineUse_le line
      simp only [State.lineCost, hunset, hset1, if_true, Bool.false_eq_true, if_false]
      exact huse
    next => cases ht

end Sys2Proof.Machine
end
section
/-! SUPPORT. Plain reads and plain stores of a cluster: the bytes they give and store, and those they leave (12 R249, R253). -/

namespace Sys2Proof.Machine

open Sys2Proof.Claims

/-! ### Room for a sector -/

theorem State.makeRoom_through {s t : State} (hs : s.Sound) {clus sec : Nat} {h : Hint}
    (ht : s.makeRoom clus sec h = some t) :
    Through clus (sec / 8) (fun _ => none) s t ∧ t.settled clus (sec / 8) = true := by
  unfold State.makeRoom at ht
  dsimp only at ht
  split at ht
  next e he =>
    split at ht
    next hopen =>
      cases ht
      have hset : s.settled clus (sec / 8) = true := by
        unfold State.settled Cluster.settled
        rw [he]
        exact hopen
      refine ⟨State.noteLine_through hs clus sec _ h, ?_⟩
      unfold State.settled State.noteLine
      rw [State.cluster_modCluster_same hs.sectors.rising, Cluster.settled_note]
      exact hset
    next hopen =>
      split at ht
      · cases ht
      next hmay =>
        have hleave : s.canLeave clus (sec / 8) = true := by
          simp only [Bool.or_eq_true, Bool.not_eq_true', not_or, Bool.not_eq_false] at hmay
          exact hmay.2
        have hunset : s.settled clus (sec / 8) = false := by
          unfold State.settled Cluster.settled
          rw [he]
          simpa using hopen
        obtain ⟨l1, hl1⟩ := State.cluster_evictL1 hs clus (sec / 8)
        have hnone : ((s.evictL1 clus (sec / 8)).cluster clus).lines.find? (fun e => e.line == sec / 8) = none := by
          rw [hl1, List.find?_eq_none]
          intro x hx
          simpa using (List.mem_filter.mp hx).2
        obtain ⟨hent, hset⟩ := State.enterLine_through (State.evictL1_sound hs clus hleave) hnone ht
        exact ⟨(Through.of_access (State.evictL1_access clus _ hs hleave) (fun h => by rw [hunset] at h; cases h)).served hent,
          hset⟩
  next hnone => exact State.enterLine_through hs hnone ht

/-! ### A sector of the L1 is set -/

section
variable {s : State} (hs : s.Sound) (clus sec : Nat)
include hs

theorem State.settled_setL1 (x : Sector) (line : Nat) :
    (s.setL1 clus sec (some x)).settled clus line = s.settled clus line := by
  unfold State.settled State.setL1
  rw [State.cluster_modCluster_same hs.sectors.rising]
  rfl

/-- A sector comes to stand in the L1: what must hold of its bytes. -/
theorem Stored.setL1 {w : Nat → Option Byte} {room : Prop} {y : Sector} (hout : ∀ q, sectorOf q ≠ sec → w q = none)
    (hseen : ∀ q, sectorOf q = sec → w q = none → isLocal q = true ∨ room →
      (y.heldByte (q % 64)).getD (belowAt s q) = seenAt s clus q
        ∨ (y.heldByte (q % 64)).getD (belowAt s q) = hintAt s .byp clus q)
    (hbyp : ∀ q, sectorOf q = sec → w q = none → isLocal q = true ∨ room →
      (y.owedByte (q % 64)).getD (belowAt s q) = hintAt s .byp clus q)
    (hput : ∀ q v, w q = some v → y.heldByte (q % 64) = some v ∧ y.owedByte (q % 64) = some v)
    (howed : ∀ q, sectorOf q = sec → w q = none → y.owedByte (q % 64) = none ∨ y.owedByte (q % 64) = owedAt s clus q) :
    Stored clus w room s (s.setL1 clus sec (some y)) := by
  have hheld (q : Nat) := heldAt_setL1 hs.sectors.rising clus sec y q
  have how (q : Nat) := owedAt_setL1 hs.sectors.rising clus sec y q
  have hin {q : Nat} {v : Byte} (hq : w q = some v) : sectorOf q = sec := by
    by_contra hne
    rw [hout q hne] at hq
    cases hq
  refine ⟨fun q hq hc => ?_, fun q hq hc => ?_, fun q v hq _ => ?_, fun q hq => ?_, fun _ _ => .inl rfl, fun _ hx => hx,
    fun _ => rfl, fun _ => rfl, rfl⟩
  · rw [seenAt_eq (s.setL1 clus sec (some y)), hheld, belowAt_setL1]
    split
    next hsec => exact hseen q hsec hq hc
    next => rw [← seenAt_eq]; exact .inl rfl
  · rw [hintAt_byp (s.setL1 clus sec (some y)), how, belowAt_setL1]
    split
    next hsec => exact hbyp q hsec hq hc
    next => rw [← hintAt_byp]
  · obtain ⟨h1, h2⟩ := hput q v hq
    rw [seenAt_eq, hintAt_byp, hheld, how, if_pos (hin hq), if_pos (hin hq), h1, h2]
    exact ⟨rfl, rfl⟩
  · rw [how]
    split
    next hsec => exact howed q hsec hq
    next => exact .inr rfl

end

theorem State.hasRoom_of_cost {s : State} {clus line : Nat} (h : s.lineCost clus line ≤ sliceLines) : s.hasRoom line :=
  (Nat.le_add_right _ _).trans h

/-- The last of some accesses sets a sector. -/
theorem Through.setLast {s t : State} {clus line : Nat} {w : Nat → Option Byte} {y : Sector}
    (h : Through clus line (fun _ => none) s t) (ht : t.Sound) (sec : Nat)
    (hset : Stored clus w (s.lineCost clus line ≤ sliceLines) t (t.setL1 clus sec (some y))) :
    Through clus line w s (t.setL1 clus sec (some y)) := by
  refine ⟨(h.stored.trans hset id).congr (fun q => by simp), fun hr => le_of_eq_of_le ?_ (h.cost hr)⟩
  have huse : (t.setL1 clus sec (some y)).lineUse line = t.lineUse line := rfl
  simp only [State.lineCost, State.settled_setL1 ht, huse]

/-! ### Bytes of one access -/

theorem laneIn_byteMask (o n : Nat) {j : Nat} (hj : j < 64) : laneIn (byteMask o n) j = (decide (o ≤ j) && decide (j < o + n)) := by
  rw [Bool.eq_iff_iff]
  simp only [laneIn, byteMask, fullMask, BitVec.getLsbD_shiftLeft, BitVec.getLsbD_ofNat, Nat.testBit_two_pow_sub_one,
    Bool.and_eq_true, decide_eq_true_eq, Bool.not_eq_true', decide_eq_false_iff_not]
  omega

theorem getD_drop_take {α : Type} (bs : List α) (d : α) (o : Nat) {n j : Nat} (hj : j < n) :
    ((bs.drop o).take n).getD j d = bs.getD (o + j) d := by
  simp [List.getD_eq_getElem?_getD, hj]

theorem length_drop_take {α : Type} {bs : List α} {o n : Nat} (hlen : bs.length = 64) (h : o + n ≤ 64) :
    ((bs.drop o).take n).length = n := by
  simp only [List.length_take, List.length_drop, hlen]
  omega

theorem sectorOf_add_lt {p n j : Nat} (h : p % 64 + n ≤ 64) (hj : j < n) :
    sectorOf (p + j) = sectorOf p ∧ (p + j) % 64 = p % 64 + j := by
  simp only [sectorOf]; omega

/-- Bytes cut from a sector whose bytes are known. -/
theorem cut_spec {p n : Nat} (hp : p % 64 + n ≤ 64) {c : List Byte} (hlen : c.length = 64) {f : Nat → Byte}
    (hc : ∀ q, sectorOf q = sectorOf p → p ≤ q → q < p + n → c.getD (q % 64) 0 = f q) :
    ((c.drop (p % 64)).take n).length = n ∧ ∀ j, j < n → ((c.drop (p % 64)).take n).getD j 0 = f (p + j) := by
  refine ⟨length_drop_take hlen hp, fun j hj => ?_⟩
  obtain ⟨h1, h2⟩ := sectorOf_add_lt hp hj
  rw [getD_drop_take _ _ _ hj, ← h2]
  exact hc _ h1 (by omega) (by omega)

/-! ### Plain reads (12 R249) -/

section
variable {s : State} (hs : s.Sound)
include hs

theorem State.below_sound (sec : Nat) (h : Option Hint) : (s.below sec h).2.Sound :=
  hs.of_tended (State.below_tended ..) (by rw [(State.below_onlyPackage ..).migrations])

/-- What stands beneath the L1 after a reading beneath it. -/
theorem State.below_belowAt (clus sec : Nat) (h : Option Hint) {q : Nat} (hc : isLocal q = true ∨ s.hasRoom (sec / 8))
    (ho : owedAt s clus q = none) : belowAt (s.below sec h).2 q = belowAt s q := by
  have hb := ((State.below_spec hs clus sec h).1.stored.byp q rfl hc)
  rw [hintAt_byp, hintAt_byp, (State.below_onlyPackage s sec h).owedAt, ho] at hb
  exact hb

theorem State.below_through (clus sec : Nat) (h : Option Hint) :
    Through clus (sec / 8) (fun _ => none) s (s.below sec h).2 := by
  refine .of_access (State.below_spec hs clus sec h).1 (fun hset => ?_)
  unfold State.settled State.cluster at *
  rwa [(State.below_onlyPackage s sec h).clusters]

/-- A copy that the L1 holds is filled or renewed by a reading beneath it: a byte that it kept is its own, and any other is what
that reading gave. -/
theorem State.renew_through {clus sec : Nat} {h : Hint} {bs : List Byte} {x y : Sector} (hx : s.l1Sector clus sec = some x)
    (hbs : (s.below sec (some h)).1 = .bytes bs) (hmask : ∀ i, i < 64 → y.owedByte i = x.owedByte i)
    (hheld : ∀ i, i < 64 → y.heldByte i = some ((x.heldByte i).getD (bs.getD i 0))
      ∨ y.heldByte i = some ((x.owedByte i).getD (bs.getD i 0))) :
    Through clus (sec / 8) (fun _ => none) s ((s.below sec (some h)).2.setL1 clus sec (some y)) := by
  have hpkg := State.below_onlyPackage s sec (some h)
  have hvalue := ((State.below_spec hs clus sec (some h)).2 bs hbs).2
  have hi (q : Nat) : q % 64 < 64 := Nat.mod_lt _ (by decide)
  have hxq {q : Nat} (hq : sectorOf q = sec) :
      heldAt s clus q = x.heldByte (q % 64) ∧ owedAt s clus q = x.owedByte (q % 64) := by
    unfold heldAt owedAt
    rw [hq, hx]
    exact ⟨rfl, rfl⟩
  refine (State.below_through hs clus sec (some h)).setLast (State.below_sound hs sec _) sec
    (Stored.setL1 (State.below_sound hs sec _) clus sec (fun _ _ => rfl) (fun q hq _ hc => ?_) (fun q hq _ hc => ?_)
      (fun _ _ hq => by cases hq) (fun q hq _ => ?_))
  · have hstand (hnone : owedAt s clus q = none) : bs.getD (q % 64) 0 = belowAt (s.below sec (some h)).2 q :=
      (hvalue q hq).trans (State.below_belowAt hs clus sec _ (hc.imp id (State.hasRoom_of_cost (clus := clus))) hnone).symm
    rw [seenAt_eq, hintAt_byp, hpkg.heldAt, hpkg.owedAt, (hxq hq).1, (hxq hq).2]
    obtain hy | hy := hheld _ (hi q)
    · refine .inl ?_
      rw [hy]
      cases hh : x.heldByte (q % 64) with
      | some v => rfl
      | none =>
        refine hstand ?_
        cases ho : owedAt s clus q with
        | none => rfl
        | some v =>
          have := owed_of_held hs.sectors ho
          rw [(hxq hq).1, hh] at this
          cases this
    · refine .inr ?_
      rw [hy]
      cases hh : x.owedByte (q % 64) with
      | some v => rfl
      | none => exact hstand ((hxq hq).2.trans hh)
  · rw [hintAt_byp, hpkg.owedAt, (hxq hq).2, hmask _ (hi q)]
  · rw [hpkg.owedAt, (hxq hq).2, hmask _ (hi q)]
    exact .inr rfl

/-- A sector comes to the L1 that held none of it. -/
theorem State.miss_through {clus sec : Nat} {h h2 : Hint} {bs : List Byte} {t : State} (hx : s.l1Sector clus sec = none)
    (hbs : (s.below sec (some h2)).1 = .bytes bs) (ht : (s.below sec (some h2)).2.makeRoom clus sec h = some t) :
    Through clus (sec / 8) (fun _ => none) s (t.setL1 clus sec (some (Sector.blank.fill bs))) := by
  have hs1 := State.below_sound hs sec (some h2)
  have hbelow := State.below_through hs clus sec (some h2)
  have hpkg := State.below_onlyPackage s sec (some h2)
  obtain ⟨hroom, -⟩ := State.makeRoom_through hs1 ht
  have hall := hbelow.served hroom
  have ht1 : t.Sound := hroom.stored.sound hs1 (State.makeRoom_tended ht)
  have hnone {q : Nat} (hq : sectorOf q = sec) : owedAt s clus q = none := by
    unfold owedAt
    rw [hq, hx]
    rfl
  have howed {q : Nat} (hq : sectorOf q = sec) : owedAt t clus q = none := by
    obtain ho | ho := hall.stored.owed q rfl
    · exact ho
    · exact ho.trans (hnone hq)
  have hi (q : Nat) : q % 64 < 64 := Nat.mod_lt _ (by decide)
  refine hall.setLast ht1 sec (Stored.setL1 ht1 clus sec (fun _ _ => rfl) (fun q hq _ hc => .inr ?_)
    (fun q hq _ hc => ?_) (fun _ _ hq => by cases hq) (fun q _ _ => .inl ?_))
  · have hbyp := hall.stored.byp q rfl hc
    rw [hbyp, hintAt_byp, hnone hq, Sector.heldByte_fill _ _ (hi q), Sector.heldByte_blank]
    exact ((State.below_spec hs clus sec (some h2)).2 bs hbs).2 q hq
  · rw [hintAt_byp, howed hq, Sector.owedByte_fill _ _ (hi q) Sector.tidy_blank, Sector.owedByte_blank]
  · rw [Sector.owedByte_fill _ _ (hi q) Sector.tidy_blank, Sector.owedByte_blank]

/-- A plain read stores nothing. -/
theorem State.plainRead_through (clus p n : Nat) (h h2 : Hint) :
    Through clus (sectorOf p / 8) (fun _ => none) s (s.plainRead clus p n h h2).2 := by
  have hbelow := State.below_through hs clus (sectorOf p) (some h2)
  have hs1 := State.below_sound hs (sectorOf p) (some h2)
  have hnote {t : State} (ht : t.Sound) := State.noteLine_through ht clus (sectorOf p) (sectorOf p / 8) h
  unfold State.plainRead
  dsimp only
  split
  next x hx =>
    have hxt := hs.sectors.l1Sector hx
    have hren {bs : List Byte} {t : State} {y : Sector} (heq : s.below (sectorOf p) (some h2) = (.bytes bs, t))
        (hyt : y.tidy = true) (hmask : ∀ i, i < 64 → y.owedByte i = x.owedByte i)
        (hheld : ∀ i, i < 64 → y.heldByte i = some ((x.heldByte i).getD (bs.getD i 0))
          ∨ y.heldByte i = some ((x.owedByte i).getD (bs.getD i 0))) :
        Through clus (sectorOf p / 8) (fun _ => none) s
          ((t.setL1 clus (sectorOf p) (some y)).noteLine clus (sectorOf p) h) := by
      have hr := State.renew_through hs hx (congrArg Prod.fst heq) hmask hheld
      rw [heq] at hr hs1
      have hset : (t.setL1 clus (sectorOf p) (some y)).Sound :=
        hs1.of_tended (State.setL1_tended t clus (sectorOf p) (some y) (fun _ z hz => by cases hz; exact hyt)) rfl
      exact hr.served (hnote hset)
    split
    · split
      next bs t heq =>
        refine hren heq ?_ (fun i hi => ?_) (fun i hi => .inr ?_)
        · exact (Sector.tidy_iff _).mpr ⟨length_overlay .., fun i hi => laneIn_fullMask64 (lt_of_laneIn hi)⟩
        · simp only [Sector.owedByte, getD_overlay _ _ _ hi]
          split <;> rfl
        · simp only [Sector.heldByte, Sector.owedByte, laneIn_fullMask64 hi, if_true, getD_overlay _ _ _ hi]
          split <;> rfl
      next => exact hbelow
    · split
      · exact .refl ..
      · split
        · exact hnote hs
        · split
          next bs t heq =>
            exact hren heq (Sector.tidy_fill x bs) (fun i hi => Sector.owedByte_fill x bs hi hxt)
              (fun i hi => .inl (Sector.heldByte_fill x bs hi))
          next => exact hbelow
  next hx =>
    split
    next bs t heq =>
      rw [heq] at hbelow hs1
      split
      · exact hbelow.served (hnote hs1)
      · split
        next v hv =>
          have hm := State.miss_through hs hx (congrArg Prod.fst heq) (by rw [heq]; exact hv)
          exact hm
        next => exact hbelow
    next => exact hbelow

/-- A plain read gives what a cluster finds. -/
theorem State.plainRead_bytes {clus p n : Nat} {h h2 : Hint} (hp : p % 64 + n ≤ 64) {bs : List Byte}
    (hbs : (s.plainRead clus p n h h2).1 = .bytes bs) :
    bs.length = n ∧ ∀ j, j < n → bs.getD j 0 = hintAt s h clus (p + j) := by
  have hbytes := (State.below_spec hs clus (sectorOf p) (some h2)).2
  have hi (q : Nat) : q % 64 < 64 := Nat.mod_lt _ (by decide)
  unfold State.plainRead at hbs
  dsimp only at hbs
  split at hbs
  next x hx =>
    have hxt := hs.sectors.l1Sector hx
    have hxq {q : Nat} (hq : sectorOf q = sectorOf p) :
        heldAt s clus q = x.heldByte (q % 64) ∧ owedAt s clus q = x.owedByte (q % 64) := by
      unfold heldAt owedAt
      rw [hq, hx]
      exact ⟨rfl, rfl⟩
    split at hbs
    next hbyp =>
      subst hbyp
      split at hbs
      next c t heq =>
        cases hbs
        refine cut_spec hp (length_overlay ..) (f := hintAt s .byp clus) (fun q hq _ _ => ?_)
        rw [getD_overlay _ _ _ (hi q), hintAt_byp, (hxq hq).2, Sector.owedByte]
        split
        · rfl
        · exact (hbytes c (congrArg Prod.fst heq)).2 q hq
      next hno => exact (hno bs _ (Prod.ext hbs rfl)).elim
    next hbyp =>
      simp only [hintAt_of_ne s hbyp]
      split at hbs
      · cases hbs
      · split at hbs
        next hheld =>
          cases hbs
          refine cut_spec hp ((Sector.tidy_iff x).mp hxt).1 (f := seenAt s clus) (fun q hq hlo hhi => ?_)
          have hv : laneIn x.valid (q % 64) = true := by
            obtain hfull | ⟨-, hholds⟩ := hheld
            · rw [hfull, laneIn_fullMask64 (hi q)]
            · have hlane := congrArg (fun m => laneIn m (q % 64)) (eq_of_beq hholds)
              have hin : laneIn (byteMask (p % 64) n) (q % 64) = true := by
                rw [laneIn_byteMask _ _ (hi q)]
                simp only [sectorOf] at hq
                simp only [Bool.and_eq_true, decide_eq_true_eq]
                omega
              simp only [laneIn_and, hin, Bool.and_true] at hlane
              exact hlane
          rw [seenAt_eq, (hxq hq).1, Sector.heldByte, if_pos hv]
          rfl
        next =>
          split at hbs
          next c t heq =>
            cases hbs
            refine cut_spec hp (length_overlay ..) (f := seenAt s clus) (fun q hq _ _ => ?_)
            have hfill := Sector.bytes_of_held (Sector.heldByte_fill x c (hi q))
            rw [(hbytes c (congrArg Prod.fst heq)).2 q hq] at hfill
            rw [seenAt_eq, (hxq hq).1]
            exact hfill
          next hno => exact (hno bs _ (Prod.ext hbs rfl)).elim
  next hx =>
    have hfound {c : List Byte} (hc : (s.below (sectorOf p) (some h2)).1 = .bytes c) :
        ((c.drop (p % 64)).take n).length = n ∧ ∀ j, j < n → ((c.drop (p % 64)).take n).getD j 0 = hintAt s h clus (p + j) := by
      refine cut_spec hp (hbytes c hc).1 (f := hintAt s h clus) (fun q hq _ _ => ?_)
      rw [(hbytes c hc).2 q hq]
      unfold hintAt seenAt
      rw [hq, hx]
      simp
    split at hbs
    next c t heq =>
      split at hbs
      · cases hbs
        exact hfound (congrArg Prod.fst heq)
      · split at hbs
        all_goals
          cases hbs
          exact hfound (congrArg Prod.fst heq)
    next hno => exact (hno bs _ (Prod.ext hbs rfl)).elim

end

end Sys2Proof.Machine
end
section
/-! SUPPORT. Plain stores of a cluster: the bytes they store, and those they leave (12 R249, R253). -/

namespace Sys2Proof.Machine

open Sys2Proof.Claims

/-- The masked bytes of a sector, by their places. -/
def secBytes (sec : Nat) (bs : List Byte) (m : Word) (q : Nat) : Option Byte :=
  if sectorOf q = sec then maskedByte bs m (q % 64) else none

section
variable {s : State} (hs : s.Sound)
include hs

omit hs in
/-- Bytes that have reached the level beneath, where the L1 holds none of their sector. -/
theorem Lowered.store_miss {t : State} {clus sec : Nat} {bs : List Byte} {m : Word} (hl : Lowered sec (maskedByte bs m) s t)
    (hx : s.l1Sector clus sec = none) : Access clus (sec / 8) (secBytes sec bs m) s t := by
  have hnone {q : Nat} (hq : sectorOf q = sec) : heldAt s clus q = none ∧ owedAt s clus q = none := by
    unfold heldAt owedAt
    rw [hq, hx]
    exact ⟨rfl, rfl⟩
  have hkept {q : Nat} (hq : secBytes sec bs m q = none) (hc : isLocal q = true ∨ s.hasRoom (sec / 8)) :
      belowAt t q = belowAt s q := by
    rw [hl.below q hc]
    unfold secBytes at hq
    split
    next hsec => rw [if_pos hsec] at hq; rw [hq]; rfl
    next => rfl
  refine ⟨⟨fun q hq hc => .inl ?_, fun q hq hc => ?_, fun q v hq hc => ?_, fun q _ => .inr (hl.owedAt_eq q), fun a ha => ?_,
    hl.poison, hl.host, hl.remotes, hl.moves⟩, hl.lines⟩
  · rw [seenAt_eq, seenAt_eq, hl.heldAt_eq, hkept hq hc]
  · rw [hintAt_byp, hintAt_byp, hl.owedAt_eq, hkept hq hc]
  · unfold secBytes at hq
    split at hq
    next hsec =>
      rw [seenAt_eq, hintAt_byp, hl.heldAt_eq, hl.owedAt_eq, (hnone hsec).1, (hnone hsec).2, hl.below q hc, if_pos hsec, hq]
      exact ⟨rfl, rfl⟩
    next => cases hq
  · refine .inl ((hl.mem a).resolve_right (fun h => ?_))
    rw [secBytes, if_pos h.1, h.2] at ha
    cases ha

/-- Bytes that have reached the level beneath, and then a copy in the L1. -/
theorem Lowered.store_hit {t : State} {clus sec : Nat} {bs : List Byte} {m : Word} {x : Sector}
    (hl : Lowered sec (maskedByte bs m) s t) (hx : s.l1Sector clus sec = some x) :
    Access clus (sec / 8) (secBytes sec bs m) s (t.setL1 clus sec (some (x.pass bs m))) := by
  have hrise : Sparse.rising 0 t.clusters = true := by rw [hl.clusters]; exact hs.sectors.rising
  have hi (q : Nat) : q % 64 < 64 := Nat.mod_lt _ (by decide)
  have hxq {q : Nat} (hq : sectorOf q = sec) : heldAt s clus q = x.heldByte (q % 64) ∧ owedAt s clus q = x.owedByte (q % 64) := by
    unfold heldAt owedAt
    rw [hq, hx]
    exact ⟨rfl, rfl⟩
  have hheld (q : Nat) : heldAt (t.setL1 clus sec (some (x.pass bs m))) clus q = (secBytes sec bs m q).or (heldAt s clus q) := by
    rw [heldAt_setL1 hrise, hl.heldAt_eq, secBytes]
    split
    next hq => rw [Sector.heldByte_pass _ _ _ (hi q), (hxq hq).1]
    next => rfl
  have howed (q : Nat) : owedAt (t.setL1 clus sec (some (x.pass bs m))) clus q
      = if (secBytes sec bs m q).isSome then none else owedAt s clus q := by
    rw [owedAt_setL1 hrise, hl.owedAt_eq, secBytes]
    split
    next hq =>
      rw [Sector.owedByte_pass _ _ _ (hi q), (hxq hq).2, maskedByte]
      split <;> rfl
    next => rfl
  have hbelow {q : Nat} (hc : isLocal q = true ∨ s.hasRoom (sec / 8)) :
      belowAt (t.setL1 clus sec (some (x.pass bs m))) q = (secBytes sec bs m q).getD (belowAt s q) := by
    rw [belowAt_setL1, hl.below q hc, secBytes]
    split <;> rfl
  refine ⟨⟨fun q hq hc => .inl ?_, fun q hq hc => ?_, fun q v hq hc => ?_, fun q hq => ?_, fun a ha => ?_, hl.poison, hl.host,
    hl.remotes, hl.moves⟩, fun hr => (hl.lines hr).trans (.of_lines rfl)⟩
  · rw [seenAt_eq, seenAt_eq, hheld, hbelow hc, hq]
    rfl
  · rw [hintAt_byp, hintAt_byp, howed, hbelow hc, hq]
    rfl
  · rw [seenAt_eq, hintAt_byp, hheld, howed, hbelow hc, hq]
    exact ⟨rfl, rfl⟩
  · rw [howed, hq]
    exact .inr rfl
  · refine .inl ((hl.mem a).resolve_right (fun h => ?_))
    rw [secBytes, if_pos h.1, h.2] at ha
    cases ha

/-- A write that is performed beneath the L1 (12 R249). -/
theorem State.writeThrough_access (clus sec : Nat) {bs : List Byte} (hlen : bs.length = 64) (m : Word) (h : Option Hint)
    (whole : Bool) : Access clus (sec / 8) (secBytes sec bs m) s (s.writeThrough clus sec bs m h whole) := by
  have hl := State.writeBelow_lowered hs (sec := sec) hlen m h whole
  unfold State.writeThrough
  dsimp only
  rw [hl.l1Sector]
  split
  next x hx => exact hl.store_hit hs hx
  next hx => exact hl.store_miss hx

theorem State.writeThrough_sound (clus sec : Nat) {bs : List Byte} (hlen : bs.length = 64) (m : Word) (h : Option Hint)
    (whole : Bool) : (s.writeThrough clus sec bs m h whole).Sound :=
  (State.writeThrough_access hs clus sec hlen m h whole).stored.sound hs (State.writeThrough_tended ..)

theorem State.settled_writeThrough (clus sec : Nat) {bs : List Byte} (hlen : bs.length = 64) (m : Word) (h : Option Hint)
    (whole : Bool) (line : Nat) :
    (s.writeThrough clus sec bs m h whole).settled clus line = s.settled clus line := by
  have hl := State.writeBelow_lowered hs (sec := sec) hlen m h whole
  have hset : (s.writeBelow sec bs m h whole).settled clus line = s.settled clus line := by
    simp only [State.settled, State.cluster, hl.clusters]
  have hsound : (s.writeBelow sec bs m h whole).Sound := hs.of_tended (State.writeBelow_tended ..) hl.moves
  unfold State.writeThrough
  dsimp only
  split
  · rw [State.settled_setL1 hsound, hset]
  · exact hset

theorem State.writeThrough_through (clus sec : Nat) {bs : List Byte} (hlen : bs.length = 64) (m : Word) (h : Option Hint)
    (whole : Bool) : Through clus (sec / 8) (secBytes sec bs m) s (s.writeThrough clus sec bs m h whole) :=
  .of_access (State.writeThrough_access hs clus sec hlen m h whole)
    (fun hset => (State.settled_writeThrough hs clus sec hlen m h whole _).trans hset)

omit hs in
theorem State.noteL2_through (clus sec : Nat) (h : Option Hint) : Through clus (sec / 8) (fun _ => none) s (s.noteL2 sec h) := by
  refine .of_access (State.noteL2_access ..) (fun hset => ?_)
  unfold State.settled State.cluster at *
  rwa [(State.noteL2_onlyPackage ..).clusters]

theorem State.noteL2_sound (sec : Nat) (h : Option Hint) : (s.noteL2 sec h).Sound :=
  hs.of_tended (State.noteL2_tended ..) (by rw [(State.noteL2_onlyPackage ..).migrations])

/-- Bytes are written into a sector of the L1: `y` is what it held, perhaps filled. -/
theorem Stored.write {clus sec : Nat} {bs : List Byte} {m : Word} {whole : Bool} {room : Prop} {y : Sector}
    (howed : ∀ q, sectorOf q = sec → y.owedByte (q % 64) = owedAt s clus q)
    (hheld : ∀ q, sectorOf q = sec → (y.heldByte (q % 64)).getD (belowAt s q) = seenAt s clus q) :
    Stored clus (secBytes sec bs m) room s (s.setL1 clus sec (some (y.write bs m whole))) := by
  have hi (q : Nat) : q % 64 < 64 := Nat.mod_lt _ (by decide)
  have hw {q : Nat} (hq : sectorOf q = sec) : secBytes sec bs m q = maskedByte bs m (q % 64) := if_pos hq
  refine Stored.setL1 hs clus sec (fun q hq => if_neg hq) (fun q hq hn _ => .inl ?_) (fun q hq hn _ => ?_) (fun q v hq => ?_)
    (fun q hq hn => .inr ?_)
  · rw [Sector.heldByte_write _ _ _ (hi q), ← hw hq, hn, Option.none_or, hheld q hq]
  · rw [Sector.owedByte_write _ _ _ (hi q), ← hw hq, hn, Option.none_or, howed q hq, hintAt_byp]
  · have hsec : sectorOf q = sec := by
      by_contra hne
      rw [secBytes, if_neg hne] at hq
      cases hq
    rw [Sector.heldByte_write _ _ _ (hi q), Sector.owedByte_write _ _ _ (hi q), ← hw hsec, hq]
    exact ⟨rfl, rfl⟩
  · rw [Sector.owedByte_write _ _ _ (hi q), ← hw hq, hn, Option.none_or, howed q hq]

theorem State.storeRoom_through {clus sec : Nat} {h : Hint} {t : State} (ht : s.storeRoom clus sec h = some t) :
    Through clus (sec / 8) (fun _ => none) s t := by
  unfold State.storeRoom at ht
  split at ht
  · cases ht
  · split at ht
    · cases ht
      exact State.noteLine_through hs ..
    · exact (State.makeRoom_through hs ht).1

/-- A plain store stores its masked bytes (12 R249, R253). -/
theorem State.plainWrite_through (clus sec : Nat) {bs : List Byte} (hlen : bs.length = 64) (m : Word) (h h2 : Hint)
    (whole : Bool) : Through clus (sec / 8) (secBytes sec bs m) s (s.plainWrite clus sec bs m h h2 whole) := by
  unfold State.plainWrite
  split
  next =>
    have hw := State.writeThrough_through hs clus sec hlen m (some h2) whole
    exact (hw.trans (State.noteLine_through (State.writeThrough_sound hs clus sec hlen m (some h2) whole) ..)).congr
      (fun q => rfl)
  next t ht =>
    have hroom := State.storeRoom_through hs ht
    have hts : t.Sound := hroom.stored.sound hs (State.storeRoom_tended ht)
    -- the sector as the L1 holds it, or a blank one
    have hold (q : Nat) (hq : sectorOf q = sec) :
        ((t.l1Sector clus sec).getD Sector.blank).owedByte (q % 64) = owedAt t clus q
          ∧ ((t.l1Sector clus sec).getD Sector.blank).heldByte (q % 64) = heldAt t clus q := by
      unfold owedAt heldAt
      rw [hq]
      cases t.l1Sector clus sec with
      | none => exact ⟨Sector.owedByte_blank _, Sector.heldByte_blank _⟩
      | some x => exact ⟨rfl, rfl⟩
    dsimp only
    split
    next hfill =>
      have hloc : isLocal (sectorBase sec) = true := by
        simp only [Bool.and_eq_true] at hfill
        exact hfill.1.1
      have hnote := State.noteL2_through (s := t) clus sec (some h2)
      have hns := State.noteL2_sound hts sec (some h2)
      have hpkg := State.noteL2_onlyPackage t sec (some h2)
      have hi (q : Nat) : q % 64 < 64 := Nat.mod_lt _ (by decide)
      have htidy : ((t.l1Sector clus sec).getD Sector.blank).tidy = true := by
        cases hx : t.l1Sector clus sec with
        | none => exact Sector.tidy_blank
        | some x => exact hts.sectors.l1Sector hx
      refine (hroom.served hnote).setLast hns sec (Stored.write hns (fun q hq => ?_) (fun q hq => ?_))
      · rw [Sector.owedByte_fill _ _ (hi q) htidy, (hold q hq).1, hpkg.owedAt]
      · have hread : (t.homeRead (sectorBase sec) 64).getD (q % 64) 0 = belowAt (t.noteL2 sec (some h2)) q := by
          subst hq
          rw [isLocal_sectorBase] at hloc
          have hget : (t.homeRead (sectorBase (sectorOf q)) 64).getD (q % 64) 0
              = t.homeByte (sectorBase (sectorOf q) + q % 64) := by simp [State.homeRead, hi]
          rw [hpkg.belowAt_of_isLocal hloc, belowAt_of_isLocal hts.unmoved hloc, hget, sectorBase_sectorOf, State.homeByte,
            hts.unmoved]
        rw [Sector.heldByte_fill _ _ (hi q), (hold q hq).2, seenAt_eq, hpkg.heldAt, hread]
        rfl
    next =>
      refine hroom.setLast hts sec (Stored.write hts (fun q hq => (hold q hq).1) (fun q hq => ?_))
      rw [(hold q hq).2, seenAt_eq]

theorem State.plainRead_sound (clus p n : Nat) (h h2 : Hint) : (s.plainRead clus p n h h2).2.Sound :=
  (State.plainRead_through hs clus p n h h2).stored.sound hs (State.plainRead_tended ..)
end

end Sys2Proof.Machine
end
section
/-! SUPPORT. Regions that were translated: every byte of an access lies in one, page by page (15 R322 to R326). -/

namespace Sys2Proof.Machine

open Sys2Proof.Claims

/-! ### Pages of a translation table (15 R319, R325) -/

/-- Cached translations map whole 64 KiB regions. -/
structure State.PagesWhole (s : State) : Prop where
  l1 : ∀ c ∈ s.cores, ∀ e ∈ c.2.tlb, e.size % 65536 = 0
  l2 : ∀ t ∈ s.l2tlb, ∀ e ∈ t.2, e.size % 65536 = 0

theorem State.pagesWhole_of_tidy {s : State} (h : s.tidy = true) : s.PagesWhole := by
  simp only [State.tidy, Bool.and_eq_true, List.all_eq_true, beq_iff_eq] at h
  obtain ⟨⟨-, hl1⟩, hl2⟩ := h
  exact ⟨fun c hc => (hl1 c hc).2, hl2⟩

theorem pageSize_mod (level : Nat) : pageSize level % 65536 = 0 := by
  rw [pageSize, Nat.pow_add]
  exact Nat.mul_mod_right ..

theorem mem_of_mem_tlbFill {t : List TlbEntry} {e x : TlbEntry} {full : Nat → Bool} {n : Nat} (h : x ∈ tlbFill t e full n) :
    x = e ∨ x ∈ t := by
  have hall {x : TlbEntry} (hx : x ∈ e :: t.filter (fun x => !(x.ctx == e.ctx && x.asid == e.asid && x.seg == e.seg
      && x.base == e.base && x.size == e.size))) : x = e ∨ x ∈ t :=
    (List.mem_cons.mp hx).imp id List.mem_of_mem_filter
  unfold tlbFill at h
  dsimp only at h
  split at h
  · exact hall (List.mem_of_mem_take h)
  · exact hall h

theorem Sparse.mem_get {β : Type} (d : β) (t : List (Nat × β)) (k : Nat) :
    Sparse.get d t k = d ∨ ∃ e ∈ t, Sparse.get d t k = e.2 := by
  induction t with
  | nil => exact .inl rfl
  | cons e t ih =>
    simp only [Sparse.get]
    split
    · exact .inr ⟨e, List.mem_cons_self .., rfl⟩
    · split
      · exact .inl rfl
      · exact ih.imp id (fun ⟨x, hx, h⟩ => ⟨x, List.mem_cons_of_mem _ hx, h⟩)

section
variable {s : State} (hs : s.PagesWhole)
include hs

theorem State.PagesWhole.core (c : CoreId) : ∀ e ∈ (s.core c).tlb, e.size % 65536 = 0 := by
  unfold State.core
  cases hc : Tab.get? s.cores c with
  | none => exact fun e he => absurd he List.not_mem_nil
  | some x => exact hs.l1 _ (Tab.get?_mem _ _ _ hc)

theorem State.PagesWhole.die (die : Nat) : ∀ e ∈ s.l2tlbOf die, e.size % 65536 = 0 := by
  unfold State.l2tlbOf
  obtain h | ⟨x, hx, h⟩ := Sparse.mem_get [] s.l2tlb die
  · rw [h]; exact fun e he => absurd he List.not_mem_nil
  · rw [h]; exact hs.l2 x hx

theorem State.PagesWhole.cached {a : Asker} {ctx : Nat} {seg : BitVec 8} {off : Nat} {k : Kind} {e : TlbEntry}
    (h : s.cached a ctx seg off k = some e) : e.size % 65536 = 0 := by
  unfold State.cached at h
  cases a with
  | core c =>
    obtain h | ⟨-, h⟩ := Option.or_eq_some_iff.mp h
    · exact hs.core c e (List.mem_of_find?_eq_some h)
    · exact hs.die _ e (List.mem_of_find?_eq_some h)
  | engine clus => exact hs.die _ e (List.mem_of_find?_eq_some h)
  | hub => cases h

theorem State.PagesWhole.fillL2 (die : Nat) {e : TlbEntry} (he : e.size % 65536 = 0) : (s.fillL2 die e).PagesWhole := by
  refine ⟨hs.l1, fun t ht x hx => ?_⟩
  obtain ht | ht := Sparse.mem_put _ _ _ _ _ ht
  · exact hs.l2 t ht x hx
  · rw [ht] at hx
    obtain rfl | hx := mem_of_mem_tlbFill hx
    · exact he
    · exact hs.die _ x hx

theorem State.PagesWhole.fillL1 (c : CoreId) {e : TlbEntry} (he : e.size % 65536 = 0) : (s.fillL1 c e).PagesWhole := by
  refine ⟨fun t ht x hx => ?_, hs.l2⟩
  obtain rfl | ht := Tab.mem_put _ _ _ _ ht
  · obtain rfl | hx := mem_of_mem_tlbFill hx
    · exact he
    · exact hs.core _ x hx
  · exact hs.l1 t ht x hx

theorem State.PagesWhole.fillTlb (a : Asker) {e : TlbEntry} (he : e.size % 65536 = 0) : (s.fillTlb a e).PagesWhole := by
  cases a with
  | core c => exact (hs.fillL2 _ he).fillL1 _ he
  | engine clus => exact hs.fillL2 _ he
  | hub => exact hs

theorem State.PagesWhole.of_tlbs {t : State} (h1 : t.cores = s.cores) (h2 : t.l2tlb = s.l2tlb) : t.PagesWhole :=
  ⟨h1 ▸ hs.l1, h2 ▸ hs.l2⟩

theorem State.PagesWhole.markLeaf (p : Nat) (w : BitVec 128) (write : Bool) : (s.markLeaf p w write).1.PagesWhole := by
  have h : (s.markLeaf p w write).1.cores = s.cores ∧ (s.markLeaf p w write).1.l2tlb = s.l2tlb := by
    rw [State.markLeaf]
    generalize w ||| _ ||| _ = w1
    by_cases h : w1 = w
    · simp [h]
    · simp only [h, if_false]; exact ⟨rfl, rfl⟩
  exact hs.of_tlbs h.1 h.2

theorem State.PagesWhole.lookup (a : Asker) (ctx : Nat) (seg : BitVec 8) (off : Nat) (k : Kind) :
    (s.lookup a ctx seg off k).2.PagesWhole := by
  unfold State.lookup
  split
  · exact hs
  · split
    · exact hs
    · exact hs
    · split
      · exact hs
      · exact (hs.markLeaf _ _ _).fillTlb a (pageSize_mod _)

end

/-! ### Places of pages -/

/-- A translation gives a region a place where a region begins. -/
def Xlat.whole (x : Xlat) : Prop := ∀ p h, x = .ok p h → p % 65536 = 0

theorem leafPlace_whole (w : BitVec 128) {size off : Nat} (k : Kind) (hsize : size % 65536 = 0) (hoff : off % 65536 = 0) :
    (leafPlace w size off k).whole := by
  have hin : off % size % 65536 = 0 := by
    rw [Nat.mod_mod_of_dvd _ (Nat.dvd_of_mod_eq_zero hsize)]
    exact hoff
  intro p h hx
  unfold leafPlace at hx
  dsimp only at hx
  split at hx
  · cases hx
  · cases hx
    rw [mkPlace]
    omega

theorem State.lookup_whole {s : State} (hs : s.PagesWhole) (a : Asker) (ctx : Nat) (seg : BitVec 8) {off : Nat} (k : Kind)
    (hoff : off % 65536 = 0) : (s.lookup a ctx seg off k).1.whole := by
  unfold State.lookup
  split
  next e he => exact leafPlace_whole _ k (hs.cached he) hoff
  next =>
    split
    · exact fun _ _ hx => by cases hx
    · exact fun _ _ hx => by cases hx
    · split
      · exact fun _ _ hx => by cases hx
      · exact leafPlace_whole _ k (pageSize_mod _) hoff

/-- What a translation of some runs gives: their regions in order, each at a place where a region begins. -/
theorem State.translateAll_regions {s : State} (hs : s.PagesWhole) (a : Asker) (ctx : Nat) (k : Kind) (xs : List Run) :
    (s.translateAll a ctx k xs).1.map (fun r => (r.seg, r.page)) = regionsOf xs
      ∧ (∀ r ∈ (s.translateAll a ctx k xs).1, r.res.whole) ∧ (s.translateAll a ctx k xs).2.PagesWhole := by
  unfold State.translateAll
  generalize regionsOf xs = ys
  have hfold (ys : List (BitVec 8 × Nat)) : ∀ acc : List Region × State, (∀ r ∈ acc.1, r.res.whole) → acc.2.PagesWhole →
      let out := ys.foldl (fun acc r =>
        let x := acc.2.lookup a ctx r.1 (r.2 * 65536) k
        (acc.1 ++ [{ seg := r.1, page := r.2, res := x.1, refused := x.2.refusedIn xs r.1 r.2 x.1 }], x.2)) acc
      out.1.map (fun r => (r.seg, r.page)) = acc.1.map (fun r => (r.seg, r.page)) ++ ys ∧ (∀ r ∈ out.1, r.res.whole)
        ∧ out.2.PagesWhole := by
    induction ys with
    | nil => exact fun acc h1 h2 => ⟨(List.append_nil _).symm, h1, h2⟩
    | cons y ys ih =>
      intro acc h1 h2
      have hw := State.lookup_whole h2 a ctx y.1 k (Nat.mul_mod_left y.2 65536)
      obtain ⟨hm, hr, hp⟩ := ih (acc.1 ++ [{ seg := y.1, page := y.2, res := _, refused := _ }], _) (fun r hr => by
        obtain hr | hr := List.mem_append.mp hr
        · exact h1 r hr
        · rw [List.mem_singleton.mp hr]; exact hw) (h2.lookup a ctx y.1 (y.2 * 65536) k)
      refine ⟨hm.trans ?_, hr, hp⟩
      simp
  obtain ⟨hm, hr, hp⟩ := hfold ys ([], s) (fun r hr => absurd hr List.not_mem_nil) hs
  exact ⟨hm, hr, hp⟩

/-! ### Regions of accesses (15 R326) -/

theorem mem_insertBy {α : Type} {le : α → α → Bool} {x y : α} {xs : List α} : y ∈ insertBy le x xs ↔ y = x ∨ y ∈ xs := by
  induction xs with
  | nil => simp [insertBy]
  | cons z zs ih =>
    unfold insertBy
    split
    · simp
    · simp only [List.mem_cons, ih]
      tauto

theorem mem_sortNats {x : Nat} {xs : List Nat} : x ∈ sortNats xs ↔ x ∈ xs := by
  unfold sortNats
  induction xs with
  | nil => simp [sortBy]
  | cons y ys ih => rw [sortBy, mem_insertBy, ih, List.mem_cons]

/-- The page of every byte of a run is among the regions. -/
theorem mem_regionsOf {xs : List Run} {x : Run} (hx : x ∈ xs) {j : Nat} (hj : j < x.2.2) :
    (x.1, (x.2.1 + j) % 2 ^ 64 / 65536) ∈ regionsOf xs := by
  obtain ⟨seg, off, n⟩ := x
  dsimp only at hj ⊢
  have hblock : (seg, (off + j) % 2 ^ 64 / 65536) ∈ blocksOf 16 (seg, off, n) := by
    unfold blocksOf
    rw [if_neg (by dsimp only; omega)]
    refine List.mem_map.mpr ⟨(off + j) / 65536 - off / 65536, List.mem_range.mpr ?_, Prod.ext rfl ?_⟩
    · dsimp only; omega
    · dsimp only; omega
  unfold regionsOf inOrder
  refine List.mem_map.mpr ⟨seg.toNat * 2 ^ 64 + (off + j) % 2 ^ 64 / 65536, List.mem_dedup.mpr (mem_sortNats.mpr
    (List.mem_map.mpr ⟨_, List.mem_flatMap.mpr ⟨_, hx, hblock⟩, rfl⟩)), Prod.ext ?_ ?_⟩
  · refine BitVec.eq_of_toNat_eq ?_
    have := seg.isLt
    have hpage : (off + j) % 2 ^ 64 / 65536 < 2 ^ 64 := by omega
    generalize (off + j) % 2 ^ 64 / 65536 = page at hpage
    rw [BitVec.toNat_ofNat]
    dsimp only
    omega
  · dsimp only; omega

/-- Every byte of an access outside scratch lies in a translated region, and the places of one sector follow one another. -/
structure Mapped (rs : List Region) (a : LaneAcc) : Prop where
  page : ∀ j, j < a.n → ∃ p, p % 65536 = 0 ∧ ∀ o, o / 65536 = (a.off + j) % 2 ^ 64 / 65536 → placeIn rs a.seg o = p + o % 65536

theorem placeIn_of_region {rs : List Region} (hgood : ∀ r ∈ rs, r.good) (hwhole : ∀ r ∈ rs, r.res.whole) {seg : BitVec 8}
    {page : Nat} (hmem : (seg, page) ∈ rs.map (fun r => (r.seg, r.page))) :
    ∃ p, p % 65536 = 0 ∧ ∀ o, o / 65536 = page → placeIn rs seg o = p + o % 65536 := by
  obtain ⟨r, hr, hreq⟩ := List.mem_map.mp hmem
  have hsome : (rs.find? (fun r => r.seg == seg && r.page == page)).isSome = true := by
    rw [List.find?_isSome]
    refine ⟨r, hr, ?_⟩
    obtain ⟨rfl, rfl⟩ := Prod.mk.inj hreq
    simp
  obtain ⟨x, hx⟩ := Option.isSome_iff_exists.mp hsome
  have hxm := List.mem_of_find?_eq_some hx
  obtain ⟨p, h, hres, -⟩ := hgood x hxm
  refine ⟨p, hwhole x hxm p h hres, fun o ho => ?_⟩
  subst ho
  unfold placeIn
  rw [hx]
  obtain ⟨xs, xp, xr, xf⟩ := x
  dsimp only at hres
  rw [hres]

/-- The regions of a probe that lets its word go on map the accesses of virtual memory. -/
theorem State.probe_mapped {s t : State} (hs : s.PagesWhole) {cx : Cx} {k : Kind} {accs : List LaneAcc} {rs : List Region}
    (h : s.probe cx k accs = .ok rs t) {a : LaneAcc} (ha : a ∈ accs) (hseg : a.seg.toNat < 0xFC) : Mapped rs a := by
  obtain ⟨rfl, -, hgood⟩ := State.probe_ok h
  obtain ⟨hmap, hwhole, -⟩ := State.translateAll_regions hs (.core cx.g.core) cx.ctx k (accRuns accs)
  refine ⟨fun j hj => placeIn_of_region hgood hwhole ?_⟩
  rw [hmap]
  exact mem_regionsOf (x := (a.seg, a.off, a.n)) (List.mem_map.mpr ⟨a, List.mem_filter.mpr ⟨ha, by simpa using hseg⟩, rfl⟩) hj

end Sys2Proof.Machine
end
section
/-! SUPPORT. The sector pieces of an access, and the bytes of a lane put together again (05 R103, R105). -/

namespace Sys2Proof.Machine

open Sys2Proof.Claims

/-! ### Pieces of bytes -/

/-- The pieces of some bytes follow one another. -/
theorem pieces_addrs : ∀ (f p : Nat) (bs : List Byte), bs.length < f →
    (pieces f p bs).flatMap (fun x => List.range' x.1 x.2.length) = List.range' p bs.length
  | 0, _, _, h => absurd h (Nat.not_lt_zero _)
  | _ + 1, _, [], _ => rfl
  | f + 1, p, b :: bs, h => by
    have ih := pieces_addrs f (p + (64 - p % 64)) ((b :: bs).drop (64 - p % 64)) (by
      simp only [List.length_drop, List.length_cons] at h ⊢
      omega)
    simp only [pieces, List.flatMap_cons, ih]
    by_cases hlen : 64 - p % 64 ≤ (b :: bs).length
    · rw [List.length_take_of_le hlen, List.length_drop, List.range'_append_1]
      congr 1
      omega
    · rw [List.take_of_length_le (by omega), List.drop_of_length_le (by omega)]
      simp

/-- Every piece lies in one sector. -/
theorem pieces_within : ∀ (f p : Nat) (bs : List Byte), ∀ x ∈ pieces f p bs, x.1 % 64 + x.2.length ≤ 64
  | 0, _, _, _, h => absurd h List.not_mem_nil
  | _ + 1, _, [], _, h => absurd h List.not_mem_nil
  | f + 1, p, b :: bs, x, h => by
    obtain rfl | h := List.mem_cons.mp h
    · simp only [List.length_take]
      omega
    · exact pieces_within f _ _ x h

/-! ### The pieces of an access -/

section
variable {rs : List Region} {a : LaneAcc}

theorem range'_mod {x n : Nat} (h : x % 64 + n ≤ 64) :
    List.range' (x % 2 ^ 64) n = (List.range' x n).map (fun o => o % 2 ^ 64) := by
  rw [List.range'_eq_map_range, List.range'_eq_map_range, List.map_map]
  refine List.map_congr_left (fun i hi => ?_)
  have := List.mem_range.mp hi
  simp only [Function.comp_apply]
  omega

/-- The pieces of an access name its offsets one after another. -/
theorem splitAcc_addrs (rs : List Region) (a : LaneAcc) :
    (splitAcc rs a).flatMap (fun q => List.range' q.off q.n) = (List.range' a.off a.n).map (fun o => o % 2 ^ 64) := by
  have h := pieces_addrs (a.n + 1) a.off (List.replicate a.n 0) (by simp)
  rw [List.length_replicate] at h
  rw [← h, splitAcc, List.flatMap_map, List.map_flatMap]
  exact List.flatMap_congr (fun x hx => range'_mod (pieces_within _ _ _ x hx))

/-- Where a piece of an access lies. -/
theorem mem_splitAcc {q : Piece} (h : q ∈ splitAcc rs a) :
    q.lane = a.lane ∧ q.scratch = (a.seg == 0xFE) ∧ q.place = placeIn rs a.seg q.off ∧ q.off % 64 + q.n ≤ 64 := by
  obtain ⟨x, hx, rfl⟩ := List.mem_map.mp h
  have := pieces_within _ _ _ x hx
  exact ⟨rfl, rfl, rfl, by dsimp only; omega⟩

/-- An offset of a piece is one of its access. -/
theorem splitAcc_off {q : Piece} (h : q ∈ splitAcc rs a) {i : Nat} (hi : i < q.n) :
    ∃ j, j < a.n ∧ q.off + i = (a.off + j) % 2 ^ 64 := by
  have hmem : q.off + i ∈ (splitAcc rs a).flatMap (fun q => List.range' q.off q.n) :=
    List.mem_flatMap.mpr ⟨q, h, List.mem_range'_1.mpr ⟨by omega, by omega⟩⟩
  rw [splitAcc_addrs] at hmem
  obtain ⟨o, ho, he⟩ := List.mem_map.mp hmem
  obtain ⟨h1, h2⟩ := List.mem_range'_1.mp ho
  exact ⟨o - a.off, by omega, by rw [← he]; congr 1; omega⟩

/-- A piece of an access that was translated lies in one sector, and its places follow one another. -/
theorem Mapped.piece (hm : Mapped rs a) {q : Piece} (h : q ∈ splitAcc rs a) :
    q.place % 64 + q.n ≤ 64 ∧ ∀ i, i < q.n → placeIn rs a.seg (q.off + i) = q.place + i := by
  obtain ⟨-, -, hplace, hsec⟩ := mem_splitAcc h
  by_cases hn : q.n = 0
  · exact ⟨by omega, fun i hi => absurd hi (by omega)⟩
  · obtain ⟨j, hj, hoff⟩ := splitAcc_off h (Nat.pos_of_ne_zero hn)
    obtain ⟨p, hp, hall⟩ := hm.page j hj
    rw [← hoff, Nat.add_zero] at hall
    have h0 := hall q.off rfl
    rw [hplace, h0]
    exact ⟨by omega, fun i hi => by rw [hall (q.off + i) (by omega)]; omega⟩
end

/-! ### Bytes put together -/

/-- Of parts that name some addresses one after another, the bytes are those of the addresses. -/
theorem getD_flatMap_of_addrs {α : Type} (zs : List α) (start len : α → Nat) (bytes : α → List Byte) (addrs : List Nat)
    (hlen : ∀ z ∈ zs, (bytes z).length = len z) (haddr : zs.flatMap (fun z => List.range' (start z) (len z)) = addrs) :
    (zs.flatMap bytes).length = addrs.length ∧ ∀ j (hj : j < addrs.length), ∃ z ∈ zs, ∃ i, i < len z ∧ start z + i = addrs[j]
      ∧ (zs.flatMap bytes).getD j 0 = (bytes z).getD i 0 := by
  have hfst : (zs.flatMap (fun z => (List.range' (start z) (len z)).zip (bytes z))).map Prod.fst = addrs := by
    rw [List.map_flatMap, ← haddr]
    exact List.flatMap_congr (fun z hz => List.map_fst_zip (by simp [hlen z hz]))
  have hsnd : (zs.flatMap (fun z => (List.range' (start z) (len z)).zip (bytes z))).map Prod.snd = zs.flatMap bytes := by
    rw [List.map_flatMap]
    exact List.flatMap_congr (fun z hz => List.map_snd_zip (by simp [hlen z hz]))
  generalize hall : zs.flatMap (fun z => (List.range' (start z) (len z)).zip (bytes z)) = all at hfst hsnd
  subst hfst
  rw [← hsnd]
  refine ⟨by simp, fun j hj => ?_⟩
  rw [List.length_map] at hj
  obtain ⟨e, he⟩ : ∃ e, all[j] = e := ⟨_, rfl⟩
  have hmem : e ∈ all := he ▸ List.getElem_mem hj
  rw [← hall] at hmem
  obtain ⟨z, hz, hin⟩ := List.mem_flatMap.mp hmem
  obtain ⟨i, hi, hpair⟩ := List.mem_iff_getElem.mp hin
  rw [List.length_zip, List.length_range', hlen z hz, min_self] at hi
  rw [List.getElem_zip, List.getElem_range'_1] at hpair
  refine ⟨z, hz, i, hi, ?_, ?_⟩
  · rw [List.getElem_map, he, ← hpair]
  · simp [List.getD_eq_getElem?_getD, hj, he, ← hpair, hlen z hz, hi]

/-- The bytes that a read gave. -/
def Got.got : Got → List Byte
  | .bytes b => b
  | _ => []

/-- A lane's bytes, where each of its pieces gave some. -/
theorem laneBytes_of_got {xs : List (Piece × Got)} {l : Nat} (h : ∀ x ∈ xs, x.1.lane = l → ∃ b, x.2 = .bytes b) :
    laneBytes xs l = some ((xs.filter (fun x => x.1.lane == l)).flatMap (fun x => x.2.got)) := by
  have hfold (ys : List (Piece × Got)) (hy : ∀ x ∈ ys, ∃ b, x.2 = .bytes b) : ∀ bs,
      ys.foldl (fun acc x => match acc, x.2 with
        | some bs, .bytes b => some (bs ++ b)
        | _, _ => none) (some bs) = some (bs ++ ys.flatMap (fun x => x.2.got)) := by
    induction ys with
    | nil => exact fun bs => by simp
    | cons y ys ih =>
      intro bs
      obtain ⟨b, hb⟩ := hy y (List.mem_cons_self ..)
      rw [List.foldl_cons, hb]
      dsimp only
      rw [ih (fun x hx => hy x (List.mem_cons_of_mem _ hx))]
      simp [hb, Got.got]
  unfold laneBytes
  refine (hfold _ (fun x hx => ?_) []).trans (by simp)
  obtain ⟨hx, hl⟩ := List.mem_filter.mp hx
  exact h x hx (by simpa using hl)

/-- The pieces of one lane, of accesses of different lanes. -/
theorem filter_lane_splitAcc {rs : List Region} {accs : List LaneAcc} (hnd : (accs.map (·.lane)).Nodup) {a : LaneAcc}
    (ha : a ∈ accs) : (accs.flatMap (splitAcc rs)).filter (fun q => q.lane == a.lane) = splitAcc rs a := by
  have hself (b : LaneAcc) (hb : b.lane = a.lane) : (splitAcc rs b).filter (fun q => q.lane == a.lane) = splitAcc rs b :=
    List.filter_eq_self.mpr (fun q hq => by simp [(mem_splitAcc hq).1, hb])
  have hother (b : LaneAcc) (hb : b.lane ≠ a.lane) : (splitAcc rs b).filter (fun q => q.lane == a.lane) = [] :=
    List.filter_eq_nil_iff.mpr (fun q hq => by simp [(mem_splitAcc hq).1, hb])
  have hnone (bs : List LaneAcc) (hb : ∀ b ∈ bs, b.lane ≠ a.lane) :
      (bs.flatMap (splitAcc rs)).filter (fun q => q.lane == a.lane) = [] := by
    rw [List.filter_flatMap, List.flatMap_eq_nil_iff]
    exact fun b hmem => hother b (hb b hmem)
  induction accs with
  | nil => cases ha
  | cons b bs ih =>
    rw [List.map_cons, List.nodup_cons] at hnd
    rw [List.flatMap_cons, List.filter_append]
    obtain rfl | ha := List.mem_cons.mp ha
    · rw [hself a rfl, hnone bs (fun b hb he => hnd.1 (List.mem_map.mpr ⟨b, hb, he⟩)), List.append_nil]
    · rw [hother b (fun he => hnd.1 (he ▸ List.mem_map_of_mem ha)), List.nil_append, ih hnd.2 ha]

/-- A lane's bytes are those of its access, byte by byte. -/
theorem laneBytes_of_pieces {rs : List Region} {accs : List LaneAcc} {xs : List (Piece × Got)}
    (hxs : xs.map Prod.fst = accs.flatMap (splitAcc rs)) (hnd : (accs.map (·.lane)).Nodup) {a : LaneAcc} (ha : a ∈ accs)
    (hall : ∀ x ∈ xs, ∃ b, x.2 = .bytes b ∧ b.length = x.1.n) :
    ∃ bs, laneBytes xs a.lane = some bs ∧ bs.length = a.n ∧ ∀ j, j < a.n → ∃ x ∈ xs, x.1 ∈ splitAcc rs a
      ∧ ∃ i, i < x.1.n ∧ x.1.off + i = (a.off + j) % 2 ^ 64 ∧ bs.getD j 0 = x.2.got.getD i 0 := by
  have hys : (xs.filter (fun x => x.1.lane == a.lane)).map Prod.fst = splitAcc rs a := by
    rw [← filter_lane_splitAcc hnd ha, ← hxs, List.filter_map]
    rfl
  have haddr : (xs.filter (fun x => x.1.lane == a.lane)).flatMap (fun x => List.range' x.1.off x.1.n)
      = (List.range' a.off a.n).map (fun o => o % 2 ^ 64) := by
    rw [← splitAcc_addrs rs a, ← hys, List.flatMap_map]
  obtain ⟨hlen, hbytes⟩ := getD_flatMap_of_addrs (xs.filter (fun x => x.1.lane == a.lane)) (fun x => x.1.off) (fun x => x.1.n)
    (fun x => x.2.got) _ (fun x hx => by
      obtain ⟨b, hb, hl⟩ := hall x (List.mem_of_mem_filter hx)
      rw [hb]
      exact hl) haddr
  simp only [List.length_map, List.length_range', List.getElem_map, List.getElem_range'_1] at hlen hbytes
  refine ⟨_, laneBytes_of_got (fun x hx _ => ?_), hlen, fun j hj => ?_⟩
  · obtain ⟨b, hb, -⟩ := hall x hx
    exact ⟨b, hb⟩
  · obtain ⟨x, hx, i, hi, ho, hb⟩ := hbytes j hj
    exact ⟨x, List.mem_of_mem_filter hx, hys ▸ List.mem_map_of_mem hx, i, hi, ho, hb⟩

end Sys2Proof.Machine
end
section
/-! SUPPORT. The reads of a word: what they leave as it was, and the bytes that they give (05 R99, R103, R105, 12 R249). -/

namespace Sys2Proof.Machine

open Sys2Proof.Claims

/-! ### What reads leave of groups and teams -/

section
variable (s : State) (cx : Cx) (h : Hint) (q : Piece)

theorem State.wordRead_tended : Tended s (s.wordRead cx h q).2 := by
  have hread := (s.countL1_tended cx (sectorOf q.place) (byteMask (q.place % 64) q.n)).trans
    (State.plainRead_tended (s.countL1 cx (sectorOf q.place) (byteMask (q.place % 64) q.n)) cx.g.core.clus q.place q.n h
      (l2Hint h q.ret))
  unfold State.wordRead
  split <;> (next heq => rw [heq] at hread; exact hread)

theorem State.devRead_tended (p n : Nat) (h : Option Hint) : Tended s (s.devRead p n h).2 := by
  have hb := s.below_tended (sectorOf p) h
  unfold State.devRead
  split
  next heq => rw [heq] at hb; exact hb
  next => exact hb

theorem State.devWordRead_tended : Tended s (s.devWordRead cx h q).2 := by
  have hread := (s.wbL1_tended cx.g.core.clus (sectorOf q.place)).trans
    (State.devRead_tended (s.wbL1 cx.g.core.clus (sectorOf q.place)) q.place q.n (some (l2Hint h q.ret)))
  unfold State.devWordRead
  dsimp only
  split
  · exact s.wbL1_tended ..
  · split <;> (next heq => rw [heq] at hread; exact hread)

theorem State.sysWordRead_tended : Tended s (s.sysWordRead cx h q).2 := by
  have hwb := (s.wbL1_tended cx.g.core.clus (sectorOf q.place)).trans (State.wbL2_tended
    (s.wbL1 cx.g.core.clus (sectorOf q.place)) cx.ctx (sectorOf q.place) (storeWho cx [q] (sectorOf q.place)))
  unfold State.sysWordRead
  dsimp only
  split
  · exact s.devWordRead_tended cx h q
  · split
    · exact .refl s
    · split
      · exact hwb
      · split <;> exact hwb

theorem readerOf_tended (o : Order) (sc : Scope) : Tended s (readerOf cx o sc h s q).2 := by
  unfold readerOf
  split
  · split
    · exact s.devWordRead_tended cx h q
    · exact s.sysWordRead_tended cx h q
    · exact s.wordRead_tended cx h q
  · exact s.wordRead_tended cx h q

theorem State.askSector_tended (ctx sec : Nat) (p : Purpose) : Tended s (s.askSector ctx sec p) :=
  (State.sendRemote_onlySends ..).tended

theorem State.askFill_tended (sec : Nat) : Tended s (s.askFill cx sec) := by
  unfold State.askFill
  split
  · exact .refl s
  · exact State.askSector_tended ..

theorem State.waitFills_tended (secs : List Nat) : Tended s (s.waitFills cx secs) :=
  .foldl _ (fun t x => t.askFill_tended cx x) secs s
end

/-! ### Reads of pieces, one after another -/

section
variable (s : State) (cx : Cx) (rd : State → Piece → Got × State)

/-- One piece is read. -/
def State.readPiece (q : Piece) : Got × State :=
  if q.scratch then (.bytes (s.scratchRead (tidOf cx.gid) q.off q.n), s) else rd s q

theorem State.readPieces_cons (q : Piece) (qs : List Piece) :
    s.readPieces cx rd (q :: qs) = ((q, (s.readPiece cx rd q).1) :: ((s.readPiece cx rd q).2.readPieces cx rd qs).1,
      ((s.readPiece cx rd q).2.readPieces cx rd qs).2) := by
  have hfold (qs : List Piece) : ∀ (ys : List (Piece × Got)) (t : State), qs.foldl (fun acc q =>
      if q.scratch then (acc.1 ++ [(q, .bytes (acc.2.scratchRead (tidOf cx.gid) q.off q.n))], acc.2)
      else
        let r := rd acc.2 q
        (acc.1 ++ [(q, r.1)], r.2)) (ys, t) = (ys ++ (t.readPieces cx rd qs).1, (t.readPieces cx rd qs).2) := by
    induction qs with
    | nil => intro ys t; simp [State.readPieces]
    | cons q qs ih =>
      intro ys t
      unfold State.readPieces
      simp only [List.foldl_cons]
      split
      · rw [ih, ih ([] ++ _)]
        simp
      · rw [ih, ih ([] ++ _)]
        simp
  have hone := hfold qs [(q, (s.readPiece cx rd q).1)] (s.readPiece cx rd q).2
  refine Eq.trans ?_ hone
  unfold State.readPiece State.readPieces
  rw [List.foldl_cons]
  split <;> rfl

theorem State.readPieces_fst : ∀ (qs : List Piece) (s : State), (s.readPieces cx rd qs).1.map Prod.fst = qs
  | [], _ => rfl
  | q :: qs, s => by
    rw [State.readPieces_cons, List.map_cons, State.readPieces_fst qs]

theorem State.readPieces_tended (hrd : ∀ t q, Tended t (rd t q).2) : ∀ (qs : List Piece) (s : State),
    Tended s (s.readPieces cx rd qs).2
  | [], s => .refl s
  | q :: qs, s => by
    rw [State.readPieces_cons]
    refine .trans (t := (s.readPiece cx rd q).2) ?_ (State.readPieces_tended hrd qs _)
    unfold State.readPiece
    split
    · exact .refl s
    · exact hrd s q
end

/-! ### The bytes of reads -/

section
variable (m : List Host.Cell)
theorem Memory.length_readN (a n : Nat) : (Memory.readN m a n).length = n := by simp [Memory.readN]
theorem Memory.getD_readN (a : Nat) {n j : Nat} (hj : j < n) : (Memory.readN m a n).getD j 0 = Memory.read m (a + j) := by
  simp [Memory.readN, hj]
end

theorem State.scratchRead_spec (s : State) (cx : Cx) (o n : Nat) : (s.scratchRead (tidOf cx.gid) o n).length = n
    ∧ ∀ j, j < n → (s.scratchRead (tidOf cx.gid) o n).getD j 0 = scratchAt s cx (o + j) := by
  unfold State.scratchRead scratchAt
  cases s.team? (tidOf cx.gid) with
  | none => exact ⟨List.length_replicate, fun j hj => by simp [hj]⟩
  | some t => exact ⟨Memory.length_readN .., fun j hj => Memory.getD_readN _ _ hj⟩

theorem Tended.scratchAt {s t : State} (h : Tended s t) (cx : Cx) (a : Nat) : scratchAt t cx a = scratchAt s cx a := by
  simp only [Claims.scratchAt, h.team?]

/-- Accesses that store nothing: a byte found later is one found before, or as `.byp` finds it. -/
theorem Stored.hint {clus : Nat} {room : Prop} {s t : State} (h : Served clus room s t) (hi : Hint) {q : Nat}
    (hc : isLocal q = true ∨ room) :
    hintAt t hi clus q = hintAt s hi clus q ∨ hintAt t hi clus q = hintAt s .byp clus q := by
  by_cases hb : hi = .byp
  · subst hb
    exact .inl (h.byp q rfl hc)
  · rw [hintAt_of_ne t hb, hintAt_of_ne s hb]
    exact h.seen q rfl hc

theorem State.countL1_stored (s : State) (cx : Cx) (sec : Nat) (m : Word) (clus : Nat) (room : Prop) :
    Served clus room s (s.countL1 cx sec m) :=
  ⟨fun _ _ _ => .inl rfl, fun _ _ _ => rfl, fun _ _ h => (by cases h), fun _ _ => .inr rfl, fun _ _ => .inl rfl, fun _ h => h,
    fun _ => rfl, fun _ => rfl, rfl⟩

theorem State.countL1_through (s : State) (cx : Cx) (sec : Nat) (m : Word) (clus line : Nat) :
    Through clus line (fun _ => none) s (s.countL1 cx sec m) := ⟨State.countL1_stored .., fun _ => le_rfl⟩

theorem State.countL1_sound {s : State} (hs : s.Sound) (cx : Cx) (sec : Nat) (m : Word) : (s.countL1 cx sec m).Sound :=
  hs.of_tended (State.countL1_tended ..) rfl

section
variable {s : State} (hs : s.Sound) {cx : Cx}
include hs

theorem State.wordRead_through (h : Hint) (q : Piece) :
    Through cx.g.core.clus (sectorOf q.place / 8) (fun _ => none) s (s.wordRead cx h q).2 := by
  have hread := (State.countL1_through s cx (sectorOf q.place) (byteMask (q.place % 64) q.n) cx.g.core.clus
    (sectorOf q.place / 8)).served (State.plainRead_through (State.countL1_sound hs cx _ _) cx.g.core.clus q.place q.n h
      (l2Hint h q.ret))
  unfold State.wordRead
  split <;> (next heq => rw [heq] at hread; exact hread)

/-- A read that no fill answers gives what the cluster finds. -/
theorem State.wordRead_bytes (hfills : cx.p.fills = []) {h : Hint} {q : Piece} (hq : q.place % 64 + q.n ≤ 64) {b : List Byte}
    (hb : (s.wordRead cx h q).1 = .bytes b) :
    b.length = q.n ∧ ∀ i, i < q.n → b.getD i 0 = hintAt s h cx.g.core.clus (q.place + i) := by
  have hread (v : List Byte) := State.plainRead_bytes (State.countL1_sound hs cx (sectorOf q.place)
    (byteMask (q.place % 64) q.n)) (clus := cx.g.core.clus) (h := h) (h2 := l2Hint h q.ret) hq (bs := v)
  unfold State.wordRead at hb
  split at hb
  next heq =>
    cases hb
    exact hread b (congrArg Prod.fst heq)
  next => cases hb
  next =>
    simp only [fillAnswer, hfills, Tab.get?, List.find?_nil, Option.map_none] at hb
    cases hb
end

/-- The L2 takes at most two lines for one access, one of them for a line that leaves the L1. -/
theorem State.lineCost_le (s : State) (clus line : Nat) : s.lineCost clus line ≤ s.l2lines.length + 2 := by
  unfold State.lineCost State.lineUse
  split <;> split <;> omega

theorem State.length_le_lineCost (s : State) (clus line : Nat) : s.l2lines.length ≤ s.lineCost clus line := by
  unfold State.lineCost State.lineUse
  omega

/-- What one piece of a word's reads gives, told by what the state before the word's reads holds. -/
def pieceGives (s : State) (cx : Cx) (h : Hint) (room : Prop) (x : Piece × Got) : Prop :=
  ∀ b, x.2 = .bytes b → b.length = x.1.n ∧ ∀ i, i < x.1.n →
    if x.1.scratch then b.getD i 0 = scratchAt s cx (x.1.off + i)
    else isLocal (x.1.place + i) = true ∨ room → b.getD i 0 = hintAt s h cx.g.core.clus (x.1.place + i)
      ∨ b.getD i 0 = hintAt s .byp cx.g.core.clus (x.1.place + i)

/-- What holds of a later state's reads holds of an earlier one's, between which nothing was stored. -/
theorem pieceGives.of_served {s t : State} {cx : Cx} {h : Hint} {room room' : Prop} {x : Piece × Got}
    (hx : pieceGives t cx h room' x) (hst : Served cx.g.core.clus room s t) (ht : Tended s t) (hr : room → room') :
    pieceGives s cx h room x := by
  intro b hb
  obtain ⟨hlen, hall⟩ := hx b hb
  refine ⟨hlen, fun i hi => ?_⟩
  specialize hall i hi
  split
  next hsc =>
    rw [if_pos hsc, ht.scratchAt] at hall
    exact hall
  next hsc =>
    rw [if_neg hsc] at hall
    intro hc
    obtain hall | hall := hall (hc.imp id hr)
    · rw [hall]
      exact hst.hint h hc
    · exact .inr (hall.trans (hst.byp _ rfl hc))

/-- The reads of a word store nothing and give what memory holds. -/
theorem State.readPieces_gives {cx : Cx} (hfills : cx.p.fills = []) (h : Hint) : ∀ (qs : List Piece) {s : State}, s.Sound →
    (∀ q ∈ qs, q.scratch = false → q.place % 64 + q.n ≤ 64) →
    let out := s.readPieces cx (fun s q => s.wordRead cx h q) qs
    let room := s.l2lines.length + 2 * qs.length ≤ sliceLines
    Served cx.g.core.clus room s out.2 ∧ ∀ x ∈ out.1, pieceGives s cx h room x
  | [], s, _, _ => ⟨.refl .., fun _ hx => absurd hx List.not_mem_nil⟩
  | q :: qs, s, hs, hq => by
    have htend : Tended s (s.readPiece cx (fun s q => s.wordRead cx h q) q).2 := by
      unfold State.readPiece
      split
      · exact .refl s
      · exact s.wordRead_tended cx h q
    have hone : Through cx.g.core.clus (sectorOf q.place / 8) (fun _ => none) s
        (s.readPiece cx (fun s q => s.wordRead cx h q) q).2 := by
      unfold State.readPiece
      split
      · exact .refl ..
      · exact State.wordRead_through hs h q
    obtain ⟨hst, hgives⟩ := State.readPieces_gives hfills h qs (hone.stored.sound hs htend)
      (fun x hx => hq x (List.mem_cons_of_mem _ hx))
    have hcost := s.lineCost_le cx.g.core.clus (sectorOf q.place / 8)
    have hroom1 (hr : s.l2lines.length + 2 * (q :: qs).length ≤ sliceLines) :
        s.lineCost cx.g.core.clus (sectorOf q.place / 8) ≤ sliceLines := by
      rw [List.length_cons] at hr
      omega
    have hroom (hr : s.l2lines.length + 2 * (q :: qs).length ≤ sliceLines) :
        (s.readPiece cx (fun s q => s.wordRead cx h q) q).2.l2lines.length + 2 * qs.length ≤ sliceLines := by
      have h1 := hone.cost (hroom1 hr)
      have h2 := (s.readPiece cx (fun s q => s.wordRead cx h q) q).2.length_le_lineCost cx.g.core.clus (sectorOf q.place / 8)
      rw [List.length_cons] at hr
      omega
    rw [State.readPieces_cons]
    refine ⟨(hone.stored.mono hroom1).served hst hroom, fun x hx => ?_⟩
    obtain rfl | hx := List.mem_cons.mp hx
    · intro b hb
      unfold State.readPiece at hb
      dsimp only at hb ⊢
      by_cases hsc : q.scratch
      · rw [if_pos hsc] at hb
        cases hb
        obtain ⟨hlen, hbytes⟩ := s.scratchRead_spec cx q.off q.n
        exact ⟨hlen, fun i hi => by rw [if_pos hsc]; exact hbytes i hi⟩
      · rw [if_neg hsc] at hb
        obtain ⟨hlen, hbytes⟩ := State.wordRead_bytes hs hfills (hq q (List.mem_cons_self ..) (by simpa using hsc)) hb
        exact ⟨hlen, fun i hi => by rw [if_neg hsc]; exact fun _ => .inl (hbytes i hi)⟩
    · exact (hgives x hx).of_served (hone.stored.mono hroom1) htend hroom

end Sys2Proof.Machine
end
section
/-! SUPPORT. The machine after a word's translations, and what its reads give a lane (05 R99 to R102, R105, 15 R326). -/

namespace Sys2Proof.Machine

open Sys2Proof.Claims

/-! ### After the translations -/

section
variable (cx : Cx) (u : Uses) (m : Members)

theorem State.sectorsTidy_fetched {s : State} (h : s.tidy = true) : (s.fetched cx u m).SectorsTidy := by
  have hs := State.sectorsTidy_of_tidy h
  exact ⟨by rw [State.fetched_clusters]; exact hs.rising, by rw [State.fetched_clusters]; exact hs.l1,
    by rw [State.fetched_l2]; exact hs.l2⟩

theorem State.pagesWhole_fetched {s : State} (h : s.tidy = true) : (s.fetched cx u m).PagesWhole :=
  (State.pagesWhole_of_tidy h).of_tlbs (State.fetched_cores ..) (State.fetched_l2tlb ..)
end

section
variable {s t : State} {cx : Cx} {k : Kind} {accs : List LaneAcc} {rs : List Region} (h : s.probe cx k accs = .ok rs t)
include h

theorem State.probe_sectorsTidy (hs : s.SectorsTidy) : t.SectorsTidy := by
  obtain ⟨-, ht, -⟩ := State.probe_ok h
  have h1 := (State.translateAll_tended s (.core cx.g.core) cx.ctx k (accRuns accs)).sectors hs
  obtain rfl | rfl := ht
  · exact h1
  · unfold State.endAbort State.modGroup
    split
    · exact ⟨h1.rising, h1.l1, h1.l2⟩
    · exact h1

theorem State.probe_teams : t.teams = s.teams := by
  obtain ⟨-, ht, -⟩ := State.probe_ok h
  have h1 := (State.translateAll_tended s (.core cx.g.core) cx.ctx k (accRuns accs)).teams
  obtain rfl | rfl := ht
  · exact h1
  · unfold State.endAbort State.modGroup
    split
    · exact h1
    · exact h1
end

/-- The machine after a word's translations. -/
theorem Ready.probed {s t : State} {g : Guard} {u : Uses} {m : Members} {cx : Cx} {k : Kind} {accs : List LaneAcc}
    {rs : List Region} (hr : Ready s g u cx) (h : (s.fetched cx u m).probe (cx.fetched u m) k accs = .ok rs t) :
    t.SectorsTidy ∧ (∃ h1 p1, Midword cx t h1 p1) ∧ ∀ a ∈ accs, a.seg.toNat < 0xFC → Mapped rs a :=
  ⟨State.probe_sectorsTidy h (State.sectorsTidy_fetched cx u m hr.tidy), (hr.midword m).probe (cx1 := cx.fetched u m) rfl rfl h,
    fun _ ha hseg => State.probe_mapped (State.pagesWhole_fetched cx u m hr.tidy) h ha hseg⟩

/-- It is sound where no frame is redirected. -/
theorem State.SectorsTidy.sound {t : State} {cx : Cx} {h1 : Group} {p1 : Path} (hs : t.SectorsTidy) (hm : Midword cx t h1 p1)
    (hu : unmoved t) : t.Sound := ⟨hu, hs, hm.ok⟩

/-- An access that the first checks let pass is of scratch or of virtual memory. -/
theorem seg_of_earlyFault {cx : Cx} {z : Nat} {accs : List LaneAcc} (h : earlyFault cx z accs = none) {a : LaneAcc}
    (ha : a ∈ accs) : a.seg = 0xFE ∨ a.seg.toNat < 0xFC := by
  simp only [earlyFault, Option.or_eq_none_iff, segFault, Option.map_eq_none_iff, List.find?_eq_none] at h
  have hseg := h.1.1 a ha
  simp only [Bool.or_eq_true, beq_iff_eq, not_or] at hseg
  obtain ⟨⟨h1, h2⟩, h3⟩ := hseg
  have hlt := a.seg.isLt
  by_cases he : a.seg = 0xFE
  · exact .inl he
  · have (n : BitVec 8) (hn : a.seg ≠ n) : a.seg.toNat ≠ n.toNat := fun hc => hn (BitVec.eq_of_toNat_eq hc)
    have k1 : a.seg.toNat ≠ 252 := this _ h1
    have k2 : a.seg.toNat ≠ 255 := this _ h2
    have k3 : a.seg.toNat ≠ 253 := this _ h3
    have k4 : a.seg.toNat ≠ 254 := this _ he
    omega

/-! ### The bytes of a lane's access -/

theorem length_splitAcc_le (rs : List Region) (a : LaneAcc) : (splitAcc rs a).length ≤ a.n := by
  have hfuel (f : Nat) : ∀ (p : Nat) (bs : List Byte), (pieces f p bs).length ≤ bs.length := by
    induction f with
    | zero => exact fun p bs => Nat.zero_le _
    | succ f ih =>
      intro p bs
      cases bs with
      | nil => exact Nat.zero_le _
      | cons b bs =>
        have := ih (p + (64 - p % 64)) ((b :: bs).drop (64 - p % 64))
        simp only [pieces, List.length_cons, List.length_drop] at this ⊢
        omega
  have := hfuel (a.n + 1) a.off (List.replicate a.n 0)
  rw [List.length_replicate] at this
  simpa [splitAcc] using this

theorem length_flatMap_splitAcc_le (rs : List Region) {accs : List LaneAcc} {k n : Nat} (hk : accs.length ≤ k)
    (hn : ∀ a ∈ accs, a.n ≤ n) : (accs.flatMap (splitAcc rs)).length ≤ k * n := by
  have hall (as : List LaneAcc) (h : ∀ a ∈ as, a.n ≤ n) : (as.flatMap (splitAcc rs)).length ≤ as.length * n := by
    induction as with
    | nil => simp
    | cons a as ih =>
      have h1 := ih (fun b hb => h b (List.mem_cons_of_mem _ hb))
      have h2 := (length_splitAcc_le rs a).trans (h a (List.mem_cons_self ..))
      simp only [List.flatMap_cons, List.length_append, List.length_cons]
      rw [Nat.succ_mul]
      omega
  exact (hall accs hn).trans (Nat.mul_le_mul_right n hk)

section
variable {xs : List (Piece × Got)} (h : allRead xs = true)
include h

theorem got_of_allRead {x : Piece × Got} (hx : x ∈ xs) : ∃ b, x.2 = .bytes b := by
  have := List.all_eq_true.mp h x hx
  split at this
  next b hb => exact ⟨b, hb⟩
  next => cases this

theorem mustWait_of_allRead : mustWait xs = false := by
  have hneed : neededSectors xs = [] := by
    rw [neededSectors, List.filterMap_eq_nil_iff.mpr (fun x hx => ?_)]
    · rfl
    · obtain ⟨b, hb⟩ := got_of_allRead h hx
      simp [hb]
  have hwait : xs.any (fun x => x.2 == .wait) = false := by
    rw [List.any_eq_false]
    intro x hx
    obtain ⟨b, hb⟩ := got_of_allRead h hx
    simp [hb]
  simp [mustWait, hneed, hwait]

theorem poisonedPiece_of_allRead : poisonedPiece xs = none := by
  rw [poisonedPiece, Option.map_eq_none_iff, List.find?_eq_none]
  intro x hx
  obtain ⟨b, hb⟩ := got_of_allRead h hx
  simp [hb]

theorem failedPiece_of_allRead : failedPiece xs = none := by
  rw [failedPiece, List.findSome?_eq_none_iff]
  intro x hx
  obtain ⟨b, hb⟩ := got_of_allRead h hx
  rw [hb]

theorem readTraps_of_allRead (cx : Cx) : readTraps cx xs = [] := by
  rw [readTraps, poisonedPiece_of_allRead h]
  rfl

theorem lostTraps_of_allRead (cx : Cx) : lostTraps cx xs = [] := by
  rw [lostTraps, List.filterMap_eq_nil_iff]
  intro f _
  split
  next d _ =>
    rw [Option.map_eq_none_iff, List.find?_eq_none]
    intro x hx
    obtain ⟨b, hb⟩ := got_of_allRead h hx
    simp [hb]
  next => rfl
end

/-- What the reads of some lanes' accesses give each lane. -/
theorem lane_given {s t : State} {cx : Cx} {h : Hint} {rs : List Region} {accs : List LaneAcc} {xs : List (Piece × Got)}
    (hs : s.Sound) (hfills : cx.p.fills = []) (hseg : ∀ a ∈ accs, a.seg = 0xFE ∨ a.seg.toNat < 0xFC)
    (hmap : ∀ a ∈ accs, a.seg.toNat < 0xFC → Mapped rs a) (hnd : (accs.map (·.lane)).Nodup)
    (hfew : (accs.flatMap (splitAcc rs)).length ≤ 2048)
    (hread : s.readPieces cx (fun s q => s.wordRead cx h q) (accs.flatMap (splitAcc rs)) = (xs, t)) (hall : allRead xs = true)
    {a : LaneAcc} (ha : a ∈ accs) : ∃ bs, laneBytes xs a.lane = some bs ∧ accGives s cx h rs a bs := by
  have hnot {b : LaneAcc} (hb : b.seg.toNat < 0xFC) : b.seg ≠ 0xFE := by
    intro he
    rw [he] at hb
    exact absurd hb (by decide)
  have hin (q : Piece) (hq : q ∈ accs.flatMap (splitAcc rs)) (hsc : q.scratch = false) : q.place % 64 + q.n ≤ 64 := by
    obtain ⟨b, hb, hq⟩ := List.mem_flatMap.mp hq
    have hvirt : b.seg.toNat < 0xFC := by
      refine (hseg b hb).resolve_left (fun he => ?_)
      rw [(mem_splitAcc hq).2.1, he] at hsc
      cases hsc
    exact ((hmap b hb hvirt).piece hq).1
  have hfst := State.readPieces_fst cx (fun s q => s.wordRead cx h q) (accs.flatMap (splitAcc rs)) s
  obtain ⟨-, hgives⟩ := State.readPieces_gives hfills h _ hs hin
  rw [hread] at hfst hgives
  obtain ⟨bs, hbs, hlen, hbytes⟩ := laneBytes_of_pieces hfst hnd ha (fun x hx => by
    obtain ⟨b, hb⟩ := got_of_allRead hall hx
    exact ⟨b, hb, (hgives x hx b hb).1⟩)
  refine ⟨bs, hbs, hlen, fun j hj => ?_⟩
  obtain ⟨x, hx, hpiece, i, hi, hoff, hval⟩ := hbytes j hj
  obtain ⟨b, hb⟩ := got_of_allRead hall hx
  have hgot := (hgives x hx b hb).2 i hi
  have hv : bs.getD j 0 = b.getD i 0 := by rw [hval, hb]; rfl
  dsimp only
  rw [hv, ← hoff]
  by_cases he : a.seg = 0xFE
  · rw [if_pos (by rw [(mem_splitAcc hpiece).2.1, he]; rfl)] at hgot
    rw [if_pos he]
    exact hgot
  · have hvirt := (hseg a ha).resolve_left he
    rw [if_neg (by rw [(mem_splitAcc hpiece).2.1]; simpa using he)] at hgot
    rw [if_neg he, ((hmap a ha hvirt).piece hpiece).2 i hi]
    intro hc
    refine hgot (hc.imp id (fun hroom => ?_))
    unfold l2Room at hroom
    omega

end Sys2Proof.Machine
end
section
/-! PROOFS. ld, ldi and ldp (05 R99, R105 to R111). -/

namespace Sys2Proof.Proofs

open Sys2Proof Sys2Proof.Machine Sys2Proof.Claims

/-! ### Uniform addresses, and the accesses of the lanes -/

theorem lane_of_isUniform {v : RegVal} (h : v.isUniform = true) (l k : Nat) : v.lane l = v.lane k := by
  cases v with
  | unwritten => rfl
  | uniform u => rfl
  | affine b st => cases h
  | general xs => cases h

theorem laneAddr_of_uniformAddr {cx : Cx} {m : Addr} (h : uniformAddr cx m = true) (l k : Nat) :
    laneAddr cx m l = laneAddr cx m k := by
  unfold uniformAddr at h
  rw [Bool.and_eq_true] at h
  obtain ⟨hbase, hpair⟩ := h
  refine Prod.ext ?_ (by simp only [laneAddr, lane_of_isUniform hbase l k])
  unfold laneAddr
  cases hb : m.base with
  | reg i =>
    rw [hb] at hpair
    simp only [Bool.or_eq_true, Bool.not_eq_true'] at hpair
    obtain hp | hp := hpair
    · simp [hp]
    · simp [lane_of_isUniform hp l k]
  | spec x => rfl
  | imm v => rfl

theorem nodup_lanes (m : Word) : (lanes m).Nodup := List.nodup_range.filter _

theorem length_lanes_le (m : Word) : (lanes m).length ≤ 64 := by
  have := List.length_filter_le (laneIn m) (List.range 64)
  rwa [List.length_range] at this

theorem map_lane_byteAccs (cx : Cx) (m : Addr) (n : Nat) : (byteAccs cx m n).map (·.lane) = lanes cx.eff := by
  simp [byteAccs, Function.comp_def]

theorem mem_byteAccs {cx : Cx} {m : Addr} {n l : Nat} (h : laneIn cx.eff l = true) :
    { lane := l, seg := (laneAddr cx m l).1, off := (laneAddr cx m l).2.toNat, n := n } ∈ byteAccs cx m n :=
  List.mem_map.mpr ⟨l, (mem_lanes _ _).mpr h, rfl⟩

theorem n_of_mem_byteAccs {cx : Cx} {m : Addr} {n : Nat} {a : LaneAcc} (h : a ∈ byteAccs cx m n) : a.n = n := by
  obtain ⟨l, -, rfl⟩ := List.mem_map.mp h
  rfl

/-- What one access gives depends on its address and its bytes, not on its lane. -/
theorem accGives_lane {s : State} {cx : Cx} {h : Hint} {rs : List Region} {a b : LaneAcc} {bs : List Byte}
    (hg : accGives s cx h rs a bs) (hseg : b.seg = a.seg) (hoff : b.off = a.off) (hn : b.n = a.n) : accGives s cx h rs b bs := by
  obtain ⟨bl, bseg, boff, bn⟩ := b
  dsimp only at hseg hoff hn
  subst hseg hoff hn
  exact hg

theorem accGives_fetched {s : State} {cx : Cx} {u : Uses} {m : Members} {h : Hint} {rs : List Region} {a : LaneAcc} {bs : List Byte}
    (hg : accGives s (cx.fetched u m) h rs a bs) : accGives s cx h rs a bs := by
  unfold accGives at *
  rw [Cx.core_fetched] at hg
  exact hg

/-- The accesses that a load makes: one for all lanes, where their address and their mask allow it (05 R107). -/
theorem used_of_one {accs : List LaneAcc} {one : Bool} {a : LaneAcc} (h : a ∈ if one then accs.take 1 else accs) : a ∈ accs := by
  split at h
  · exact List.mem_of_mem_take h
  · exact h

/-- The first access of a list stands for all. -/
theorem take_one {accs : List LaneAcc} (h : accs ≠ []) : ∃ a, accs.take 1 = [a] ∧ a ∈ accs := by
  cases accs with
  | nil => exact absurd rfl h
  | cons a as => exact ⟨a, rfl, List.mem_cons_self ..⟩

/-! ### ld and ldi (05 R105 to R107, R111) -/

/-- The lanes that a load writes. -/
def loadMask (cx : Cx) (one : Bool) (xs : List (Piece × Got)) (ls : List Nat) : Word :=
  if one then (if writtenLanes xs ls = 0 then 0 else cx.eff) else writtenLanes xs ls

/-- The register value that a load makes of each lane's bytes. -/
def loadVal (cx : Cx) (one : Bool) (xs : List (Piece × Got)) (ls : List Nat) (f : List Byte → Word) : RegVal :=
  if one then .uniform (f ((laneBytes xs (ls.headD 0)).getD []))
  else generalVal cx.w (fun l => f ((laneBytes xs l).getD []))

theorem loadWrites_eq (cx : Cx) (wd : Width) (d : RegIx) (one : Bool) (xs : List (Piece × Got)) (ls : List Nat) :
    loadWrites cx wd d one xs ls = (if loadMask cx one xs ls = 0 then []
      else if wd = .b128 then
        [{ reg := d.toNat, mask := loadMask cx one xs ls, val := loadVal cx one xs ls (fun b => wordOf (b.take 8)), run := false },
         { reg := d.toNat + 1, mask := loadMask cx one xs ls, val := loadVal cx one xs ls (fun b => wordOf (b.drop 8)), run := false }]
      else [{ reg := d.toNat, mask := loadMask cx one xs ls, val := loadVal cx one xs ls (extendLoad wd), run := false }]) := rfl

/-- The writes of a load give a lane the bytes of the access that stands for it. -/
theorem loadWrites_lane {cx : Cx} {wd : Width} {d : RegIx} {one : Bool} {xs : List (Piece × Got)} {ls : List Nat} {l l0 : Nat}
    {bs : List Byte} (hl : l < cx.w) (hp : poisonedPiece xs = none) (hbs : laneBytes xs l0 = some bs) (hl0 : l0 ∈ ls)
    (h64 : l0 < 64) (hone : if one then l0 = ls.headD 0 ∧ laneIn cx.eff l = true else l0 = l) :
    ∃ w ∈ loadWrites cx wd d one xs ls, w.reg = d.toNat ∧ laneIn w.mask l = true ∧ w.val.lane l = extendLoad wd bs
      ∧ (wd = .b128 → ∃ v ∈ loadWrites cx wd d one xs ls, v.reg = d.toNat + 1 ∧ laneIn v.mask l = true
          ∧ v.val.lane l = wordOf (bs.drop 8)) := by
  have hin : laneIn (writtenLanes xs ls) l0 = true := by
    rw [writtenLanes, hp, gotLanes]
    simp only [Option.isSome_none, Bool.false_eq_true, if_false]
    rw [laneIn_maskOf _ _ h64]
    simp [hl0, hbs]
  have hne : writtenLanes xs ls ≠ 0 := by
    intro h0
    rw [h0] at hin
    simp at hin
  have hm : laneIn (loadMask cx one xs ls) l = true := by
    unfold loadMask
    cases one with
    | true =>
      rw [if_pos rfl, if_neg hne]
      exact hone.2
    | false =>
      obtain rfl : l0 = l := hone
      exact hin
  have hval (f : List Byte → Word) : (loadVal cx one xs ls f).lane l = f bs := by
    unfold loadVal
    cases one with
    | true =>
      obtain ⟨rfl, -⟩ : l0 = ls.headD 0 ∧ _ := hone
      rw [if_pos rfl, hbs]
      rfl
    | false =>
      obtain rfl : l0 = l := hone
      rw [if_neg (by decide), lane_generalVal cx.w _ hl, hbs]
      rfl
  have hm0 : loadMask cx one xs ls ≠ 0 := by
    intro h0
    rw [h0] at hm
    simp at hm
  rw [loadWrites_eq, if_neg hm0]
  by_cases hwd : wd = .b128
  · rw [if_pos hwd]
    refine ⟨_, List.mem_cons_self .., rfl, hm, ?_, fun _ => ⟨_, List.mem_cons_of_mem _ (List.mem_singleton_self _), rfl, hm,
      hval (fun b => wordOf (b.drop 8))⟩⟩
    rw [hwd]
    exact hval (fun b => wordOf (b.take 8))
  · rw [if_neg hwd]
    exact ⟨_, List.mem_singleton_self _, rfl, hm, hval _, fun h => absurd h hwd⟩

section
variable {wd : Width} {o : Order} {sc : Scope} {h : Hint} {d : RegIx} {m : Addr} {s s1 sr s2 : State} {cx : Cx}
  {rs : List Region} {xs : List (Piece × Got)} {g : Guard} {ac : Option (BitVec 4)}

theorem exec_ld (g : Guard) (wd : Width) (o : Order) (sc : Scope) (h : Hint) (d : RegIx) (m : Addr) (s : State) :
    exec (.ld g wd o sc h d m) s = issueMasked g (memUses m (.spec .zero) (.spec .zero) (loadDests wd d))
      (loadBody wd o sc h .load true d m) s := rfl

theorem exec_ldi (g : Guard) (wd : Width) (n : BitVec 4) (h : Hint) (d : RegIx) (m : Addr) (s : State) :
    exec (.ldi g wd n h d m) s = issueMasked g (memUses m (.spec .zero) (.spec .zero) [d.toNat]) (ldiBody wd n h d m) s := rfl

/-- The accesses of a load. -/
def loadAccs (cx : Cx) (wd : Width) (shapes : Bool) (m : Addr) : List LaneAcc :=
  if shapes && cx.full && uniformAddr cx m then (byteAccs cx m (widthBytes wd)).take 1 else byteAccs cx m (widthBytes wd)

/-- A load whose reads were made waits for some, or goes on with a result in flight. -/
theorem loadBody_of_reads {kind : FlightKind} {shapes : Bool}
    (hearly : earlyFault cx (widthBytes wd) (byteAccs cx m (widthBytes wd)) = none)
    (hprobe : s.probe cx .read (byteAccs cx m (widthBytes wd)) = .ok rs s1)
    (hrel : (if acquires o then s1.releaseAt cx (accScope (byteAccs cx m (widthBytes wd)) sc)
      (storeWho cx ((loadAccs cx wd shapes m).flatMap (splitAcc rs))) else (true, s1)) = (true, sr))
    (hread : sr.readPieces cx (readerOf cx o sc h) ((loadAccs cx wd shapes m).flatMap (splitAcc rs)) = (xs, s2)) :
    loadBody wd o sc h kind shapes d m s cx = if mustWait xs then .wait (s2.waitFills cx (neededSectors xs))
      else .done (((if acquires o then s2.acquireAt cx.g.core.clus cx.ctx
          (storeWho cx ((loadAccs cx wd shapes m).flatMap (splitAcc rs))) (accScope (byteAccs cx m (widthBytes wd)) sc) else s2).flyReply
        cx kind (loadDests wd d) (loadWrites cx wd d (shapes && cx.full && uniformAddr cx m) xs
          ((loadAccs cx wd shapes m).map (·.lane))) (readTraps cx xs) (s2.stampsOf xs)).owe cx (lostTraps cx xs)) := by
  unfold loadBody
  dsimp only
  rw [hearly]
  dsimp only
  rw [hprobe]
  dsimp only
  rw [loadAccs] at hrel hread
  rw [hrel]
  dsimp only
  rw [hread]
  rfl

theorem owe_nil (s : State) (cx : Cx) : s.owe cx [] = s := rfl

/-- The machine from a load's translations to the end of its reads is still in the midst of the word. -/
theorem midword_read {u : Uses} {k : Kind} {accs : List LaneAcc} {ps : List Piece} {at_ : Scope}
    {who : Nat → Option (GroupId × TrapInfo)} (hr : Ready s g u cx)
    (hprobe : (s.fetched cx u).probe (cx.fetched u) k accs = .ok rs s1)
    (hrel : (if acquires o then s1.releaseAt (cx.fetched u) at_ who else (true, s1)) = (true, sr))
    (hread : sr.readPieces (cx.fetched u) (readerOf (cx.fetched u) o sc h) ps = (xs, s2)) :
    ∃ h1 p1, Midword cx s2 h1 p1 := by
  obtain ⟨-, ⟨h1, p1, hm⟩, -⟩ := hr.probed hprobe
  have htend := State.readPieces_tended (cx.fetched u) _ (fun t q => readerOf_tended t (cx.fetched u) h q o sc) ps sr
  rw [hread] at htend
  exact ⟨h1, p1, (hm.same (State.releaseIf_sameWork hrel)).same htend.toSameWork⟩

/-- The word of a load, told by its arrival counter, with what it names. -/
def loadWordOf (g : Guard) (wd : Width) (o : Order) (sc : Scope) (h : Hint) (d : RegIx) (m : Addr) :
    Option (BitVec 4) → Instr × Uses
  | none => (.ld g wd o sc h d m, memUses m (.spec .zero) (.spec .zero) (loadDests wd d))
  | some n => (.ldi g wd n h d m, memUses m (.spec .zero) (.spec .zero) [d.toNat])

def loadKind : Option (BitVec 4) → FlightKind
  | none => .load
  | some n => .ldi n

/-- Where the word of a load goes on, and what it has put in flight. -/
theorem loadWord_flies {i : Instr} {u : Uses} (hi : (i, u) = loadWordOf g wd o sc h d m ac)
    (hac : ∀ n, ac = some n → o = .plain ∧ sc = .grp ∧ cx.g.ac n.toNat < 63) (hr : Ready s g u cx) (he : cx.eff ≠ 0)
    (hearly : earlyFault cx (widthBytes wd) (byteAccs cx m (widthBytes wd)) = none)
    (hprobe : (s.fetched cx u).probe (cx.fetched u) .read (byteAccs cx m (widthBytes wd)) = .ok rs s1)
    (hrel : (if acquires o then s1.releaseAt (cx.fetched u) (accScope (byteAccs cx m (widthBytes wd)) sc)
      (storeWho (cx.fetched u) ((loadAccs cx wd ac.isNone m).flatMap (splitAcc rs))) else (true, s1)) = (true, sr))
    (hread : sr.readPieces (cx.fetched u) (readerOf (cx.fetched u) o sc h) ((loadAccs cx wd ac.isNone m).flatMap (splitAcc rs))
      = (xs, s2)) :
    (mustWait xs = true → ∃ t gt p, exec i s = .next t ∧ t.group? cx.gid = some gt ∧ gt.path cx.slot = some p
      ∧ p.pc = cx.p.pc ∧ p.mask = cx.p.mask)
    ∧ (allRead xs = true → ∃ t gt f, exec i s = .next t
        ∧ Flew (if acquires o then s2.acquireAt cx.g.core.clus cx.ctx
            (storeWho (cx.fetched u) ((loadAccs cx wd ac.isNone m).flatMap (splitAcc rs)))
            (accScope (byteAccs cx m (widthBytes wd)) sc) else s2) t cx g f gt
        ∧ f.dests = loadDests wd d ∧ f.due = []
        ∧ f.writes = loadWrites (cx.fetched u) wd d (ac.isNone && cx.full && uniformAddr cx m) xs
            ((loadAccs cx wd ac.isNone m).map (·.lane))
        ∧ f.kind = loadKind ac
        ∧ ∀ n, ac = some n → gt.ac n.toNat = cx.g.ac n.toNat + 1 ∧ ∀ k, k ≠ n.toNat → gt.ac k = cx.g.ac k) := by
  obtain ⟨h1, p1, hm⟩ := midword_read hr hprobe hrel hread
  have hwait := hm.same (State.waitFills_tended s2 (cx.fetched u) (neededSectors xs)).toSameWork
  have hacq := hm.same (State.acquireIf_sameWork s2 cx.g.core.clus cx.ctx
    (storeWho (cx.fetched u) ((loadAccs cx wd ac.isNone m).flatMap (splitAcc rs)))
    (accScope (byteAccs cx m (widthBytes wd)) sc) (acquires o))
  have hbody (kind : FlightKind) (shapes : Bool) (hsh : shapes = ac.isNone) := loadBody_of_reads (d := d) (kind := kind)
    (shapes := shapes) (cx := cx.fetched u) (m := m) (sc := sc) (sr := sr) (xs := xs) (s2 := s2) (o := o) (h := h)
    (by simpa using hearly) (by simpa using hprobe) (by subst hsh; simpa [loadAccs] using hrel)
    (by subst hsh; simpa [loadAccs] using hread)
  cases ac with
  | none =>
    obtain ⟨rfl, rfl⟩ := Prod.mk.inj hi
    rw [exec_ld, issueMasked_ready _ hr he, hbody .load true rfl]
    refine ⟨fun hw => ?_, fun hall => ?_⟩
    · rw [if_pos hw]
      exact ⟨_, _, _, rfl, hwait.group, hwait.path, hwait.pc, hwait.mask⟩
    · obtain ⟨gt, f, hflew, hkind, hdests, hwrites, hdue⟩ := hacq.effected.flew_plain
        (cx1 := cx.fetched (memUses m (.spec .zero) (.spec .zero) (loadDests wd d))) rfl rfl g _ .load (loadDests wd d)
        (loadWrites (cx.fetched (memUses m (.spec .zero) (.spec .zero) (loadDests wd d))) wd d
          (Option.isNone (none : Option (BitVec 4)) && cx.full && uniformAddr cx m) xs
          ((loadAccs cx wd true m).map (·.lane))) [] (s2.stampsOf xs)
      refine ⟨_, gt, f, ?_, hflew, hdests, hdue, hwrites, hkind, fun _ hn => by cases hn⟩
      rw [mustWait_of_allRead hall, readTraps_of_allRead hall, lostTraps_of_allRead hall]
      simp only [Bool.false_eq_true, if_false, owe_nil, loadAccs, Cx.isFull_fetched, uniformAddr_fetched, byteAccs_fetched,
        Cx.core_fetched, Cx.ctx_fetched]
      rfl
  | some n =>
    obtain ⟨rfl, rfl⟩ := Prod.mk.inj hi
    obtain ⟨rfl, rfl, hlt⟩ := hac n rfl
    rw [exec_ldi, issueMasked_ready _ hr he, ldiBody, if_neg (by simpa using hlt), hbody (.ldi n) false rfl]
    refine ⟨fun hw => ?_, fun hall => ?_⟩
    · rw [if_pos hw]
      exact ⟨_, _, _, rfl, hwait.group, hwait.path, hwait.pc, hwait.mask⟩
    · obtain ⟨gt, f, hflew, hkind, hdests, hwrites, hdue, hacs⟩ := hacq.effected.flew
        (cx1 := cx.fetched (memUses m (.spec .zero) (.spec .zero) [d.toNat])) rfl rfl g _ (.ldi n) (loadDests wd d)
        (loadWrites (cx.fetched (memUses m (.spec .zero) (.spec .zero) [d.toNat])) wd d
          (Option.isNone (some n) && cx.full && uniformAddr cx m) xs ((loadAccs cx wd false m).map (·.lane))) [] (s2.stampsOf xs)
        (fun a => Sparse.put 0 a n.toNat (Sparse.get 0 a n.toNat + 1)) (fun hne => absurd rfl (hne n))
      have hrise := hr.groupTidy
      simp only [Group.tidy, Bool.and_eq_true] at hrise
      obtain ⟨⟨-, hrise⟩, -⟩ := hrise
      refine ⟨_, gt, f, ?_, hflew, hdests, hdue, hwrites, hkind, fun _ hn => ?_⟩
      · rw [mustWait_of_allRead hall, readTraps_of_allRead hall, lostTraps_of_allRead hall]
        simp only [Bool.false_eq_true, if_false, owe_nil, loadAccs, Cx.isFull_fetched, uniformAddr_fetched, byteAccs_fetched,
          Cx.core_fetched, Cx.ctx_fetched]
        rfl
      · obtain rfl := Option.some.inj hn
        simp only [Group.ac, hacs]
        exact ⟨Sparse.get_put_same _ _ _ _ hrise, fun k hk => Sparse.get_put_other _ _ _ _ _ hk hrise⟩
end

/-- The access that stands for a lane. -/
theorem stands_for {cx : Cx} {wd : Width} {shapes : Bool} {m : Addr} {l : Nat} (hl : laneIn cx.eff l = true) :
    ∃ a ∈ loadAccs cx wd shapes m, a.seg = (laneAddr cx m l).1 ∧ a.off = (laneAddr cx m l).2.toNat ∧ a.n = widthBytes wd
      ∧ (if shapes && cx.full && uniformAddr cx m
          then a.lane = ((loadAccs cx wd shapes m).map (·.lane)).headD 0 ∧ laneIn cx.eff l = true else a.lane = l) := by
  have hmem := mem_byteAccs (m := m) (n := widthBytes wd) hl
  unfold loadAccs
  cases hone : shapes && cx.full && uniformAddr cx m with
  | true =>
    obtain ⟨a, ha, hin⟩ := take_one (List.ne_nil_of_mem hmem)
    rw [if_pos rfl, ha]
    obtain ⟨k, -, rfl⟩ := List.mem_map.mp hin
    have haddr : laneAddr cx m k = laneAddr cx m l :=
      laneAddr_of_uniformAddr (by simp only [Bool.and_eq_true] at hone; exact hone.2) k l
    exact ⟨_, List.mem_singleton_self _, by rw [haddr], by rw [haddr], rfl, rfl, hl⟩
  | false => exact ⟨_, hmem, rfl, rfl, rfl, rfl⟩

theorem loadAccs_spec {cx : Cx} {wd : Width} {shapes : Bool} {m : Addr} (rs : List Region) :
    (∀ a ∈ loadAccs cx wd shapes m, a ∈ byteAccs cx m (widthBytes wd)) ∧ ((loadAccs cx wd shapes m).map (·.lane)).Nodup
      ∧ ((loadAccs cx wd shapes m).flatMap (splitAcc rs)).length ≤ 2048 := by
  have hin (a : LaneAcc) (ha : a ∈ loadAccs cx wd shapes m) : a ∈ byteAccs cx m (widthBytes wd) := used_of_one ha
  have hsub : (loadAccs cx wd shapes m).Sublist (byteAccs cx m (widthBytes wd)) := by
    unfold loadAccs
    split
    · exact List.take_sublist ..
    · exact .refl _
  have hnd := nodup_lanes cx.eff
  rw [← map_lane_byteAccs cx m (widthBytes wd)] at hnd
  have hlen : (loadAccs cx wd shapes m).length ≤ 64 := by
    refine hsub.length_le.trans ?_
    rw [byteAccs, List.length_map]
    exact length_lanes_le _
  have hw : widthBytes wd ≤ 16 := by cases wd <;> decide
  refine ⟨hin, hnd.sublist (hsub.map _), (length_flatMap_splitAcc_le rs hlen (n := 16) (fun a ha => ?_)).trans (by decide)⟩
  rw [n_of_mem_byteAccs (hin a ha)]
  exact hw

theorem loadWords : LoadWords := by
  intro g wd o sc h ac d m s s1 sr s2 cx i u rs xs hi hac _ hr he hfills cx0 accs one used ps at_ hearly hprobe hrel hread
  have hword : (i, u) = loadWordOf g wd o sc h d m ac := by
    cases ac <;> exact hi
  obtain ⟨hwait, hflies⟩ := loadWord_flies hword hac hr he hearly hprobe hrel hread
  refine ⟨hwait, fun hall => ?_⟩
  obtain ⟨t, gt, f, hx, hflew, hdests, hdue, hwrites, hkind, hcount⟩ := hflies hall
  refine ⟨t, gt, f, hx, hflew, hdests, hdue, ?_, fun hacq hu l hl hin => ?_⟩
  · cases ac with
    | none => exact hkind
    | some n => exact ⟨hkind, hcount n rfl⟩
  rw [hacq] at hrel
  obtain ⟨-, rfl⟩ := Prod.mk.inj hrel
  have hplain : readerOf cx0 o sc h = fun s q => s.wordRead cx0 h q := by
    funext s q
    simp [readerOf, hacq]
  rw [hplain] at hread
  obtain ⟨hsec, ⟨h1, p1, hm⟩, hmap⟩ := hr.probed hprobe
  obtain ⟨husedin, hnd, hfew⟩ := loadAccs_spec (cx := cx) (wd := wd) (shapes := ac.isNone) (m := m) rs
  obtain ⟨a, ha, haseg, haoff, han, halane⟩ := stands_for (wd := wd) (shapes := ac.isNone) (m := m) hin
  obtain ⟨bs, hbs, hgives⟩ := lane_given (hsec.sound hm hu) (cx := cx0) hfills
    (fun b hb => seg_of_earlyFault hearly (husedin b hb)) (fun b hb hv => hmap b (husedin b hb) hv) hnd hfew hread hall ha
  refine ⟨bs, accGives_lane (accGives_fetched hgives) haseg.symm haoff.symm han.symm, ?_⟩
  have h64 : a.lane < 64 := by
    obtain ⟨k, hk, rfl⟩ := List.mem_map.mp (husedin a ha)
    exact lt_of_laneIn ((mem_lanes _ _).mp hk)
  rw [hwrites]
  have hw : l < cx0.w := lt_of_lt_of_eq hl (Cx.width_fetched cx u .none).symm
  exact loadWrites_lane hw (poisonedPiece_of_allRead hall) hbs (List.mem_map_of_mem ha) h64 halane

theorem loadWaits : LoadWaits := by
  intro g wd n h d m s cx u _ hr he hfull
  rw [exec_ldi, issueMasked_ready _ hr he, ldiBody, if_pos (by simpa using hfull)]
  rfl

end Sys2Proof.Proofs
end
section
/-! PROOFS. ldp (05 R108 to R110). -/

namespace Sys2Proof.Proofs

open Sys2Proof Sys2Proof.Machine Sys2Proof.Claims

/-! ### The fields of the lanes -/

/-- The bits that a lane's packed access has. -/
def packLen (cx : Cx) (pw : BitVec 6) (c : Src) (l : Nat) : Nat := packCount pw ((cx.src c).lane l) * (pw.toNat + 1)

/-- A lane's packed access with its first bit and its bits; none without an element. -/
def packEntry (cx : Cx) (pw : BitVec 6) (m : Addr) (c : Src) (l : Nat) : Option (LaneAcc × Nat × Nat) :=
  if packLen cx pw c l = 0 then none
  else some (bitAcc l (laneAddr cx m l).1 (laneAddr cx m l).2.toNat (packLen cx pw c l), (laneAddr cx m l).2.toNat % 8,
    packLen cx pw c l)

theorem packAccs_eq (cx : Cx) (pw : BitVec 6) (m : Addr) (c : Src) :
    packAccs cx pw m c = (lanes cx.eff).filterMap (packEntry cx pw m c) := rfl

section
variable {cx : Cx} {pw : BitVec 6} {m : Addr} {c : Src}

theorem packAccs_fetched (u : Uses) (ms : Members) : packAccs (cx.fetched u ms) pw m c = packAccs cx pw m c := by
  unfold packAccs
  simp only [Cx.eff_fetched, laneAddr_fetched, Cx.src_fetched]

theorem packCount_eq (pw : BitVec 6) (w : Word) : packCount pw w = min (w.toNat % 128) (64 / (pw.toNat + 1)) := by
  simp [packCount]

theorem packLen_le (cx : Cx) (pw : BitVec 6) (c : Src) (l : Nat) : packLen cx pw c l ≤ 64 := by
  rw [packLen, packCount_eq]
  exact (Nat.mul_le_mul_right _ (Nat.min_le_right ..)).trans (Nat.div_mul_le_self ..)

theorem lane_packEntry {l : Nat} {f : LaneAcc × Nat × Nat} (h : packEntry cx pw m c l = some f) : f.1.lane = l := by
  unfold packEntry at h
  split at h
  · cases h
  · cases h
    rfl

/-- Entries of different lanes: that of a lane is found by it. -/
theorem find_filterMap_lane {f : Nat → Option (LaneAcc × Nat × Nat)} (hf : ∀ l x, f l = some x → x.1.lane = l) {r : Nat} :
    ∀ {ls : List Nat}, r ∈ ls → (ls.filterMap f).find? (fun x => x.1.lane == r) = f r := by
  have hmiss (ls : List Nat) (hr : f r = none) : (ls.filterMap f).find? (fun x => x.1.lane == r) = none := by
    rw [List.find?_eq_none]
    intro x hx
    obtain ⟨l, -, hl⟩ := List.mem_filterMap.mp hx
    have := hf l x hl
    rintro hlane
    obtain rfl : x.1.lane = r := by simpa using hlane
    rw [← this] at hl
    rw [hl] at hr
    cases hr
  intro ls hr
  induction ls with
  | nil => cases hr
  | cons l ls ih =>
    cases hfl : f l with
    | none =>
      rw [List.filterMap_cons_none hfl]
      obtain rfl | hr := List.mem_cons.mp hr
      · rw [hmiss ls hfl, hfl]
      · exact ih hr
    | some x =>
      rw [List.filterMap_cons_some hfl, List.find?_cons]
      by_cases he : l = r
      · rw [hf l x hfl, he, ← hfl, he]
        simp
      · rw [hf l x hfl]
        simp only [beq_eq_false_iff_ne.mpr he]
        exact ih ((List.mem_cons.mp hr).resolve_left (fun h => he h.symm))

theorem find_packAccs {r : Nat} (hr : laneIn cx.eff r = true) :
    (packAccs cx pw m c).find? (fun x => x.1.lane == r) = packEntry cx pw m c r :=
  find_filterMap_lane (fun _ _ => lane_packEntry) ((mem_lanes _ _).mpr hr)

theorem map_lane_packAccs : ((packAccs cx pw m c).map (fun f => f.1.lane)).Sublist (lanes cx.eff) := by
  rw [packAccs_eq]
  induction lanes cx.eff with
  | nil => exact .refl _
  | cons l ls ih =>
    cases hl : packEntry cx pw m c l with
    | none =>
      rw [List.filterMap_cons_none hl]
      exact ih.cons l
    | some x =>
      rw [List.filterMap_cons_some hl, List.map_cons, lane_packEntry hl]
      exact ih.cons_cons l

/-! ### Fields, extended (05 R110) -/

theorem packField_eq (x : Bool) (bs : List Byte) (b : Nat) {n : Nat} (h0 : n ≠ 0) (hn : n ≤ 64) :
    packField x bs b n = (if x = true ∧ 2 ^ (n - 1) ≤ ofBytes bs / 2 ^ b % 2 ^ n
      then BitVec.ofInt 64 (((ofBytes bs / 2 ^ b % 2 ^ n : Nat) : Int) - 2 ^ n) else BitVec.ofNat 64 (ofBytes bs / 2 ^ b % 2 ^ n)) := by
  have hbits : bits (ofBytes bs) b n = ofBytes bs / 2 ^ b % 2 ^ n := rfl
  unfold packField
  rw [hbits]
  generalize hv : ofBytes bs / 2 ^ b % 2 ^ n = v
  have hlt : v < 2 ^ n := hv ▸ Nat.mod_lt _ (Nat.two_pow_pos n)
  have htop : v.testBit (n - 1) = decide (2 ^ (n - 1) ≤ v) := by
    have hsplit : 2 ^ n = 2 * 2 ^ (n - 1) := by
      rw [← Nat.pow_succ']
      congr 1
      omega
    have hdiv : v / 2 ^ (n - 1) < 2 := Nat.div_lt_of_lt_mul (by omega)
    rw [Nat.testBit_eq_decide_div_mod_eq, Nat.mod_eq_of_lt hdiv]
    refine decide_eq_decide.mpr ⟨fun h => ?_, fun h => ?_⟩
    · have := Nat.div_mul_le_self v (2 ^ (n - 1))
      rw [h] at this
      omega
    · have := Nat.div_pos h (Nat.two_pow_pos (n - 1))
      omega
  have hpow : 2 ^ n ≤ 2 ^ 64 := Nat.pow_le_pow_right (by decide) hn
  dsimp only
  rw [htop]
  simp only [Bool.and_eq_true, decide_eq_true_eq]
  refine if_congr Iff.rfl ?_ rfl
  refine BitVec.eq_of_toInt_eq ?_
  rw [BitVec.toInt_ofInt, BitVec.toInt_ofNat']
  have hcast : ((v + (2 ^ 64 - 2 ^ n) : Nat) : Int) = (v : Int) - 2 ^ n + 2 ^ 64 := by
    rw [Nat.cast_add, Nat.cast_sub hpow]
    push_cast
    ring
  rw [hcast]
  exact Int.add_bmod_right _ (2 ^ 64)

end

/-! ### The word (05 R108, R109) -/

/-- What a lane finds in its field. -/
def packValue (x : Bool) (fs : List (LaneAcc × Nat × Nat)) (xs : List (Piece × Got)) (l : Nat) : Word :=
  match fs.find? (fun f => f.1.lane == l) with
  | some f => packField x ((laneBytes xs l).getD []) f.2.1 f.2.2
  | none => 0

/-- The write of a packed load whose reads were all answered. -/
def packWrite (cx : Cx) (x : Bool) (d : RegIx) (one : Bool) (fs : List (LaneAcc × Nat × Nat)) (xs : List (Piece × Got)) : RegWrite where
  reg := d.toNat
  mask := if one then cx.eff else maskOf ((lanes cx.eff).filter (fun l => (laneBytes xs l).isSome))
  val := if one then .uniform (packValue x fs xs 0) else generalVal cx.w (packValue x fs xs)
  run := false

section
variable {g : Guard} {x : Bool} {pw : BitVec 6} {h : Hint} {d : RegIx} {m : Addr} {c : Src} {s s1 s2 : State} {cx : Cx}
  {rs : List Region} {xs : List (Piece × Got)}

theorem exec_ldp (g : Guard) (x : Bool) (pw : BitVec 6) (h : Hint) (d : RegIx) (m : Addr) (c : Src) (s : State) :
    exec (.ldp g x pw h d m c) s = issueMasked g (memUses m (.spec .zero) c [d.toNat]) (ldpBody x pw h d m c) s := rfl

/-- One read serves every lane. -/
def packOne (cx : Cx) (m : Addr) (c : Src) : Bool := cx.full && uniformAddr cx m && (cx.src c).isUniform

/-- The accesses of a packed load. -/
def packUsed (cx : Cx) (pw : BitVec 6) (m : Addr) (c : Src) : List LaneAcc :=
  if packOne cx m c then ((packAccs cx pw m c).map (·.1)).take 1 else (packAccs cx pw m c).map (·.1)

theorem ldpBody_of_reads (hearly : earlyFault cx 1 ((packAccs cx pw m c).map (·.1)) = none)
    (hprobe : s.probe cx .read ((packAccs cx pw m c).map (·.1)) = .ok rs s1)
    (hread : s1.readPieces cx (fun s q => s.wordRead cx h q) ((packUsed cx pw m c).flatMap (splitAcc rs)) = (xs, s2))
    (hall : allRead xs = true) :
    ldpBody x pw h d m c s cx = .done (s2.flyReply cx .load [d.toNat]
      (if (packWrite cx x d (packOne cx m c) (packAccs cx pw m c) xs).mask = 0 then []
        else [packWrite cx x d (packOne cx m c) (packAccs cx pw m c) xs]) [] (s2.stampsOf xs)) := by
  unfold ldpBody
  dsimp only
  rw [hearly]
  dsimp only
  rw [hprobe]
  dsimp only
  rw [packUsed, packOne] at hread
  rw [hread]
  dsimp only
  rw [mustWait_of_allRead hall, poisonedPiece_of_allRead hall, failedPiece_of_allRead hall, readTraps_of_allRead hall,
    lostTraps_of_allRead hall]
  rfl

/-- The lane whose access stands for a lane. -/
theorem packUsed_stands {l : Nat} (hl : laneIn cx.eff l = true) (hw : l < cx.w) :
    ∃ r, (if packOne cx m c then r = 0 else r = l) ∧ laneIn cx.eff r = true ∧ laneAddr cx m r = laneAddr cx m l
      ∧ packLen cx pw c r = packLen cx pw c l
      ∧ (packLen cx pw c l ≠ 0 →
          bitAcc r (laneAddr cx m r).1 (laneAddr cx m r).2.toNat (packLen cx pw c r) ∈ packUsed cx pw m c) := by
  have hentry {r : Nat} (hn : packLen cx pw c r ≠ 0) : packEntry cx pw m c r
      = some (bitAcc r (laneAddr cx m r).1 (laneAddr cx m r).2.toNat (packLen cx pw c r), (laneAddr cx m r).2.toNat % 8,
        packLen cx pw c r) := if_neg hn
  unfold packUsed
  cases hone : packOne cx m c with
  | true =>
    simp only [packOne, Bool.and_eq_true] at hone
    obtain ⟨⟨hfull, haddr⟩, hc⟩ := hone
    have hzero : laneIn cx.eff 0 = true := by
      rw [Cx.full, beq_iff_eq] at hfull
      rw [hfull, Group.full, laneIn_fullMask]
      have hlt := lt_of_laneIn hl
      have hw : 0 < cx.g.width := lt_of_le_of_lt (Nat.zero_le _) hw
      simp [hw]
    have hlen : packLen cx pw c 0 = packLen cx pw c l := by rw [packLen, packLen, lane_of_isUniform hc 0 l]
    have hlanes : lanes cx.eff = 0 :: (lanes cx.eff).tail := by
      have : List.range 64 = 0 :: (List.range 63).map Nat.succ := List.range_succ_eq_map
      rw [lanes, this, List.filter_cons_of_pos hzero]
      rfl
    refine ⟨0, rfl, hzero, laneAddr_of_uniformAddr haddr 0 l, hlen, fun hn => ?_⟩
    rw [if_pos rfl, packAccs_eq, hlanes, List.filterMap_cons_some (hentry (hlen ▸ hn))]
    exact List.mem_cons_self ..
  | false =>
    refine ⟨l, rfl, hl, rfl, rfl, fun hn => ?_⟩
    rw [if_neg (by decide), packAccs_eq]
    exact List.mem_map.mpr ⟨_, List.mem_filterMap.mpr ⟨l, (mem_lanes _ _).mpr hl, hentry hn⟩, rfl⟩

theorem packUsed_spec (rs : List Region) : (∀ a ∈ packUsed cx pw m c, a ∈ (packAccs cx pw m c).map (·.1))
    ∧ ((packUsed cx pw m c).map (·.lane)).Nodup ∧ ((packUsed cx pw m c).flatMap (splitAcc rs)).length ≤ 2048 := by
  have hin (a : LaneAcc) (ha : a ∈ packUsed cx pw m c) : a ∈ (packAccs cx pw m c).map (·.1) := used_of_one ha
  have hsub : (packUsed cx pw m c).Sublist ((packAccs cx pw m c).map (·.1)) := by
    unfold packUsed
    split
    · exact List.take_sublist ..
    · exact .refl _
  have hall : (((packAccs cx pw m c).map (·.1)).map (·.lane)).Sublist (lanes cx.eff) := by
    rw [List.map_map]
    exact map_lane_packAccs
  have hlen : (packUsed cx pw m c).length ≤ 64 := by
    have h1 := (hsub.map (·.lane)).length_le.trans hall.length_le
    rw [List.length_map] at h1
    exact h1.trans (length_lanes_le _)
  refine ⟨hin, (nodup_lanes cx.eff).sublist ((hsub.map _).trans hall),
    (length_flatMap_splitAcc_le rs hlen (n := 9) (fun a ha => ?_)).trans (by decide)⟩
  obtain ⟨f, hf, rfl⟩ := List.mem_map.mp (hin a ha)
  rw [packAccs_eq] at hf
  obtain ⟨l, -, hl⟩ := List.mem_filterMap.mp hf
  have hlen := packLen_le cx pw c l
  unfold packEntry at hl
  split at hl
  · cases hl
  · cases hl
    simp only [bitAcc]
    split <;> omega

end

theorem packedLoad : PackedLoad := by
  intro g x pw h d m c s s1 s2 cx rs xs i u _ hr he hfills cx0 fs accs one hearly hprobe hread hall
  obtain ⟨hsec, ⟨h1, p1, hm⟩, hmap⟩ := hr.probed hprobe
  have hfs : packAccs cx0 pw m c = fs := packAccs_fetched ..
  have hone : packOne cx0 m c = one := by
    simp only [packOne, cx0, Cx.isFull_fetched, uniformAddr_fetched, Cx.src_fetched]
    rfl
  have hused : packUsed cx0 pw m c = if one then accs.take 1 else accs := by rw [packUsed, hone, hfs]
  have htend := State.readPieces_tended cx0 _ (fun t q => t.wordRead_tended cx0 h q) (((if one then accs.take 1 else accs)).flatMap (splitAcc rs)) s1
  rw [hread] at htend
  obtain ⟨gt, f, hflew, hkind, hdests, hwrites, hdue⟩ := (hm.same htend.toSameWork).effected.flew_plain (cx1 := cx0) rfl rfl g u
    .load [d.toNat] (if (packWrite cx0 x d one fs xs).mask = 0 then [] else [packWrite cx0 x d one fs xs]) [] (s2.stampsOf xs)
  refine ⟨_, gt, f, ?_, hflew, hkind, hdests, hdue, fun hu l hl hin => ?_⟩
  · rw [exec_ldp, issueMasked_ready _ hr he, ldpBody_of_reads (rs := rs) (s1 := s1) (s2 := s2) (xs := xs) (by rw [hfs]; exact hearly)
      (by rw [hfs]; exact hprobe) (by rw [hused]; exact hread) hall, hone, hfs]
    rfl
  have hw : l < cx0.w := lt_of_lt_of_eq hl (Cx.width_fetched cx u .none).symm
  have heff : cx0.eff = cx.eff := rfl
  have hgot (k : Nat) : (laneBytes xs k).isSome = true := by
    rw [laneBytes_of_got (fun y hy _ => got_of_allRead hall hy)]
    rfl
  have hmask : laneIn (packWrite cx0 x d one fs xs).mask l = true := by
    simp only [packWrite]
    split
    · exact hin
    · rw [laneIn_maskOf _ _ (lt_of_laneIn hin), decide_eq_true_eq]
      exact List.mem_filter.mpr ⟨(mem_lanes _ _).mpr hin, hgot l⟩
  have hmem : packWrite cx0 x d one fs xs ∈ f.writes := by
    rw [hwrites, if_neg]
    · exact List.mem_singleton_self _
    · intro h0
      rw [h0] at hmask
      simp at hmask
  obtain ⟨r, hr1, hrin, hraddr, hrlen, hrmem⟩ := packUsed_stands (cx := cx0) (pw := pw) (m := m) (c := c) hin hw
  have hval : (packWrite cx0 x d one fs xs).val.lane l = packValue x fs xs r := by
    rw [hone] at hr1
    simp only [packWrite]
    cases hb : one with
    | true =>
      obtain rfl : r = 0 := by simpa [hb] using hr1
      rfl
    | false =>
      obtain rfl : r = l := by simpa [hb] using hr1
      exact lane_generalVal cx0.w _ hw
  have hfind : fs.find? (fun f => f.1.lane == r) = packEntry cx pw m c r := find_packAccs hrin
  have hlen0 (k : Nat) : packLen cx0 pw c k = packLen cx pw c k := by rw [packLen, packLen, Cx.src_fetched]
  rw [hlen0, hlen0] at hrlen
  simp only [cx0, laneAddr_fetched] at hraddr
  have hn : min (((cx.src c).lane l).toNat % 128) (64 / (pw.toNat + 1)) * (pw.toNat + 1) = packLen cx pw c l := by
    rw [packLen, packCount_eq]
  intro b n
  have hnn : n = packLen cx pw c l := hn
  clear_value n
  subst hnn
  by_cases hzero : packLen cx pw c l = 0
  · refine ⟨[], ⟨by simp [bitAcc, hzero], fun j hj => by simp [bitAcc, hzero] at hj⟩, _, hmem, rfl, hmask, ?_⟩
    rw [hval, packValue, hfind, packEntry, hrlen, if_pos hzero, if_pos hzero]
  · have hmem0 := hrmem (by rw [hlen0]; exact hzero)
    obtain ⟨husedin, hnd, hfew⟩ := packUsed_spec (cx := cx0) (pw := pw) (m := m) (c := c) rs
    rw [hfs] at husedin
    obtain ⟨bs, hbs, hgives⟩ := lane_given (hsec.sound hm hu) (cx := cx0) hfills
      (fun a ha => seg_of_earlyFault hearly (husedin a ha)) (fun a ha hv => hmap a (husedin a ha) hv) hnd hfew
      (by rw [hused]; exact hread) hall hmem0
    simp only [cx0, laneAddr_fetched] at hbs hgives
    rw [hraddr] at hbs hgives
    rw [hlen0, hrlen] at hbs hgives
    refine ⟨bs, accGives_lane (accGives_fetched hgives) rfl rfl rfl, _, hmem, rfl, hmask, ?_⟩
    have hlb : laneBytes xs r = some bs := hbs
    rw [hval, packValue, hfind, packEntry, hrlen, if_neg hzero, if_neg hzero]
    dsimp only
    rw [hlb, hraddr]
    exact packField_eq x bs _ hzero (packLen_le ..)

/-- Settles O40: a load by the reads that it makes, a packed load by the field that it cuts from each lane's bytes. -/
theorem loads : Obligations.Loads := ⟨loadWords, loadWaits, packedLoad⟩

end Sys2Proof.Proofs
end
section
/-! SUPPORT. Stores gathered by sector: the bytes that they store, and in how few turns their lines come (05 R103, R105). -/

namespace Sys2Proof.Machine

open Sys2Proof.Claims

/-! ### Tables that grow at their end -/

section
variable {κ β : Type} [DecidableEq κ]

theorem Tab.keys_put (t : List (κ × β)) (k : κ) (v : β) :
    (Tab.put t k v).map Prod.fst = if k ∈ t.map Prod.fst then t.map Prod.fst else t.map Prod.fst ++ [k] := by
  induction t with
  | nil => rfl
  | cons e t ih =>
    obtain ⟨a, x⟩ := e
    by_cases ha : a = k
    · simp [Tab.put, ha]
    · have hne : k ≠ a := fun h => ha h.symm
      simp only [Tab.put, if_neg ha, List.map_cons, ih, List.mem_cons, hne, false_or]
      split <;> rfl

theorem Tab.nodup_put {t : List (κ × β)} (k : κ) (v : β) (h : (t.map Prod.fst).Nodup) : ((Tab.put t k v).map Prod.fst).Nodup := by
  rw [Tab.keys_put]
  split
  · exact h
  next hk =>
    rw [List.nodup_append]
    exact ⟨h, List.nodup_singleton k, fun a ha b hb he => hk (List.mem_singleton.mp hb ▸ he ▸ ha)⟩

theorem Tab.get?_eq_none_of {t : List (κ × β)} {k : κ} (h : k ∉ t.map Prod.fst) : Tab.get? t k = none := by
  unfold Tab.get?
  rw [Option.map_eq_none_iff, List.find?_eq_none]
  intro e he hk
  exact h (List.mem_map.mpr ⟨e, he, by simpa using hk⟩)

theorem Tab.get?_of_mem {t : List (κ × β)} (h : (t.map Prod.fst).Nodup) {e : κ × β} (he : e ∈ t) : Tab.get? t e.1 = some e.2 := by
  induction t with
  | nil => cases he
  | cons x t ih =>
    rw [List.map_cons, List.nodup_cons] at h
    obtain rfl | he := List.mem_cons.mp he
    · simp [Tab.get?]
    · have hne : x.1 ≠ e.1 := fun hx => h.1 (hx ▸ List.mem_map_of_mem he)
      have := ih h.2 he
      unfold Tab.get? at this ⊢
      rw [List.find?_cons_of_neg (by simpa using hne)]
      exact this

/-- A table that some puts in order have grown: its keys are the first ones of each, in order. -/
theorem Tab.keys_foldl {α : Type} {key : α → κ} {f : List (κ × β) → α → List (κ × β)}
    (hf : ∀ t x, ∃ v, f t x = Tab.put t (key x) v) : ∀ (xs : List α) (t : List (κ × β)), (t.map Prod.fst).Nodup →
      ((xs.foldl f t).map Prod.fst).Nodup ∧ ∃ ks, ks.Sublist (xs.map key) ∧ (xs.foldl f t).map Prod.fst = t.map Prod.fst ++ ks
  | [], t, h => ⟨h, [], .refl _, (List.append_nil _).symm⟩
  | x :: xs, t, h => by
    obtain ⟨v, hv⟩ := hf t x
    obtain ⟨hn, ks, hs, hk⟩ := Tab.keys_foldl hf xs (f t x) (by rw [hv]; exact Tab.nodup_put _ _ h)
    refine ⟨hn, ?_⟩
    rw [List.foldl_cons, hk, hv, Tab.keys_put]
    split
    · exact ⟨ks, hs.cons _, rfl⟩
    · exact ⟨key x :: ks, hs.cons_cons _, by simp⟩
end

/-! ### Spans of bytes -/

/-- What bytes from a place on say of a place. -/
def spanByte (x : Nat × List Byte) (q : Nat) : Option Byte :=
  if x.1 ≤ q ∧ q < x.1 + x.2.length then some (x.2.getD (q - x.1) 0) else none

theorem spanByte_or (x : Nat × List Byte) (q : Nat) (acc : Option Byte) :
    (if x.1 ≤ q ∧ q < x.1 + x.2.length then some (x.2.getD (q - x.1) 0) else acc) = (spanByte x q).or acc := by
  unfold spanByte
  split <;> rfl

/-- The last of some spans that has a byte of a place. -/
def lastSpan (xs : List (Nat × List Byte)) (q : Nat) : Option Byte := xs.foldl (fun acc x => (spanByte x q).or acc) none

theorem foldl_or {α : Type} (f : α → Option Byte) (xs : List α) : ∀ a : Option Byte,
    xs.foldl (fun acc x => (f x).or acc) a = (xs.foldl (fun acc x => (f x).or acc) none).or a := by
  induction xs with
  | nil => exact fun a => (Option.none_or).symm
  | cons x xs ih =>
    intro a
    rw [List.foldl_cons, List.foldl_cons, ih ((f x).or a), ih ((f x).or none), Option.or_none, Option.or_assoc]

theorem lastSpan_nil (q : Nat) : lastSpan [] q = none := rfl

theorem lastSpan_cons (x : Nat × List Byte) (xs : List (Nat × List Byte)) (q : Nat) :
    lastSpan (x :: xs) q = (lastSpan xs q).or (spanByte x q) := by
  unfold lastSpan
  rw [List.foldl_cons, foldl_or, Option.or_none]

/-- Where a piece of a store begins: in scratch by offset, else by place. -/
def startOf (scratch : Bool) (x : Piece × List Byte) : Nat × List Byte := (if scratch then x.1.off else x.1.place, x.2)

theorem lastWrite_eq (ps : List (Piece × List Byte)) (scratch : Bool) (a : Nat) :
    lastWrite ps scratch a = lastSpan ((ps.filter (fun x => x.1.scratch == scratch)).map (startOf scratch)) a := by
  unfold lastWrite lastSpan
  rw [List.foldl_map, List.foldl_filter]
  congr 1
  funext acc x
  by_cases hs : x.1.scratch = scratch
  · simp only [hs, beq_self_eq_true, if_true, true_and]
    exact spanByte_or (startOf scratch x) a acc
  · simp [hs]

/-! ### Gathered bytes -/

section
variable {o : Nat} {bs : List Byte}

theorem length_place64 (h : o + bs.length ≤ 64) : (place64 o bs).length = 64 := by
  simp only [place64, List.length_append, List.length_replicate]
  omega

theorem getD_place64 {i : Nat} (h1 : o ≤ i) (h2 : i < o + bs.length) : (place64 o bs).getD i 0 = bs.getD (i - o) 0 := by
  have h3 : i - o < bs.length := by omega
  simp only [place64, List.getD_eq_getElem?_getD, List.append_assoc]
  rw [List.getElem?_append_right (by simpa using h1), List.length_replicate, List.getElem?_append_left h3]

/-- The masked bytes of a span that lies in one sector. -/
theorem maskedByte_place64 {p : Nat} {q : Nat} (hq : sectorOf q = sectorOf p) :
    maskedByte (place64 (p % 64) bs) (byteMask (p % 64) bs.length) (q % 64) = spanByte (p, bs) q := by
  have hi : q % 64 < 64 := Nat.mod_lt _ (by decide)
  simp only [sectorOf] at hq
  unfold maskedByte spanByte
  rw [laneIn_byteMask _ _ hi]
  simp only [Bool.and_eq_true, decide_eq_true_eq]
  by_cases hin : p % 64 ≤ q % 64 ∧ q % 64 < p % 64 + bs.length
  · rw [if_pos hin, if_pos (by omega), getD_place64 hin.1 hin.2]
    congr 2
    omega
  · rw [if_neg hin, if_neg (by omega)]
end

/-- What gathered stores store. -/
def gatherByte (gs : List (Nat × List Byte × Word)) (q : Nat) : Option Byte :=
  (Tab.get? gs (sectorOf q)).bind (fun x => maskedByte x.1 x.2 (q % 64))

/-- One span more is gathered. -/
def gatherOne (acc : List (Nat × List Byte × Word)) (x : Nat × List Byte) : List (Nat × List Byte × Word) :=
  match Tab.get? acc (sectorOf x.1) with
  | some (old, om) => Tab.put acc (sectorOf x.1) (overlay (byteMask (x.1 % 64) x.2.length) (place64 (x.1 % 64) x.2) old,
      om ||| byteMask (x.1 % 64) x.2.length)
  | none => Tab.put acc (sectorOf x.1) (place64 (x.1 % 64) x.2, byteMask (x.1 % 64) x.2.length)

theorem gather_eq (xs : List (Nat × List Byte)) : gather xs = xs.foldl gatherOne [] := rfl

theorem gatherOne_put (acc : List (Nat × List Byte × Word)) (x : Nat × List Byte) :
    ∃ v, gatherOne acc x = Tab.put acc (sectorOf x.1) v := by
  unfold gatherOne
  split <;> exact ⟨_, rfl⟩

theorem maskedByte_overlay (m om : Word) (bs old : List Byte) {i : Nat} (hi : i < 64) :
    maskedByte (overlay m bs old) (om ||| m) i = (maskedByte bs m i).or (maskedByte old om i) := by
  unfold maskedByte
  rw [laneIn_or, getD_overlay _ _ _ hi]
  cases laneIn m i <;> simp

section
variable {x : Nat × List Byte} (hx : x.1 % 64 + x.2.length ≤ 64)
include hx

theorem spanByte_of_ne {q : Nat} (hq : sectorOf q ≠ sectorOf x.1) : spanByte x q = none := by
  unfold spanByte
  simp only [sectorOf] at hq
  rw [if_neg (by omega)]

theorem gatherByte_gatherOne (acc : List (Nat × List Byte × Word)) (q : Nat) :
    gatherByte (gatherOne acc x) q = (spanByte x q).or (gatherByte acc q) := by
  have hi : q % 64 < 64 := Nat.mod_lt _ (by decide)
  unfold gatherByte
  by_cases hq : sectorOf q = sectorOf x.1
  · have hspan := maskedByte_place64 (bs := x.2) hq
    rw [hq]
    unfold gatherOne
    split
    next old om heq => rw [Tab.get?_put_same, heq, Option.bind_some, Option.bind_some, maskedByte_overlay _ _ _ _ hi, hspan]
    next heq => rw [Tab.get?_put_same, heq, Option.bind_some, Option.bind_none, Option.or_none, hspan]
  · obtain ⟨v, hv⟩ := gatherOne_put acc x
    rw [hv, Tab.get?_put_other _ _ _ _ hq, spanByte_of_ne hx hq, Option.none_or]

theorem length_gatherOne {acc : List (Nat × List Byte × Word)} (h : ∀ e ∈ acc, e.2.1.length = 64) :
    ∀ e ∈ gatherOne acc x, e.2.1.length = 64 := by
  intro e he
  unfold gatherOne at he
  split at he
  all_goals
    obtain rfl | he := Tab.mem_put _ _ _ _ he
    · simp [length_place64 hx]
    · exact h e he
end

/-- Stores gathered by sector: each sector stands there once, in the order of the first stores, and stores what the last store
of each byte has. -/
theorem gather_spec {xs : List (Nat × List Byte)} (hxs : ∀ x ∈ xs, x.1 % 64 + x.2.length ≤ 64) :
    (∀ q, gatherByte (gather xs) q = lastSpan xs q) ∧ (∀ e ∈ gather xs, e.2.1.length = 64)
      ∧ ((gather xs).map Prod.fst).Nodup ∧ ((gather xs).map Prod.fst).Sublist (xs.map (fun x => sectorOf x.1)) := by
  have hfold : ∀ (xs : List (Nat × List Byte)) (acc : List (Nat × List Byte × Word)),
      (∀ x ∈ xs, x.1 % 64 + x.2.length ≤ 64) → (∀ e ∈ acc, e.2.1.length = 64) →
      (∀ q, gatherByte (xs.foldl gatherOne acc) q = (lastSpan xs q).or (gatherByte acc q))
        ∧ ∀ e ∈ xs.foldl gatherOne acc, e.2.1.length = 64 := by
    intro xs
    induction xs with
    | nil => exact fun acc _ h => ⟨fun q => by rw [lastSpan_nil, Option.none_or]; rfl, h⟩
    | cons x xs ih =>
      intro acc hin h
      have hx := hin x (List.mem_cons_self ..)
      obtain ⟨h1, h2⟩ := ih (gatherOne acc x) (fun y hy => hin y (List.mem_cons_of_mem _ hy)) (length_gatherOne hx h)
      refine ⟨fun q => ?_, h2⟩
      rw [List.foldl_cons, h1, gatherByte_gatherOne hx, lastSpan_cons, Option.or_assoc]
  obtain ⟨hbytes, hlen⟩ := hfold xs [] hxs (fun e he => absurd he List.not_mem_nil)
  obtain ⟨hnd, ks, hks, hkeys⟩ := Tab.keys_foldl (key := fun x : Nat × List Byte => sectorOf x.1) gatherOne_put xs [] List.nodup_nil
  rw [gather_eq]
  refine ⟨fun q => ?_, hlen, hnd, ?_⟩
  · rw [hbytes]
    exact Option.or_none
  · rw [hkeys]
    exact hks

/-! ### Turns -/

/-- How often a list comes to another number, after `cur`. -/
def turnsFrom : Option Nat → List Nat → Nat
  | _, [] => 0
  | cur, l :: ls => (if cur = some l then 0 else 1) + turnsFrom (some l) ls

/-- The runs of equal numbers of a list. -/
def turns (ls : List Nat) : Nat := turnsFrom none ls

theorem turnsFrom_le_succ (c c' : Option Nat) (ls : List Nat) : turnsFrom c ls ≤ turnsFrom c' ls + 1 := by
  cases ls with
  | nil => exact Nat.zero_le _
  | cons l ls =>
    simp only [turnsFrom]
    split <;> split <;> omega

theorem turnsFrom_le_turns (c : Option Nat) (ls : List Nat) : turnsFrom c ls ≤ turns ls := by
  cases ls with
  | nil => exact Nat.zero_le _
  | cons l ls =>
    simp only [turns, turnsFrom]
    split <;> split <;> simp_all

theorem turnsFrom_sublist {as bs : List Nat} (h : as.Sublist bs) : ∀ c, turnsFrom c as ≤ turnsFrom c bs := by
  induction h with
  | slnil => exact fun c => le_rfl
  | @cons as bs l _ ih =>
    intro c
    have h1 := ih (some l)
    have h2 := turnsFrom_le_succ c (some l) as
    simp only [turnsFrom]
    split
    next hc => rw [hc]; omega
    next => omega
  | cons_cons l _ ih =>
    intro c
    have h1 := ih (some l)
    simp only [turnsFrom]
    omega

theorem turns_sublist {as bs : List Nat} (h : as.Sublist bs) : turns as ≤ turns bs := turnsFrom_sublist h none

theorem turnsFrom_append (as bs : List Nat) : ∀ c, turnsFrom c (as ++ bs) ≤ turnsFrom c as + turns bs := by
  induction as with
  | nil =>
    intro c
    rw [List.nil_append]
    exact (turnsFrom_le_turns c bs).trans (Nat.le_add_left ..)
  | cons a as ih =>
    intro c
    have := ih (some a)
    simp only [List.cons_append, turnsFrom]
    omega

theorem turns_le_length (ls : List Nat) : turns ls ≤ ls.length := by
  have h : ∀ c, turnsFrom c ls ≤ ls.length := by
    induction ls with
    | nil => exact fun c => le_rfl
    | cons l ls ih =>
      intro c
      have := ih (some l)
      simp only [turnsFrom, List.length_cons]
      split <;> omega
  exact h none

theorem turns_flatMap_le {α : Type} (xs : List α) (f : α → List Nat) (k : Nat) (hf : ∀ x ∈ xs, turns (f x) ≤ k) :
    turns (xs.flatMap f) ≤ xs.length * k := by
  induction xs with
  | nil => exact Nat.zero_le _
  | cons x xs ih =>
    have h1 := ih (fun y hy => hf y (List.mem_cons_of_mem _ hy))
    have h2 := hf x (List.mem_cons_self ..)
    have h3 := turnsFrom_append (f x) (xs.flatMap f) none
    rw [List.flatMap_cons, List.length_cons, Nat.succ_mul]
    unfold turns at *
    omega

theorem turns_map_le (f : Nat → Nat) (ls : List Nat) : turns (ls.map f) ≤ turns ls := by
  have h : ∀ c : Option Nat, turnsFrom (c.map f) (ls.map f) ≤ turnsFrom c ls := by
    induction ls with
    | nil => exact fun c => le_rfl
    | cons l ls ih =>
      intro c
      have := ih (some l)
      simp only [List.map_cons, turnsFrom, Option.map_some] at this ⊢
      by_cases hc : c = some l
      · subst hc
        simp only [Option.map_some, if_true]
        omega
      · rw [if_neg hc]
        split <;> omega
  exact h none

/-- Bytes one after another come to a new line of 512 only where the last one ends. -/
theorem turns_lines (a n : Nat) : turns ((List.range' a n).map (fun o => o / 512)) ≤ (n + 1022) / 512 := by
  have h : ∀ (n a c : Nat), c ≤ a / 512 →
      turnsFrom (some c) ((List.range' a n).map (fun o => o / 512)) + c ≤ max c ((a + n - 1) / 512) := by
    intro n
    induction n with
    | zero => intro a c _; simp [turnsFrom]
    | succ n ih =>
      intro a c hc
      have h1 := ih (a + 1) (a / 512) (Nat.div_le_div_right (Nat.le_succ a))
      have he : a + (n + 1) - 1 = a + 1 + n - 1 := by omega
      rw [List.range'_succ, List.map_cons, turnsFrom, he]
      simp only [Option.some.injEq]
      have h2 : a / 512 ≤ (a + 1 + n - 1) / 512 := Nat.div_le_div_right (by omega)
      split <;> omega
  cases n with
  | zero => exact Nat.zero_le _
  | succ n =>
    have h1 := h n (a + 1) (a / 512) (Nat.div_le_div_right (Nat.le_succ a))
    rw [List.range'_succ, List.map_cons]
    simp only [turns, turnsFrom, reduceCtorEq, if_false]
    omega

end Sys2Proof.Machine
end
section
/-! SUPPORT. The stores of a word: scratch in order, then memory sector by sector (05 R103, R105, 12 R249). -/

namespace Sys2Proof.Machine

open Sys2Proof.Claims

/-! ### Stores to scratch -/

theorem State.scratchWrite_teams (s : State) (tid : TeamId) (o : Nat) (bs : List Byte) :
    ∃ ts, s.scratchWrite tid o bs = { s with teams := ts } := by
  unfold State.scratchWrite State.modTeam
  split
  · exact ⟨_, rfl⟩
  · exact ⟨s.teams, rfl⟩

/-- A store to scratch stores its bytes in the team's. -/
theorem scratchAt_scratchWrite {s : State} {cx : Cx} {tm : Team} (hs : s.memoryOk = true)
    (ht : s.team? (tidOf cx.gid) = some tm) (o : Nat) (bs : List Byte) :
    (∃ tm1, (s.scratchWrite (tidOf cx.gid) o bs).team? (tidOf cx.gid) = some tm1)
      ∧ ∀ a, scratchAt (s.scratchWrite (tidOf cx.gid) o bs) cx a = (spanByte (o, bs) a).getD (scratchAt s cx a) := by
  have hwf : Memory.wf tm.scratch = true := ((State.memoryOk_iff s).mp hs).2.2 _ (Tab.get?_mem _ _ _ ht)
  have hteam : (s.scratchWrite (tidOf cx.gid) o bs).team? (tidOf cx.gid)
      = some { tm with scratch := Memory.writeN tm.scratch o bs } := by
    simp only [State.scratchWrite, State.modTeam, ht]
    exact Tab.get?_put_same _ _ _
  refine ⟨⟨_, hteam⟩, fun a => ?_⟩
  unfold scratchAt
  rw [hteam, ht]
  dsimp only
  rw [Memory.read_writeN _ _ _ _ hwf]
  unfold spanByte
  split <;> simp_all

/-- Stores to scratch, one after another. -/
def State.scratchWrites (s : State) (tid : TeamId) (xs : List (Piece × List Byte)) : State :=
  xs.foldl (fun s x => s.scratchWrite tid x.1.off x.2) s

theorem State.scratchWrites_teams (tid : TeamId) : ∀ (xs : List (Piece × List Byte)) (s : State),
    ∃ ts, s.scratchWrites tid xs = { s with teams := ts }
  | [], s => ⟨s.teams, rfl⟩
  | x :: xs, s => by
    obtain ⟨ts, h⟩ := s.scratchWrite_teams tid x.1.off x.2
    obtain ⟨ts', h'⟩ := State.scratchWrites_teams tid xs (s.scratchWrite tid x.1.off x.2)
    refine ⟨ts', h'.trans ?_⟩
    rw [h]

theorem State.scratchWrites_sameWork (s : State) (tid : TeamId) (xs : List (Piece × List Byte)) :
    SameWork s (s.scratchWrites tid xs) :=
  SameWork.foldl (fun (s : State) (x : Piece × List Byte) => s.scratchWrite tid x.1.off x.2)
    (fun t x => t.scratchWrite_sameWork tid x.1.off x.2) xs s

theorem scratchAt_scratchWrites {cx : Cx} : ∀ (xs : List (Piece × List Byte)) {s : State} {tm : Team}, s.memoryOk = true →
    s.team? (tidOf cx.gid) = some tm → ∀ a, scratchAt (s.scratchWrites (tidOf cx.gid) xs) cx a
      = (lastSpan (xs.map (startOf true)) a).getD (scratchAt s cx a)
  | [], _, _, _, _, _ => rfl
  | x :: xs, s, tm, hs, ht, a => by
    obtain ⟨⟨tm1, ht1⟩, hone⟩ := scratchAt_scratchWrite hs ht x.1.off x.2
    have hrest := scratchAt_scratchWrites xs ((s.scratchWrite_sameWork _ x.1.off x.2).ok hs) ht1 a
    rw [hone] at hrest
    refine hrest.trans ?_
    rw [List.map_cons, lastSpan_cons]
    cases lastSpan (xs.map (startOf true)) a <;> rfl

/-- A change of the teams stores nothing in memory. -/
theorem Stored.of_teams (clus : Nat) (room : Prop) (s : State) (ts : List (TeamId × Team)) :
    Served clus room s { s with teams := ts } :=
  ⟨fun _ _ _ => .inl rfl, fun _ _ _ => rfl, fun _ _ h => (by cases h), fun _ _ => .inr rfl, fun _ _ => .inl rfl, fun _ h => h,
    fun _ => rfl, fun _ => rfl, rfl⟩

theorem State.scratchWrites_sound {s : State} (hs : s.Sound) (tid : TeamId) (xs : List (Piece × List Byte)) :
    (s.scratchWrites tid xs).Sound := by
  have hok := (s.scratchWrites_sameWork tid xs).ok hs.ok
  obtain ⟨ts, h⟩ := State.scratchWrites_teams tid xs s
  rw [h] at hok ⊢
  exact ⟨hs.unmoved, ⟨hs.sectors.rising, hs.sectors.l1, hs.sectors.l2⟩, hok⟩

/-! ### Stores to memory, sector by sector -/

/-- The most lines that the L2 holds once it holds one more and another leaves the L1 for it; with no line at hand, those
that it holds. -/
def State.useAfter (s : State) (clus : Nat) : Option Nat → Nat
  | none => s.l2lines.length
  | some l => s.lineCost clus l

theorem State.lineCost_le_useAfter (s : State) (clus : Nat) (cur : Option Nat) (l : Nat) :
    s.lineCost clus l ≤ s.useAfter clus cur + 2 * if cur = some l then 0 else 1 := by
  have h1 := s.lineCost_le clus l
  cases cur with
  | none => simpa [State.useAfter] using h1
  | some k =>
    have h2 := s.length_le_lineCost clus k
    simp only [State.useAfter, Option.some.injEq]
    split
    next h => rw [h]; omega
    next => omega

theorem gatherByte_cons {e : Nat × List Byte × Word} {gs : List (Nat × List Byte × Word)}
    (hnd : ((e :: gs).map Prod.fst).Nodup) (q : Nat) :
    gatherByte (e :: gs) q = (gatherByte gs q).or (secBytes e.1 e.2.1 e.2.2 q) := by
  rw [List.map_cons, List.nodup_cons] at hnd
  unfold gatherByte secBytes
  by_cases hq : sectorOf q = e.1
  · rw [Tab.get?_eq_none_of (t := gs) (hq ▸ hnd.1), Option.bind_none, Option.none_or, if_pos hq]
    simp [Tab.get?, hq]
  · rw [if_neg hq, Option.or_none]
    have : Tab.get? (e :: gs) (sectorOf q) = Tab.get? gs (sectorOf q) := by
      unfold Tab.get?
      rw [List.find?_cons_of_neg (by simpa using fun h : e.1 = _ => hq h.symm)]
    rw [this]

section
variable {clus : Nat} {wr : State → Nat × List Byte × Word → State}
  (hwr : ∀ t e, t.Sound → e.2.1.length = 64 → Through clus (e.1 / 8) (secBytes e.1 e.2.1 e.2.2) t (wr t e))
  (htend : ∀ t e, Tended t (wr t e))
include hwr htend

/-- Writes of one sector each store what they have of each byte, and fill the L2 with at most two lines for each turn of
their lines. -/
theorem writes_stored : ∀ (gs : List (Nat × List Byte × Word)) (cur : Option Nat) {s : State}, s.Sound →
    (∀ e ∈ gs, e.2.1.length = 64) → (gs.map Prod.fst).Nodup →
    Stored clus (gatherByte gs) (s.useAfter clus cur + 2 * turnsFrom cur (gs.map (fun e => e.1 / 8)) ≤ sliceLines) s
      (gs.foldl wr s)
  | [], _, s, _, _, _ => Stored.refl ..
  | e :: gs, cur, s, hs, hlen, hnd => by
    have hone := hwr s e hs (hlen e (List.mem_cons_self ..))
    have hcost := s.lineCost_le_useAfter clus cur (e.1 / 8)
    have hroom1 (hr : s.useAfter clus cur + 2 * turnsFrom cur ((e :: gs).map (fun e => e.1 / 8)) ≤ sliceLines) :
        s.lineCost clus (e.1 / 8) + 2 * turnsFrom (some (e.1 / 8)) (gs.map (fun e => e.1 / 8)) ≤ sliceLines := by
      rw [List.map_cons, turnsFrom, Nat.mul_add] at hr
      omega
    have hrest := writes_stored gs (some (e.1 / 8)) (hone.stored.sound hs (htend s e))
      (fun x hx => hlen x (List.mem_cons_of_mem _ hx)) (List.nodup_cons.mp hnd).2
    refine ((hone.stored.mono (fun hr => (Nat.le_add_right _ _).trans (hroom1 hr))).trans hrest (fun hr => ?_)).congr
      (gatherByte_cons hnd)
    have h1 := hroom1 hr
    have h2 := hone.cost ((Nat.le_add_right _ _).trans h1)
    simp only [State.useAfter]
    omega

end

/-! ### The pieces of a word's stores -/

section
variable {cx : Cx} {wr : State → Nat → List Byte → Word → Hint → State} {ps : List (Piece × List Byte)} {s : State}

/-- The stores to memory of some pieces. -/
def memSpans (ps : List (Piece × List Byte)) : List (Nat × List Byte) :=
  (ps.filter (fun x => x.1.scratch == false)).map (startOf false)

theorem State.putPieces_eq (s : State) (cx : Cx) (wr : State → Nat → List Byte → Word → Hint → State)
    (ps : List (Piece × List Byte)) : s.putPieces cx wr ps
      = (gather (memSpans ps)).foldl (fun s x => wr s x.1 x.2.1 x.2.2 (pageHint (ps.map Prod.fst) x.1))
          (s.scratchWrites (tidOf cx.gid) (ps.filter (fun x => x.1.scratch))) := by
  have hspans : (ps.filter (fun x => !x.1.scratch)).map (fun x => (x.1.place, x.2)) = memSpans ps := by
    have hf : (fun x : Piece × List Byte => !x.1.scratch) = fun x => x.1.scratch == false := by
      funext x
      cases x.1.scratch <;> rfl
    rw [memSpans, hf]
    rfl
  rw [← hspans]
  rfl

theorem mem_memSpans (hps : ∀ x ∈ ps, x.1.scratch = false → x.1.place % 64 + x.2.length ≤ 64) :
    ∀ x ∈ memSpans ps, x.1 % 64 + x.2.length ≤ 64 := by
  intro x hx
  obtain ⟨y, hy, rfl⟩ := List.mem_map.mp hx
  obtain ⟨hy, hsc⟩ := List.mem_filter.mp hy
  exact hps y hy (by simpa using hsc)

/-- The lines of the stores to memory of some pieces, in order. -/
def memLines (ps : List (Piece × List Byte)) : List Nat := (memSpans ps).map (fun x => x.1 / 512)

section
variable (htend : ∀ t sec bs m ret, Tended t (wr t sec bs m ret))
include htend

theorem State.putPieces_sameWork (s : State) (ps : List (Piece × List Byte)) : SameWork s (s.putPieces cx wr ps) := by
  rw [State.putPieces_eq]
  exact (s.scratchWrites_sameWork ..).trans (Tended.foldl _ (fun t x => htend t _ _ _ _) _ _).toSameWork

/-- What a word's stores leave of the scratch of its team. -/
theorem scratchAt_putPieces {tm : Team} (hs : s.memoryOk = true) (ht : s.team? (tidOf cx.gid) = some tm) (a : Nat) :
    scratchAt (s.putPieces cx wr ps) cx a = (lastWrite ps true a).getD (scratchAt s cx a) := by
  rw [State.putPieces_eq, (Tended.foldl _ (fun t x => htend t _ _ _ _) _ _).scratchAt, scratchAt_scratchWrites _ hs ht,
    lastWrite_eq]
  have hf : (fun x : Piece × List Byte => x.1.scratch == true) = fun x => x.1.scratch := by
    funext x
    cases x.1.scratch <;> rfl
  rw [hf]

/-- A word's stores to memory, sector by sector. -/
theorem State.putPieces_stored (hs : s.Sound)
    (hwr : ∀ t sec bs m ret, t.Sound → bs.length = 64 →
      Through cx.g.core.clus (sec / 8) (secBytes sec bs m) t (wr t sec bs m ret))
    (hps : ∀ x ∈ ps, x.1.scratch = false → x.1.place % 64 + x.2.length ≤ 64) :
    Stored cx.g.core.clus (lastWrite ps false) (s.l2lines.length + 2 * turns (memLines ps) ≤ sliceLines) s
      (s.putPieces cx wr ps) := by
  obtain ⟨hbytes, hlen, hnd, hsub⟩ := gather_spec (mem_memSpans hps)
  have hsc := State.scratchWrites_sound hs (tidOf cx.gid) (ps.filter (fun x => x.1.scratch))
  have hwrites := writes_stored (clus := cx.g.core.clus)
    (wr := fun s x => wr s x.1 x.2.1 x.2.2 (pageHint (ps.map Prod.fst) x.1))
    (fun t e ht hl => hwr t e.1 e.2.1 e.2.2 _ ht hl) (fun t e => htend t _ _ _ _) (gather (memSpans ps)) none hsc hlen hnd
  have hturns : turns ((gather (memSpans ps)).map (fun e => e.1 / 8)) ≤ turns (memLines ps) := by
    have hs := hsub.map (fun sec => sec / 8)
    rw [List.map_map, List.map_map] at hs
    have he : (fun sec => sec / 8) ∘ (fun x : Nat × List Byte => sectorOf x.1) = fun x => x.1 / 512 := by
      funext x
      simp only [Function.comp_apply, sectorOf]
      omega
    rw [he] at hs
    exact turns_sublist hs
  obtain ⟨ts, hts⟩ := State.scratchWrites_teams (tidOf cx.gid) (ps.filter (fun x => x.1.scratch)) s
  have hlines : (s.scratchWrites (tidOf cx.gid) (ps.filter (fun x => x.1.scratch))).l2lines = s.l2lines := by rw [hts]
  rw [State.putPieces_eq]
  refine (Stored.trans (w := fun _ => none) (room' := s.l2lines.length + 2 * turns (memLines ps) ≤ sliceLines) ?_ (hwrites.mono (fun hr => ?_))
    id).congr (fun q => ?_)
  · rw [hts]
    exact Stored.of_teams ..
  · simp only [State.useAfter, hlines]
    unfold turns at hturns hr
    omega
  · rw [lastWrite_eq, hbytes]
    exact Option.or_none.symm
end

/-- What is left as it was once a word's stores are done. -/
theorem Stored.memKept {clus : Nat} {w : Nat → Option Byte} {room : Prop} {s t : State} (h : Stored clus w room s t) {a : Nat}
    (ha : w a = none) : memKept s t clus a := by
  refine (h.mem a ha).imp id (fun ho => ?_)
  unfold owedAt at ho
  cases hx : s.l1Sector clus (sectorOf a) with
  | none => rw [hx] at ho; cases ho
  | some x =>
    rw [hx, Option.bind_some, Sector.owedByte] at ho
    split at ho
    next hm => exact ⟨x, rfl, hm, (Option.some.inj ho).symm⟩
    next => cases ho

theorem Stored.kept {clus : Nat} {w : Nat → Option Byte} {room : Prop} {s t : State} (h : Stored clus w room s t)
    (hr : l2Room s → room) : Kept s t clus (fun q => w q ≠ none) :=
  ⟨fun q hq hc => h.seen q (not_not.mp hq) (hc.imp id hr), fun _ ha => h.memKept (not_not.mp ha), fun hroom => h.host (hr hroom)⟩

end

end Sys2Proof.Machine
end
section
/-! SUPPORT. The plain and the releasing stores of a word (05 R103, R105, 12 R249). -/

namespace Sys2Proof.Machine

open Sys2Proof.Claims

/-! ### Plain stores, and stores at the point of coherence of .dev -/

section
variable (s : State) (cx : Cx) (sc : Scope) (h : Hint) (ps : List Piece) (sec : Nat) (bs : List Byte) (m : Word) (ret : Hint)
  (whole : Nat → Bool)

theorem storePlain_tended : Tended s (storePlain cx h s sec bs m ret whole) :=
  (s.countL1_tended cx sec m).trans (State.plainWrite_tended ..)

theorem storeRelease_tended : Tended s (storeRelease cx sc h ps s sec bs m ret) := by
  have hthrough : Tended s ((s.writeThrough cx.g.core.clus sec bs m (some (l2Hint h ret))).noteLine cx.g.core.clus sec h) :=
    (State.writeThrough_tended ..).trans (State.noteLine_tended ..)
  unfold storeRelease
  cases sc with
  | dev => exact hthrough
  | sys => exact hthrough.trans (State.wbL2_tended ..)
  | grp => exact storePlain_tended ..
  | team => exact storePlain_tended ..
end

section
variable {s : State} (hs : s.Sound) (cx : Cx) (h : Hint) (sec : Nat) {bs : List Byte} (hlen : bs.length = 64) (m : Word) (ret : Hint)
include hs hlen

theorem storePlain_through (whole : Nat → Bool) :
    Through cx.g.core.clus (sec / 8) (secBytes sec bs m) s (storePlain cx h s sec bs m ret whole) :=
  (State.countL1_through s cx sec m cx.g.core.clus (sec / 8)).served
    (State.plainWrite_through (State.countL1_sound hs cx sec m) cx.g.core.clus sec hlen m h (l2Hint h ret) (whole sec))

/-- A store at the point of coherence of .dev. -/
theorem writeNote_through : Through cx.g.core.clus (sec / 8) (secBytes sec bs m) s
    ((s.writeThrough cx.g.core.clus sec bs m (some (l2Hint h ret))).noteLine cx.g.core.clus sec h) :=
  ((State.writeThrough_through hs cx.g.core.clus sec hlen m (some (l2Hint h ret)) (m == fullMask 64)).trans
    (State.noteLine_through (State.writeThrough_sound hs cx.g.core.clus sec hlen m (some (l2Hint h ret)) (m == fullMask 64))
      cx.g.core.clus sec (sec / 8) h)).congr (fun _ => rfl)

theorem storeRelease_through {sc : Scope} (hsc : sc ≠ .sys) (ps : List Piece) :
    Through cx.g.core.clus (sec / 8) (secBytes sec bs m) s (storeRelease cx sc h ps s sec bs m ret) := by
  unfold storeRelease
  cases sc with
  | dev => exact writeNote_through hs cx h sec hlen m ret
  | sys => exact absurd rfl hsc
  | grp => exact storePlain_through hs cx h sec hlen m ret _
  | team => exact storePlain_through hs cx h sec hlen m ret _
end

/-! ### Stores at the owner (12 R249) -/

/-- What the package's L2 holds of a place. -/
def l2At (s : State) (q : Nat) : Option Byte := (s.l2Sector (sectorOf q)).bind (fun x => x.heldByte (q % 64))

/-- What the package's caches hold of a place of a peer or of the host, as a cluster finds it. -/
def cachedAt (s : State) (clus q : Nat) : Option Byte := (heldAt s clus q).or (l2At s q)

theorem seenAt_of_cachedAt {s : State} {clus q : Nat} {v : Byte} (hq : isLocal q = false) (h : cachedAt s clus q = some v) :
    seenAt s clus q = v := by
  rw [seenAt_eq, belowAt_of_not_isLocal s hq]
  unfold cachedAt l2At at h
  cases hh : heldAt s clus q with
  | some x =>
    rw [hh, Option.some_or] at h
    exact Option.some.inj h
  | none =>
    rw [hh, Option.none_or] at h
    rw [h]
    rfl

theorem State.onlySends.l2 {s t : State} (h : s.onlySends t) : t.l2 = s.l2 := by
  have := congrArg State.l2 h; exact this
theorem State.onlySends.l2lines {s t : State} (h : s.onlySends t) : t.l2lines = s.l2lines := by
  have := congrArg State.l2lines h; exact this

section
variable (s : State) (ctx sec : Nat) (who : Option (GroupId × TrapInfo))

theorem State.wbL2_l2lines : (s.wbL2 ctx sec who).1.l2lines = s.l2lines := by
  unfold State.wbL2
  split
  · rfl
  · split
    · rfl
    · split
      · rfl
      · exact (State.sendRemote_onlySends ..).l2lines

/-- A write-back of the L2 leaves the bytes that it holds. -/
theorem l2At_wbL2 (q : Nat) : l2At (s.wbL2 ctx sec who).1 q = l2At s q := by
  unfold State.wbL2
  split
  · rfl
  next x hx =>
    split
    · rfl
    · split
      · unfold l2At
        rw [State.l2Sector_setL2]
        split
        next hq =>
          rw [hq, hx]
          rfl
        next => rfl
      · simp only [l2At, State.l2Sector, (State.sendRemote_onlySends ..).l2]
end

section
variable {s : State} (hs : s.Sound) {sec : Nat} {bs : List Byte} (hlen : bs.length = 64) (m : Word)
include hs hlen

omit hs hlen in
theorem l2At_writeBelow (hr : s.hasRoom (sec / 8)) (h : Option Hint) (whole : Bool) {q : Nat} (hq : isLocal q = false) :
    l2At (s.writeBelow sec bs m h whole) q = (secBytes sec bs m q).or (l2At s q) := by
  have hi : q % 64 < 64 := Nat.mod_lt _ (by decide)
  unfold State.writeBelow
  split
  next hl =>
    have hsec : sectorOf q ≠ sec := by
      rintro rfl
      rw [isLocal_sectorBase, hq] at hl
      cases hl
    rw [secBytes, if_neg hsec, Option.none_or]
    split
    · obtain ⟨ls, he, -⟩ := State.noteL2_room s sec h hr
      rw [he]
      rfl
    · rfl
  next hl =>
    obtain ⟨ls, -, he⟩ := s.l2Merge_room sec bs m h hr
    unfold l2At secBytes
    rw [he, State.l2Sector_setL2]
    split
    next hsec =>
      rw [Option.bind_some, Sector.heldByte_merged _ _ _ hi, hsec]
      cases s.l2Sector sec with
      | none => simp
      | some x => rfl
    next => rfl

/-- A store beneath the L1 comes to the package's caches. -/
theorem cachedAt_writeThrough (clus : Nat) (hr : s.hasRoom (sec / 8)) (h : Option Hint) (whole : Bool) {q : Nat}
    (hq : isLocal q = false) :
    cachedAt (s.writeThrough clus sec bs m h whole) clus q = (secBytes sec bs m q).or (cachedAt s clus q) := by
  have hl := State.writeBelow_lowered hs (sec := sec) hlen m h whole
  have hi : q % 64 < 64 := Nat.mod_lt _ (by decide)
  have hbelow := l2At_writeBelow (bs := bs) m hr h whole hq
  have hrise : Sparse.rising 0 (s.writeBelow sec bs m h whole).clusters = true := by rw [hl.clusters]; exact hs.sectors.rising
  unfold State.writeThrough
  dsimp only
  rw [hl.l1Sector]
  split
  next x hx =>
    have hset : l2At ((s.writeBelow sec bs m h whole).setL1 clus sec (some (x.pass bs m))) q
        = l2At (s.writeBelow sec bs m h whole) q := rfl
    unfold cachedAt
    rw [hset, hbelow, heldAt_setL1 hrise, hl.heldAt_eq]
    split
    next hsec =>
      rw [Sector.heldByte_pass _ _ _ hi, secBytes, if_pos hsec]
      have hheld : heldAt s clus q = x.heldByte (q % 64) := by unfold heldAt; rw [hsec, hx]; rfl
      rw [hheld]
      cases maskedByte bs m (q % 64) <;> cases x.heldByte (q % 64) <;> rfl
    next hsec => rw [secBytes, if_neg hsec, Option.none_or, Option.none_or]
  next hx =>
    unfold cachedAt
    rw [hbelow, hl.heldAt_eq]
    by_cases hsec : sectorOf q = sec
    · have hheld : heldAt s clus q = none := by unfold heldAt; rw [hsec, hx]; rfl
      rw [hheld, Option.none_or, Option.none_or]
    · rw [secBytes, if_neg hsec, Option.none_or, Option.none_or]

end

section
variable {s : State} (hs : s.Sound) (cx : Cx) (h : Hint) (ps : List Piece) (sec : Nat) {bs : List Byte} (hlen : bs.length = 64)
  (m : Word) (ret : Hint)
include hs hlen

/-- A store at the owner, beside the place itself: no room is claimed, since bus pages may share host memory. -/
theorem storeRelease_sys_stored : Stored cx.g.core.clus (secBytes sec bs m) False s (storeRelease cx .sys h ps s sec bs m ret) := by
  have hw := (writeNote_through hs cx h sec hlen m ret).stored.mono (room' := False) (fun hf => hf.elim)
  exact (hw.trans (Stored.of_package (clus := cx.g.core.clus) (State.wbL2_onlyPackage ..) (fun hf => hf.elim)) id).congr
    (fun _ => rfl)

theorem cachedAt_storeRelease_sys (hr : s.hasRoom (sec / 8)) {q : Nat} (hq : isLocal q = false) :
    cachedAt (storeRelease cx .sys h ps s sec bs m ret) cx.g.core.clus q
      = (secBytes sec bs m q).or (cachedAt s cx.g.core.clus q) := by
  have hsound := State.writeThrough_sound hs cx.g.core.clus sec hlen m (some (l2Hint h ret)) (m == fullMask 64)
  rw [← cachedAt_writeThrough hs hlen m cx.g.core.clus hr (some (l2Hint h ret)) (m == fullMask 64) hq]
  unfold cachedAt
  rw [storeRelease, l2At_wbL2]
  have hheld : heldAt (State.wbL2 ((s.writeThrough cx.g.core.clus sec bs m (some (l2Hint h ret))).noteLine cx.g.core.clus sec h)
      cx.ctx sec (storeWho cx ps sec)).1 cx.g.core.clus q
      = heldAt (s.writeThrough cx.g.core.clus sec bs m (some (l2Hint h ret))) cx.g.core.clus q := by
    rw [(State.wbL2_onlyPackage ..).heldAt]
    unfold heldAt
    rw [State.l1Sector_noteLine hsound.sectors.rising]
  rw [hheld]
  rfl

theorem lines_storeRelease_sys (hr : s.hasRoom (sec / 8)) :
    (storeRelease cx .sys h ps s sec bs m ret).l2lines.length ≤ s.l2lines.length + 1 := by
  have hone := ((State.writeThrough_access hs cx.g.core.clus sec hlen m (some (l2Hint h ret)) (m == fullMask 64)).lines hr).use
  rw [storeRelease, State.wbL2_l2lines]
  have hnote : ((s.writeThrough cx.g.core.clus sec bs m (some (l2Hint h ret))).noteLine cx.g.core.clus sec h).l2lines
      = (s.writeThrough cx.g.core.clus sec bs m (some (l2Hint h ret))).l2lines := rfl
  rw [hnote]
  unfold State.lineUse at hone
  split at hone <;> split at hone <;> omega

end

/-- Stores at the owner, sector by sector: those to peers and to the host stand in the package's caches. -/
theorem cachedAt_writes (cx : Cx) (h : Hint) (qs : List Piece) {q : Nat} (hq : isLocal q = false) (ret : Nat → Hint) :
    ∀ (gs : List (Nat × List Byte × Word)) {s : State}, s.Sound → (∀ e ∈ gs, e.2.1.length = 64) → (gs.map Prod.fst).Nodup →
      s.l2lines.length + gs.length ≤ sliceLines →
      cachedAt (gs.foldl (fun s x => storeRelease cx .sys h qs s x.1 x.2.1 x.2.2 (ret x.1)) s) cx.g.core.clus q
        = (gatherByte gs q).or (cachedAt s cx.g.core.clus q)
  | [], _, _, _, _, _ => rfl
  | e :: gs, s, hs, hlen, hnd, hfew => by
    have hl := hlen e (List.mem_cons_self ..)
    have hr : s.hasRoom (e.1 / 8) := by
      rw [List.length_cons] at hfew
      unfold State.hasRoom State.lineUse
      split <;> omega
    have hsound := (storeRelease_sys_stored hs cx h qs e.1 hl e.2.2 (ret e.1)).sound hs (storeRelease_tended ..)
    have hmore := lines_storeRelease_sys hs cx h qs e.1 hl e.2.2 (ret e.1) hr
    have hrest := cachedAt_writes cx h qs hq ret gs hsound (fun x hx => hlen x (List.mem_cons_of_mem _ hx))
      (List.nodup_cons.mp hnd).2 (by rw [List.length_cons] at hfew; omega)
    rw [List.foldl_cons, hrest, cachedAt_storeRelease_sys hs cx h qs e.1 hl e.2.2 (ret e.1) hr hq, gatherByte_cons hnd,
      Option.or_assoc]

/-- Writes of one sector each, as local memory tells them. -/
theorem writes_stored_local {clus : Nat} {wr : State → Nat × List Byte × Word → State}
    (hwr : ∀ t e, t.Sound → e.2.1.length = 64 → Stored clus (secBytes e.1 e.2.1 e.2.2) False t (wr t e))
    (htend : ∀ t e, Tended t (wr t e)) : ∀ (gs : List (Nat × List Byte × Word)) {s : State}, s.Sound →
      (∀ e ∈ gs, e.2.1.length = 64) → (gs.map Prod.fst).Nodup → Stored clus (gatherByte gs) False s (gs.foldl wr s)
  | [], _, _, _, _ => Stored.refl ..
  | e :: gs, s, hs, hlen, hnd =>
    have hone := hwr s e hs (hlen e (List.mem_cons_self ..))
    (hone.trans (writes_stored_local hwr htend gs (hone.sound hs (htend s e)) (fun x hx => hlen x (List.mem_cons_of_mem _ hx))
      (List.nodup_cons.mp hnd).2) id).congr (gatherByte_cons hnd)

section
variable {cx : Cx} {wr : State → Nat → List Byte → Word → Hint → State} {ps : List (Piece × List Byte)} {s : State}

/-- A word's stores to memory, as local memory tells them. -/
theorem State.putPieces_stored_local (htend : ∀ t sec bs m ret, Tended t (wr t sec bs m ret)) (hs : s.Sound)
    (hwr : ∀ t sec bs m ret, t.Sound → bs.length = 64 → Stored cx.g.core.clus (secBytes sec bs m) False t (wr t sec bs m ret))
    (hps : ∀ x ∈ ps, x.1.scratch = false → x.1.place % 64 + x.2.length ≤ 64) :
    Stored cx.g.core.clus (lastWrite ps false) False s (s.putPieces cx wr ps) := by
  obtain ⟨hbytes, hlen, hnd, -⟩ := gather_spec (mem_memSpans hps)
  have hsc := State.scratchWrites_sound hs (tidOf cx.gid) (ps.filter (fun x => x.1.scratch))
  have hwrites := writes_stored_local (clus := cx.g.core.clus)
    (wr := fun s x => wr s x.1 x.2.1 x.2.2 (pageHint (ps.map Prod.fst) x.1))
    (fun t e ht hl => hwr t e.1 e.2.1 e.2.2 _ ht hl) (fun t e => htend t _ _ _ _) (gather (memSpans ps)) hsc hlen hnd
  obtain ⟨ts, hts⟩ := State.scratchWrites_teams (tidOf cx.gid) (ps.filter (fun x => x.1.scratch)) s
  rw [State.putPieces_eq]
  refine (Stored.trans (w := fun _ => none) (room := False) ?_ hwrites id).congr (fun q => ?_)
  · rw [hts]
    exact Stored.of_teams ..
  · rw [lastWrite_eq, hbytes]
    exact Option.or_none.symm

/-- A word's stores at the owner, as the package's caches hold them. -/
theorem cachedAt_putPieces_sys (hs : s.Sound) {h : Hint} {qs : List Piece}
    (hps : ∀ x ∈ ps, x.1.scratch = false → x.1.place % 64 + x.2.length ≤ 64) {q : Nat} (hq : isLocal q = false)
    (hfew : s.l2lines.length + (memSpans ps).length ≤ sliceLines) :
    cachedAt (s.putPieces cx (storeRelease cx .sys h qs) ps) cx.g.core.clus q
      = (lastWrite ps false q).or (cachedAt s cx.g.core.clus q) := by
  obtain ⟨hbytes, hlen, hnd, hsub⟩ := gather_spec (mem_memSpans hps)
  have hsc := State.scratchWrites_sound hs (tidOf cx.gid) (ps.filter (fun x => x.1.scratch))
  obtain ⟨ts, hts⟩ := State.scratchWrites_teams (tidOf cx.gid) (ps.filter (fun x => x.1.scratch)) s
  have hlines : (s.scratchWrites (tidOf cx.gid) (ps.filter (fun x => x.1.scratch))).l2lines = s.l2lines := by rw [hts]
  have hcached : cachedAt (s.scratchWrites (tidOf cx.gid) (ps.filter (fun x => x.1.scratch))) cx.g.core.clus q
      = cachedAt s cx.g.core.clus q := by
    rw [hts]
    rfl
  have hcount := hsub.length_le
  rw [List.length_map, List.length_map] at hcount
  rw [State.putPieces_eq, cachedAt_writes cx h qs hq (pageHint (ps.map Prod.fst)) (gather (memSpans ps)) hsc hlen hnd
    (by rw [hlines]; omega), hcached, hbytes, lastWrite_eq]
  rfl
end

end Sys2Proof.Machine
end
section
/-! PROOFS. st (05 R103, R105, R106, 12 R249). -/

namespace Sys2Proof.Proofs

open Sys2Proof Sys2Proof.Machine Sys2Proof.Claims

/-! ### The pieces of a store -/

/-- Bytes along the pieces of an access are no longer than these. -/
theorem mem_alongPieces : ∀ {qs : List Piece} {bs : List Byte} {x : Piece × List Byte}, x ∈ alongPieces qs bs →
    x.1 ∈ qs ∧ x.2.length ≤ x.1.n
  | [], _, _, h => absurd h List.not_mem_nil
  | q :: qs, bs, x, h => by
    obtain rfl | h := List.mem_cons.mp h
    · exact ⟨List.mem_cons_self .., by simp⟩
    · obtain ⟨h1, h2⟩ := mem_alongPieces h
      exact ⟨List.mem_cons_of_mem _ h1, h2⟩

theorem map_fst_alongPieces : ∀ (qs : List Piece) (bs : List Byte), (alongPieces qs bs).map Prod.fst = qs
  | [], _ => rfl
  | q :: qs, bs => by rw [alongPieces, List.map_cons, map_fst_alongPieces qs]

/-- A piece of a store to virtual memory lies in one sector. -/
theorem alongPieces_within {rs : List Region} {a : LaneAcc} {bs : List Byte} (hseg : a.seg = 0xFE ∨ a.seg.toNat < 0xFC)
    (hmap : a.seg.toNat < 0xFC → Mapped rs a) {x : Piece × List Byte} (hx : x ∈ alongPieces (splitAcc rs a) bs)
    (hsc : x.1.scratch = false) : x.1.place % 64 + x.2.length ≤ 64 := by
  obtain ⟨hq, hlen⟩ := mem_alongPieces hx
  have hvirt : a.seg.toNat < 0xFC := by
    refine hseg.resolve_left (fun he => ?_)
    rw [(mem_splitAcc hq).2.1, he] at hsc
    cases hsc
  have := ((hmap hvirt).piece hq).1
  omega

section
variable {cx : Cx} {wd : Width} {m : Addr} {b : Src} {rs : List Region}

theorem storePieces_eq {accs : List LaneAcc} (h : ∀ a ∈ accs, a.seg ≠ 0xFD) : storePieces cx wd b rs accs
    = accs.flatMap (fun a => alongPieces (splitAcc rs a) (storeBytes cx wd b a.lane)) := by
  rw [storePieces, List.filter_eq_self.mpr (fun a ha => by simpa using h a ha)]

theorem storePieces_within {accs : List LaneAcc} (hne : ∀ a ∈ accs, a.seg ≠ 0xFD)
    (hseg : ∀ a ∈ accs, a.seg = 0xFE ∨ a.seg.toNat < 0xFC) (hmap : ∀ a ∈ accs, a.seg.toNat < 0xFC → Mapped rs a) :
    ∀ x ∈ storePieces cx wd b rs accs, x.1.scratch = false → x.1.place % 64 + x.2.length ≤ 64 := by
  intro x hx hsc
  rw [storePieces_eq hne] at hx
  obtain ⟨a, ha, hx⟩ := List.mem_flatMap.mp hx
  exact alongPieces_within (hseg a ha) (hmap a ha) hx hsc

theorem length_storePieces_le : (storePieces cx wd b rs (byteAccs cx m (widthBytes wd))).length ≤ 1024 := by
  have hw : widthBytes wd ≤ 16 := by cases wd <;> decide
  have hlen : ((byteAccs cx m (widthBytes wd)).filter (fun a => a.seg != 0xFD)).length ≤ 64 := by
    refine (List.length_filter_le ..).trans ?_
    rw [byteAccs, List.length_map]
    exact length_lanes_le _
  have hpieces := length_flatMap_splitAcc_le rs hlen (n := 16) (fun a ha => by
    rw [n_of_mem_byteAccs (List.mem_of_mem_filter ha)]
    exact hw)
  have hmap : (storePieces cx wd b rs (byteAccs cx m (widthBytes wd))).map Prod.fst
      = ((byteAccs cx m (widthBytes wd)).filter (fun a => a.seg != 0xFD)).flatMap (splitAcc rs) := by
    rw [storePieces, List.map_flatMap]
    exact List.flatMap_congr (fun a _ => map_fst_alongPieces ..)
  rw [← hmap, List.length_map] at hpieces
  exact hpieces

@[simp] theorem storeBytes_fetched (u : Uses) (ms : Members) (l : Nat) :
    storeBytes (cx.fetched u ms) wd b l = storeBytes cx wd b l := by
  unfold storeBytes
  simp only [Cx.src_fetched, Cx.val_fetched]

theorem storePieces_fetched (u : Uses) (ms : Members) (accs : List LaneAcc) :
    storePieces (cx.fetched u ms) wd b rs accs = storePieces cx wd b rs accs := by
  simp only [storePieces, storeBytes_fetched]
end

/-! ### The word -/

/-- The store that an order and a scope call for. -/
def storerOf (cx : Cx) (o : Order) (sc : Scope) (h : Hint) (qs : List Piece) : State → Nat → List Byte → Word → Hint → State :=
  if releases o then storeRelease cx sc h qs else storePlain cx h

theorem storerOf_tended (cx : Cx) (o : Order) (sc : Scope) (h : Hint) (qs : List Piece) (t : State) (sec : Nat) (bs : List Byte)
    (m : Word) (ret : Hint) : Tended t (storerOf cx o sc h qs t sec bs m ret) := by
  unfold storerOf
  split
  · exact storeRelease_tended ..
  · exact storePlain_tended ..

theorem storerOf_through {cx : Cx} {o : Order} {sc : Scope} (hsc : releases o = false ∨ sc ≠ .sys) (h : Hint) (qs : List Piece)
    (t : State) (sec : Nat) (bs : List Byte) (m : Word) (ret : Hint) (ht : t.Sound) (hlen : bs.length = 64) :
    Through cx.g.core.clus (sec / 8) (secBytes sec bs m) t (storerOf cx o sc h qs t sec bs m ret) := by
  unfold storerOf
  split
  next hr => exact storeRelease_through ht cx h sec hlen m ret (hsc.resolve_left (by simp [hr])) qs
  next => exact storePlain_through ht cx h sec hlen m ret _

section
variable {wd : Width} {o : Order} {sc : Scope} {h : Hint} {m : Addr} {b : Src} {s s1 s2 : State} {cx : Cx} {rs : List Region}
  {g : Guard}

theorem exec_st (g : Guard) (wd : Width) (o : Order) (sc : Scope) (h : Hint) (m : Addr) (b : Src) (s : State) :
    exec (.st g wd o sc h m b) s = issueMasked g (stUses wd m b) (stBody wd o sc h m b) s := rfl

/-- What the checks of a store come to where none of its lanes names the copy aperture. -/
theorem storeSegFault_of_no_start {accs : List LaneAcc} (hne : ∀ a ∈ accs, a.seg ≠ 0xFD) {z : Nat}
    (hearly : earlyFault cx z accs = none) :
    ((storeSegFault wd accs).or (alignFault z accs)).or (scratchFault cx.scratchSize accs) = none ∧ startsOf cx wd b accs = [] := by
  simp only [earlyFault, Option.or_eq_none_iff] at hearly ⊢
  obtain ⟨⟨hseg, halign⟩, hscr⟩ := hearly
  refine ⟨⟨⟨?_, halign⟩, hscr⟩, ?_⟩
  · rw [segFault, Option.map_eq_none_iff, List.find?_eq_none] at hseg
    rw [storeSegFault, Option.map_eq_none_iff, List.find?_eq_none]
    intro a ha
    have hnot := hseg a ha
    simp only [Bool.or_eq_true, beq_iff_eq, not_or] at hnot
    obtain ⟨⟨h1, h2⟩, h3⟩ := hnot
    rw [beq_false_of_ne h1, beq_false_of_ne h2, beq_false_of_ne h3]
    simp
  · rw [startsOf, List.filter_eq_nil_iff.mpr (fun a ha => by simpa using hne a ha)]
    rfl

theorem startsFault_nil (s : State) (cx : Cx) : startsFault s cx [] = none := by
  unfold startsFault
  cases s.team? (tidOf cx.gid) <;> rfl

theorem copiesWait_nil (t : Team) : copiesWait t [] = false := by simp [copiesWait]

/-- The scope at which a store releases what was written before it. -/
def storeNeed (o : Order) (sc : Scope) : Scope := if releases o && (sc == .dev || sc == .sys) then sc else .grp

/-- A store that no check and no write-back holds back stores its pieces. -/
theorem stBody_stores (hne : ∀ a ∈ byteAccs cx m (widthBytes wd), a.seg ≠ 0xFD)
    (hearly : earlyFault cx (widthBytes wd) (byteAccs cx m (widthBytes wd)) = none)
    (hprobe : s.probe cx .write (byteAccs cx m (widthBytes wd)) = .ok rs s1)
    (hrel : s1.releaseAt cx (storeNeed o (accScope (byteAccs cx m (widthBytes wd)) sc))
      (storeWho cx ((storePieces cx wd b rs (byteAccs cx m (widthBytes wd))).map Prod.fst)) = (true, s2))
    (hfree : writeBlocked s2 cx ((releases o && (accScope (byteAccs cx m (widthBytes wd)) sc == .dev
        || accScope (byteAccs cx m (widthBytes wd)) sc == .sys)) || h == .byp)
      ((releases o && (accScope (byteAccs cx m (widthBytes wd)) sc == .dev
        || accScope (byteAccs cx m (widthBytes wd)) sc == .sys)) && accScope (byteAccs cx m (widthBytes wd)) sc == .sys)
      (((storePieces cx wd b rs (byteAccs cx m (widthBytes wd))).filter (fun x => !x.1.scratch)).map (fun x => x.1.place))
      = false) :
    stBody wd o sc h m b s cx = .done (s2.putPieces cx
      (storerOf cx o (accScope (byteAccs cx m (widthBytes wd)) sc) h
        ((storePieces cx wd b rs (byteAccs cx m (widthBytes wd))).map Prod.fst))
      (storePieces cx wd b rs (byteAccs cx m (widthBytes wd)))) := by
  obtain ⟨hfault, hstarts⟩ := storeSegFault_of_no_start (cx := cx) (wd := wd) (b := b) hne hearly
  unfold stBody
  dsimp only
  rw [hfault]
  dsimp only
  rw [hstarts, startsFault_nil]
  dsimp only
  rw [hprobe]
  dsimp only
  have hneed : (if (releases o && (accScope (byteAccs cx m (widthBytes wd)) sc == .dev
        || accScope (byteAccs cx m (widthBytes wd)) sc == .sys)) = true then accScope (byteAccs cx m (widthBytes wd)) sc
      else if ([] : List CopyStart).isEmpty = true then Scope.grp else .dev)
      = storeNeed o (accScope (byteAccs cx m (widthBytes wd)) sc) := rfl
  rw [hneed, hrel]
  dsimp only
  rw [hfree]
  cases s2.team? (tidOf cx.gid) with
  | none => rfl
  | some t =>
    rw [if_neg (by simp [copiesWait_nil])]
    rfl
end

/-- What the stores of st leave of memory (05 R103, R105). -/
theorem storeWords_memory {wd : Width} {o : Order} {sc : Scope} {h : Hint} {b : Src} {s2 : State} {cx : Cx} {m : Addr}
    {rs : List Region} {ps : List (Piece × List Byte)} (hs : s2.Sound)
    (hps : ps = storePieces cx wd b rs (byteAccs cx m (widthBytes wd)))
    (hin : ∀ x ∈ ps, x.1.scratch = false → x.1.place % 64 + x.2.length ≤ 64) :
    (∀ q v, lastWrite ps false q = some v → isLocal q = true ∨ l2Room s2 →
        seenAt (s2.putPieces cx (storerOf cx o sc h (ps.map Prod.fst)) ps) cx.g.core.clus q = v)
      ∧ ((releases o && (sc == .dev || sc == .sys)) = false ∨ sc = .dev →
          Kept s2 (s2.putPieces cx (storerOf cx o sc h (ps.map Prod.fst)) ps) cx.g.core.clus
            (fun q => lastWrite ps false q ≠ none))
      ∧ ∀ a, lastWrite ps false a = none →
          memKept s2 (s2.putPieces cx (storerOf cx o sc h (ps.map Prod.fst)) ps) cx.g.core.clus a := by
  have hspans : (memSpans ps).length ≤ 1024 := by
    rw [memSpans, List.length_map]
    refine (List.length_filter_le ..).trans ?_
    rw [hps]
    exact length_storePieces_le
  have htend := storerOf_tended cx o sc h (ps.map Prod.fst)
  by_cases hsys : releases o = true ∧ sc = .sys
  · obtain ⟨ho, rfl⟩ := hsys
    have hstorer : storerOf cx o .sys h (ps.map Prod.fst) = storeRelease cx .sys h (ps.map Prod.fst) := by
      unfold storerOf
      rw [if_pos ho]
    rw [hstorer] at htend ⊢
    have hst := State.putPieces_stored_local htend hs
      (fun t sec bs m ret ht hl => storeRelease_sys_stored ht cx h (ps.map Prod.fst) sec hl m ret) hin
    refine ⟨fun q v hq hc => ?_, fun hk => ?_, fun a ha => hst.memKept ha⟩
    · cases hl : isLocal q with
      | true => exact (hst.put q v hq (.inl hl)).1
      | false =>
        refine seenAt_of_cachedAt hl ?_
        rw [cachedAt_putPieces_sys hs hin hl (by
          have := hc.resolve_left (by simp [hl])
          unfold l2Room at this
          omega), hq]
        rfl
    · obtain hk | hk := hk
      · simp [ho] at hk
      · cases hk
  · have hsc : releases o = false ∨ sc ≠ .sys := by
      by_cases ho : releases o = true
      · exact .inr (fun h => hsys ⟨ho, h⟩)
      · exact .inl (by simpa using ho)
    have hst := State.putPieces_stored htend hs (storerOf_through hsc h (ps.map Prod.fst)) hin
    have hroom (hr : l2Room s2) : s2.l2lines.length + 2 * turns (memLines ps) ≤ sliceLines := by
      have := turns_le_length (memLines ps)
      rw [memLines, List.length_map] at this
      unfold l2Room at hr
      unfold memLines
      omega
    exact ⟨fun q v hq hc => (hst.put q v hq (hc.imp id hroom)).1, fun _ => hst.kept hroom, fun a ha => hst.memKept ha⟩

theorem storeWords : StoreWords := by
  intro g wd o sc h m b s s1 s2 cx rs tm i u _ hr he htm cx0 accs at_ rel ps hne hearly hprobe hrel hfree
  have haccs : byteAccs cx0 m (widthBytes wd) = accs := byteAccs_fetched ..
  have hpieces : storePieces cx0 wd b rs accs = ps := storePieces_fetched ..
  obtain ⟨hsec, ⟨h1, p1, hm1⟩, hmap⟩ := hr.probed hprobe
  have hm2 := hm1.same (State.releaseAt_sameWork hrel)
  have htend := State.releaseAt_tended hrel
  have hteam : s2.team? (tidOf cx0.gid) = some tm := by
    rw [htend.team?]
    unfold State.team?
    rw [State.probe_teams hprobe, State.fetched_teams]
    exact htm
  have hin := storePieces_within (cx := cx) (wd := wd) (b := b) hne (fun a ha => seg_of_earlyFault hearly ha) hmap
  have hm3 := hm2.same (State.putPieces_sameWork (cx := cx0) (storerOf_tended cx0 o at_ h (ps.map Prod.fst)) s2 ps)
  obtain ⟨gt, hdone⟩ := hm3.effected.done (cx1 := cx0) rfl rfl g u
  have hclus : cx0.g.core.clus = cx.g.core.clus := by rw [Cx.core_fetched]
  refine ⟨_, gt, _, ?_, hdone, fun a => ?_, ?_⟩
  · rw [exec_st, issueMasked_ready _ hr he, stBody_stores (cx := cx0) (rs := rs) (s1 := s1) (s2 := s2) (by rw [haccs]; exact hne)
      (by rw [haccs]; exact hearly) (by rw [haccs]; exact hprobe) (by rw [haccs, hpieces]; exact hrel)
      (by rw [haccs, hpieces]; exact hfree), haccs, hpieces]
    rfl
  · have := scratchAt_putPieces (cx := cx0) (ps := ps) (storerOf_tended cx0 o at_ h (ps.map Prod.fst)) hm2.ok hteam a
    exact this
  · have hmem (hu : unmoved s2) := storeWords_memory (cx := cx0) (o := o) (sc := at_) (h := h) (wd := wd) (b := b) (m := m)
      (rs := rs) (ps := ps) ((htend.sectors hsec).sound hm2 hu) (by rw [haccs, hpieces]) hin
    rw [hclus] at hmem
    exact ⟨fun hu => (hmem hu).1, fun hu hk => (hmem hu).2.1 hk, fun hu => (hmem hu).2.2⟩

end Sys2Proof.Proofs
end
section
/-! SUPPORT. Bits merged into memory (05 R108, R109). -/

namespace Sys2Proof.Machine

open Sys2Proof.Claims

/-! ### Bits laid over one another -/

/-- The masked bits of a byte over another. -/
def BitByte.lay (x : BitByte) (old : Byte) : Byte := (old &&& ~~~x.mask) ||| (x.val &&& x.mask)

/-- A later byte's bits over an earlier one's. -/
def BitByte.over (x y : BitByte) : BitByte :=
  { y with val := (y.val &&& ~~~x.mask) ||| (x.val &&& x.mask), mask := y.mask ||| x.mask }

theorem BitByte.lay_over (x y : BitByte) (old : Byte) : (x.over y).lay old = x.lay (y.lay old) := by
  refine BitVec.eq_of_getLsbD_eq (fun i hi => ?_)
  simp only [BitByte.lay, BitByte.over, BitVec.getLsbD_or, BitVec.getLsbD_and, BitVec.getLsbD_not, hi, decide_true,
    Bool.true_and]
  cases x.mask.getLsbD i <;> cases y.mask.getLsbD i <;> simp

/-- A full byte takes nothing of what lay there. -/
theorem BitByte.lay_full {x : BitByte} (h : x.mask = 0xFF) (old old' : Byte) : x.lay old = x.lay old' := by
  have hnone (v : Byte) : v &&& ~~~(0xFF : Byte) = 0 := by
    have hn : ~~~(0xFF : Byte) = 0#8 := by decide
    rw [hn]
    exact BitVec.and_zero
  simp only [BitByte.lay, h, hnone]

/-- One byte more is merged. -/
def mergeOne (acc : List ((Bool × Nat) × BitByte)) (x : BitByte) : List ((Bool × Nat) × BitByte) :=
  Tab.put acc x.key (match Tab.get? acc x.key with
    | some y => x.over y
    | none => x)

theorem mergeBits_eq (xs : List BitByte) : mergeBits xs = xs.foldl mergeOne [] := by
  unfold mergeBits
  congr 1
  funext acc x
  unfold mergeOne
  cases Tab.get? acc x.key <;> rfl

/-- A byte of a place after what a table of merged bytes has for it. -/
def layAt (t : List ((Bool × Nat) × BitByte)) (k : Bool × Nat) (old : Byte) : Byte :=
  match Tab.get? t k with
  | some y => y.lay old
  | none => old

theorem layAt_mergeOne (t : List ((Bool × Nat) × BitByte)) (x : BitByte) (k : Bool × Nat) (old : Byte) :
    layAt (mergeOne t x) k old = if x.key = k then x.lay (layAt t k old) else layAt t k old := by
  unfold layAt mergeOne
  by_cases hk : x.key = k
  · subst hk
    rw [if_pos rfl, Tab.get?_put_same]
    dsimp only
    cases Tab.get? t x.key with
    | none => rfl
    | some y => exact BitByte.lay_over x y old
  · rw [if_neg hk, Tab.get?_put_other _ _ _ _ (fun h => hk h.symm)]

theorem BitByte.key_eq_iff (x : BitByte) (scratch : Bool) (a : Nat) :
    x.key = (scratch, a) ↔ x.scratch = scratch ∧ (if scratch then x.off else x.place) = a := by
  unfold BitByte.key
  constructor
  · intro h
    obtain ⟨rfl, rfl⟩ := Prod.mk.inj h
    exact ⟨rfl, rfl⟩
  · rintro ⟨rfl, rfl⟩
    rfl

/-- Merged bytes lay over a place what its bytes do in order. -/
theorem layAt_mergeBits (xs : List BitByte) (scratch : Bool) (a : Nat) (old : Byte) :
    layAt (mergeBits xs) (scratch, a) old = afterBits xs scratch a old := by
  have hfold : ∀ (xs : List BitByte) (t : List ((Bool × Nat) × BitByte)),
      layAt (xs.foldl mergeOne t) (scratch, a) old = afterBits xs scratch a (layAt t (scratch, a) old) := by
    intro xs
    induction xs with
    | nil => exact fun t => rfl
    | cons x xs ih =>
      intro t
      rw [List.foldl_cons, ih, layAt_mergeOne]
      unfold afterBits
      rw [List.foldl_cons]
      congr 1
      by_cases hk : x.key = (scratch, a)
      · rw [if_pos hk, if_pos ((x.key_eq_iff scratch a).mp hk)]
        rfl
      · rw [if_neg hk, if_neg (fun h => hk ((x.key_eq_iff scratch a).mpr h))]
  rw [mergeBits_eq, hfold]
  rfl

/-- The merged bytes stand under their keys, each once, in the order of the first bytes. -/
theorem mergeBits_spec (xs : List BitByte) : (∀ e ∈ mergeBits xs, e.2.key = e.1) ∧ ((mergeBits xs).map Prod.fst).Nodup
    ∧ ((mergeBits xs).map Prod.fst).Sublist (xs.map BitByte.key)
    ∧ ∀ x ∈ xs, ∃ y, Tab.get? (mergeBits xs) x.key = some y := by
  have hkey : ∀ (xs : List BitByte) (t : List ((Bool × Nat) × BitByte)), (∀ e ∈ t, e.2.key = e.1) →
      ∀ e ∈ xs.foldl mergeOne t, e.2.key = e.1 := by
    intro xs
    induction xs with
    | nil => exact fun t h => h
    | cons x xs ih =>
      intro t h
      refine ih _ (fun e he => ?_)
      obtain rfl | he := Tab.mem_put _ _ _ _ he
      · dsimp only
        cases hx : Tab.get? t x.key with
        | none => rfl
        | some y => exact h _ (Tab.get?_mem _ _ _ hx)
      · exact h e he
  have hsome : ∀ (xs : List BitByte) (t : List ((Bool × Nat) × BitByte)) (k : Bool × Nat),
      (∃ y, Tab.get? t k = some y) ∨ (∃ x ∈ xs, x.key = k) → ∃ y, Tab.get? (xs.foldl mergeOne t) k = some y := by
    intro xs
    induction xs with
    | nil => exact fun t k h => h.resolve_right (fun ⟨x, hx, _⟩ => absurd hx List.not_mem_nil)
    | cons x xs ih =>
      intro t k h
      refine ih _ k ?_
      by_cases hk : k = x.key
      · subst hk
        exact .inl ⟨_, Tab.get?_put_same _ _ _⟩
      · obtain ⟨y, hy⟩ | ⟨z, hz, rfl⟩ := h
        · exact .inl ⟨y, (Tab.get?_put_other _ _ _ _ hk).trans hy⟩
        · obtain rfl | hz := List.mem_cons.mp hz
          · exact absurd rfl hk
          · exact .inr ⟨z, hz, rfl⟩
  obtain ⟨hnd, ks, hsub, hkeys⟩ := Tab.keys_foldl (key := BitByte.key) (f := mergeOne) (fun _ _ => ⟨_, rfl⟩) xs []
    List.nodup_nil
  rw [mergeBits_eq]
  exact ⟨hkey xs [] (fun e he => absurd he List.not_mem_nil), hnd, by rw [hkeys]; exact hsub,
    fun x hx => hsome xs [] x.key (.inr ⟨x, hx, rfl⟩)⟩

/-! ### Merged bytes as stores of one byte -/

/-- The pieces of merged bytes, with the byte that each stores. -/
def bytePieces (f : BitByte → Byte) (t : List ((Bool × Nat) × BitByte)) : List (Piece × List Byte) :=
  (t.map Prod.snd).map (fun b => (b.piece, [f b]))

theorem lastWrite_bytePieces (f : BitByte → Byte) (scratch : Bool) (a : Nat) : ∀ {t : List ((Bool × Nat) × BitByte)},
    (∀ e ∈ t, e.2.key = e.1) → (t.map Prod.fst).Nodup →
    lastWrite (bytePieces f t) scratch a = (Tab.get? t (scratch, a)).map f
  | [], _, _ => rfl
  | e :: t, hkey, hnd => by
    rw [List.map_cons, List.nodup_cons] at hnd
    have hk := hkey e (List.mem_cons_self ..)
    have ih := lastWrite_bytePieces f scratch a (fun x hx => hkey x (List.mem_cons_of_mem _ hx)) hnd.2
    rw [lastWrite_eq] at ih ⊢
    have hcons : bytePieces f (e :: t) = (e.2.piece, [f e.2]) :: bytePieces f t := rfl
    rw [hcons]
    have hiff := e.2.key_eq_iff scratch a
    by_cases hsc : e.2.scratch = scratch
    · rw [List.filter_cons_of_pos (by simpa [BitByte.piece] using hsc), List.map_cons, lastSpan_cons, ih]
      by_cases ha : (if scratch then e.2.off else e.2.place) = a
      · have heq : e.1 = (scratch, a) := hk.symm.trans (hiff.mpr ⟨hsc, ha⟩)
        have hspan : spanByte (startOf scratch (e.2.piece, [f e.2])) a = some (f e.2) := by
          have hstart : (startOf scratch (e.2.piece, [f e.2])).1 = a := ha
          unfold spanByte
          rw [hstart]
          simp [startOf]
        rw [hspan, Tab.get?_eq_none_of (t := t) (heq ▸ hnd.1)]
        simp [Tab.get?, heq]
      · have hne : e.1 ≠ (scratch, a) := fun h => ha (hiff.mp (hk.trans h)).2
        have hspan : spanByte (startOf scratch (e.2.piece, [f e.2])) a = none := by
          unfold spanByte
          rw [if_neg]
          rintro ⟨h1, h2⟩
          exact ha (by
            have h3 : (startOf scratch (e.2.piece, [f e.2])).1 = if scratch then e.2.off else e.2.place := rfl
            have h4 : (startOf scratch (e.2.piece, [f e.2])).2.length = 1 := rfl
            omega)
        rw [hspan, Option.or_none]
        unfold Tab.get?
        rw [List.find?_cons_of_neg (by simpa using hne)]
    · have hne : e.1 ≠ (scratch, a) := fun h => hsc (hiff.mp (hk.trans h)).1
      rw [List.filter_cons_of_neg (by simpa [BitByte.piece] using hsc), ih]
      unfold Tab.get?
      rw [List.find?_cons_of_neg (by simpa using hne)]

/-! ### The stored byte (05 R109, R114) -/

section
variable {x : Sector} (hx : x.tidy = true) {i : Nat} (hi : i < 64)
include hx hi

theorem Sector.getElem?_bytes : x.bytes[i]? = some (x.bytes.getD i 0) := by
  have hlen := ((Sector.tidy_iff x).mp hx).1
  simp [hlen, hi]

theorem Sector.heldByte_eq : (if laneIn x.valid i then x.bytes[i]? else none) = x.heldByte i := by
  rw [Sector.getElem?_bytes hx hi]
  rfl
end

/-- What the package's L2 gives a merge. -/
def l2Look (s : State) (p : Nat) : Option Byte :=
  match s.l2Sector (sectorOf p) with
  | some x => if laneIn x.valid (p % 64) then x.bytes[p % 64]? else none
  | none => none

theorem l2Look_eq {s : State} (hs : s.SectorsTidy) (p : Nat) : l2Look s p = l2At s p := by
  unfold l2Look l2At
  cases hx : s.l2Sector (sectorOf p) with
  | none => rfl
  | some x => exact Sector.heldByte_eq (hs.l2Sector hx) (Nat.mod_lt _ (by decide))

/-- What lies beneath the L1, as a merge looks for it. -/
def lowLook (s : State) (p : Nat) : Option Byte :=
  (if isLocal p then some (s.homeByte p) else l2Look s p).or
    (if isHost p then some (Memory.read s.hostMem (s.bus (placeAddr p))) else none)

/-- A merge looks in the L1 and then beneath it. -/
theorem State.storedByte_virtual {s : State} (hs : s.SectorsTidy) {cx : Cx} (hfills : cx.p.fills = []) (h : Hint) {b : BitByte}
    (hsc : b.scratch = false) : s.storedByte cx h b
      = (if h = .byp then owedAt s cx.g.core.clus b.place else heldAt s cx.g.core.clus b.place).or (lowLook s b.place) := by
  have hi : b.place % 64 < 64 := Nat.mod_lt _ (by decide)
  have hnone : Tab.get? cx.p.fills (sectorOf b.place) = none := by rw [hfills]; rfl
  have hlook : s.storedByte cx h b = match s.l1Sector cx.g.core.clus (sectorOf b.place) with
      | some x => if laneIn (if h = .byp then x.mask else x.valid) (b.place % 64) then x.bytes[b.place % 64]? else lowLook s b.place
      | none => lowLook s b.place := by
    unfold State.storedByte
    rw [if_neg (by simp [hsc])]
    dsimp only
    rw [hnone]
    rfl
  rw [hlook]
  unfold owedAt heldAt
  cases hx : s.l1Sector cx.g.core.clus (sectorOf b.place) with
  | none =>
    dsimp only
    rw [Option.bind_none, Option.bind_none, ite_self, Option.none_or]
  | some x =>
    dsimp only
    rw [Option.bind_some, Option.bind_some, Sector.getElem?_bytes (hs.l1Sector hx) hi]
    unfold Sector.owedByte Sector.heldByte
    by_cases hb : h = .byp
    · simp only [hb, if_true]
      split <;> rfl
    · simp only [hb, if_false]
      split <;> rfl

/-- What a merge finds beneath the L1 lies there. -/
theorem lowLook_eq {s : State} (hs : s.SectorsTidy) {p : Nat} {w : Byte} (hw : lowLook s p = some w) : w = belowAt s p := by
  unfold lowLook at hw
  rw [l2Look_eq hs] at hw
  cases hl : isLocal p with
  | true =>
    rw [hl, if_pos rfl, Option.some_or] at hw
    rw [belowAt, if_pos hl]
    exact (Option.some.inj hw).symm
  | false =>
    rw [hl, if_neg (by decide)] at hw
    rw [belowAt_of_not_isLocal s hl]
    change w = (l2At s p).getD _
    cases hx : l2At s p with
    | some y =>
      rw [hx, Option.some_or] at hw
      exact (Option.some.inj hw).symm
    | none =>
      rw [hx, Option.none_or] at hw
      split at hw
      next hh =>
        rw [if_pos hh]
        exact (Option.some.inj hw).symm
      next => cases hw

/-- The byte that a merge finds, where no owner has to be read. -/
theorem State.storedByte_eq {s : State} (hs : s.SectorsTidy) {cx : Cx} (hfills : cx.p.fills = []) {h : Hint} {b : BitByte} {v : Byte}
    (hv : s.storedByte cx h b = some v) :
    v = if b.scratch then scratchAt s cx b.off else hintAt s h cx.g.core.clus b.place := by
  cases hsc : b.scratch with
  | true =>
    have h0 := (s.scratchRead_spec cx b.off 1).2 0 (by decide)
    unfold State.storedByte at hv
    rw [if_pos hsc, List.head?_eq_getElem?] at hv
    rw [List.getD_eq_getElem?_getD, hv] at h0
    rw [if_pos rfl]
    exact h0
  | false =>
    rw [State.storedByte_virtual hs hfills h hsc] at hv
    have hor (o : Option Byte) (ho : o.or (lowLook s b.place) = some v) : v = o.getD (belowAt s b.place) := by
      cases o with
      | some y => exact (Option.some.inj ho).symm
      | none => exact lowLook_eq hs (Option.none_or.symm.trans ho)
    rw [if_neg (by decide)]
    by_cases hb : h = .byp
    · subst hb
      rw [hintAt_byp]
      exact hor _ hv
    · rw [hintAt_of_ne s hb, seenAt_eq]
      rw [if_neg hb] at hv
      exact hor _ hv

end Sys2Proof.Machine
end
section
/-! PROOFS. stp and stfr (05 R108, R109, 06 R155). -/

namespace Sys2Proof.Proofs

open Sys2Proof Sys2Proof.Machine Sys2Proof.Claims

/-! ### Merged bytes, stored -/

/-- The byte that a merge stores. -/
def mergedByte (s : State) (cx : Cx) (h : Hint) (b : BitByte) : Byte :=
  ((s.storedByte cx h b).getD 0 &&& ~~~b.mask) ||| (b.val &&& b.mask)

/-- A merge finds the stored byte of each byte that it fills in part. -/
def findsBits (s : State) (cx : Cx) (h : Hint) (xs : List BitByte) : Prop :=
  ∀ y ∈ mergeBits xs, y.2.mask = 0xFF ∨ (s.storedByte cx h y.2).isSome = true

/-- The sectors of which a merge writes every bit. -/
def wholeBits (xs : List BitByte) (sec : Nat) : Bool :=
  (((mergeBits xs).map Prod.snd).filter (fun b => !b.scratch && sectorOf b.place == sec && b.mask == 0xFF)).length == 64

/-- The plain stores of merged bits. -/
def bitStorer (cx : Cx) (h : Hint) (xs : List BitByte) : State → Nat → List Byte → Word → Hint → State :=
  fun s sec bs m ret => storePlain cx h s sec bs m ret (wholeBits xs)

section
variable {s : State} {cx : Cx} {h : Hint} {xs : List BitByte}

/-- A merge that finds every byte and that no sector holds back stores its bytes. -/
theorem writeBits_done (hfills : cx.p.fills = []) (hfind : findsBits s cx h xs)
    (hfree : writeBlocked s cx (h == .byp) false (((mergeBits xs).filter (fun y => !y.2.scratch)).map (fun y => y.2.place)) = false) :
    writeBits s cx h xs = .done (s.putPieces cx (bitStorer cx h xs) (bytePieces (mergedByte s cx h) (mergeBits xs))) := by
  have hopen : ((mergeBits xs).map Prod.snd).filter (fun b => b.mask != 0xFF && (s.storedByte cx h b).isNone) = [] := by
    rw [List.filter_eq_nil_iff]
    intro b hb
    obtain ⟨y, hy, rfl⟩ := List.mem_map.mp hb
    obtain hm | hm := hfind y hy
    · simp [hm]
    · simp only [Bool.and_eq_true, not_and]
      intro _ hn
      rw [Option.isNone_iff_eq_none] at hn
      rw [hn] at hm
      cases hm
  have hall : ((mergeBits xs).map Prod.snd).filter (fun b => b.scratch || !(([] : List BitByte).map (fun g => sectorOf g.place)).contains
      (sectorOf b.place)) = (mergeBits xs).map Prod.snd := List.filter_eq_self.mpr (fun b _ => by simp)
  have hplaces : (((mergeBits xs).map Prod.snd).filter (fun b => !b.scratch)).map (fun b => b.place)
      = ((mergeBits xs).filter (fun y => !y.2.scratch)).map (fun y => y.2.place) := by
    rw [List.filter_map, List.map_map]
    rfl
  have hlost : lostTraps cx [] = [] := by
    rw [lostTraps, hfills]
    rfl
  unfold writeBits
  dsimp only
  rw [hopen]
  simp only [List.filter_nil, List.map_nil, List.dedup_nil, List.isEmpty_nil, Bool.not_true, Bool.false_eq_true, if_false]
  simp only [List.map_nil] at hall
  rw [hall, hplaces, hfree, hlost]
  rfl

theorem bitStorer_tended (cx : Cx) (h : Hint) (xs : List BitByte) (t : State) (sec : Nat) (bs : List Byte) (m : Word) (ret : Hint) :
    Tended t (bitStorer cx h xs t sec bs m ret) := storePlain_tended ..

/-- What a merge stores at a place is what its bits make of the byte there. -/
theorem mergedByte_eq (hs : s.SectorsTidy) (hfills : cx.p.fills = []) (hfind : findsBits s cx h xs) {scratch : Bool} {a : Nat}
    {y : BitByte} (hy : Tab.get? (mergeBits xs) (scratch, a) = some y) :
    mergedByte s cx h y = afterBits xs scratch a (if scratch then scratchAt s cx a else hintAt s h cx.g.core.clus a) := by
  have hmem := Tab.get?_mem _ _ _ hy
  have hkey := (mergeBits_spec xs).1 _ hmem
  obtain ⟨hsc, ha⟩ := (y.key_eq_iff scratch a).mp hkey
  rw [← layAt_mergeBits, layAt, hy]
  dsimp only
  obtain hm | hm := hfind _ hmem
  · exact BitByte.lay_full hm _ _
  · obtain ⟨v, hv⟩ := Option.isSome_iff_exists.mp hm
    have hval := State.storedByte_eq hs hfills hv
    rw [mergedByte, hv, Option.getD_some]
    change y.lay v = _
    rw [hval, hsc]
    cases scratch with
    | true =>
      rw [if_pos rfl] at ha ⊢
      rw [if_pos rfl, ha]
    | false =>
      rw [if_neg (by decide)] at ha ⊢
      rw [if_neg (by decide), ha]

theorem afterBits_of_none {scratch : Bool} {a : Nat} (hn : Tab.get? (mergeBits xs) (scratch, a) = none) (old : Byte) :
    afterBits xs scratch a old = old := by
  rw [← layAt_mergeBits, layAt, hn]

/-- The bytes of merged bits, each by its key. -/
theorem lastWrite_bits (scratch : Bool) (a : Nat) : lastWrite (bytePieces (mergedByte s cx h) (mergeBits xs)) scratch a
    = (Tab.get? (mergeBits xs) (scratch, a)).map (mergedByte s cx h) := by
  obtain ⟨hkey, hnd, -, -⟩ := mergeBits_spec xs
  exact lastWrite_bytePieces _ scratch a hkey hnd

theorem lastWrite_bits_iff (q : Nat) : lastWrite (bytePieces (mergedByte s cx h) (mergeBits xs)) false q ≠ none
    ↔ ∃ x ∈ xs, x.scratch = false ∧ x.place = q := by
  obtain ⟨hkey, hnd, hsub, hin⟩ := mergeBits_spec xs
  rw [lastWrite_bits, ne_eq, Option.map_eq_none_iff]
  constructor
  · intro hne
    obtain ⟨y, hy⟩ := Option.ne_none_iff_exists'.mp hne
    have hmem := hsub.subset (List.mem_map_of_mem (Tab.get?_mem _ _ _ hy))
    obtain ⟨x, hx, hk⟩ := List.mem_map.mp hmem
    exact ⟨x, hx, (x.key_eq_iff false q).mp hk⟩
  · rintro ⟨x, hx, hq⟩ hnone
    obtain ⟨y, hy⟩ := hin x hx
    rw [(x.key_eq_iff false q).mpr hq, hnone] at hy
    cases hy

/-- The lines of merged bytes come in no more turns than those of the bytes. -/
theorem turns_bits_le : turns (memLines (bytePieces (mergedByte s cx h) (mergeBits xs)))
    ≤ turns ((xs.filter (fun x => x.scratch == false)).map (fun x => x.place / 512)) := by
  obtain ⟨hkey, -, hsub, -⟩ := mergeBits_spec xs
  have hside (ys : List BitByte) : ((ys.map BitByte.key).filter (fun k => k.1 == false)).map (fun k => k.2 / 512)
      = (ys.filter (fun x => x.scratch == false)).map (fun x => x.place / 512) := by
    rw [List.filter_map, List.map_map]
    refine List.map_congr_left (fun x hx => ?_)
    have hx := (List.mem_filter.mp hx).2
    have hsc : x.scratch = false := by simpa [BitByte.key] using hx
    simp [BitByte.key, hsc]
  have hlines : memLines (bytePieces (mergedByte s cx h) (mergeBits xs))
      = (((mergeBits xs).map Prod.snd).filter (fun x => x.scratch == false)).map (fun x => x.place / 512) := by
    unfold memLines memSpans bytePieces
    rw [List.filter_map, List.map_map, List.map_map]
    rfl
  have hkeys : (mergeBits xs).map Prod.fst = ((mergeBits xs).map Prod.snd).map BitByte.key := by
    rw [List.map_map]
    exact List.map_congr_left (fun e he => (hkey e he).symm)
  rw [hlines, ← hside, ← hside, ← hkeys]
  exact turns_sublist ((hsub.filter _).map _)

/-- What merged bits leave of scratch and of memory (05 R109). -/
theorem bits_memory {tm : Team} (hs : s.SectorsTidy) (hok : s.memoryOk = true) (ht : s.team? (tidOf cx.gid) = some tm)
    (hfills : cx.p.fills = []) (hfind : findsBits s cx h xs)
    (hturns : turns ((xs.filter (fun x => x.scratch == false)).map (fun x => x.place / 512)) ≤ 2048) :
    let e := s.putPieces cx (bitStorer cx h xs) (bytePieces (mergedByte s cx h) (mergeBits xs))
    (∀ a, scratchAt e cx a = afterBits xs true a (scratchAt s cx a))
      ∧ (unmoved s → ∀ q, (∃ x ∈ xs, x.scratch = false ∧ x.place = q) → isLocal q = true ∨ l2Room s →
          seenAt e cx.g.core.clus q = afterBits xs false q (hintAt s h cx.g.core.clus q))
      ∧ (unmoved s → Kept s e cx.g.core.clus (fun q => ∃ x ∈ xs, x.scratch = false ∧ x.place = q)) := by
  intro e
  have hst (hu : unmoved s) := State.putPieces_stored (cx := cx) (ps := bytePieces (mergedByte s cx h) (mergeBits xs))
    (bitStorer_tended cx h xs) (s := s) ⟨hu, hs, hok⟩
    (fun t sec bs m ret hts hl => storePlain_through hts cx h sec hl m ret (wholeBits xs)) (fun x hx _ => by
      obtain ⟨b, -, rfl⟩ := List.mem_map.mp hx
      have : b.piece.place % 64 < 64 := Nat.mod_lt _ (by decide)
      have h1 : [mergedByte s cx h b].length = 1 := rfl
      dsimp only
      omega)
  have hroom (hr : l2Room s) : s.l2lines.length + 2 * turns (memLines (bytePieces (mergedByte s cx h) (mergeBits xs))) ≤ sliceLines := by
    have := turns_bits_le (s := s) (cx := cx) (h := h) (xs := xs)
    unfold l2Room at hr
    omega
  refine ⟨fun a => ?_, fun hu q hq hc => ?_, fun hu => ?_⟩
  · refine (scratchAt_putPieces (bitStorer_tended cx h xs) hok ht a).trans ?_
    rw [lastWrite_bits]
    cases hy : Tab.get? (mergeBits xs) (true, a) with
    | none => exact (afterBits_of_none hy _).symm
    | some y => exact mergedByte_eq hs hfills hfind hy
  · obtain ⟨v, hv⟩ := Option.ne_none_iff_exists'.mp ((lastWrite_bits_iff (s := s) (cx := cx) (h := h) q).mpr hq)
    refine ((hst hu).put q v hv (hc.imp id hroom)).1.trans ?_
    rw [lastWrite_bits, Option.map_eq_some_iff] at hv
    obtain ⟨y, hy, rfl⟩ := hv
    exact mergedByte_eq hs hfills hfind hy
  · have hk := (hst hu).kept hroom
    have hw : (fun q => lastWrite (bytePieces (mergedByte s cx h) (mergeBits xs)) false q ≠ none)
        = fun q => ∃ x ∈ xs, x.scratch = false ∧ x.place = q := funext (fun q => propext (lastWrite_bits_iff q))
    rw [hw] at hk
    exact hk
end

/-! ### The fields of the lanes -/

/-- The lines of one lane's field come in few turns. -/
theorem turns_fieldBytes {rs : List Region} {a : LaneAcc} (hseg : a.seg = 0xFE ∨ a.seg.toNat < 0xFC)
    (hmap : a.seg.toNat < 0xFC → Mapped rs a) (hn : a.n ≤ 513) (bit len v : Nat) :
    turns (((fieldBytes rs a bit len v).filter (fun x => x.scratch == false)).map (fun x => x.place / 512)) ≤ 2 := by
  obtain he | hvirt := hseg
  · have hnil : (fieldBytes rs a bit len v).filter (fun x => x.scratch == false) = [] := by
      rw [List.filter_eq_nil_iff]
      intro x hx
      obtain ⟨i, -, rfl⟩ := List.mem_map.mp hx
      simp [he]
    rw [hnil]
    exact Nat.zero_le _
  · have hne : (a.seg == 0xFE) = false := by
      rw [beq_eq_false_iff_ne]
      intro he
      rw [he] at hvirt
      exact absurd hvirt (by decide)
    have hall : (fieldBytes rs a bit len v).filter (fun x => x.scratch == false) = fieldBytes rs a bit len v := by
      rw [List.filter_eq_self]
      intro x hx
      obtain ⟨i, -, rfl⟩ := List.mem_map.mp hx
      dsimp only
      rw [hne]
      rfl
    -- the line of a place is told by the line of its offset
    have hlines : (fieldBytes rs a bit len v).map (fun x => x.place / 512)
        = ((List.range' a.off a.n).map (fun o => o / 512)).map (fun k => placeIn rs a.seg (k * 512 % 2 ^ 64) / 512) := by
      rw [fieldBytes, List.map_map, List.map_map, List.range'_eq_map_range, List.map_map]
      refine List.map_congr_left (fun i hi => ?_)
      obtain ⟨p, hp, hplace⟩ := (hmap hvirt).page i (List.mem_range.mp hi)
      simp only [Function.comp_apply]
      rw [hplace ((a.off + i) % 2 ^ 64) rfl, hplace ((a.off + i) / 512 * 512 % 2 ^ 64) (by omega)]
      omega
    rw [hall, hlines]
    refine (turns_map_le _ _).trans ((turns_lines a.off a.n).trans ?_)
    omega

/-- The lines of all lanes' fields. -/
theorem turns_fields {α : Type} {rs : List Region} {ls : List α} {acc : α → LaneAcc} {bit len v : α → Nat} (hl : ls.length ≤ 64)
    (hseg : ∀ x ∈ ls, (acc x).seg = 0xFE ∨ (acc x).seg.toNat < 0xFC)
    (hmap : ∀ x ∈ ls, (acc x).seg.toNat < 0xFC → Mapped rs (acc x)) (hn : ∀ x ∈ ls, (acc x).n ≤ 513) :
    turns (((ls.flatMap (fun x => fieldBytes rs (acc x) (bit x) (len x) (v x))).filter (fun x => x.scratch == false)).map
      (fun x => x.place / 512)) ≤ 2048 := by
  rw [List.filter_flatMap, List.map_flatMap]
  refine (turns_flatMap_le _ _ 2 (fun x hx => turns_fieldBytes (hseg x hx) (hmap x hx) (hn x hx) _ _ _)).trans ?_
  omega

/-! ### The words -/

section
variable {g : Guard} {pw : BitVec 6} {fs : BitVec 4} {h : Hint} {m : Addr} {v c : Src} {b : RegIx} {s s1 : State} {cx : Cx}
  {rs : List Region}

theorem exec_stp (g : Guard) (pw : BitVec 6) (h : Hint) (m : Addr) (v c : Src) (s : State) :
    exec (.stp g pw h m v c) s = issueMasked g (memUses m v c []) (stpBody pw h m v c) s := rfl

theorem exec_stfr (g : Guard) (fs : BitVec 4) (h : Hint) (m : Addr) (b : RegIx) (c : Src) (s : State) :
    exec (.stfr g fs h m b c) s = issueRuns g (runMemUses m [b.toNat] c [] [b.toNat] fs)
      (fun cx => { reads := if cx.eff = 0 then [] else fragMembers fs b c cx, writes := [] })
      (fun s cx => if cx.eff = 0 then .done s else stfrBody fs h m b c s cx) s := rfl

theorem stpBody_writes (hearly : earlyFault cx 1 ((packAccs cx pw m c).map (·.1)) = none)
    (hprobe : s.probe cx .write ((packAccs cx pw m c).map (·.1)) = .ok rs s1) :
    stpBody pw h m v c s cx = writeBits s1 cx h ((packAccs cx pw m c).flatMap (fun x =>
      fieldBytes rs x.1 x.2.1 x.2.2 ((cx.src v).lane x.1.lane).toNat)) := by
  unfold stpBody
  dsimp only
  rw [hearly]
  dsimp only
  rw [hprobe]

/-- The elements of a lane's row, packed. -/
def packedRow (cx : Cx) (fs : BitVec 4) (b : RegIx) (n l : Nat) : Nat :=
  (List.range n).foldr (fun e acc =>
    subElem ((cx.g.val (b.toNat + e / (cx.fmt fs).k)).lane l) (cx.fmt fs).w (e % (cx.fmt fs).k) + acc * 2 ^ (cx.fmt fs).w) 0

theorem packedRow_fetched (u : Uses) (ms : Members) (n l : Nat) :
    packedRow (cx.fetched u ms) fs b n l = packedRow cx fs b n l := by
  simp only [packedRow, Cx.fmt_fetched, Cx.val_fetched]

theorem stfrBody_writes {n : Nat} (hequal : (cx.src c).equalIn cx.eff = true) (hflag : ((cx.src c).firstIn cx.eff).getLsbD 31 = false)
    (hn : n = ((cx.src c).firstIn cx.eff).toNat % 65536) (h1 : 1 ≤ n) (h2 : n ≤ 32 * (cx.fmt fs).k)
    (h3 : b.toNat + ceilDiv n (cx.fmt fs).k ≤ cx.g.nr)
    (hearly : earlyFault cx 1 (byteAccs cx m (ceilDiv (n * (cx.fmt fs).w) 8)) = none)
    (hprobe : s.probe cx .write (byteAccs cx m (ceilDiv (n * (cx.fmt fs).w) 8)) = .ok rs s1) :
    stfrBody fs h m b c s cx = writeBits s1 cx h ((byteAccs cx m (ceilDiv (n * (cx.fmt fs).w) 8)).flatMap (fun a =>
      fieldBytes rs a 0 (n * (cx.fmt fs).w) (packedRow cx fs b n a.lane))) := by
  have hlen : (((cx.src c).firstIn cx.eff).extractLsb' 0 16).toNat = n := by
    rw [hn]
    simp
  have hval : equalActive cx c = some ((cx.src c).firstIn cx.eff) := if_pos hequal
  unfold stfrBody
  rw [hval]
  dsimp only
  rw [hlen]
  unfold rowAccs
  rw [hearly]
  dsimp only
  rw [if_neg (by rw [hflag]; simp; omega), hprobe]
  rfl

/-- The registers that stfr reads. -/
theorem stfr_members {n : Nat} (he : cx.eff ≠ 0) (hequal : (cx.src c).equalIn cx.eff = true)
    (hflag : ((cx.src c).firstIn cx.eff).getLsbD 31 = false) (hn : n = ((cx.src c).firstIn cx.eff).toNat % 65536) :
    (if cx.eff = 0 then [] else fragMembers fs b c cx) = runOf b.toNat (ceilDiv n (cx.fmt fs).k) := by
  have hlen : (((cx.src c).firstIn cx.eff).extractLsb' 0 16).toNat = n := by
    rw [hn]
    simp
  have hval : equalActive cx c = some ((cx.src c).firstIn cx.eff) := if_pos hequal
  rw [if_neg he, fragMembers, hval]
  dsimp only
  rw [hflag, hlen]
  rfl
end

/-- What both words come to once their effect is a merge. -/
theorem bitWord_done {g : Guard} {u u' : Uses} {ms : Members} {h : Hint} {s s1 : State} {cx : Cx} {accs : List LaneAcc} {xs : List BitByte}
    {rs : List Region} {tm : Team} (hr : Ready s g u cx) (hfills : cx.p.fills = []) (htm : s.team? (tidOf cx.gid) = some tm)
    (hprobe : (s.fetched cx u ms).probe (cx.fetched u ms) .write accs = .ok rs s1)
    (hfind : findsBits s1 (cx.fetched u ms) h xs)
    (hturns : turns ((xs.filter (fun x => x.scratch == false)).map (fun x => x.place / 512)) ≤ 2048) :
    let e := s1.putPieces (cx.fetched u ms) (bitStorer (cx.fetched u ms) h xs)
      (bytePieces (mergedByte s1 (cx.fetched u ms) h) (mergeBits xs))
    ∃ gt, Done e (e.finish (cx.fetched u ms) g u' (some (cx.p.pc + 16))) cx g gt
      ∧ (∀ a, scratchAt e cx a = afterBits xs true a (scratchAt s1 cx a))
      ∧ (unmoved s1 → ∀ q, (∃ x ∈ xs, x.scratch = false ∧ x.place = q) → isLocal q = true ∨ l2Room s1 →
          seenAt e cx.g.core.clus q = afterBits xs false q (hintAt s1 h cx.g.core.clus q))
      ∧ (unmoved s1 → Kept s1 e cx.g.core.clus (fun q => ∃ x ∈ xs, x.scratch = false ∧ x.place = q)) := by
  intro e
  obtain ⟨hsec, ⟨h1, p1, hm⟩, -⟩ := hr.probed hprobe
  have hteam : s1.team? (tidOf (cx.fetched u ms).gid) = some tm := by
    unfold State.team?
    rw [State.probe_teams hprobe, State.fetched_teams]
    exact htm
  have hm2 := hm.same (State.putPieces_sameWork (cx := cx.fetched u ms) (bitStorer_tended (cx.fetched u ms) h xs) s1
    (bytePieces (mergedByte s1 (cx.fetched u ms) h) (mergeBits xs)))
  obtain ⟨gt, hdone⟩ := hm2.effected.done (cx1 := cx.fetched u ms) rfl rfl g u'
  have hmem := bits_memory hsec hm.ok hteam hfills hfind hturns
  rw [Cx.core_fetched] at hmem
  exact ⟨gt, hdone, hmem.1, hmem.2.1, hmem.2.2⟩

/-- The packed accesses of the lanes are few and short. -/
theorem packAccs_spec {cx : Cx} {pw : BitVec 6} {m : Addr} {c : Src} :
    (packAccs cx pw m c).length ≤ 64 ∧ ∀ x ∈ packAccs cx pw m c, x.1.n ≤ 513 := by
  refine ⟨?_, fun x hx => ?_⟩
  · have h1 := (map_lane_packAccs (cx := cx) (pw := pw) (m := m) (c := c)).length_le
    rw [List.length_map] at h1
    exact h1.trans (length_lanes_le _)
  · rw [packAccs_eq] at hx
    obtain ⟨l, -, hl⟩ := List.mem_filterMap.mp hx
    have hlen := packLen_le cx pw c l
    unfold packEntry at hl
    split at hl
    · cases hl
    · cases hl
      simp only [bitAcc]
      split <;> omega

theorem bitStores : BitStores := by
  intro g frag pw fs h m v b c s s1 cx i u ms accs xs rs tm n f hi hxs _ hr he hfills htm hfrag cx0 hearly hprobe hfind hfree
  have hsegs (a : LaneAcc) (ha : a ∈ accs) := seg_of_earlyFault hearly ha
  obtain ⟨-, -, hmap⟩ := hr.toReady.probed hprobe
  cases frag with
  | false =>
    obtain ⟨rfl, rfl, rfl, rfl⟩ := (by simpa using hi : i = _ ∧ u = _ ∧ ms = _ ∧ accs = _)
    rw [if_neg (by decide)] at hxs
    have hfs : packAccs cx0 pw m c = packAccs cx pw m c := packAccs_fetched ..
    obtain ⟨hlen, hshort⟩ := packAccs_spec (cx := cx) (pw := pw) (m := m) (c := c)
    obtain ⟨gt, hdone, hscr, hseen, hkept⟩ := bitWord_done (u' := memUses m v c []) hr.toReady hfills htm hprobe hfind (by
      rw [hxs]
      exact turns_fields hlen (fun x hx => hsegs _ (List.mem_map_of_mem hx)) (fun x hx => hmap _ (List.mem_map_of_mem hx)) hshort)
    refine ⟨_, gt, _, ?_, hdone, hscr, hseen, hkept⟩
    rw [exec_stp, issueMasked_ready _ hr.toReady he, stpBody_writes (cx := cx0) (rs := rs) (s1 := s1) (by rw [hfs]; exact hearly)
      (by rw [hfs]; exact hprobe), hfs]
    have hsame : (packAccs cx pw m c).flatMap (fun x => fieldBytes rs x.1 x.2.1 x.2.2 ((cx0.src v).lane x.1.lane).toNat) = xs := by
      simp only [cx0, Cx.src_fetched]
      exact hxs.symm
    rw [hsame, writeBits_done (cx := cx0) hfills hfind hfree]
    rfl
  | true =>
    obtain ⟨rfl, rfl, rfl, rfl⟩ := (by simpa using hi : i = _ ∧ u = _ ∧ ms = _ ∧ accs = _)
    rw [if_pos rfl] at hxs
    obtain ⟨hequal, hflag, h1, h2, h3⟩ := hfrag rfl
    have hbits : n * f.w ≤ 2048 := by
      have hkw : f.k * f.w ≤ 64 := Nat.div_mul_le_self 64 f.w
      calc n * f.w ≤ 32 * f.k * f.w := Nat.mul_le_mul_right _ h2
        _ = 32 * (f.k * f.w) := Nat.mul_assoc ..
        _ ≤ 32 * 64 := Nat.mul_le_mul_left _ hkw
    have hlen : (byteAccs cx m (ceilDiv (n * f.w) 8)).length ≤ 64 := by
      rw [byteAccs, List.length_map]
      exact length_lanes_le _
    obtain ⟨gt, hdone, hscr, hseen, hkept⟩ := bitWord_done
      (u' := (runMemUses m [b.toNat] c [] [b.toNat] fs).names { reads := runOf b.toNat (ceilDiv n f.k), writes := [] })
      hr.toReady hfills htm hprobe hfind (by
        rw [hxs]
        exact turns_fields hlen (fun x hx => hsegs _ hx) (fun x hx => hmap _ hx) (fun x hx => by
          rw [n_of_mem_byteAccs hx, ceilDiv]
          omega))
    refine ⟨_, gt, _, ?_, hdone, hscr, hseen, hkept⟩
    have hmem : ({ reads := if cx.eff = 0 then [] else fragMembers fs b c cx, writes := [] } : Members)
        = { reads := runOf b.toNat (ceilDiv n f.k), writes := [] } := by
      rw [stfr_members he hequal hflag rfl]
    have hrr : ReadyRuns s g (runMemUses m [b.toNat] c [] [b.toNat] fs)
        ((fun cx : Cx => ({ reads := if cx.eff = 0 then [] else fragMembers fs b c cx, writes := [] } : Members)) cx) cx := by
      dsimp only
      rw [hmem]
      exact hr
    have hbytes : byteAccs cx0 m (ceilDiv (n * (cx0.fmt fs).w) 8) = byteAccs cx m (ceilDiv (n * f.w) 8) := by
      simp only [cx0, byteAccs_fetched, Cx.fmt_fetched]
      rfl
    rw [exec_stfr, issueRuns_ready _ _ hrr]
    rw [hmem, if_neg (show cx0.eff ≠ 0 from he), stfrBody_writes (cx := cx0) (rs := rs) (s1 := s1) (n := n) (by simpa [cx0] using hequal)
      (by simpa [cx0] using hflag) (by simp [cx0, n]) h1 (by simpa [cx0, f] using h2)
      (by simpa [cx0, Cx.nr_fetched] using h3) (by rw [hbytes]; exact hearly) (by rw [hbytes]; exact hprobe), hbytes]
    have hsame : (byteAccs cx m (ceilDiv (n * f.w) 8)).flatMap (fun a => fieldBytes rs a 0 (n * (cx0.fmt fs).w)
        (packedRow cx0 fs b n a.lane)) = xs := by
      simp only [cx0, Cx.fmt_fetched, packedRow_fetched]
      exact hxs.symm
    rw [hsame, writeBits_done (cx := cx0) hfills hfind hfree]
    rfl

/-- Settles O41: st by the pieces that it stores, stp and stfr by the bits that they merge. -/
theorem stores : Obligations.Stores := ⟨storeWords, bitStores⟩

end Sys2Proof.Proofs
end
section
/-! SUPPORT. Numbers as bytes, and packed codes: what a zero-mask form is made of (00 R6, 05 R119). -/

namespace Sys2Proof.Machine

/-! ### Bytes of numbers -/

theorem ofBytes_lt (bs : List Byte) : ofBytes bs < 2 ^ (8 * bs.length) := by
  induction bs with
  | nil => exact Nat.one_pos
  | cons b bs ih =>
    have hb := b.isLt
    have hpow : 2 ^ (8 * (bs.length + 1)) = 256 * 2 ^ (8 * bs.length) := by
      rw [Nat.mul_succ, Nat.pow_add, Nat.mul_comm]
    rw [ofBytes, List.length_cons, hpow]
    omega

theorem ofBytes_toBytes (n : Nat) : ∀ v, v < 2 ^ (8 * n) → ofBytes (toBytes n v) = v := by
  induction n with
  | zero =>
    intro v hv
    rw [Nat.mul_zero, Nat.pow_zero] at hv
    exact (Nat.lt_one_iff.mp hv).symm
  | succ n ih =>
    intro v hv
    have hpow : 2 ^ (8 * (n + 1)) = 256 * 2 ^ (8 * n) := by
      rw [Nat.mul_succ, Nat.pow_add, Nat.mul_comm]
    rw [hpow] at hv
    rw [toBytes, ofBytes, ih (v / 256) (Nat.div_lt_of_lt_mul hv), BitVec.toNat_ofNat]
    omega

theorem ofBytes_append (as bs : List Byte) : ofBytes (as ++ bs) = ofBytes as + 2 ^ (8 * as.length) * ofBytes bs := by
  induction as with
  | nil => simp [ofBytes]
  | cons a as ih =>
    have hpow : 2 ^ (8 * (as.length + 1)) = 256 * 2 ^ (8 * as.length) := by
      rw [Nat.mul_succ, Nat.pow_add, Nat.mul_comm]
    rw [List.cons_append, ofBytes, ih, ofBytes, List.length_cons, hpow, Nat.mul_add, Nat.add_assoc, Nat.mul_assoc]

theorem ofBytes_toBytes_zero (n : Nat) : ofBytes (toBytes n 0) = 0 := ofBytes_toBytes n 0 (Nat.two_pow_pos _)

/-! ### Packed codes -/

/-- Codes of `w` bits, from the lowest on. -/
def packCodes (w : Nat) (xs : List Nat) : Nat := xs.foldr (fun x acc => x % 2 ^ w + acc * 2 ^ w) 0

theorem packCodes_lt (w : Nat) (xs : List Nat) : packCodes w xs < 2 ^ (xs.length * w) := by
  induction xs with
  | nil => simp [packCodes]
  | cons x xs ih =>
    have hx : x % 2 ^ w < 2 ^ w := Nat.mod_lt _ (Nat.two_pow_pos w)
    have hstep : packCodes w (x :: xs) = x % 2 ^ w + packCodes w xs * 2 ^ w := rfl
    rw [hstep, List.length_cons, Nat.succ_mul, Nat.pow_add]
    calc x % 2 ^ w + packCodes w xs * 2 ^ w < 2 ^ w + packCodes w xs * 2 ^ w := Nat.add_lt_add_right hx _
      _ = (packCodes w xs + 1) * 2 ^ w := by rw [Nat.succ_mul, Nat.add_comm]
      _ ≤ 2 ^ (xs.length * w) * 2 ^ w := Nat.mul_le_mul_right _ ih

theorem bits_packCodes (w : Nat) : ∀ (xs : List Nat) (k : Nat), bits (packCodes w xs) (k * w) w = xs.getD k 0 % 2 ^ w
  | [], k => by simp [packCodes, bits]
  | x :: xs, k => by
    have hx : x % 2 ^ w < 2 ^ w := Nat.mod_lt _ (Nat.two_pow_pos w)
    have hstep : packCodes w (x :: xs) = x % 2 ^ w + 2 ^ w * packCodes w xs := by
      rw [Nat.mul_comm (2 ^ w)]
      rfl
    cases k with
    | zero => simp [hstep, bits, Nat.add_mul_mod_self_left]
    | succ k =>
      have ih := bits_packCodes w xs k
      rw [List.getD_cons_succ, ← ih, hstep, bits, bits, Nat.succ_mul, Nat.add_comm (k * w) w, Nat.pow_add,
        ← Nat.div_div_eq_div_mul, Nat.add_mul_div_left _ _ (Nat.two_pow_pos w), Nat.div_eq_of_lt hx, Nat.zero_add]

/-! ### Masks of the elements that are not 0 -/

/-- Bit i says that element i is not 0. -/
def nonzeroMask (xs : List Nat) : Nat := xs.foldr (fun x acc => (if x = 0 then 0 else 1) + 2 * acc) 0

theorem nonzeroMask_cons (x : Nat) (xs : List Nat) :
    nonzeroMask (x :: xs) = (if x = 0 then 0 else 1) + 2 * nonzeroMask xs := rfl

theorem nonzeroMask_lt (xs : List Nat) : nonzeroMask xs < 2 ^ xs.length := by
  induction xs with
  | nil => simp [nonzeroMask]
  | cons x xs ih =>
    rw [nonzeroMask_cons, List.length_cons, Nat.pow_succ]
    split <;> omega

theorem testBit_nonzeroMask : ∀ (xs : List Nat) (i : Nat), (nonzeroMask xs).testBit i = decide (xs.getD i 0 ≠ 0)
  | [], i => by simp [nonzeroMask]
  | x :: xs, i => by
    rw [nonzeroMask_cons]
    cases i with
    | zero =>
      rw [Nat.testBit_zero, List.getD_cons_zero]
      refine decide_eq_decide.mpr ?_
      split <;> omega
    | succ i =>
      have hdiv : ((if x = 0 then 0 else 1) + 2 * nonzeroMask xs) / 2 = nonzeroMask xs := by split <;> omega
      rw [Nat.testBit_succ, hdiv, testBit_nonzeroMask xs i, List.getD_cons_succ]

/-- The set bits of the mask are the elements that are not 0. -/
theorem count_nonzeroMask : ∀ (xs : List Nat) (n : Nat), xs.length ≤ n →
    ((List.range n).filter (fun i => (nonzeroMask xs).testBit i)).length = (xs.filter (fun x => x != 0)).length
  | [], n, _ => by simp [nonzeroMask]
  | x :: xs, 0, h => absurd h (Nat.not_succ_le_zero _)
  | x :: xs, n + 1, h => by
    have ih := count_nonzeroMask xs n (Nat.le_of_succ_le_succ h)
    simp only [testBit_nonzeroMask] at ih ⊢
    rw [List.range_succ_eq_map, List.filter_cons, List.filter_map, List.filter_cons]
    have htail : ((List.range n).filter ((fun i => decide ((x :: xs).getD i 0 ≠ 0)) ∘ Nat.succ)).length
        = (xs.filter (fun x => x != 0)).length := ih
    have hhead : decide ((x :: xs).getD 0 0 ≠ 0) = (x != 0) := by
      rw [List.getD_cons_zero]
      exact decide_not.trans rfl
    rw [hhead]
    split
    · rw [List.length_cons, List.length_map, htail, List.length_cons]
    · rw [List.length_map, htail]

end Sys2Proof.Machine
end

section
/-! PROOFS. The zero-mask form gives its elements back (05 R119). -/

namespace Sys2Proof.Proofs

open Sys2Proof Sys2Proof.Machine Sys2Proof.Claims

section
variable {w : Nat} {xs : List Nat}

/-- The elements that a form stores. -/
def storedElems (xs : List Nat) : List Nat := xs.filter (fun x => x != 0)

@[simp] theorem storedElems_nil : storedElems [] = [] := rfl

theorem storedElems_append (xs ys : List Nat) : storedElems (xs ++ ys) = storedElems xs ++ storedElems ys :=
  List.filter_append ..

theorem storedElems_cons (x : Nat) (xs : List Nat) :
    storedElems (x :: xs) = if x = 0 then storedElems xs else x :: storedElems xs := by
  unfold storedElems
  rw [List.filter_cons]
  by_cases h : x = 0 <;> simp [h]

/-- The first word of a form. -/
def formWord (w : Nat) (xs : List Nat) : Nat := (storedElems xs).length * 2 ^ 32 + (w - 1) * 2 ^ 16 + xs.length

theorem formBytes_eq (w : Nat) (xs : List Nat) : formBytes w xs = toBytes 8 (formWord w xs) ++ toBytes 8 0
    ++ toBytes (formMask xs.length) (nonzeroMask xs) ++ toBytes (formVals (storedElems xs).length w) (packCodes w (storedElems xs)) :=
  rfl

theorem length_formBytes (w : Nat) (xs : List Nat) :
    (formBytes w xs).length = 16 + formMask xs.length + formVals (storedElems xs).length w := by
  simp only [formBytes_eq, List.length_append, length_toBytes]

theorem length_storedElems_le (xs : List Nat) : (storedElems xs).length ≤ xs.length := List.length_filter_le ..

/-- Header and mask are the first bytes of a form. -/
theorem take_formBytes (w : Nat) (xs : List Nat) : (formBytes w xs).take (16 + formMask xs.length)
    = toBytes 8 (formWord w xs) ++ toBytes 8 0 ++ toBytes (formMask xs.length) (nonzeroMask xs) := by
  have hlen : (toBytes 8 (formWord w xs) ++ toBytes 8 0 ++ toBytes (formMask xs.length) (nonzeroMask xs)).length
      = 16 + formMask xs.length := by simp only [List.length_append, length_toBytes]
  rw [formBytes_eq, ← hlen, List.take_left]

theorem drop_formBytes (w : Nat) (xs : List Nat) : (formBytes w xs).drop (16 + formMask xs.length)
    = toBytes (formVals (storedElems xs).length w) (packCodes w (storedElems xs)) := by
  have hlen : (toBytes 8 (formWord w xs) ++ toBytes 8 0 ++ toBytes (formMask xs.length) (nonzeroMask xs)).length
      = 16 + formMask xs.length := by simp only [List.length_append, length_toBytes]
  rw [formBytes_eq, ← hlen, List.drop_left]

theorem le_formMask (n : Nat) : n ≤ 8 * formMask n := by
  simp only [formMask, ceilDiv]
  omega

theorem le_formVals (n w : Nat) : n * w ≤ 8 * formVals n w := by
  simp only [formVals, ceilDiv]
  omega

theorem ofBytes_mask (xs : List Nat) : ofBytes (toBytes (formMask xs.length) (nonzeroMask xs)) = nonzeroMask xs :=
  ofBytes_toBytes _ _ ((nonzeroMask_lt xs).trans_le (Nat.pow_le_pow_right (by decide) (le_formMask _)))

theorem ofBytes_vals (w : Nat) (xs : List Nat) :
    ofBytes (toBytes (formVals (storedElems xs).length w) (packCodes w (storedElems xs))) = packCodes w (storedElems xs) :=
  ofBytes_toBytes _ _ ((packCodes_lt w _).trans_le (Nat.pow_le_pow_right (by decide) (le_formVals _ _)))

/-- The mask stands behind the header. -/
theorem mask_bytes (as ms bs : List Byte) (h : as.length = 16) {n : Nat} (hn : ms.length = n) :
    ((as ++ ms ++ bs).drop 16).take n = ms := by
  rw [List.append_assoc, ← h, List.drop_left, ← hn, List.take_left]

theorem header_form (hw1 : 1 ≤ w) (hw2 : w ≤ 64) (hlen : xs.length < 65536) :
    formHeader w xs.length ((formBytes w xs).take (16 + formMask xs.length)) = some (storedElems xs).length := by
  have hnnz := length_storedElems_le xs
  have hword : formWord w xs < 2 ^ 64 := by unfold formWord; omega
  have hhead : ofBytes (((formBytes w xs).take (16 + formMask xs.length)).take 16) = formWord w xs := by
    rw [take_formBytes, List.take_append_of_le_length (by simp), List.take_of_length_le (by simp), ofBytes_append,
      ofBytes_toBytes_zero, ofBytes_toBytes 8 _ hword, Nat.mul_zero, Nat.add_zero]
  unfold formHeader
  dsimp only
  rw [hhead, if_pos]
  · simp only [bits, formWord, Option.some.injEq]
    omega
  · simp only [bits, formWord]
    omega

theorem maskCount_form (w : Nat) (xs : List Nat) :
    maskCount xs.length ((formBytes w xs).take (16 + formMask xs.length)) = (storedElems xs).length := by
  unfold maskCount
  dsimp only
  rw [take_formBytes, ← List.append_nil (_ ++ toBytes (formMask xs.length) (nonzeroMask xs)),
    mask_bytes _ _ _ (by simp) (by simp), ofBytes_mask]
  exact count_nonzeroMask xs _ (le_formMask _)

/-- One step of reading a form: an element that the mask names is the next of the stored ones. -/
def formStep (w m v : Nat) (acc : List Nat × Nat) (i : Nat) : List Nat × Nat :=
  if m.testBit i then (acc.1 ++ [bits v (acc.2 * w) w], acc.2 + 1) else (acc.1 ++ [0], acc.2)

theorem formElems_eq (w len : Nat) (bs : List Byte) : formElems w len bs
    = ((List.range len).foldl (formStep w (ofBytes ((bs.drop 16).take (formMask len))) (ofBytes (bs.drop (16 + formMask len))))
        ([], 0)).1 := rfl

/-- Reading mask and stored elements gives the first elements back. -/
theorem formStep_foldl (hx : ∀ x ∈ xs, x < 2 ^ w) : ∀ i, i ≤ xs.length →
    (List.range i).foldl (formStep w (nonzeroMask xs) (packCodes w (storedElems xs))) ([], 0)
      = (xs.take i, (storedElems (xs.take i)).length)
  | 0, _ => by simp [storedElems]
  | i + 1, hi => by
    have ih := formStep_foldl hx i (Nat.le_of_succ_le hi)
    have hlt : i < xs.length := hi
    have hget : xs.getD i 0 = xs[i] := by simp [hlt]
    have htake : xs.take (i + 1) = xs.take i ++ [xs[i]] := (List.take_append_getElem hlt).symm
    have hxs : xs = xs.take i ++ xs[i] :: xs.drop (i + 1) := by
      rw [← List.drop_eq_getElem_cons hlt, List.take_append_drop]
    have hmod : xs[i] % 2 ^ w = xs[i] := Nat.mod_eq_of_lt (hx xs[i] (List.getElem_mem hlt))
    rw [List.range_succ, List.foldl_append, ih, List.foldl_cons, List.foldl_nil, formStep, testBit_nonzeroMask, hget, htake]
    have hsplit := congrArg storedElems hxs
    rw [storedElems_append] at hsplit
    generalize xs[i] = x at hsplit hmod
    rw [storedElems_append]
    by_cases h0 : x = 0
    · simp [h0, storedElems_cons]
    · have hval : bits (packCodes w (storedElems xs)) ((storedElems (xs.take i)).length * w) w = x := by
        rw [bits_packCodes, hsplit, storedElems_cons, if_neg h0, List.getD_append_right _ _ _ _ le_rfl, Nat.sub_self,
          List.getD_cons_zero, hmod]
      simp [h0, hval, storedElems_cons]

end

theorem formRoundTrip : FormRoundTrip := by
  intro w xs hw1 hw2 _ hlen hx bs nnz
  refine ⟨header_form hw1 hw2 hlen, maskCount_form w xs, length_formBytes w xs, ?_⟩
  have hmask : ofBytes ((bs.drop 16).take (formMask xs.length)) = nonzeroMask xs := by
    simp only [bs, formBytes_eq]
    rw [mask_bytes _ _ _ (by simp) (by simp), ofBytes_mask]
  rw [formElems_eq, hmask, drop_formBytes, ofBytes_vals, formStep_foldl hx xs.length le_rfl, List.take_length]

end Sys2Proof.Proofs
end
section
/-! PROOFS. stz (05 R119 to R121). -/

namespace Sys2Proof.Proofs

open Sys2Proof Sys2Proof.Machine Sys2Proof.Claims

/-! ### The lines of one access -/

/-- No piece is empty. -/
theorem pieces_pos : ∀ (f p : Nat) (bs : List Byte), ∀ x ∈ pieces f p bs, 0 < x.2.length
  | 0, _, _, _, h => absurd h List.not_mem_nil
  | _ + 1, _, [], _, h => absurd h List.not_mem_nil
  | f + 1, p, b :: bs, x, h => by
    obtain rfl | h := List.mem_cons.mp h
    · simp only [List.length_take, List.length_cons]
      omega
    · exact pieces_pos f _ _ x h

/-- The first members of parts of a list, each part a run. -/
theorem sublist_starts {α : Type} (xs : List α) (start len : α → Nat) (h : ∀ x ∈ xs, 0 < len x) :
    (xs.map start).Sublist (xs.flatMap (fun x => List.range' (start x) (len x))) := by
  induction xs with
  | nil => exact .refl _
  | cons x xs ih =>
    have ih := ih (fun y hy => h y (List.mem_cons_of_mem _ hy))
    obtain ⟨n, hn⟩ := Nat.exists_eq_succ_of_ne_zero (Nat.ne_of_gt (h x (List.mem_cons_self ..)))
    rw [List.map_cons, List.flatMap_cons, hn, Nat.succ_eq_add_one, List.range'_succ, List.cons_append]
    exact (ih.trans (List.sublist_append_right ..)).cons_cons _

/-- The pieces of an access begin at some of its offsets. -/
theorem splitAcc_starts (rs : List Region) (a : LaneAcc) :
    ((splitAcc rs a).map (fun q => q.off)).Sublist ((List.range' a.off a.n).map (fun o => o % 2 ^ 64)) := by
  rw [← splitAcc_addrs rs a]
  refine sublist_starts _ (fun q : Piece => q.off) (fun q => q.n) (fun q hq => ?_)
  obtain ⟨x, hx, rfl⟩ := List.mem_map.mp hq
  exact pieces_pos _ _ _ x hx

/-- The lines of one access come in few turns. -/
theorem turns_alongPieces {rs : List Region} {a : LaneAcc} (hseg : a.seg = 0xFE ∨ a.seg.toNat < 0xFC)
    (hmap : a.seg.toNat < 0xFC → Mapped rs a) (bs : List Byte) :
    turns (memLines (alongPieces (splitAcc rs a) bs)) ≤ (a.n + 1022) / 512 := by
  have hscratch (x : Piece × List Byte) (hx : x ∈ alongPieces (splitAcc rs a) bs) : x.1.scratch = (a.seg == 0xFE) :=
    (mem_splitAcc (mem_alongPieces hx).1).2.1
  obtain he | hvirt := hseg
  · have hnil : memLines (alongPieces (splitAcc rs a) bs) = [] := by
      rw [memLines, memSpans, List.filter_eq_nil_iff.mpr (fun x hx => by simp [hscratch x hx, he])]
      rfl
    rw [hnil]
    exact Nat.zero_le _
  · have hne : (a.seg == 0xFE) = false := by
      rw [beq_eq_false_iff_ne]
      intro he
      rw [he] at hvirt
      exact absurd hvirt (by decide)
    -- the line of a place is told by the line of its offset
    have hline (q : Piece) (hq : q ∈ splitAcc rs a) : q.place / 512 = placeIn rs a.seg (q.off / 512 * 512) / 512 := by
      obtain ⟨x, hx, rfl⟩ := List.mem_map.mp hq
      obtain ⟨j, hj, hoff⟩ := splitAcc_off hq (pieces_pos _ _ _ x hx)
      obtain ⟨p, hp, hplace⟩ := (hmap hvirt).page j hj
      rw [← hoff, Nat.add_zero] at hplace
      dsimp only at hplace ⊢
      rw [hplace _ rfl, hplace (x.1 % 2 ^ 64 / 512 * 512) (by omega)]
      omega
    have hlines : memLines (alongPieces (splitAcc rs a) bs)
        = (((splitAcc rs a).map (fun q => q.off)).map (fun o => o / 512)).map (fun k => placeIn rs a.seg (k * 512) / 512) := by
      have hall := List.filter_eq_self.mpr (fun x hx => by rw [hscratch x hx, hne]; rfl :
        ∀ x ∈ alongPieces (splitAcc rs a) bs, (x.1.scratch == false) = true)
      rw [memLines, memSpans, hall, List.map_map]
      have hplaces : (alongPieces (splitAcc rs a) bs).map ((fun x => x.1 / 512) ∘ startOf false)
          = ((alongPieces (splitAcc rs a) bs).map Prod.fst).map (fun q => q.place / 512) := by
        rw [List.map_map]
        rfl
      rw [hplaces, map_fst_alongPieces, List.map_map, List.map_map]
      exact List.map_congr_left hline
    have hmod : ((List.range' a.off a.n).map (fun o => o % 2 ^ 64)).map (fun o => o / 512)
        = ((List.range' a.off a.n).map (fun o => o / 512)).map (fun k => k % 2 ^ 55) := by
      rw [List.map_map, List.map_map]
      refine List.map_congr_left (fun o _ => ?_)
      simp only [Function.comp_apply]
      omega
    calc turns (memLines (alongPieces (splitAcc rs a) bs))
        ≤ turns (((splitAcc rs a).map (fun q => q.off)).map (fun o => o / 512)) := hlines ▸ turns_map_le _ _
      _ ≤ turns (((List.range' a.off a.n).map (fun o => o % 2 ^ 64)).map (fun o => o / 512)) :=
        turns_sublist ((splitAcc_starts rs a).map _)
      _ ≤ turns ((List.range' a.off a.n).map (fun o => o / 512)) := hmod ▸ turns_map_le _ _
      _ ≤ (a.n + 1022) / 512 := turns_lines a.off a.n

/-! ### The operands of both words (05 R120) -/

theorem Fmt.w_le (f : Word) : (Fmt.ofWord f).w ≤ 79 := by
  have h (lo n : Nat) : (f.extractLsb' lo n).toNat < 2 ^ n := BitVec.isLt _
  have h1 := h 0 1
  have h2 := h 1 4
  have h3 := h 5 6
  simp only [Fmt.ofWord, Fmt.w]
  omega

/-- A form of fewer than 65536 elements fills few lines. -/
theorem formBytes_lines {w : Nat} {xs : List Nat} (hw : w ≤ 79) (hlen : xs.length < 65536) :
    2 * (((formBytes w xs).length + 1022) / 512) ≤ 4096 := by
  have hmul : (storedElems xs).length * w ≤ 65535 * 79 :=
    Nat.mul_le_mul ((length_storedElems_le xs).trans (Nat.le_of_lt_succ hlen)) hw
  rw [length_formBytes, formMask, formVals, ceilDiv, ceilDiv]
  omega

section
variable {cx : Cx} {m : Addr} {c : Src} {seg : BitVec 8} {off : Nat} {cv : Word}

/-- The operand that gives length and room is the one that both words know. -/
theorem knownC_of_formAddr (h : formAddr cx m c = some (seg, off, cv)) : knownC cx c = some cv := by
  unfold formAddr at h
  unfold knownC RegVal.firstIn
  cases hl : lanes cx.eff with
  | nil =>
    rw [hl] at h
    cases h
  | cons l ls =>
    rw [hl] at h
    dsimp only at h ⊢
    split at h
    next hc =>
      obtain ⟨-, -, hequal⟩ := hc
      have hne : cx.eff ≠ 0 := by
        intro h0
        rw [h0] at hl
        exact List.cons_ne_nil l ls hl.symm
      rw [if_pos ⟨hne, hequal⟩]
      exact congrArg some (Prod.mk.inj (Prod.mk.inj (Option.some.inj h)).2).2
    next => cases h

/-- The registers of the vector are those that its length calls for. -/
theorem formMembers_of_formAddr (fs : BitVec 4) (base : RegIx) (h : formAddr cx m c = some (seg, off, cv)) :
    formMembers fs base c cx = runOf base.toNat (formRun cx (cx.fmt fs) (cv.toNat % 65536)) := by
  rw [formMembers, knownC_of_formAddr h]
  simp

section
variable (u : Uses) (ms : Members)

@[simp] theorem formAddr_fetched : formAddr (cx.fetched u ms) m c = formAddr cx m c := by
  unfold formAddr
  simp only [Cx.eff_fetched, laneAddr_fetched, Cx.src_fetched, Cx.live_fetched]

@[simp] theorem formRun_fetched (f : Fmt) (len : Nat) : formRun (cx.fetched u ms) f len = formRun cx f len := by
  rw [formRun, formRun, Cx.w_fetched]

@[simp] theorem formFault_fetched (base g len cap : Nat) :
    formFault (cx.fetched u ms) base g len cap = formFault cx base g len cap := by
  rw [formFault, formFault, Cx.nr_fetched]
end
end

/-! ### The word -/

/-- Element e of the vector in a run. -/
def runCode (cx : Cx) (f : Fmt) (base e : Nat) : Nat :=
  subElem ((cx.g.val (base + e / (cx.g.width * f.k))).lane (e % (cx.g.width * f.k) / f.k)) f.w (e % f.k)

theorem runCode_fetched (cx : Cx) (u : Uses) (ms : Members) (f : Fmt) (base : Nat) :
    runCode (cx.fetched u ms) f base = runCode cx f base := by
  funext e
  rw [runCode, runCode, Cx.width_fetched, Cx.val_fetched]

section
variable {fs : BitVec 4} {h : Hint} {m : Addr} {b : RegIx} {c : Src} {s s1 : State} {cx : Cx} {seg : BitVec 8} {off : Nat}
  {cv : Word} {rs : List Region} {bs : List Byte} {g : Guard}

theorem exec_stz (g : Guard) (fs : BitVec 4) (h : Hint) (m : Addr) (b : RegIx) (c : Src) (s : State) :
    exec (.stz g fs h m b c) s = issueRuns g (runMemUses m [b.toNat] c [] [b.toNat] fs)
      (fun cx => { reads := formMembers fs b c cx, writes := [] }) (stzBody fs h m b c) s := rfl

/-- A form that no check and no write-back holds back is stored. -/
theorem stzBody_stores (haddr : formAddr cx m c = some (seg, off, cv))
    (hbs : bs = formBytes (cx.fmt fs).w ((List.range (cv.toNat % 65536)).map (runCode cx (cx.fmt fs) b.toNat)))
    (hearly : earlyFault cx 16 [{ lane := lowLane cx, seg := seg, off := off, n := bs.length }] = none)
    (hform : formFault cx b.toNat (formRun cx (cx.fmt fs) (cv.toNat % 65536)) (cv.toNat % 65536) (cv.toNat / 2 ^ 32) = none)
    (hcap : bs.length ≤ cv.toNat / 2 ^ 32)
    (hprobe : s.probe cx .write [{ lane := lowLane cx, seg := seg, off := off, n := bs.length }] = .ok rs s1)
    (hfree : writeBlocked s1 cx (h == .byp) false
      (((alongPieces (splitAcc rs { lane := lowLane cx, seg := seg, off := off, n := bs.length }) bs).filter
        (fun x => !x.1.scratch)).map (fun x => x.1.place)) = false) :
    stzBody fs h m b c s cx = .done (s1.putPieces cx (storePlain cx h)
      (alongPieces (splitAcc rs { lane := lowLane cx, seg := seg, off := off, n := bs.length }) bs)) := by
  have hlen : (cv.extractLsb' 0 16).toNat = cv.toNat % 65536 := by simp
  have hroom : (cv.extractLsb' 32 32).toNat = cv.toNat / 2 ^ 32 := by
    rw [BitVec.extractLsb'_toNat, Nat.shiftRight_eq_div_pow, Nat.mod_eq_of_lt]
    have := cv.isLt
    omega
  have hcode : (fun e => subElem ((cx.g.val (b.toNat + e / (cx.w * (cx.fmt fs).k))).lane
      (e % (cx.w * (cx.fmt fs).k) / (cx.fmt fs).k)) (cx.fmt fs).w (e % (cx.fmt fs).k)) = runCode cx (cx.fmt fs) b.toNat := rfl
  unfold stzBody
  rw [haddr]
  dsimp only
  rw [hlen, hroom, hcode, ← hbs, hearly]
  dsimp only
  rw [hform]
  dsimp only
  rw [if_neg (Nat.not_lt.mpr hcap), hprobe]
  dsimp only
  rw [hfree]
  rfl
end

theorem formStore : FormStore := by
  intro g fs h m b c s s1 cx seg off cv rs tm i u f len n ms _ hr _ htm haddr code bs acc cx0 ps hearly hform hcap hprobe hfree
  obtain ⟨hsec, ⟨h1, p1, hm⟩, hmap⟩ := hr.toReady.probed hprobe
  have hsegs := seg_of_earlyFault hearly (List.mem_singleton_self acc)
  have hmapped := hmap acc (List.mem_singleton_self acc)
  have htend (t : State) (sec : Nat) (bs : List Byte) (m : Word) (ret : Hint) : Tended t (storePlain cx0 h t sec bs m ret) :=
    storePlain_tended ..
  have hteam : s1.team? (tidOf cx0.gid) = some tm := by
    unfold State.team?
    rw [State.probe_teams hprobe, State.fetched_teams]
    exact htm
  obtain ⟨gt, hdone⟩ := (hm.same (State.putPieces_sameWork (cx := cx0) htend s1 ps)).effected.done (cx1 := cx0) rfl rfl g
    (u.names ms)
  have hmembers : ({ reads := formMembers fs b c cx, writes := [] } : Members) = ms := by
    rw [formMembers_of_formAddr fs b haddr]
  have hclus : cx0.g.core.clus = cx.g.core.clus := by rw [Cx.core_fetched]
  have hst (hu : unmoved s1) := State.putPieces_stored (cx := cx0) (ps := ps) htend (hsec.sound hm hu)
    (fun t sec bs m ret ht hl => storePlain_through ht cx0 h sec hl m ret _)
    (fun x hx => alongPieces_within hsegs hmapped hx)
  have hroom (hr : l2Room s1) : s1.l2lines.length + 2 * turns (memLines ps) ≤ sliceLines := by
    have hturns : turns (memLines ps) ≤ (bs.length + 1022) / 512 := turns_alongPieces hsegs hmapped bs
    have hfew : 2 * ((bs.length + 1022) / 512) ≤ 4096 := formBytes_lines (Fmt.w_le _) (by
      rw [List.length_map, List.length_range]
      exact Nat.mod_lt _ (Nat.two_pow_pos 16))
    unfold l2Room at hr
    omega
  refine ⟨_, gt, _, ?_, hdone, scratchAt_putPieces (cx := cx0) htend hm.ok hteam, fun hu q v hq hc => ?_, fun hu => ?_⟩
  · have hrr : ReadyRuns s g u ((fun cx : Cx => ({ reads := formMembers fs b c cx, writes := [] } : Members)) cx) cx := by
      dsimp only
      rw [hmembers]
      exact hr
    have hbs : bs = formBytes (cx0.fmt fs).w ((List.range len).map (runCode cx0 (cx0.fmt fs) b.toNat)) := by
      simp only [cx0, Cx.fmt_fetched, runCode_fetched]
      rfl
    rw [exec_stz, issueRuns_ready _ _ hrr, hmembers, stzBody_stores (cx := cx0) (bs := bs) (rs := rs) (s1 := s1)
      (by rw [formAddr_fetched]; exact haddr) hbs hearly
      (by rw [Cx.fmt_fetched, formRun_fetched, formFault_fetched]; exact hform) hcap hprobe hfree]
    rfl
  · rw [← hclus]
    exact ((hst hu).put q v hq (hc.imp id hroom)).1
  · rw [← hclus]
    exact (hst hu).kept hroom

end Sys2Proof.Proofs
end
section
/-! PROOFS. ldz (05 R119 to R121). -/

namespace Sys2Proof.Proofs

open Sys2Proof Sys2Proof.Machine Sys2Proof.Claims

/-- Codes that fit a register value are read back from it. -/
theorem subElem_packElems {w q : Nat} {xs : List Nat} (hfit : xs.length * w ≤ 64) :
    subElem (packElems w xs) w q = xs.getD q 0 % 2 ^ w := by
  have hval : (packElems w xs).toNat = packCodes w xs := by
    have hpack : packElems w xs = BitVec.ofNat 64 (packCodes w xs) := rfl
    rw [hpack, BitVec.toNat_ofNat]
    exact Nat.mod_eq_of_lt ((packCodes_lt w xs).trans_le (Nat.pow_le_pow_right (by decide) hfit))
  rw [subElem, hval]
  exact bits_packCodes w xs q

section
variable {s t : State} {cx : Cx} {h : Hint} {rs : List Region} {accs : List LaneAcc} {xs : List (Piece × Got)}

/-- An access that is read waits for nothing and changes nothing but the caches and their counts. -/
theorem readAccess_tended (hread : readAccess s cx h rs accs = .inl (xs, t)) : Tended s t := by
  unfold readAccess at hread
  have htend := State.readPieces_tended cx (wordReader cx h) (fun t q => t.wordRead_tended cx h q) (accs.flatMap (splitAcc rs)) s
  obtain ⟨ys, v⟩ := s.readPieces cx (wordReader cx h) (accs.flatMap (splitAcc rs))
  dsimp only at hread
  split at hread
  · cases hread
  · cases hread
    exact htend
end

section
variable {g : Guard} {fs : BitVec 4} {h : Hint} {d : RegIx} {m : Addr} {c : Src} {s s1 s2 s3 s4 : State} {cx : Cx}
  {seg : BitVec 8} {off nnz : Nat} {cv : Word} {r1 r2 : List Region} {xs ys : List (Piece × Got)} {hd bs : List Byte}

theorem exec_ldz (g : Guard) (fs : BitVec 4) (h : Hint) (d : RegIx) (m : Addr) (c : Src) (s : State) :
    exec (.ldz g fs h d m c) s = issueRuns g (runMemUses m [] c [d.toNat] [d.toNat] fs)
      (fun cx => { reads := [], writes := formMembers fs d c cx }) (ldzBody fs h d m c) s := rfl

/-- The write of register r of a vector. -/
def formWrite (cx : Cx) (f : Fmt) (base : Nat) (es : List Nat) (r : Nat) : RegWrite where
  reg := base + r
  mask := cx.eff
  val := formReg cx f es r
  run := true

/-- The writes of the registers of a vector. -/
def formWrites (cx : Cx) (f : Fmt) (base n : Nat) (es : List Nat) : List RegWrite :=
  (List.range n).map (formWrite cx f base es)

/-- Both accesses of a form by its one address. -/
def formAcc (cx : Cx) (seg : BitVec 8) (off n : Nat) : LaneAcc := { lane := lowLane cx, seg := seg, off := off, n := n }

/-- The bytes of a form with so many stored elements. -/
def formSize (len nnz w : Nat) : Nat := 16 + formMask len + formVals nnz w

/-- A form that both reads give whole is loaded. -/
theorem ldzBody_loads (haddr : formAddr cx m c = some (seg, off, cv))
    (hearly : earlyFault cx 16 [formAcc cx seg off (16 + formMask (cv.toNat % 65536))] = none)
    (hform : formFault cx d.toNat (formRun cx (cx.fmt fs) (cv.toNat % 65536)) (cv.toNat % 65536) (cv.toNat / 2 ^ 32) = none)
    (hprobe1 : s.probe cx .read [formAcc cx seg off (16 + formMask (cv.toNat % 65536))] = .ok r1 s1)
    (hread1 : readAccess s1 cx h r1 [formAcc cx seg off (16 + formMask (cv.toNat % 65536))] = .inl (xs, s2))
    (hhd : laneBytes xs (lowLane cx) = some hd) (hhead : formHeader (cx.fmt fs).w (cv.toNat % 65536) hd = some nnz)
    (hcount : maskCount (cv.toNat % 65536) hd = nnz) (hcap : formSize (cv.toNat % 65536) nnz (cx.fmt fs).w ≤ cv.toNat / 2 ^ 32)
    (hscr : scratchFault cx.scratchSize [formAcc cx seg off (formSize (cv.toNat % 65536) nnz (cx.fmt fs).w)] = none)
    (hprobe2 : s2.probe cx .read [formAcc cx seg off (formSize (cv.toNat % 65536) nnz (cx.fmt fs).w)] = .ok r2 s3)
    (hread2 : readAccess s3 cx h r2 [formAcc cx seg off (formSize (cv.toNat % 65536) nnz (cx.fmt fs).w)] = .inl (ys, s4))
    (hbs : laneBytes ys (lowLane cx) = some bs) :
    ldzBody fs h d m c s cx = .done (s4.flyReply cx .load
      (runOf d.toNat (formRun cx (cx.fmt fs) (cv.toNat % 65536)))
      (formWrites cx (cx.fmt fs) d.toNat (formRun cx (cx.fmt fs) (cv.toNat % 65536))
        (formElems (cx.fmt fs).w (cv.toNat % 65536) bs)) [] (s4.stampsOf ys)) := by
  have hlen : (cv.extractLsb' 0 16).toNat = cv.toNat % 65536 := by simp
  have hroom : (cv.extractLsb' 32 32).toNat = cv.toNat / 2 ^ 32 := by
    rw [BitVec.extractLsb'_toNat, Nat.shiftRight_eq_div_pow, Nat.mod_eq_of_lt]
    have := cv.isLt
    omega
  unfold formAcc formSize at *
  unfold ldzBody
  rw [haddr]
  dsimp only
  rw [hlen, hroom, hearly]
  dsimp only
  rw [hform]
  dsimp only
  rw [hprobe1]
  dsimp only
  rw [hread1]
  dsimp only
  rw [hhd]
  dsimp only
  rw [hhead]
  dsimp only
  rw [if_neg (by rw [hcount]; omega), hscr]
  dsimp only
  rw [hprobe2]
  dsimp only
  rw [hread2]
  dsimp only
  rw [hbs]
  rfl

/-- A lane of a register of the vector holds its elements. -/
theorem formReg_lane {f : Fmt} {es : List Nat} {r l q : Nat} (hl : l < cx.w) (hq : q < f.k) :
    subElem ((formReg cx f es r).lane l) f.w q = es.getD (r * (cx.w * f.k) + l * f.k + q) 0 % 2 ^ f.w := by
  rw [formReg, lane_generalVal cx.w _ hl, subElem_packElems (by
    rw [List.length_map, List.length_range]
    exact Nat.div_mul_le_self 64 f.w)]
  simp [hq]
end

theorem formLoad : FormLoad := by
  intro g fs h d m c s s1 s2 s3 s4 cx seg off nnz cv r1 r2 xs ys hd bs i u f len n ms _ hr _ haddr cx0 acc size hearly hform hprobe1
    hread1 hhd hhead hcount hcap hscr hprobe2 hread2 hbs
  obtain ⟨-, ⟨h1, p1, hm1⟩, -⟩ := hr.toReady.probed hprobe1
  obtain ⟨h3, p3, hm3⟩ := (hm1.same (readAccess_tended hread1).toSameWork).probe (cx1 := cx0) rfl rfl hprobe2
  have hmembers : ({ reads := [], writes := formMembers fs d c cx } : Members) = ms := by
    rw [formMembers_of_formAddr fs d haddr]
  have hrr : ReadyRuns s g u ((fun cx : Cx => ({ reads := [], writes := formMembers fs d c cx } : Members)) cx) cx := by
    dsimp only
    rw [hmembers]
    exact hr
  have hf : cx0.fmt fs = f := Cx.fmt_fetched ..
  have hn : formRun cx0 f len = n := formRun_fetched ..
  obtain ⟨gt, fl, hflew, hkind, hdests, hwrites, hdue⟩ := (hm3.same (readAccess_tended hread2).toSameWork).effected.flew_plain
    (cx1 := cx0) rfl rfl g (u.names ms) .load (runOf d.toNat n) (formWrites cx0 f d.toNat n (formElems f.w len bs)) []
    (s4.stampsOf ys)
  refine ⟨_, gt, fl, ?_, hflew, hkind, hdests, hdue, fun r l q hrn hl hin hq => ?_⟩
  · rw [exec_ldz, issueRuns_ready _ _ hrr, hmembers, ldzBody_loads (cx := cx0) (nnz := nnz) (r1 := r1) (s1 := s1) (xs := xs) (s2 := s2)
      (hd := hd) (r2 := r2) (s3 := s3) (ys := ys) (s4 := s4) (bs := bs) (by rw [formAddr_fetched]; exact haddr) hearly
      (by rw [hf, formRun_fetched, formFault_fetched]; exact hform) hprobe1 hread1 hhd (by rw [hf]; exact hhead) hcount
      (by rw [hf]; exact hcap) (by rw [hf]; exact hscr) (by rw [hf]; exact hprobe2) (by rw [hf]; exact hread2) hbs, hf, hn]
    rfl
  · have hw : l < cx0.w := lt_of_lt_of_eq hl (Cx.width_fetched cx u ms).symm
    have hval := formReg_lane (cx := cx0) (es := formElems f.w len bs) (r := r) hw hq
    rw [show cx0.w = cx.g.width from Cx.width_fetched cx u ms] at hval
    refine ⟨formWrite cx0 f d.toNat (formElems f.w len bs) r, ?_, rfl, hin, hval⟩
    rw [hwrites]
    exact List.mem_map_of_mem (List.mem_range.mpr hrn)

/-- Settles O42: the form by its parts, stz by the pieces that it stores, ldz by its two reads. -/
theorem zeroMaskForms : Obligations.ZeroMaskForms := ⟨formRoundTrip, formStore, formLoad⟩

end Sys2Proof.Proofs
end
section
/-! SUPPORT. Integer operations of atomics, alone and combined by halves (05 R125, R126). -/

namespace Sys2Proof.Machine

open Sys2Proof.Claims

/-! ### One operation (05 R125) -/

/-- The bits of an access. -/
def atomBits (b64 : Bool) : Nat := 8 * atomBytes b64

theorem atomBits_le (b64 : Bool) : atomBits b64 ≤ 64 := by cases b64 <;> decide

theorem toNat_atomNarrow (b64 : Bool) (x : Word) : (atomNarrow b64 x).toNat = x.toNat % 2 ^ atomBits b64 := by
  cases b64 with
  | true => exact (Nat.mod_eq_of_lt x.isLt).symm
  | false =>
    have h : x.toNat % 2 ^ 32 < 2 ^ 64 := (Nat.mod_lt _ (Nat.two_pow_pos 32)).trans (by decide)
    simpa [atomNarrow, atomBits, atomBytes] using h

/-- The signed number of an access, from its bits. -/
def signedOf (n v : Nat) : Int := if v < 2 ^ (n - 1) then (v : Int) else (v : Int) - 2 ^ n

theorem atomNarrowInt_eq (b64 : Bool) (x : Word) : atomNarrowInt b64 x = signedOf (atomBits b64) (x.toNat % 2 ^ atomBits b64) := by
  cases b64 with
  | true =>
    have hlt := x.isLt
    rw [Nat.mod_eq_of_lt (show x.toNat < 2 ^ atomBits true from hlt)]
    simp only [atomNarrowInt, signedOf, atomBits, atomBytes, if_true, BitVec.toInt_eq_toNat_cond]
    split <;> split <;> omega
  | false =>
    have hlow : (x.extractLsb' 0 32).toNat = x.toNat % 2 ^ 32 := by simp
    simp only [atomNarrowInt, signedOf, atomBits, atomBytes, Bool.false_eq_true, if_false, BitVec.toInt_eq_toNat_cond, hlow]
    split <;> split <;> omega

theorem signedOf_inj {n v w : Nat} (hv : v < 2 ^ n) (hw : w < 2 ^ n) (h : signedOf n v = signedOf n w) : v = w := by
  have hcast : ((2 ^ n : Nat) : Int) = 2 ^ n := by push_cast; rfl
  simp only [signedOf, ← hcast] at h
  split at h <;> split at h <;> omega

/-- The first of two numbers but where the second comes before it. -/
def pickLess (s : Nat → Int) (x y : Nat) : Nat := if s y < s x then y else x

theorem pickLess_lt {s : Nat → Int} {x y n : Nat} (hx : x < n) (hy : y < n) : pickLess s x y < n := by
  unfold pickLess
  split
  · exact hy
  · exact hx

theorem pickLess_assoc (s : Nat → Int) (x y z : Nat) :
    pickLess s (pickLess s x y) z = pickLess s x (pickLess s y z) := by
  grind [pickLess]

theorem onWord_min (n x y : Nat) : onWord .min n x y = pickLess (signedOf n) x y := rfl
theorem onWord_max (n x y : Nat) : onWord .max n x y = pickLess (fun v => -signedOf n v) x y := by
  simp only [pickLess, neg_lt_neg_iff]
  rfl

theorem onWord_lt {op : AtomOp} {n x y : Nat} (hx : x < 2 ^ n) (hy : y < 2 ^ n) : onWord op n x y < 2 ^ n := by
  cases op with
  | add => exact Nat.mod_lt _ (Nat.two_pow_pos n)
  | and => exact Nat.and_lt_two_pow _ hy
  | or => exact Nat.or_lt_two_pow hx hy
  | xor => exact Nat.xor_lt_two_pow hx hy
  | min => exact onWord_min n x y ▸ pickLess_lt hx hy
  | max => exact onWord_max n x y ▸ pickLess_lt hx hy
  | umin => exact (Nat.min_le_left x y).trans_lt hx
  | umax => exact Nat.max_lt.mpr ⟨hx, hy⟩
  | exch => exact hy
  | fadd => exact hy
  | fmin => exact hy
  | fmax => exact hy

theorem onWord_assoc (op : AtomOp) (n x y z : Nat) : onWord op n (onWord op n x y) z = onWord op n x (onWord op n y z) := by
  cases op with
  | add => simp [onWord, Nat.add_assoc]
  | and => exact Nat.and_assoc x y z
  | or => exact Nat.or_assoc x y z
  | xor => exact Nat.xor_assoc x y z
  | min =>
    simp only [onWord_min]
    exact pickLess_assoc ..
  | max =>
    simp only [onWord_max]
    exact pickLess_assoc ..
  | umin => exact Nat.min_assoc x y z
  | umax => exact Nat.max_assoc x y z
  | exch => rfl
  | fadd => rfl
  | fmin => rfl
  | fmax => rfl

/-- One integer operation at the access size. -/
def atomInt (op : AtomOp) (b64 : Bool) (x y : Word) : Word :=
  BitVec.ofNat 64 (onWord op (atomBits b64) (x.toNat % 2 ^ atomBits b64) (y.toNat % 2 ^ atomBits b64))

section
variable {op : AtomOp} {b64 : Bool}

theorem toNat_atomInt (x y : Word) : (atomInt op b64 x y).toNat
    = onWord op (atomBits b64) (x.toNat % 2 ^ atomBits b64) (y.toNat % 2 ^ atomBits b64) := by
  have hlt := onWord_lt (op := op) (Nat.mod_lt x.toNat (Nat.two_pow_pos (atomBits b64)))
    (Nat.mod_lt y.toNat (Nat.two_pow_pos (atomBits b64)))
  rw [atomInt, BitVec.toNat_ofNat]
  exact Nat.mod_eq_of_lt (hlt.trans_le (Nat.pow_le_pow_right (by decide) (atomBits_le b64)))

theorem toNat_atomInt_lt (x y : Word) : (atomInt op b64 x y).toNat < 2 ^ atomBits b64 := by
  rw [toNat_atomInt]
  exact onWord_lt (Nat.mod_lt _ (Nat.two_pow_pos _)) (Nat.mod_lt _ (Nat.two_pow_pos _))

theorem atomInt_assoc (x y z : Word) : atomInt op b64 (atomInt op b64 x y) z = atomInt op b64 x (atomInt op b64 y z) := by
  refine BitVec.eq_of_toNat_eq ?_
  rw [toNat_atomInt, Nat.mod_eq_of_lt (toNat_atomInt_lt x y), toNat_atomInt, toNat_atomInt,
    Nat.mod_eq_of_lt (toNat_atomInt_lt y z), toNat_atomInt, onWord_assoc]

/-- An integer operation of the model makes no events. -/
theorem atomOp_int (hop : isFloatAtom op = false) (f : Fmt) (key : Nat → Key) (x y : Word) :
    atomOp op b64 f key x y = .pure (atomInt op b64 x y) := by
  have hval (v : Word) (hv : v.toNat = onWord op (atomBits b64) (x.toNat % 2 ^ atomBits b64) (y.toNat % 2 ^ atomBits b64)) :
      Tallied.pure v = .pure (atomInt op b64 x y) :=
    congrArg _ (BitVec.eq_of_toNat_eq (hv.trans (toNat_atomInt x y).symm))
  have hpow : 2 ^ atomBits b64 ∣ 2 ^ 64 := Nat.pow_dvd_pow 2 (atomBits_le b64)
  cases op with
  | add =>
    refine hval _ ?_
    rw [toNat_atomNarrow, BitVec.toNat_add, Nat.mod_mod_of_dvd _ hpow, Nat.add_mod]
    rfl
  | and =>
    refine hval _ ?_
    rw [toNat_atomNarrow, BitVec.toNat_and, Nat.and_mod_two_pow]
    rfl
  | or =>
    refine hval _ ?_
    rw [toNat_atomNarrow, BitVec.toNat_or, Nat.or_mod_two_pow]
    rfl
  | xor =>
    refine hval _ ?_
    rw [toNat_atomNarrow, BitVec.toNat_xor, Nat.xor_mod_two_pow]
    rfl
  | min =>
    refine hval _ ?_
    rw [toNat_atomNarrow, onWord_min, pickLess, ← atomNarrowInt_eq, ← atomNarrowInt_eq, apply_ite BitVec.toNat,
      apply_ite (· % 2 ^ atomBits b64)]
    by_cases h : atomNarrowInt b64 y < atomNarrowInt b64 x
    · rw [if_pos h, if_neg (not_le_of_gt h)]
    · rw [if_neg h, if_pos (le_of_not_gt h)]
  | max =>
    refine hval _ ?_
    rw [toNat_atomNarrow, onWord_max, pickLess]
    simp only [neg_lt_neg_iff, ← atomNarrowInt_eq]
    rw [apply_ite BitVec.toNat, apply_ite (· % 2 ^ atomBits b64)]
    obtain h | h | h := lt_trichotomy (atomNarrowInt b64 x) (atomNarrowInt b64 y)
    · rw [if_pos h, if_pos (le_of_lt h)]
    · -- of equal numbers the bits are equal
      rw [if_neg (not_lt_of_ge (le_of_eq h.symm)), if_pos (le_of_eq h)]
      rw [atomNarrowInt_eq, atomNarrowInt_eq] at h
      exact (signedOf_inj (Nat.mod_lt _ (Nat.two_pow_pos _)) (Nat.mod_lt _ (Nat.two_pow_pos _)) h).symm
    · rw [if_neg (not_lt_of_ge (le_of_lt h)), if_neg (not_le_of_gt h)]
  | umin =>
    refine hval _ ?_
    rw [apply_ite BitVec.toNat, toNat_atomNarrow, toNat_atomNarrow]
    exact Nat.min_def.symm
  | umax =>
    refine hval _ ?_
    rw [apply_ite BitVec.toNat, toNat_atomNarrow, toNat_atomNarrow]
    exact Nat.max_def.symm
  | exch => exact hval _ (toNat_atomNarrow b64 y)
  | fadd => cases hop
  | fmin => cases hop
  | fmax => cases hop
end

end Sys2Proof.Machine
end
section
/-! SUPPORT. What the lanes of one word combine to, and what each finds (05 R126). -/

namespace Sys2Proof.Machine

open Sys2Proof.Claims

/-! ### Combining values by halves -/

/-- Values combined from the first on. -/
def foldAll (F : Word → Word → Word) : List Word → Option Word
  | [] => none
  | x :: xs => some (xs.foldl F x)

/-- An absent value adds nothing. -/
def joinVals (F : Word → Word → Word) : Option Word → Option Word → Option Word
  | some a, some b => some (F a b)
  | some a, none => some a
  | none, b => b

section
variable {F : Word → Word → Word} (hF : ∀ x y z, F (F x y) z = F x (F y z))
include hF

theorem foldl_assoc_first (v x : Word) (xs : List Word) : F v (xs.foldl F x) = (x :: xs).foldl F v := by
  induction xs generalizing x with
  | nil => rfl
  | cons y ys ih =>
    have h := ih (F x y)
    rw [List.foldl_cons, h, List.foldl_cons, List.foldl_cons, List.foldl_cons, hF]

theorem foldAll_append (xs ys : List Word) : foldAll F (xs ++ ys) = joinVals F (foldAll F xs) (foldAll F ys) := by
  cases xs with
  | nil =>
    rw [List.nil_append]
    rfl
  | cons x xs =>
    cases ys with
    | nil => rw [List.append_nil]; rfl
    | cons y ys =>
      rw [List.cons_append]
      simp only [foldAll, joinVals]
      rw [List.foldl_append, foldl_assoc_first hF]

/-- A value with others combined is the value with each of them in turn. -/
theorem fold_of_foldAll {v p : Word} {xs : List Word} (h : foldAll F xs = some p) : F v p = xs.foldl F v := by
  cases xs with
  | nil => cases h
  | cons x xs =>
    cases h
    exact foldl_assoc_first hF v x xs
end

theorem rightPart_le (n : Nat) : rightPart n ≤ n := by
  unfold rightPart
  split <;> omega

section
variable {leaf : Nat → Option Word} {f : CombineFn} {F : Word → Word → Word} (hF : ∀ x y z, F (F x y) z = F x (F y z))
  (hf : ∀ l x y, (f l x y).val = F x y)

include hf in
theorem map_besides (a b : Option (Nat × Word)) :
    (besides f a b).map Prod.snd = joinVals F (a.map Prod.snd) (b.map Prod.snd) := by
  cases a with
  | none => cases b <;> rfl
  | some a =>
    cases b with
    | none => rfl
    | some b => exact congrArg some (hf a.1 a.2 b.2)

include hF hf

/-- A range combines the values that its positions have. -/
theorem rangeVal_fold : ∀ (fuel x n : Nat), fits fuel n = true →
    (rangeVal leaf f fuel x n).map Prod.snd = foldAll F ((List.range' x n).filterMap leaf)
  | 0, _, _, h => by cases h
  | fuel + 1, x, n, h => by
    by_cases hn : n ≤ 1
    · obtain rfl | rfl : n = 0 ∨ n = 1 := by omega
      · rfl
      · rw [rangeVal, if_neg (by decide), if_pos rfl]
        cases hl : leaf x with
        | none => simp [hl, foldAll]
        | some v => simp [hl, foldAll]
    · simp only [fits, hn, decide_false, Bool.false_or, Bool.and_eq_true] at h
      have hr := rightPart_le n
      have hparts : List.range' x n = List.range' x (n - rightPart n) ++ List.range' (x + (n - rightPart n)) (rightPart n) := by
        rw [List.range'_append_1, Nat.sub_add_cancel hr]
      rw [rangeVal_parts leaf f fuel x n (by omega), map_besides hf, rangeVal_fold fuel _ _ h.1, rangeVal_fold fuel _ _ h.2, hparts,
        List.filterMap_append, foldAll_append hF]

/-- What a part of a scan has combined. -/
theorem Combined.Covers.fold {c : Combined} {x n : Nat} (hc : c.Covers leaf f x n) (hn : n < 65) :
    c.val.map Prod.fst = foldAll F ((List.range' x n).filterMap leaf) := by
  have hfit := fits_of_le n hn
  have hval : spanVal leaf f x n = rangeVal leaf f 15 x n := rangeVal_succ leaf f hfit
  rw [hc.val, Option.map_map, hval, ← rangeVal_fold hF hf 15 x n hfit]
  rfl
end

/-! ### Events (05 R126) -/

section
variable {leaf : Nat → Option Word} {f : CombineFn} (hcnt : ∀ l x y, (f l x y).cnt = Counts.zero)
include hcnt

theorem nodeEvents_of_pure (q : Nat × Nat) : nodeEvents leaf f q.1 q.2 = Counts.zero := by
  unfold nodeEvents
  dsimp only
  split
  · exact hcnt ..
  · rfl

/-- Combinations without events have none. -/
theorem Combined.Covers.noEvents {c : Combined} {x n : Nat} (hc : c.Covers leaf f x n) : ∀ e ∈ c.nodes, e.2 = Counts.zero := by
  intro e he
  obtain ⟨q, -, -, rfl⟩ := (hc.nodes e).mp he
  exact nodeEvents_of_pure hcnt q
end

theorem Counts.sum_zero {cs : List Counts} (h : ∀ c ∈ cs, c = Counts.zero) : Counts.sum cs = Counts.zero := by
  induction cs with
  | nil => rfl
  | cons c cs ih =>
    rw [Counts.sum_cons, h c (List.mem_cons_self ..), ih (fun d hd => h d (List.mem_cons_of_mem _ hd)), Counts.add_zero]

theorem distinctCounts_zero {nodes : List ((Nat × Nat) × Counts)} (h : ∀ e ∈ nodes, e.2 = Counts.zero) :
    distinctCounts nodes = Counts.zero := by
  have hfold : ∀ (xs acc : List ((Nat × Nat) × Counts)), (∀ e ∈ xs, e.2 = Counts.zero) → (∀ e ∈ acc, e.2 = Counts.zero) →
      ∀ e ∈ xs.foldl (fun acc x => if acc.any (fun y => y.1 == x.1) then acc else x :: acc) acc, e.2 = Counts.zero := by
    intro xs
    induction xs with
    | nil => exact fun acc _ hacc => hacc
    | cons x xs ih =>
      intro acc hxs hacc
      refine ih _ (fun e he => hxs e (List.mem_cons_of_mem _ he)) (fun e he => ?_)
      dsimp only at he
      split at he
      · exact hacc e he
      · obtain rfl | he := List.mem_cons.mp he
        · exact hxs e (List.mem_cons_self ..)
        · exact hacc e he
  refine Counts.sum_zero (fun c hc => ?_)
  obtain ⟨e, he, rfl⟩ := List.mem_map.mp hc
  exact hfold nodes [] h (fun e he => absurd he List.not_mem_nil) e he

/-! ### Lanes in turn -/

theorem inTurn_snd (f : Nat → Nat → Nat) : ∀ (ls : List Nat) (v : Nat), (inTurn f ls v).2 = ls.foldl (fun v l => f l v) v
  | [], _ => rfl
  | l :: ls, v => inTurn_snd f ls (f l v)

/-- A lane finds what the lanes below it have left. -/
theorem inTurn_fst (f : Nat → Nat → Nat) : ∀ {ls : List Nat} (v : Nat), ls.Pairwise (· < ·) →
    (inTurn f ls v).1 = ls.map (fun l => (l, (ls.filter (fun k => decide (k < l))).foldl (fun v k => f k v) v))
  | [], _, _ => rfl
  | l :: ls, v, hs => by
    obtain ⟨hl, hs⟩ := List.pairwise_cons.mp hs
    have hnone : (l :: ls).filter (fun k => decide (k < l)) = [] := by
      rw [List.filter_eq_nil_iff]
      intro k hk
      obtain rfl | hk := List.mem_cons.mp hk
      · simp
      · simpa using Nat.le_of_lt (hl k hk)
    have htail : (inTurn f ls (f l v)).1
        = ls.map (fun k => (k, ((l :: ls).filter (fun i => decide (i < k))).foldl (fun v i => f i v) v)) := by
      rw [inTurn_fst f (f l v) hs]
      refine List.map_congr_left (fun k hk => ?_)
      rw [List.filter_cons_of_pos (by simpa using hl k hk), List.foldl_cons]
    rw [List.map_cons, hnone, ← htail]
    rfl

end Sys2Proof.Machine
end
section
/-! SUPPORT. One operation on a word of scratch or of local memory (05 R125, 12 R263, R264). -/

namespace Sys2Proof.Machine

open Sys2Proof.Claims

/-! ### Bytes of a word -/

/-- Bytes stored within one sector, by their places. -/
theorem secBytes_place64 {p : Nat} {bs : List Byte} (q : Nat) :
    secBytes (sectorOf p) (place64 (p % 64) bs) (byteMask (p % 64) bs.length) q
      = if sectorOf q = sectorOf p then spanByte (p, bs) q else none := by
  unfold secBytes
  split
  next hq => exact maskedByte_place64 hq
  next => rfl

section
variable {p : Nat} {bs : List Byte}

theorem secBytes_place64_in (hp : p % 64 + bs.length ≤ 64) {i : Nat} (hi : i < bs.length) :
    secBytes (sectorOf p) (place64 (p % 64) bs) (byteMask (p % 64) bs.length) (p + i) = some (bs.getD i 0) := by
  rw [secBytes_place64, if_pos (sectorOf_add_lt hp hi).1, spanByte, if_pos ⟨by dsimp only; omega, by dsimp only; omega⟩,
    Nat.add_sub_cancel_left]

theorem secBytes_place64_out {q : Nat} (h : secBytes (sectorOf p) (place64 (p % 64) bs) (byteMask (p % 64) bs.length) q ≠ none) :
    p ≤ q ∧ q < p + bs.length := by
  rw [secBytes_place64] at h
  split at h
  · unfold spanByte at h
    split at h
    next hin => exact hin
    next => exact absurd rfl h
  · exact absurd rfl h
end

/-- The byte of a word at a place. -/
def wordByte (s : State) (cx : Cx) (seg : BitVec 8) (q : Nat) : Byte :=
  if seg = 0xFE then scratchAt s cx q else seenAt s cx.g.core.clus q

theorem wordAt_eq (s : State) (cx : Cx) (seg : BitVec 8) (a n : Nat) :
    wordAt s cx seg a n = ofBytes ((List.range n).map (fun i => wordByte s cx seg (a + i))) := rfl

/-- Bytes that lie at the places of a word are the word. -/
theorem wordAt_of_bytes {s : State} {cx : Cx} {seg : BitVec 8} {a n : Nat} {bs : List Byte} (hlen : bs.length = n)
    (h : ∀ i, i < n → wordByte s cx seg (a + i) = bs.getD i 0) : wordAt s cx seg a n = ofBytes bs := by
  rw [wordAt_eq]
  congr 1
  subst hlen
  refine List.ext_getElem (by simp) (fun i h1 h2 => ?_)
  rw [List.getElem_map, List.getElem_range, h i h2]
  simp [h2]

theorem wordAt_lt (s : State) (cx : Cx) (seg : BitVec 8) (a n : Nat) : wordAt s cx seg a n < 2 ^ (8 * n) := by
  have h := ofBytes_lt ((List.range n).map (fun i => wordByte s cx seg (a + i)))
  rwa [List.length_map, List.length_range] at h

/-! ### What an operation on one word leaves -/

/-- The machine in which an operation on one word is performed: its team has scratch, or its place is a sound sector of
local memory, which at .dev the cluster holds no copy of. -/
structure WordReady (cx : Cx) (seg : BitVec 8) (a : Nat) (sc : Scope) (s : State) : Prop where
  sound : s.Sound
  team : ∃ tm, s.team? (tidOf cx.gid) = some tm
  clean : seg ≠ 0xFE → s.isPoisoned (sectorOf a) = false
  apart : seg ≠ 0xFE → sc = .dev → s.l1Sector cx.g.core.clus (sectorOf a) = none

/-- What operations on one word change: its bytes. -/
structure WordOnly (cx : Cx) (seg : BitVec 8) (a n : Nat) (s t : State) : Prop where
  scratch : ∀ q, seg ≠ 0xFE ∨ q < a ∨ a + n ≤ q → scratchAt t cx q = scratchAt s cx q
  through : ∃ w, Through cx.g.core.clus (sectorOf a / 8) w s t ∧ ∀ q, w q ≠ none → seg ≠ 0xFE ∧ a ≤ q ∧ q < a + n

namespace WordOnly
variable {cx : Cx} {seg : BitVec 8} {a n : Nat} {s t v : State}

theorem refl : WordOnly cx seg a n s s := ⟨fun _ _ => rfl, _, .refl .., fun _ h => absurd rfl h⟩

theorem trans (h : WordOnly cx seg a n s t) (k : WordOnly cx seg a n t v) : WordOnly cx seg a n s v := by
  obtain ⟨w, hw, hin⟩ := h.through
  obtain ⟨w', hw', hin'⟩ := k.through
  refine ⟨fun q hq => (k.scratch q hq).trans (h.scratch q hq), _, hw.trans hw', fun q hq => ?_⟩
  cases hc : w' q with
  | some b => exact hin' q (by rw [hc]; exact Option.some_ne_none b)
  | none =>
    rw [hc, Option.none_or] at hq
    exact hin q hq

theorem kept (h : WordOnly cx seg a n s t) : Kept s t cx.g.core.clus (fun q => seg ≠ 0xFE ∧ a ≤ q ∧ q < a + n) := by
  obtain ⟨w, hw, hin⟩ := h.through
  have hk := hw.stored.kept (fun hr => by
    have := s.lineCost_le cx.g.core.clus (sectorOf a / 8)
    unfold l2Room at hr
    omega)
  exact ⟨fun q hq => hk.seen q (fun hn => hq (hin q hn)), fun q hq => hk.mem q (fun hn => hq (hin q hn)), hk.host⟩
end WordOnly

/-! ### In scratch (05 R100) -/

theorem State.atomScratch {s : State} {cx : Cx} {a n : Nat} {sc : Scope} {seg : BitVec 8} (hseg : seg = 0xFE)
    (hs : WordReady cx seg a sc s) (v : Nat) (hv : v < 2 ^ (8 * n)) :
    let t := s.scratchWrite (tidOf cx.gid) a (toBytes n v)
    ofBytes (s.scratchRead (tidOf cx.gid) a n) = wordAt s cx seg a n
      ∧ WordReady cx seg a sc t ∧ WordOnly cx seg a n s t ∧ wordAt t cx seg a n = v := by
  obtain ⟨tm, htm⟩ := hs.team
  obtain ⟨hteam, hbytes⟩ := scratchAt_scratchWrite hs.sound.ok htm a (toBytes n v)
  obtain ⟨hlen, hread⟩ := s.scratchRead_spec cx a n
  have hsound := State.scratchWrites_sound hs.sound (tidOf cx.gid) [(⟨0, true, seg, a, 0, n, .dflt⟩, toBytes n v)]
  have hnot (h : seg ≠ 0xFE) : False := h hseg
  obtain ⟨ts, hts⟩ := s.scratchWrite_teams (tidOf cx.gid) a (toBytes n v)
  refine ⟨(wordAt_of_bytes hlen (fun i hi => ?_)).symm, ⟨hsound, hteam, fun h => (hnot h).elim, fun h => (hnot h).elim⟩,
    ⟨fun q hq => ?_, fun _ => none, ?_, fun _ h => absurd rfl h⟩, ?_⟩
  · rw [wordByte, if_pos hseg, hread i hi]
  · rw [hbytes, spanByte, if_neg]
    · rfl
    · rw [length_toBytes]
      have := hq.resolve_left (fun h => hnot h)
      dsimp only
      omega
  · rw [hts]
    exact ⟨.of_teams .., fun _ => le_rfl⟩
  · refine (wordAt_of_bytes (length_toBytes n v) (fun i hi => ?_)).trans (ofBytes_toBytes n v hv)
    rw [wordByte, if_pos hseg, hbytes, spanByte, if_pos (by rw [length_toBytes]; dsimp only; omega)]
    simp

/-! ### In local memory -/

theorem isPeer_of_isLocal {p : Nat} (h : isLocal p = true) : isPeer p = false := by
  simp only [isLocal, decide_eq_true_eq] at h
  simp only [isPeer, placeTier, beq_eq_false_iff_ne]
  omega

section
variable {s : State} {clus p n : Nat} (hs : s.Sound) (hl : isLocal p = true) (hclean : s.isPoisoned (sectorOf p) = false)

include hl in
theorem isLocal_word {i : Nat} (hp : p % 64 + n ≤ 64) (hi : i < n) : isLocal (p + i) = true := by
  rw [← isLocal_sectorBase, (sectorOf_add_lt hp hi).1, isLocal_sectorBase]
  exact hl

theorem State.isPoisoned_eq {s : State} (hu : unmoved s) (sec : Nat) : s.isPoisoned sec = s.poison.contains (sectorOf (sectorBase sec)) := by
  rw [State.isPoisoned, hu]

/-- A sector found sound stays so. -/
theorem Stored.clean {w : Nat → Option Byte} {room : Prop} {t : State} (h : Stored clus w room s t) (hs : s.Sound) (ht : t.Sound)
    {sec : Nat} (hclean : s.isPoisoned sec = false) : t.isPoisoned sec = false := by
  rw [State.isPoisoned_eq hs.unmoved] at hclean
  rw [State.isPoisoned_eq ht.unmoved]
  simp only [List.contains_eq_mem, decide_eq_false_iff_not] at hclean ⊢
  exact fun hx => hclean (h.poison _ hx)

include hl hclean in
theorem State.below_local (h : Option Hint) : (s.below (sectorOf p) h).1 = .bytes (s.homeRead (sectorBase (sectorOf p)) 64) := by
  unfold State.below
  dsimp only
  rw [isLocal_sectorBase, hl, hclean]
  rfl

include hl hclean in
/-- A sound sector of local memory gives its bytes. -/
theorem State.plainRead_local (h h2 : Hint) : ∃ bs, (s.plainRead clus p n h h2).1 = .bytes bs := by
  have hbelow := State.below_local hl hclean (some h2)
  have hown (x : Sector) : s.ownHalf (sectorOf p) x = false := by simp [State.ownHalf, hclean]
  rcases hr : s.below (sectorOf p) (some h2) with ⟨b, t⟩
  obtain rfl : b = .bytes (s.homeRead (sectorBase (sectorOf p)) 64) := (congrArg Prod.fst hr).symm.trans hbelow
  unfold State.plainRead
  dsimp only
  cases s.l1Sector clus (sectorOf p) with
  | some x =>
    dsimp only
    rw [hown, hr]
    split
    · exact ⟨_, rfl⟩
    · rw [if_neg (by decide)]
      split
      · exact ⟨_, rfl⟩
      · exact ⟨_, rfl⟩
  | none =>
    dsimp only
    rw [hr]
    dsimp only
    split
    · exact ⟨_, rfl⟩
    · cases t.makeRoom clus (sectorOf p) h with
      | some v => exact ⟨_, rfl⟩
      | none => exact ⟨_, rfl⟩

/-- What a cluster finds is what a read of it finds without a hint. -/
theorem hintAt_dflt (s : State) (clus q : Nat) : hintAt s .dflt clus q = seenAt s clus q := hintAt_of_ne s (by decide) clus q

include hs hl hclean in
/-- In the cluster L1: a read, then a store. -/
theorem State.atomL1_local (hp : p % 64 + n ≤ 64) (fills : List (Nat × FillRes)) (ret : Hint) (f : Rmw) :
    ∃ bs : List Byte, bs.length = n ∧ (∀ i, i < n → bs.getD i 0 = seenAt s clus (p + i))
      ∧ s.atomL1 clus p n fills ret f = (.done (Machine.wordOf bs) (f (Machine.wordOf bs)).cnt,
          (s.plainRead clus p n .dflt ret).2.plainWrite clus (sectorOf p) (place64 (p % 64) (toBytes n (f (Machine.wordOf bs)).val.toNat))
            (byteMask (p % 64) n) .dflt ret) := by
  obtain ⟨bs, hbs⟩ := State.plainRead_local (clus := clus) (n := n) hl hclean .dflt ret
  obtain ⟨hlen, hbytes⟩ := State.plainRead_bytes hs hp hbs
  refine ⟨bs, hlen, fun i hi => (hbytes i hi).trans (hintAt_dflt ..), ?_⟩
  have hpeer : isPeer (sectorBase (sectorOf p)) = false := by
    rw [isPeer_sectorBase]
    exact isPeer_of_isLocal hl
  have htakes : s.takesWrite (sectorOf p) = true := by simp [State.takesWrite, hpeer]
  rcases hr : s.plainRead clus p n .dflt ret with ⟨b, t⟩
  obtain rfl : b = .bytes bs := (congrArg Prod.fst hr).symm.trans hbs
  unfold State.atomL1
  dsimp only
  rw [htakes, Bool.not_true, Bool.and_false, if_neg (by decide), hr]

include hs hl hclean in
/-- At the home slice of a sector that the cluster holds no copy of. -/
theorem State.atomDev_local (hnone : s.l1Sector clus (sectorOf p) = none) (fills : List (Nat × FillRes)) (ret : Hint) (f : Rmw) :
    let t := s.noteL2 (sectorOf p) (some ret)
    let old := Machine.wordOf (t.homeRead p n)
    s.atomDev clus p n fills f (some ret) = (.done old (f old).cnt, t.homeWriteAt p (toBytes n (f old).val.toNat)) := by
  intro t old
  have hl1 : t.l1Sector clus (sectorOf p) = none := ((State.noteL2_onlyPackage ..).l1Sector ..).trans hnone
  have hrecall : t.recall clus (sectorOf p) = t := by
    have hwb : t.wbL1 clus (sectorOf p) = t := by
      unfold State.wbL1
      rw [hl1]
    unfold State.recall
    dsimp only
    rw [hwb, hl1]
  have hcl : t.isPoisoned (sectorOf p) = false :=
    (State.noteL2_through (s := s) clus (sectorOf p) (some ret)).stored.clean hs (State.noteL2_sound hs (sectorOf p) (some ret)) hclean
  have hnote : (if (some ret).isSome then s.noteL2 (sectorOf p) (some ret) else s) = t := if_pos rfl
  unfold State.atomDev
  dsimp only
  rw [hl, if_pos rfl, hnote, hrecall, hcl]
  rfl
end

/-! ### One operation where its scope and its memory place it (05 R125) -/

section
variable {cx : Cx} {seg : BitVec 8} {a n : Nat} {sc : Scope} {s t : State} (hs : WordReady cx seg a sc s) (hseg : seg ≠ 0xFE)
  (hl : isLocal a = true) (hp : a % 64 + n ≤ 64)
include hs hseg

/-- A store of the word's bytes and of no others. -/
theorem WordReady.stored {v : Nat} (hv : v < 2 ^ (8 * n))
    (hth : Through cx.g.core.clus (sectorOf a / 8) (secBytes (sectorOf a) (place64 (a % 64) (toBytes n v)) (byteMask (a % 64) n)) s t)
    (htend : Tended s t) (hapart : sc = .dev → t.l1Sector cx.g.core.clus (sectorOf a) = none) (hl : isLocal a = true)
    (hp : a % 64 + n ≤ 64) :
    WordReady cx seg a sc t ∧ WordOnly cx seg a n s t ∧ wordAt t cx seg a n = v := by
  have hlen : (toBytes n v).length = n := length_toBytes ..
  have hsound := hth.stored.sound hs.sound htend
  refine ⟨⟨hsound, ?_, fun h => hth.stored.clean hs.sound hsound (hs.clean h), fun _ => hapart⟩,
    ⟨fun q _ => htend.scratchAt cx q, _, hth, fun q hq => ?_⟩,
    (wordAt_of_bytes hlen (fun i hi => ?_)).trans (ofBytes_toBytes n v hv)⟩
  · obtain ⟨tm, htm⟩ := hs.team
    exact ⟨tm, (htend.team? _).trans htm⟩
  · have hin := secBytes_place64_out (p := a) (bs := toBytes n v) (q := q) (by rw [hlen]; exact hq)
    rw [hlen] at hin
    exact ⟨hseg, hin⟩
  · have hput := secBytes_place64_in (p := a) (bs := toBytes n v) (by rw [hlen]; exact hp) (i := i) (by rw [hlen]; exact hi)
    rw [hlen] at hput
    rw [wordByte, if_neg hseg]
    exact (hth.stored.put _ _ hput (.inl (isLocal_word hl hp hi))).1

include hl hp

/-- An operation in the cluster L1. -/
theorem WordReady.atomL1 (hsc : sc ≠ .dev) (fills : List (Nat × FillRes)) (ret : Hint) (f : Rmw) {old : Word}
    (hold : old = BitVec.ofNat 64 (wordAt s cx seg a n)) (hnew : (f old).val.toNat < 2 ^ (8 * n)) :
    ∃ t, (s.countL1 cx (sectorOf a) (byteMask (a % 64) n)).atomL1 cx.g.core.clus a n fills ret f = (.done old (f old).cnt, t)
      ∧ WordReady cx seg a sc t ∧ WordOnly cx seg a n s t ∧ wordAt t cx seg a n = (f old).val.toNat := by
  have hs1 := State.countL1_sound hs.sound cx (sectorOf a) (byteMask (a % 64) n)
  have hth1 := State.countL1_through s cx (sectorOf a) (byteMask (a % 64) n) cx.g.core.clus (sectorOf a / 8)
  have htend1 := s.countL1_tended cx (sectorOf a) (byteMask (a % 64) n)
  generalize hcount : s.countL1 cx (sectorOf a) (byteMask (a % 64) n) = s1 at hs1 hth1 htend1
  have hseen (q : Nat) : seenAt s1 cx.g.core.clus q = seenAt s cx.g.core.clus q := by
    rw [← hcount]
    rfl
  obtain ⟨bs, hlen, hbytes, hperf⟩ := State.atomL1_local (clus := cx.g.core.clus) (n := n) hs1 hl
    (hth1.stored.clean hs.sound hs1 (hs.clean hseg)) hp fills ret f
  have hword : Machine.wordOf bs = old := by
    rw [hold, Machine.wordOf, wordAt_of_bytes hlen (fun i hi => ?_)]
    rw [wordByte, if_neg hseg, hbytes i hi, hseen]
  rw [hword] at hperf
  have hp64 : (place64 (a % 64) (toBytes n (f old).val.toNat)).length = 64 := length_place64 (by rw [length_toBytes]; exact hp)
  have hread := State.plainRead_through hs1 cx.g.core.clus a n .dflt ret
  have hs2 := State.plainRead_sound hs1 cx.g.core.clus a n .dflt ret
  have hwrite := State.plainWrite_through hs2 cx.g.core.clus (sectorOf a) hp64 (byteMask (a % 64) n) .dflt ret
    (byteMask (a % 64) n == fullMask 64)
  exact ⟨_, hperf, hs.stored hseg hnew (hth1.served (hread.served hwrite))
    (htend1.trans ((State.plainRead_tended ..).trans (State.plainWrite_tended ..))) (fun h => absurd h hsc) hl hp⟩

/-- An operation at the home slice. -/
theorem WordReady.atomDev (hsc : sc = .dev) (fills : List (Nat × FillRes)) (ret : Hint) (f : Rmw) {old : Word}
    (hold : old = BitVec.ofNat 64 (wordAt s cx seg a n)) (hnew : (f old).val.toNat < 2 ^ (8 * n)) :
    ∃ t, s.atomDev cx.g.core.clus a n fills f (some ret) = (.done old (f old).cnt, t)
      ∧ WordReady cx seg a sc t ∧ WordOnly cx seg a n s t ∧ wordAt t cx seg a n = (f old).val.toNat := by
  have hnone := hs.apart hseg hsc
  have hperf := State.atomDev_local (n := n) hs.sound hl (hs.clean hseg) hnone fills ret f
  have hpkg := s.noteL2_onlyPackage (sectorOf a) (some ret)
  have hs1 := State.noteL2_sound hs.sound (sectorOf a) (some ret)
  have hth1 := State.noteL2_through (s := s) cx.g.core.clus (sectorOf a) (some ret)
  generalize hnote : s.noteL2 (sectorOf a) (some ret) = s1 at hperf hpkg hs1 hth1
  have hword : Machine.wordOf (s1.homeRead a n) = old := by
    rw [hold, Machine.wordOf, wordAt_of_bytes (bs := s1.homeRead a n) (by simp [State.homeRead]) (fun i hi => ?_)]
    have hli := isLocal_word hl hp hi
    have hheld : heldAt s cx.g.core.clus (a + i) = none := by
      unfold heldAt
      rw [(sectorOf_add_lt hp hi).1, hnone]
      rfl
    have hhome : s1.homeByte (a + i) = belowAt s1 (a + i) := by
      rw [belowAt, if_pos hli]
      rfl
    rw [wordByte, if_neg hseg, seenAt_eq, hheld, Option.getD_none, ← hpkg.belowAt_of_isLocal hli, ← hhome]
    simp [State.homeRead, hi]
  dsimp only at hperf
  rw [hword] at hperf
  have hlen : (toBytes n (f old).val.toNat).length = n := length_toBytes ..
  have hp64 : (place64 (a % 64) (toBytes n (f old).val.toNat)).length = 64 := length_place64 (by rw [hlen]; exact hp)
  have hnone1 : s1.l1Sector cx.g.core.clus (sectorOf a) = none := (hpkg.l1Sector ..).trans hnone
  have hlow := State.homeWrite_lowered hs1 hp64 (byteMask (a % 64) n) (byteMask (a % 64) n == fullMask 64) (sec := sectorOf a)
    (by rw [isLocal_sectorBase]; exact hl)
  have hwrite : Through cx.g.core.clus (sectorOf a / 8)
      (secBytes (sectorOf a) (place64 (a % 64) (toBytes n (f old).val.toNat)) (byteMask (a % 64) n)) s1
      (s1.homeWriteAt a (toBytes n (f old).val.toNat)) := by
    rw [State.homeWriteAt, hlen]
    exact .of_access (hlow.store_miss hnone1) id
  have htend1 : Tended s s1 := hnote ▸ State.noteL2_tended ..
  exact ⟨_, hperf, hs.stored hseg hnew (hth1.served hwrite) (htend1.trans (State.homeWrite_tended ..)) (fun _ => hnone1) hl hp⟩
end

/-- An operation on a word of scratch or of local memory, performed at its scope. -/
theorem WordReady.perform {cx : Cx} {seg : BitVec 8} {a : Nat} {s : State} {w : AtomWord} {rs : List Region} {j : AtomJob}
    (hs : WordReady cx seg a w.sc s) (hj : j.seg = seg) (ha : a = if seg = 0xFE then j.off else placeIn rs seg j.off)
    (hplace : seg ≠ 0xFE → isLocal a = true ∧ w.sc ≠ .sys ∧ a % 64 + atomBytes w.b64 ≤ 64) {old : Word}
    (hold : old = BitVec.ofNat 64 (wordAt s cx seg a (atomBytes w.b64)))
    (hnew : (j.rmw cx w.op w.b64 w.fs old).val.toNat < 2 ^ (8 * atomBytes w.b64)) :
    ∃ t, s.perform cx w rs j = (.done old (j.rmw cx w.op w.b64 w.fs old).cnt, t) ∧ WordReady cx seg a w.sc t
      ∧ WordOnly cx seg a (atomBytes w.b64) s t
      ∧ wordAt t cx seg a (atomBytes w.b64) = (j.rmw cx w.op w.b64 w.fs old).val.toNat := by
  by_cases hseg : seg = 0xFE
  · rw [if_pos hseg] at ha
    obtain ⟨hread, hready, honly, hword⟩ := State.atomScratch hseg hs _ hnew
    have hw : Machine.wordOf (s.scratchRead (tidOf cx.gid) a (atomBytes w.b64)) = old := by
      rw [hold, ← hread]
      rfl
    refine ⟨_, ?_, hready, honly, hword⟩
    unfold State.perform
    dsimp only
    rw [if_pos (hj.trans hseg), ← ha, hw]
  · rw [if_neg hseg] at ha
    obtain ⟨hl, hsys, hp⟩ := hplace hseg
    have hcore := fun hsc => hs.atomL1 hseg hl hp hsc cx.p.fills (retIn rs seg j.off) (j.rmw cx w.op w.b64 w.fs) hold hnew
    unfold State.perform
    dsimp only
    rw [if_neg (by rw [hj]; exact hseg), hj, ← ha]
    split
    next hsc => exact hcore (by rw [hsc]; decide)
    next hsc => exact hcore (by rw [hsc]; decide)
    next hsc => exact hs.atomDev hseg hl hp hsc cx.p.fills (retIn rs seg j.off) (j.rmw cx w.op w.b64 w.fs) hold hnew
    next hsc => exact absurd hsc hsys

end Sys2Proof.Machine
end
section
/-! SUPPORT. The operations of an atomic whose lanes all name one word (05 R126, R127). -/

namespace Sys2Proof.Machine

open Sys2Proof.Claims

/-! ### Operations one after another -/

section
variable (s : State) (cx : Cx) (w : AtomWord) (rs : List Region)

theorem State.performAll_cons (j : AtomJob) (js : List AtomJob) : s.performAll cx w rs (j :: js)
    = ((j, (s.perform cx w rs j).1) :: ((s.perform cx w rs j).2.performAll cx w rs js).1,
      ((s.perform cx w rs j).2.performAll cx w rs js).2) := by
  have hfold (js : List AtomJob) : ∀ (ys : List (AtomJob × Perf)) (t : State), js.foldl (fun acc j =>
      let r := acc.2.perform cx w rs j
      (acc.1 ++ [(j, r.1)], r.2)) (ys, t) = (ys ++ (t.performAll cx w rs js).1, (t.performAll cx w rs js).2) := by
    induction js with
    | nil => intro ys t; simp [State.performAll]
    | cons j js ih =>
      intro ys t
      unfold State.performAll
      simp only [List.foldl_cons]
      rw [ih, ih ([] ++ _)]
      simp
  exact hfold js [(j, (s.perform cx w rs j).1)] (s.perform cx w rs j).2
end

/-- What a performed operation gives its lanes. -/
def jobFound (cx : Cx) (w : AtomWord) (x : AtomJob × Perf) : List (Nat × Word) × Counts :=
  match x.2 with
  | .done old _ => fetchAll w.op w.b64 (cx.fmt w.fs) cx.l.seed cx.gid.team (cx.g.soffOf w.fs.toNat) old x.1.fetch
  | _ => ([], Counts.zero)

/-- An operation performed without events. -/
structure Quiet (cx : Cx) (w : AtomWord) (x : AtomJob × Perf) : Prop where
  done : ∃ old, x.2 = .done old Counts.zero
  nodes : x.1.nodes = Counts.zero
  fetch : (jobFound cx w x).2 = Counts.zero

/-- Operations without events: what they give, and no events. -/
theorem localResults_quiet {cx : Cx} {w : AtomWord} {xs : List (AtomJob × Perf)} (h : ∀ x ∈ xs, Quiet cx w x) :
    localResults cx w xs = (xs.flatMap (fun x => (jobFound cx w x).1), Counts.zero) := by
  have hfold : ∀ (xs : List (AtomJob × Perf)) (acc : List (Nat × Word)), (∀ x ∈ xs, Quiet cx w x) →
      xs.foldl (fun acc x => match x.2 with
        | .done old cnt =>
          let r := fetchAll w.op w.b64 (cx.fmt w.fs) cx.l.seed cx.gid.team (cx.g.soffOf w.fs.toNat) old x.1.fetch
          (acc.1 ++ r.1, ((acc.2.add x.1.nodes).add cnt).add r.2)
        | _ => acc) (acc, Counts.zero) = (acc ++ xs.flatMap (fun x => (jobFound cx w x).1), Counts.zero) := by
    intro xs
    induction xs with
    | nil => exact fun acc _ => by simp
    | cons x xs ih =>
      intro acc hall
      obtain ⟨⟨old, hold⟩, hnodes, hfetch⟩ := hall x (List.mem_cons_self ..)
      have hfound : jobFound cx w x
          = fetchAll w.op w.b64 (cx.fmt w.fs) cx.l.seed cx.gid.team (cx.g.soffOf w.fs.toNat) old x.1.fetch := by
        rw [jobFound, hold]
      rw [List.foldl_cons, hold]
      dsimp only
      rw [← hfound, hnodes, hfetch]
      simp only [Counts.add_zero]
      rw [ih _ (fun y hy => hall y (List.mem_cons_of_mem _ hy)), List.flatMap_cons, List.append_assoc]
  exact (hfold xs [] h).trans (by simp)

/-- An operation on a word by numbers: what it leaves there, and what it gives its lanes. -/
structure JobTurn (cx : Cx) (w : AtomWord) (seg : BitVec 8) (off : Nat) (j : AtomJob) (new : Nat → Nat)
    (found : Nat → List (Nat × Word)) : Prop where
  seg : j.seg = seg
  off : j.off = off
  nodes : j.nodes = Counts.zero
  events : ∀ old, (j.rmw cx w.op w.b64 w.fs old).cnt = Counts.zero
  val : ∀ v, v < 2 ^ atomBits w.b64 → (j.rmw cx w.op w.b64 w.fs (BitVec.ofNat 64 v)).val.toNat = new v
  lt : ∀ v, v < 2 ^ atomBits w.b64 → new v < 2 ^ atomBits w.b64
  fetch : ∀ v, v < 2 ^ atomBits w.b64 → fetchAll w.op w.b64 (cx.fmt w.fs) cx.l.seed cx.gid.team (cx.g.soffOf w.fs.toNat)
    (BitVec.ofNat 64 v) j.fetch = (found v, Counts.zero)

/-- What operations one after another give the lanes. -/
def foundInTurn {α : Type} (new : α → Nat → Nat) (found : α → Nat → List (Nat × Word)) : List α → Nat → List (Nat × Word)
  | [], _ => []
  | x :: xs, v => found x v ++ foundInTurn new found xs (new x v)

/-- Operations on one word take effect one after another. -/
theorem WordReady.performAll {α : Type} {cx : Cx} {seg : BitVec 8} {off a : Nat} {w : AtomWord} {rs : List Region}
    {job : α → AtomJob} {new : α → Nat → Nat} {found : α → Nat → List (Nat × Word)}
    (ha : a = if seg = 0xFE then off else placeIn rs seg off)
    (hplace : seg ≠ 0xFE → isLocal a = true ∧ w.sc ≠ .sys ∧ a % 64 + atomBytes w.b64 ≤ 64) :
    ∀ {xs : List α} {s : State}, (∀ x ∈ xs, JobTurn cx w seg off (job x) (new x) (found x)) → WordReady cx seg a w.sc s →
    ∃ ys t, s.performAll cx w rs (xs.map job) = (ys, t) ∧ WordOnly cx seg a (atomBytes w.b64) s t
      ∧ wordAt t cx seg a (atomBytes w.b64) = xs.foldl (fun v x => new x v) (wordAt s cx seg a (atomBytes w.b64))
      ∧ (∀ y ∈ ys, Quiet cx w y)
      ∧ ys.flatMap (fun y => (jobFound cx w y).1) = foundInTurn new found xs (wordAt s cx seg a (atomBytes w.b64))
  | [], s, _, hs => ⟨[], s, rfl, .refl, rfl, fun _ h => absurd h List.not_mem_nil, rfl⟩
  | x :: xs, s, hjobs, hs => by
    have hj := hjobs x (List.mem_cons_self ..)
    have hlt : wordAt s cx seg a (atomBytes w.b64) < 2 ^ atomBits w.b64 := wordAt_lt ..
    have hval := hj.val _ hlt
    obtain ⟨t, hperf, ht, honly, hword⟩ := hs.perform hj.seg (by rw [hj.off]; exact ha) hplace rfl (by
      rw [hval]
      exact hj.lt _ hlt)
    rw [hj.events] at hperf
    rw [hval] at hword
    obtain ⟨ys, v, hall, honlys, hwords, hquiet, hfound⟩ := WordReady.performAll ha hplace
      (fun y hy => hjobs y (List.mem_cons_of_mem _ hy)) ht
    have hone := hj.fetch _ hlt
    refine ⟨(job x, .done (BitVec.ofNat 64 (wordAt s cx seg a (atomBytes w.b64))) Counts.zero) :: ys, v, ?_, honly.trans honlys,
      by rw [hwords, hword, List.foldl_cons], fun y hy => ?_, ?_⟩
    · rw [List.map_cons, State.performAll_cons, hperf, hall]
    · obtain rfl | hy := List.mem_cons.mp hy
      · exact ⟨⟨_, rfl⟩, hj.nodes, congrArg Prod.snd hone⟩
      · exact hquiet y hy
    · rw [List.flatMap_cons, hfound, hword]
      exact congrArg (· ++ _) (congrArg Prod.fst hone)

/-! ### What a lane finds -/

theorem fetchAll_int {op : AtomOp} (hop : isFloatAtom op = false) (b64 : Bool) (f : Fmt) (seed : Word) (team : Nat)
    (soff : BitVec 32) (old : Word) (xs : List FetchLane) : fetchAll op b64 f seed team soff old xs
      = (xs.map (fun x => (x.lane, match x.pre with
          | none => old
          | some p => atomInt op b64 old p)), Counts.zero) := by
  have hone (x : FetchLane) : fetched op b64 f seed team soff old x = .pure (match x.pre with
      | none => old
      | some p => atomInt op b64 old p) := by
    unfold fetched
    cases x.pre with
    | none => rfl
    | some p => exact atomOp_int hop ..
  unfold fetchAll
  simp only [List.map_map, Function.comp_def, hone]
  exact Prod.ext rfl (Counts.sum_zero (fun c hc => by
    obtain ⟨x, -, rfl⟩ := List.mem_map.mp hc
    rfl))

end Sys2Proof.Machine
end
section
/-! SUPPORT. The operations of the three atomic words on one word, by numbers (05 R125 to R127). -/

namespace Sys2Proof.Machine

open Sys2Proof.Claims

/-- The bits of a source that an access takes in a lane. -/
def atomLow (cx : Cx) (b64 : Bool) (x : Src) (l : Nat) : Nat := ((cx.src x).lane l).toNat % 2 ^ atomBits b64

theorem atomLow_lt (cx : Cx) (b64 : Bool) (x : Src) (l : Nat) : atomLow cx b64 x l < 2 ^ atomBits b64 :=
  Nat.mod_lt _ (Nat.two_pow_pos _)

theorem toNat_ofNat_atom {b64 : Bool} {v : Nat} (hv : v < 2 ^ atomBits b64) : (BitVec.ofNat 64 v).toNat = v := by
  rw [BitVec.toNat_ofNat]
  exact Nat.mod_eq_of_lt (hv.trans_le (Nat.pow_le_pow_right (by decide) (atomBits_le b64)))

/-! ### An operation of one lane (05 R127) -/

section
variable {cx : Cx} {w : AtomWord} {fetches : Bool} {b c : Src} {a : LaneAcc} (hop : w.op = .exch)
include hop

/-- What a lane fetches of an operation that is never combined. -/
theorem jobOne_fetch (x : Option Src) (old : Word) :
    fetchAll w.op w.b64 (cx.fmt w.fs) cx.l.seed cx.gid.team (cx.g.soffOf w.fs.toNat) old (jobOne cx w.b64 fetches b x a).fetch
      = (if fetches then [(a.lane, old)] else [], Counts.zero) := by
  rw [fetchAll_int (by rw [hop]; rfl)]
  cases fetches <;> rfl

theorem jobOne_turn_exch : JobTurn cx w a.seg a.off (jobOne cx w.b64 fetches b none a) (fun _ => atomLow cx w.b64 b a.lane)
    (fun v => if fetches then [(a.lane, BitVec.ofNat 64 v)] else []) := by
  have hrmw (old : Word) : (jobOne cx w.b64 fetches b none a).rmw cx w.op w.b64 w.fs old
      = .pure (atomNarrow w.b64 (atomNarrow w.b64 ((cx.src b).lane a.lane))) := by
    rw [hop]
    rfl
  refine ⟨rfl, rfl, rfl, fun old => by rw [hrmw]; rfl, fun v _ => ?_, fun _ _ => atomLow_lt .., fun v _ => jobOne_fetch hop ..⟩
  rw [hrmw]
  change (atomNarrow w.b64 (atomNarrow w.b64 ((cx.src b).lane a.lane))).toNat = _
  rw [toNat_atomNarrow, toNat_atomNarrow, Nat.mod_mod]
  rfl

theorem jobOne_turn_swap : JobTurn cx w a.seg a.off (jobOne cx w.b64 fetches b (some c) a)
    (fun v => if v = atomLow cx w.b64 b a.lane then atomLow cx w.b64 c a.lane else v)
    (fun v => if fetches then [(a.lane, BitVec.ofNat 64 v)] else []) := by
  have hrmw (old : Word) : (jobOne cx w.b64 fetches b (some c) a).rmw cx w.op w.b64 w.fs old
      = .pure (if old = atomNarrow w.b64 ((cx.src b).lane a.lane) then atomNarrow w.b64 ((cx.src c).lane a.lane) else old) := rfl
  refine ⟨rfl, rfl, rfl, fun old => by rw [hrmw]; rfl, fun v hv => ?_, fun v hv => ?_, fun v _ => jobOne_fetch hop ..⟩
  · rw [hrmw]
    change (if _ then _ else _ : Word).toNat = _
    have hiff : BitVec.ofNat 64 v = atomNarrow w.b64 ((cx.src b).lane a.lane) ↔ v = atomLow cx w.b64 b a.lane := by
      rw [← BitVec.toNat_inj, toNat_ofNat_atom hv, toNat_atomNarrow]
      rfl
    rw [apply_ite BitVec.toNat, toNat_ofNat_atom hv, toNat_atomNarrow]
    exact if_congr hiff rfl rfl
  · split
    · exact atomLow_lt ..
    · exact hv
end

/-! ### The combined operation of all lanes (05 R126) -/

section
variable {cx : Cx} {op : AtomOp} {b64 : Bool} {b : Src}

/-- The operations of some lanes on a number. -/
def lanesOn (cx : Cx) (op : AtomOp) (b64 : Bool) (b : Src) (ls : List Nat) (v : Nat) : Nat :=
  ls.foldl (fun v l => onWord op (atomBits b64) v (atomLow cx b64 b l)) v

theorem lanesOn_lt {ls : List Nat} {v : Nat} (hv : v < 2 ^ atomBits b64) : lanesOn cx op b64 b ls v < 2 ^ atomBits b64 :=
  foldl_keeps (· < 2 ^ atomBits b64) (fun v l => onWord op (atomBits b64) v (atomLow cx b64 b l))
    (fun _ _ h => onWord_lt h (atomLow_lt ..)) ls v hv

/-- The value of a lane that takes part. -/
def atomVal (cx : Cx) (b64 : Bool) (b : Src) (l : Nat) : Word := atomNarrow b64 ((cx.src b).lane l)

theorem foldl_atomInt : ∀ (ls : List Nat) {v : Nat}, v < 2 ^ atomBits b64 →
    (ls.map (atomVal cx b64 b)).foldl (atomInt op b64) (BitVec.ofNat 64 v) = BitVec.ofNat 64 (lanesOn cx op b64 b ls v)
  | [], _, _ => rfl
  | l :: ls, v, hv => by
    have hstep : atomInt op b64 (BitVec.ofNat 64 v) (atomVal cx b64 b l)
        = BitVec.ofNat 64 (onWord op (atomBits b64) v (atomLow cx b64 b l)) := by
      rw [atomInt, toNat_ofNat_atom hv, Nat.mod_eq_of_lt hv, atomVal, toNat_atomNarrow, Nat.mod_mod]
      rfl
    rw [List.map_cons, List.foldl_cons, hstep, foldl_atomInt ls (onWord_lt hv (atomLow_lt ..))]
    rfl

/-- The values of the lanes of a mask by their places. -/
def atomLeaf (cx : Cx) (b64 : Bool) (b : Src) (ls : List Nat) (q : Nat) : Option Word :=
  if ls.contains q then some (atomVal cx b64 b q) else none

theorem filter_range_lt {n k : Nat} (h : n ≤ k) (p : Nat → Bool) :
    ((List.range k).filter p).filter (fun l => decide (l < n)) = (List.range n).filter p := by
  obtain ⟨d, rfl⟩ := Nat.exists_eq_add_of_le h
  have hall : (List.range n).filter (fun l => p l && decide (l < n)) = (List.range n).filter p :=
    List.filter_congr (fun l hl => by simp [List.mem_range.mp hl])
  have hnone : ((List.range d).map (fun l => n + l)).filter (fun l => p l && decide (l < n)) = [] :=
    List.filter_eq_nil_iff.mpr (fun l hl => by
      obtain ⟨i, -, rfl⟩ := List.mem_map.mp hl
      simp)
  rw [List.filter_filter, List.range_add, List.filter_append]
  simp only [Bool.and_comm (decide _)]
  rw [hall, hnone, List.append_nil]

theorem filterMap_atomLeaf (m : Word) {n : Nat} (hn : n ≤ 64) : (List.range' 0 n).filterMap (atomLeaf cx b64 b (lanes m))
    = ((lanes m).filter (fun l => decide (l < n))).map (atomVal cx b64 b) := by
  have hlow : (lanes m).filter (fun l => decide (l < n)) = (List.range n).filter (laneIn m) := filter_range_lt hn _
  have hleaf : atomLeaf cx b64 b (lanes m) = fun q => if laneIn m q then some (atomVal cx b64 b q) else none := by
    funext q
    have hq : (lanes m).contains q = laneIn m q := by
      rw [Bool.eq_iff_iff, List.contains_iff_mem, mem_lanes]
    rw [atomLeaf, hq]
  rw [hlow, hleaf, ← List.range_eq_range']
  generalize List.range n = xs
  induction xs with
  | nil => rfl
  | cons x xs ih =>
    rw [List.filterMap_cons, List.filter_cons]
    cases laneIn m x with
    | true => simp [ih]
    | false => simp [ih]

/-- What has been combined, put on what was there. -/
theorem afterCombined {F : Word → Word → Word} (hF : ∀ x y z, F (F x y) z = F x (F y z)) (old : Word) (xs : List Word) :
    (match foldAll F xs with
      | none => old
      | some p => F old p) = xs.foldl F old := by
  cases h : foldAll F xs with
  | none =>
    cases xs with
    | nil => rfl
    | cons x xs => cases h
  | some p => exact fold_of_foldAll hF h
end

/-! ### The combined operation -/

section
variable {cx : Cx} {w : AtomWord} {fetches : Bool} {b : Src} {accs : List LaneAcc}

/-- One combination of an integer operation. -/
def atomComb (cx : Cx) (w : AtomWord) : CombineFn := fun l x y => atomOp w.op w.b64 (cx.fmt w.fs) (cx.key w.fs l) x y

variable (hop : isFloatAtom w.op = false) (hlanes : accs.map (·.lane) = lanes cx.eff)

include hop in
theorem atomComb_val (l : Nat) (x y : Word) : (atomComb cx w l x y).val = atomInt w.op w.b64 x y :=
  congrArg Tallied.val (atomOp_int hop ..)

include hop in
theorem atomComb_cnt (l : Nat) (x y : Word) : (atomComb cx w l x y).cnt = Counts.zero :=
  congrArg Tallied.cnt (atomOp_int hop ..)

/-- What the lanes below a lane have combined. -/
def combinedBelow (cx : Cx) (w : AtomWord) (b : Src) (l : Nat) : Combined :=
  scanPrefix (atomLeaf cx w.b64 b (lanes cx.eff)) (atomComb cx w) 0 l 7 0 { val := none, nodes := [] }

include hop in
theorem combinedBelow_val {l : Nat} (hl : l < 64) : ((combinedBelow cx w b l).val.map Prod.fst)
    = foldAll (atomInt w.op w.b64) (((lanes cx.eff).filter (fun k => decide (k < l))).map (atomVal cx w.b64 b)) := by
  have hc := scanPrefix_covers_count (leaf := atomLeaf cx w.b64 b (lanes cx.eff)) (f := atomComb cx w) 0 l (by omega)
  rw [combinedBelow, hc.fold atomInt_assoc (atomComb_val hop) (by omega), filterMap_atomLeaf _ (by omega)]

/-- What all lanes have combined. -/
def combinedAll (cx : Cx) (w : AtomWord) (b : Src) : Combined :=
  scanBlock (atomLeaf cx w.b64 b (lanes cx.eff)) (atomComb cx w) (Nat.log2 cx.w) 0

theorem width_spec {n : Nat} (h : n ∈ [8, 16, 32, 64]) : 2 ^ Nat.log2 n = n ∧ Nat.log2 n < 7 ∧ n ≤ 64 := by
  revert n
  decide

theorem combinedAll_covers (hwidth : cx.w ∈ [8, 16, 32, 64]) :
    (combinedAll cx w b).Covers (atomLeaf cx w.b64 b (lanes cx.eff)) (atomComb cx w) 0 cx.w := by
  obtain ⟨hpow, hlog, -⟩ := width_spec hwidth
  have hc := scanBlock_covers (leaf := atomLeaf cx w.b64 b (lanes cx.eff)) (f := atomComb cx w) (Nat.log2 cx.w) 0 hlog
  rwa [hpow] at hc

include hop in
theorem combinedAll_val (hwidth : cx.w ∈ [8, 16, 32, 64]) (hin : ∀ l ∈ lanes cx.eff, l < cx.w) :
    (combinedAll cx w b).val.map Prod.fst = foldAll (atomInt w.op w.b64) ((lanes cx.eff).map (atomVal cx w.b64 b)) := by
  have hle := (width_spec hwidth).2.2
  rw [(combinedAll_covers hwidth).fold atomInt_assoc (atomComb_val hop) (by omega), filterMap_atomLeaf _ hle,
    List.filter_eq_self.mpr (fun l hl => by simpa using hin l hl)]

/-- The lanes' results of a combined operation, each with what the lanes below it have combined. -/
def combinedFetch (cx : Cx) (w : AtomWord) (fetches : Bool) (b : Src) : List (Nat × Combined) :=
  if fetches then (lanes cx.eff).map (fun l => (l, combinedBelow cx w b l)) else []

theorem jobOf_eq (hlanes : accs.map (·.lane) = lanes cx.eff) : jobOf cx w.op w.b64 fetches w.fs b accs
    = { lanes := lanes cx.eff
        seg := (accs.headD { lane := 0, seg := 0, off := 0, n := 0 }).seg
        off := (accs.headD { lane := 0, seg := 0, off := 0, n := 0 }).off
        total := ((combinedAll cx w b).val.getD (0, 0)).1
        swap := none
        nodes := distinctCounts ((combinedAll cx w b).nodes ++ (combinedFetch cx w fetches b).flatMap (fun x => x.2.nodes))
        fetch := (combinedFetch cx w fetches b).map (fun x => fetchLane cx x.1 (x.2.val.map Prod.fst)) } := by
  unfold jobOf
  rw [hlanes]
  rfl

/-- The combined operation leaves what the lanes one after another would, and each lane finds what those below it left. -/
theorem jobOf_turn (hop : isFloatAtom w.op = false) (hlanes : accs.map (·.lane) = lanes cx.eff) (hwidth : cx.w ∈ [8, 16, 32, 64])
    (hin : ∀ l ∈ lanes cx.eff, l < cx.w) {seg : BitVec 8} {off : Nat} (hne : accs ≠ [])
    (hone : ∀ a ∈ accs, a.seg = seg ∧ a.off = off) :
    JobTurn cx w seg off (jobOf cx w.op w.b64 fetches w.fs b accs) (lanesOn cx w.op w.b64 b (lanes cx.eff))
      (fun v => if fetches then (lanes cx.eff).map (fun l =>
        (l, BitVec.ofNat 64 (lanesOn cx w.op w.b64 b ((lanes cx.eff).filter (fun k => decide (k < l))) v))) else []) := by
  have hlane (l : Nat) (hl : l ∈ lanes cx.eff) : l < 64 := lt_of_laneIn ((mem_lanes _ _).mp hl)
  obtain ⟨a, as, rfl⟩ := List.exists_cons_of_ne_nil hne
  obtain ⟨hseg, hoff⟩ := hone a (List.mem_cons_self ..)
  rw [jobOf_eq hlanes]
  have hrmw (old : Word) : atomOp w.op w.b64 (cx.fmt w.fs) (cx.key w.fs ((lanes cx.eff).headD 0)) old
      ((combinedAll cx w b).val.getD (0, 0)).1 = .pure (atomInt w.op w.b64 old ((combinedAll cx w b).val.getD (0, 0)).1) :=
    atomOp_int hop ..
  refine ⟨hseg, hoff, ?_, fun old => congrArg Tallied.cnt (hrmw old), fun v hv => ?_, fun v hv => lanesOn_lt hv, fun v hv => ?_⟩
  · refine distinctCounts_zero (fun e he => ?_)
    obtain he | he := List.mem_append.mp he
    · exact (combinedAll_covers hwidth).noEvents (atomComb_cnt hop) e he
    · obtain ⟨x, hx, he⟩ := List.mem_flatMap.mp he
      unfold combinedFetch at hx
      split at hx
      · obtain ⟨l, hl, rfl⟩ := List.mem_map.mp hx
        exact (scanPrefix_covers_count 0 l (Nat.le_of_lt (hlane l hl))).noEvents (atomComb_cnt hop) e he
      · cases hx
  · have hval := combinedAll_val (b := b) hop hwidth hin
    have htotal : foldAll (atomInt w.op w.b64) ((lanes cx.eff).map (atomVal cx w.b64 b))
        = some ((combinedAll cx w b).val.getD (0, 0)).1 := by
      rw [← hval]
      cases hc : (combinedAll cx w b).val with
      | some p => rfl
      | none =>
        rw [hc, ← hlanes] at hval
        cases hval
    refine (congrArg (fun t => (Tallied.val t).toNat) (hrmw (BitVec.ofNat 64 v))).trans ?_
    change (atomInt w.op w.b64 (BitVec.ofNat 64 v) ((combinedAll cx w b).val.getD (0, 0)).1).toNat = _
    rw [fold_of_foldAll atomInt_assoc htotal, foldl_atomInt _ hv, toNat_ofNat_atom (lanesOn_lt hv)]
  · rw [fetchAll_int hop]
    refine Prod.ext ?_ rfl
    dsimp only
    unfold combinedFetch
    cases fetches with
    | false => rfl
    | true =>
      rw [if_pos rfl, if_pos rfl, List.map_map, List.map_map]
      refine List.map_congr_left (fun l hl => Prod.ext rfl ?_)
      simp only [Function.comp_apply, fetchLane, combinedBelow_val hop (hlane l hl)]
      rw [← foldl_atomInt _ hv]
      exact afterCombined atomInt_assoc ..

end

end Sys2Proof.Machine
end
section
/-! PROOFS. An integer atomic whose lanes all name one word (05 R125 to R127). -/

namespace Sys2Proof.Proofs

open Sys2Proof Sys2Proof.Machine Sys2Proof.Claims

/-! ### Operations on the word -/

/-- The operations `js` leave `last` at the word and change nothing else; each is performed without events, and `found` is
what they give the lanes. -/
def Performs (cx : Cx) (w : AtomWord) (rs : List Region) (js : List AtomJob) (seg : BitVec 8) (a : Nat) (s : State)
    (found : List (Nat × Word)) (last : Nat) : Prop :=
  ∃ ys t, s.performAll cx w rs js = (ys, t) ∧ WordOnly cx seg a (atomBytes w.b64) s t ∧ wordAt t cx seg a (atomBytes w.b64) = last
    ∧ (∀ y ∈ ys, Quiet cx w y) ∧ ys.flatMap (fun y => (jobFound cx w y).1) = found

/-- What the lanes of a word that fetches get. -/
def foundWords (fetches : Bool) (xs : List (Nat × Nat)) : List (Nat × Word) :=
  if fetches then xs.map (fun x => (x.1, BitVec.ofNat 64 x.2)) else []

section
variable {cx : Cx} {w : AtomWord} {rs : List Region} {seg : BitVec 8} {off a : Nat} {s : State} {accs : List LaneAcc}
  {fetches : Bool} (ha : a = if seg = 0xFE then off else placeIn rs seg off)
  (hplace : seg ≠ 0xFE → isLocal a = true ∧ w.sc ≠ .sys ∧ a % 64 + atomBytes w.b64 ≤ 64) (hs : WordReady cx seg a w.sc s)
  (hlanes : accs.map (·.lane) = lanes cx.eff) (hone : ∀ x ∈ accs, x.seg = seg ∧ x.off = off)
include ha hplace hs hlanes hone

/-- Operations of one lane each. -/
theorem performs_lanes {job : LaneAcc → AtomJob} {f : Nat → Nat → Nat}
    (hjob : ∀ x ∈ accs, JobTurn cx w x.seg x.off (job x) (f x.lane)
      (fun v => if fetches then [(x.lane, BitVec.ofNat 64 v)] else [])) :
    Performs cx w rs (accs.map job) seg a s
      (foundWords fetches (inTurn f (lanes cx.eff) (wordAt s cx seg a (atomBytes w.b64))).1)
      (inTurn f (lanes cx.eff) (wordAt s cx seg a (atomBytes w.b64))).2 := by
  obtain ⟨ys, t, hall, honly, hword, hquiet, hfound⟩ := WordReady.performAll (job := job) (new := fun x : LaneAcc => f x.lane)
    (found := fun (x : LaneAcc) v => if fetches then [(x.lane, BitVec.ofNat 64 v)] else []) ha hplace (fun x hx => by
      have h := hjob x hx
      rwa [(hone x hx).1, (hone x hx).2] at h) hs
  have hturns : ∀ (xs : List LaneAcc) (v : Nat), foundInTurn (fun x : LaneAcc => f x.lane)
      (fun x v => if fetches then [(x.lane, BitVec.ofNat 64 v)] else []) xs v
        = foundWords fetches (inTurn f (xs.map (·.lane)) v).1 := by
    intro xs
    induction xs with
    | nil => intro v; cases fetches <;> rfl
    | cons x xs ih =>
      intro v
      rw [foundInTurn, ih]
      cases fetches <;> rfl
  refine ⟨ys, t, hall, honly, ?_, hquiet, ?_⟩
  · rw [hword, inTurn_snd, ← hlanes, List.foldl_map]
  · rw [hfound, hturns, hlanes]

/-- One operation for all lanes. -/
theorem performs_combined {b : Src} (hop : isFloatAtom w.op = false) (hwidth : cx.w ∈ [8, 16, 32, 64])
    (hin : ∀ l ∈ lanes cx.eff, l < cx.w) (hne : accs ≠ []) :
    Performs cx w rs [jobOf cx w.op w.b64 fetches w.fs b accs] seg a s
      (foundWords fetches (inTurn (fun l v => onWord w.op (atomBits w.b64) v (atomLow cx w.b64 b l)) (lanes cx.eff)
        (wordAt s cx seg a (atomBytes w.b64))).1)
      (inTurn (fun l v => onWord w.op (atomBits w.b64) v (atomLow cx w.b64 b l)) (lanes cx.eff)
        (wordAt s cx seg a (atomBytes w.b64))).2 := by
  obtain ⟨ys, t, hall, honly, hword, hquiet, hfound⟩ := WordReady.performAll (xs := [()]) ha hplace
    (fun _ _ => jobOf_turn (b := b) (fetches := fetches) hop hlanes hwidth hin hne hone) hs
  refine ⟨ys, t, hall, honly, ?_, hquiet, ?_⟩
  · rw [hword, inTurn_snd]
    rfl
  · rw [hfound, inTurn_fst _ _ (lanes_ascending _)]
    cases fetches with
    | false => rfl
    | true =>
      simp only [foundInTurn, foundWords, if_true, List.append_nil, List.map_map]
      rfl
end

/-! ### The accesses of the lanes -/

section
variable {cx : Cx} {m : Addr} {n off : Nat} {seg : BitVec 8}
  (hone : ∀ l, laneIn cx.eff l = true → (laneAddr cx m l).1 = seg ∧ (laneAddr cx m l).2.toNat = off)
include hone

theorem byteAccs_one : ∀ x ∈ byteAccs cx m n, x.seg = seg ∧ x.off = off := by
  intro x hx
  obtain ⟨l, hl, rfl⟩ := List.mem_map.mp hx
  exact hone l ((mem_lanes _ _).mp hl)

theorem addrSets_one (he : cx.eff ≠ 0) : addrSets (byteAccs cx m n) = [byteAccs cx m n] := by
  have hin := byteAccs_one (n := n) hone
  have hne : byteAccs cx m n ≠ [] := by
    rw [byteAccs, ne_eq, List.map_eq_nil_iff]
    exact lanes_ne_nil he
  have hkeys : (byteAccs cx m n).map (fun x => (x.seg, x.off)) = List.replicate (byteAccs cx m n).length (seg, off) :=
    List.eq_replicate_iff.mpr ⟨List.length_map .., fun k hk => by
      obtain ⟨x, hx, rfl⟩ := List.mem_map.mp hk
      obtain ⟨rfl, rfl⟩ := hin x hx
      rfl⟩
  have hall : (byteAccs cx m n).filter (fun x => (x.seg, x.off) == (seg, off)) = byteAccs cx m n :=
    List.filter_eq_self.mpr (fun x hx => by
      obtain ⟨rfl, rfl⟩ := hin x hx
      exact beq_self_eq_true _)
  rw [addrSets, hkeys, List.replicate_dedup (fun h => hne (List.eq_nil_of_length_eq_zero h)), List.map_singleton, hall]
end

end Sys2Proof.Proofs
end
section
/-! PROOFS. AtomicOneWord (05 R125 to R127). -/

namespace Sys2Proof.Proofs

open Sys2Proof Sys2Proof.Machine Sys2Proof.Claims

theorem wordAt_fetched (s : State) (cx : Cx) (u : Uses) (seg : BitVec 8) (a n : Nat) :
    wordAt s (cx.fetched u) seg a n = wordAt s cx seg a n := by
  unfold wordAt
  rw [Cx.core_fetched]
  rfl

theorem WordOnly.of_fetched {s t : State} {cx : Cx} {u : Uses} {seg : BitVec 8} {a n : Nat} (h : WordOnly (cx.fetched u) seg a n s t) :
    WordOnly cx seg a n s t := by
  obtain ⟨w, hw, hin⟩ := h.through
  rw [Cx.core_fetched] at hw
  exact ⟨h.scratch, w, hw, hin⟩

/-- A serial number taken changes no word. -/
theorem WordOnly.of_take (s : State) (cx : Cx) (seg : BitVec 8) (a n : Nat) : WordOnly cx seg a n s s.take.2 :=
  ⟨fun _ _ => rfl, fun _ => none, ⟨⟨fun _ _ _ => .inl rfl, fun _ _ _ => rfl, fun _ _ h => (by cases h), fun _ _ => .inr rfl,
    fun _ _ => .inl rfl, fun _ h => h, fun _ => rfl, fun _ => rfl, rfl⟩, fun _ => le_rfl⟩, fun _ h => absurd rfl h⟩

theorem atomLow_fetched (cx : Cx) (u : Uses) (b64 : Bool) (x : Src) (l : Nat) :
    atomLow (cx.fetched u) b64 x l = atomLow cx b64 x l := by
  rw [atomLow, Cx.src_fetched]
  rfl

/-- Places of scratch and of local memory are at no owner elsewhere. -/
theorem sysSectors_nil {w : AtomWord} {rs : List Region} {js : List AtomJob} {seg : BitVec 8} (hjs : ∀ j ∈ js, j.seg = seg)
    (hsc : seg ≠ 0xFE → w.sc ≠ .sys) : sysSectors w rs js = [] := by
  unfold sysSectors
  split
  next hsys =>
    have hseg : seg = 0xFE := by_contra (fun h => hsc h hsys)
    rw [List.filter_eq_nil_iff.mpr (fun j hj => by simp [hjs j hj, hseg])]
    rfl
  next => rfl

/-- No lane names a peer. -/
theorem plainPeer_none {s : State} {rs : List Region} {accs : List LaneAcc} {seg : BitVec 8} {off : Nat}
    (hone : ∀ x ∈ accs, x.seg = seg ∧ x.off = off) (hl : seg ≠ 0xFE → isLocal (placeIn rs seg off) = true) :
    plainPeer s rs accs = none := by
  rw [plainPeer, Option.map_eq_none_iff, List.find?_eq_none]
  intro x hx
  obtain ⟨rfl, rfl⟩ := hone x hx
  by_cases hseg : x.seg = 0xFE
  · simp [hseg]
  · simp [isPeer_of_isLocal (hl hseg)]

/-- A word at an aligned address lies in one sector. -/
theorem aligned_within {cx : Cx} {m : Addr} {n off : Nat} {seg : BitVec 8} {rs : List Region} (hn : n = 4 ∨ n = 8) {a : LaneAcc}
    (ha : a ∈ byteAccs cx m n) (hseg : a.seg = seg) (hoff : a.off = off) (hearly : earlyFault cx n (byteAccs cx m n) = none)
    (hmap : Mapped rs a) : placeIn rs seg off % 64 + n ≤ 64 := by
  subst hseg hoff
  simp only [earlyFault, Option.or_eq_none_iff, alignFault, Option.map_eq_none_iff, List.find?_eq_none] at hearly
  obtain ⟨⟨-, halign⟩, -⟩ := hearly
  have hal : a.off % n = 0 := by simpa using halign a ha
  obtain ⟨p, hp, hplace⟩ := hmap.page 0 (by rw [n_of_mem_byteAccs ha]; omega)
  have hlt : a.off < 2 ^ 64 := by
    obtain ⟨l, -, rfl⟩ := List.mem_map.mp ha
    exact (laneAddr cx m l).2.isLt
  rw [hplace a.off (by rw [Nat.add_zero, Nat.mod_eq_of_lt hlt])]
  obtain rfl | rfl := hn <;> omega

section
variable {g : Guard} {op : AtomOp} {b64 : Bool} {sc : Scope} {d : Option RegIx} {m : Addr} {b : Src} {c : Option Src}
  {s s1 : State} {cx : Cx} {i : Instr} {u : Uses} {rs : List Region} {seg : BitVec 8} {off a : Nat}

/-- An atomic whose operations change one word and make no events. -/
theorem atom_onWord {w : AtomWord} {js : List AtomJob} {found : List (Nat × Word)} {last : Nat}
    (hw : w = atomWordOf op b64 0 d (accScope (byteAccs cx m (atomBytes b64)) sc) s1.serial)
    (hjs : js = atomJobs (cx.fetched u) op b64 0 d b c (byteAccs cx m (atomBytes b64)))
    (hexec : exec i s = issueMasked g u (atomBody op b64 0 .plain sc d m b c) s) (hop : isFloatAtom op = false)
    (hr : Ready s g u cx) (he : cx.eff ≠ 0) (hearly : earlyFault cx (atomBytes b64) (byteAccs cx m (atomBytes b64)) = none)
    (hprobe : (s.fetched cx u).probe (cx.fetched u) .atomic (byteAccs cx m (atomBytes b64)) = .ok rs s1)
    (hpeer : plainPeer s1 rs (byteAccs cx m (atomBytes b64)) = none) (hsys : sysSectors w rs js = [])
    (hperf : Performs (cx.fetched u) w rs js seg a s1.take.2 found last) :
    ∃ t gt e, exec i s = .next t ∧ Next e t cx g gt ∧ cx.g.keeps gt [] ∧ cx.g.onlyRegs gt
      ∧ e.sameMemory t cx ∧ e.onlyGroups t ∧ wordAt e cx seg a (atomBytes b64) = last
      ∧ WordOnly cx seg a (atomBytes b64) s1 e
      ∧ ∀ d0, d = some d0 → ∃ f ∈ gt.flight, f.kind = .atom ∧ f.dests = [d0.toNat] ∧ f.due = [] ∧ f.waits = []
          ∧ f.writes = laneWrites cx.g.width d0.toNat found := by
  have hb64 : w.b64 = b64 := by rw [hw]; rfl
  obtain ⟨xs, e, hall, honly, hword, hquiet, hfound⟩ := hperf
  have hgo : xs.all (fun x => goesOn x.2) = true := by
    rw [List.all_eq_true]
    intro x hx
    obtain ⟨old, hold⟩ := (hquiet x hx).done
    rw [hold]
    rfl
  have hwaits : xs.filterMap (fun x => match x.2 with
      | .sent n => some n
      | _ => none) = [] := by
    rw [List.filterMap_eq_nil_iff]
    intro x hx
    obtain ⟨old, hold⟩ := (hquiet x hx).done
    rw [hold]
  have hlocal := localResults_quiet hquiet
  rw [hfound] at hlocal
  have hfold : (sysSectors w rs js).foldl (fun s sec => s.clearPeer (cx.fetched u) (jobPieces w rs js) sec) s1.take.2 = s1.take.2 := by
    rw [hsys]
    rfl
  obtain ⟨t, gt, p, hx, hnext, hkeeps, -, -, hcounts, -, hdraw, hregs, hmem, hrest, hfly⟩ := atom_completes (o := .plain) (fs := 0)
    (s2 := s1.take.2) (s3 := e) (e := e) (xs := xs) (later := false) rfl hw hjs hexec hr he
    (.inr (fun h => by rw [h] at hop; cases hop)) (fun h => by rw [hop] at h; cases h) hearly hprobe (fun _ => hpeer) rfl
    (by rw [hfold, windowFull, hsys]; rfl) (by rw [hfold]; exact hall) hgo rfl rfl
  rw [hlocal] at hcounts
  have hcount : gt.counts = cx.g.counts := hcounts.trans (Counts.add_zero _)
  have hsame := hdraw (by rw [hop]; rfl)
  rw [← hcount, ← hsame] at hregs
  rw [hb64] at honly hword
  rw [wordAt_fetched] at hword
  refine ⟨t, gt, e, hx, hnext, hkeeps, ?_, hmem, hrest, hword, (WordOnly.of_take ..).trans (WordOnly.of_fetched honly), fun d0 hd => ?_⟩
  · exact hregs
  · obtain ⟨f, hf, hkind, hdests, hdue, hwait, hwrites⟩ := hfly d0 hd
    rw [hlocal] at hwrites
    exact ⟨f, hf, hkind, hdests, hdue, hwait.trans hwaits, hwrites⟩
end

/-- The write of a result gives each lane what it found. -/
theorem laneWrites_found {f : Nat → Nat → Nat} {m : Word} {v n width reg : Nat} (hn : n ≤ 64) (hv : v < 2 ^ n)
    (hf : ∀ l v, v < 2 ^ n → f l v < 2 ^ n) (hin : ∀ l ∈ lanes m, l < width) :
    ∀ x ∈ (inTurn f (lanes m) v).1, ∃ w ∈ laneWrites width reg (foundWords true (inTurn f (lanes m) v).1),
      w.reg = reg ∧ laneIn w.mask x.1 = true ∧ (w.val.lane x.1).toNat = x.2 := by
  intro x hx
  rw [inTurn_fst f v (lanes_ascending m)] at hx ⊢
  obtain ⟨l, hl, rfl⟩ := List.mem_map.mp hx
  have h64 : l < 64 := lt_of_laneIn ((mem_lanes _ _).mp hl)
  have hlt : ((lanes m).filter (fun k => decide (k < l))).foldl (fun v k => f k v) v < 2 ^ 64 :=
    (foldl_keeps (· < 2 ^ n) (fun v k => f k v) (fun v k h => hf k v h) _ v hv).trans_le (Nat.pow_le_pow_right (by decide) hn)
  have hne : ((lanes m).map (fun l => (l, ((lanes m).filter (fun k => decide (k < l))).foldl (fun v k => f k v) v))).map
      (fun x => (x.1, BitVec.ofNat 64 x.2)) ≠ [] := by
    simp only [ne_eq, List.map_eq_nil_iff]
    exact List.ne_nil_of_mem hl
  unfold laneWrites foundWords
  rw [if_pos rfl, if_neg (by simpa using hne)]
  refine ⟨_, List.mem_singleton_self _, rfl, ?_, ?_⟩
  · rw [laneIn_maskOf _ _ h64]
    simpa [Function.comp_def] using hl
  · dsimp only
    rw [lane_generalVal width _ (hin l hl), List.map_map]
    refine (congrArg BitVec.toNat (pickLane_map (fun k => BitVec.ofNat 64
      (((lanes m).filter (fun j => decide (j < k))).foldl (fun v j => f j v) v)) hl)).trans ?_
    rw [BitVec.toNat_ofNat]
    exact Nat.mod_eq_of_lt hlt

/-- One lane's operation: that of `op`, or the swap where there is a swap operand (05 R125, R127). -/
def laneTurn (cx : Cx) (op : AtomOp) (b64 : Bool) (b : Src) (c : Option Src) (l v : Nat) : Nat :=
  match c with
  | some c => if v = atomLow cx b64 b l then atomLow cx b64 c l else v
  | none => onWord op (atomBits b64) v (atomLow cx b64 b l)

theorem laneTurn_lt {cx : Cx} {op : AtomOp} {b64 : Bool} {b : Src} {c : Option Src} (l v : Nat) (hv : v < 2 ^ atomBits b64) :
    laneTurn cx op b64 b c l v < 2 ^ atomBits b64 := by
  cases c with
  | none => exact onWord_lt hv (atomLow_lt ..)
  | some c =>
    unfold laneTurn
    dsimp only
    split
    · exact atomLow_lt ..
    · exact hv

section
variable {cx : Cx} {w : AtomWord} {rs : List Region} {seg : BitVec 8} {off a : Nat} {s : State} {m : Addr} {d : Option RegIx}
  {b : Src} {c : Option Src}

/-- The operations of an atomic on one word are the lanes' operations one after another. -/
theorem performs_atom (ha : a = if seg = 0xFE then off else placeIn rs seg off)
    (hplace : seg ≠ 0xFE → isLocal a = true ∧ w.sc ≠ .sys ∧ a % 64 + atomBytes w.b64 ≤ 64) (hs : WordReady cx seg a w.sc s)
    (hone : ∀ l, laneIn cx.eff l = true → (laneAddr cx m l).1 = seg ∧ (laneAddr cx m l).2.toNat = off)
    (hop : isFloatAtom w.op = false) (hc : c.isSome = true → w.op = .exch) (hfs : w.fs = 0) (he : cx.eff ≠ 0)
    (hwidth : cx.w ∈ [8, 16, 32, 64]) (hin : ∀ l ∈ lanes cx.eff, l < cx.w) :
    let v := wordAt s cx seg a (atomBytes w.b64)
    let js := atomJobs cx w.op w.b64 0 d b c (byteAccs cx m (atomBytes w.b64))
    (∀ j ∈ js, j.seg = seg) ∧ Performs cx w rs js seg a s
      (foundWords d.isSome (inTurn (laneTurn cx w.op w.b64 b c) (lanes cx.eff) v).1)
      (inTurn (laneTurn cx w.op w.b64 b c) (lanes cx.eff) v).2 := by
  have hacc := byteAccs_one (n := atomBytes w.b64) hone
  have hlanes := map_lane_byteAccs cx m (atomBytes w.b64)
  have hne : byteAccs cx m (atomBytes w.b64) ≠ [] := by
    rw [byteAccs, ne_eq, List.map_eq_nil_iff]
    exact lanes_ne_nil he
  by_cases hexch : w.op = .exch
  · have hjs : atomJobs cx w.op w.b64 0 d b c (byteAccs cx m (atomBytes w.b64))
        = (byteAccs cx m (atomBytes w.b64)).map (jobOne cx w.b64 d.isSome b c) := if_pos (by simp [hexch])
    dsimp only
    rw [hjs]
    refine ⟨fun j hj => ?_, performs_lanes ha hplace hs hlanes hacc (fun x hx => ?_)⟩
    · obtain ⟨x, hx, rfl⟩ := List.mem_map.mp hj
      exact (hacc x hx).1
    · cases c with
      | some c => exact jobOne_turn_swap hexch
      | none =>
        rw [hexch]
        exact jobOne_turn_exch hexch
  · obtain rfl : c = none := by
      cases c with
      | none => rfl
      | some c => exact absurd (hc rfl) hexch
    have hjs : atomJobs cx w.op w.b64 0 d b none (byteAccs cx m (atomBytes w.b64))
        = [jobOf cx w.op w.b64 d.isSome w.fs b (byteAccs cx m (atomBytes w.b64))] := by
      rw [atomJobs, if_neg (by simpa using hexch), addrSets_one hone he, hfs]
      rfl
    dsimp only
    rw [hjs]
    refine ⟨fun j hj => ?_, performs_combined ha hplace hs hlanes hacc hop hwidth hin hne⟩
    rw [List.mem_singleton.mp hj]
    exact (jobOf_turn hop hlanes hwidth hin hne hacc).seg
end

end Sys2Proof.Proofs
end
section
/-! PROOFS. AtomicOneWord: the three words (05 R125 to R127). -/

namespace Sys2Proof.Proofs

open Sys2Proof Sys2Proof.Machine Sys2Proof.Claims

section
variable {g : Guard} {op : AtomOp} {b64 : Bool} {sc : Scope} {d : Option RegIx} {m : Addr} {b : Src} {c : Option Src}
  {s s1 : State} {cx : Cx} {i : Instr} {u : Uses} {rs : List Region} {seg : BitVec 8} {off a : Nat} {tm : Team}

theorem laneTurn_fetched (u : Uses) : laneTurn (cx.fetched u) op b64 b c = laneTurn cx op b64 b c := by
  funext l v
  cases c with
  | none => simp only [laneTurn, atomLow_fetched]
  | some c => simp only [laneTurn, atomLow_fetched]

/-- The scope at which an access to one word outside scratch is performed. -/
theorem accScope_one {accs : List LaneAcc} (hne : accs ≠ []) (hone : ∀ x ∈ accs, x.seg = seg ∧ x.off = off) (hseg : seg ≠ 0xFE) :
    accScope accs sc = sc := by
  obtain ⟨x, xs, rfl⟩ := List.exists_cons_of_ne_nil hne
  have hx : (x.seg == 0xFE) = false := by
    rw [(hone x (List.mem_cons_self ..)).1]
    exact beq_false_of_ne hseg
  rw [accScope, List.all_cons, hx]
  simp

/-- Any atomic on one word, told by its destination and its swap operand. -/
theorem atom_oneWord (hexec : exec i s = issueMasked g u (atomBody op b64 0 .plain sc d m b c) s) (hop : isFloatAtom op = false)
    (hc : c.isSome = true → op = .exch) (hr : Ready s g u cx) (he : cx.eff ≠ 0) (hwidth : cx.g.width ∈ [8, 16, 32, 64])
    (hin : ∀ l, laneIn cx.eff l = true → l < cx.g.width) (htm : s.team? (tidOf cx.gid) = some tm)
    (hone : ∀ l, laneIn cx.eff l = true → (laneAddr cx m l).1 = seg ∧ (laneAddr cx m l).2.toNat = off)
    (hearly : earlyFault cx (atomBytes b64) (byteAccs cx m (atomBytes b64)) = none)
    (hprobe : (s.fetched cx u).probe (cx.fetched u) .atomic (byteAccs cx m (atomBytes b64)) = .ok rs s1) (hu : unmoved s1)
    (ha : a = if seg = 0xFE then off else placeIn rs seg off)
    (hlocal : seg ≠ 0xFE → isLocal a = true ∧ s1.isPoisoned (sectorOf a) = false ∧ sc ≠ .sys
      ∧ (sc = .dev → s1.l1Sector cx.g.core.clus (sectorOf a) = none)) :
    let r := inTurn (laneTurn cx op b64 b c) (lanes cx.eff) (wordAt s1 cx seg a (atomBytes b64))
    ∃ t gt e, exec i s = .next t ∧ Next e t cx g gt ∧ cx.g.keeps gt [] ∧ cx.g.onlyRegs gt
      ∧ e.sameMemory t cx ∧ e.onlyGroups t ∧ wordAt e cx seg a (atomBytes b64) = r.2
      ∧ (∀ q, seg ≠ 0xFE ∨ q < a ∨ a + atomBytes b64 ≤ q → scratchAt e cx q = scratchAt s1 cx q)
      ∧ Kept s1 e cx.g.core.clus (fun q => seg ≠ 0xFE ∧ a ≤ q ∧ q < a + atomBytes b64)
      ∧ ∀ d0, d = some d0 → ∃ f ∈ gt.flight, f.kind = .atom ∧ f.dests = [d0.toNat] ∧ f.due = [] ∧ f.waits = []
          ∧ ∀ x ∈ r.1, ∃ w ∈ f.writes, w.reg = d0.toNat ∧ laneIn w.mask x.1 = true ∧ (w.val.lane x.1).toNat = x.2 := by
  intro r
  obtain ⟨hsec, ⟨h1, p1, hm⟩, hmap⟩ := hr.probed hprobe
  have hsound := hsec.sound hm hu
  have hacc := byteAccs_one (n := atomBytes b64) hone
  have hne : byteAccs cx m (atomBytes b64) ≠ [] := by
    rw [byteAccs, ne_eq, List.map_eq_nil_iff]
    exact lanes_ne_nil he
  obtain ⟨x, hx⟩ := List.exists_mem_of_ne_nil _ hne
  have hscope (h : seg ≠ 0xFE) : accScope (byteAccs cx m (atomBytes b64)) sc = sc := accScope_one hne hacc h
  obtain ⟨w, hw⟩ : ∃ w, w = atomWordOf op b64 0 d (accScope (byteAccs cx m (atomBytes b64)) sc) s1.serial := ⟨_, rfl⟩
  have hwop : w.op = op := by rw [hw]; rfl
  have hwb : w.b64 = b64 := by rw [hw]; rfl
  have hwsc : w.sc = accScope (byteAccs cx m (atomBytes b64)) sc := by rw [hw]; rfl
  have hplace (h : seg ≠ 0xFE) : isLocal a = true ∧ w.sc ≠ .sys ∧ a % 64 + atomBytes w.b64 ≤ 64 := by
    obtain ⟨hl, -, hsys, -⟩ := hlocal h
    have hvirt : x.seg.toNat < 0xFC := (seg_of_earlyFault hearly hx).resolve_left (by rw [(hacc x hx).1]; exact h)
    refine ⟨hl, by rw [hwsc, hscope h]; exact hsys, ?_⟩
    rw [ha, if_neg h, hwb]
    exact aligned_within (by cases b64 <;> decide) hx (hacc x hx).1 (hacc x hx).2 hearly (hmap x hx hvirt)
  have hready : WordReady (cx.fetched u) seg a w.sc s1.take.2 := by
    refine ⟨⟨hu, ⟨hsec.rising, hsec.l1, hsec.l2⟩, hsound.ok⟩, ⟨tm, ?_⟩, fun h => (hlocal h).2.1, fun h hdev => ?_⟩
    · have hteam : s1.team? (tidOf cx.gid) = some tm := by
        unfold State.team?
        rw [State.probe_teams hprobe, State.fetched_teams]
        exact htm
      exact hteam
    · rw [hwsc, hscope h] at hdev
      rw [Cx.core_fetched]
      exact (hlocal h).2.2.2 hdev
  have hwid : (cx.fetched u).w = cx.g.width := Cx.width_fetched cx u .none
  obtain ⟨hsegs, hperf⟩ := performs_atom (cx := cx.fetched u) (m := m) (d := d) (b := b) (c := c) (rs := rs) ha hplace hready
    (by simpa using hone) (by rw [hwop]; exact hop) (by rw [hwop]; exact hc) (by rw [hw]; rfl) he (by rw [hwid]; exact hwidth)
    (fun l hl => by rw [hwid]; exact hin l ((mem_lanes _ _).mp hl))
  rw [hwop, hwb, byteAccs_fetched] at hsegs hperf
  rw [laneTurn_fetched, wordAt_fetched] at hperf
  obtain ⟨t, gt, e, hex, hnext, hkeeps, hregs, hmem, hrest, hword, honly, hfly⟩ := atom_onWord hw rfl hexec hop hr he hearly hprobe
    (plainPeer_none hacc (fun h => by
      have hl := (hlocal h).1
      rwa [ha, if_neg h] at hl)) (sysSectors_nil hsegs (fun h => (hplace h).2.1)) hperf
  refine ⟨t, gt, e, hex, hnext, hkeeps, hregs, hmem, hrest, hword, honly.scratch, honly.kept, fun d0 hd => ?_⟩
  obtain ⟨f, hf, hkind, hdests, hdue, hwaits, hwrites⟩ := hfly d0 hd
  refine ⟨f, hf, hkind, hdests, hdue, hwaits, ?_⟩
  rw [hwrites, hd]
  exact laneWrites_found (atomBits_le b64) (wordAt_lt ..) laneTurn_lt (fun l hl => hin l ((mem_lanes _ _).mp hl))
end

/-- Settles O15: the three words are one word with or without a destination and a swap operand, and its operations are the
lanes' in ascending order, combined or one by one. -/
theorem atomicOneWord : Obligations.AtomicOneWord := by
  unfold Obligations.AtomicOneWord
  intro g op b64 sc kind d m b c s s1 cx i u rs seg off tm hi hop _ hr he hwidth hin htm hone nb accs hearly hprobe hu a hlocal lowOf r
  have hint : isFloatAtom op = false := by
    cases op with
    | fadd => exact absurd (by simp) hop
    | fmin => exact absurd (by simp) hop
    | fmax => exact absurd (by simp) hop
    | _ => rfl
  have hslots (v : Uses) (hv : v.slots = []) : v.withSlots (atomSlots op 0) = v := by
    have hnone : atomSlots op 0 = [] := by rw [atomSlots, hint]; rfl
    rw [hnone]
    cases v
    cases hv
    rfl
  obtain rfl | rfl | ⟨k, rfl⟩ : kind = 0 ∨ kind = 1 ∨ ∃ k, kind = k + 2 := by
    obtain h | h | h : kind = 0 ∨ kind = 1 ∨ 2 ≤ kind := by omega
    · exact .inl h
    · exact .inr (.inl h)
    · exact .inr (.inr ⟨kind - 2, by omega⟩)
  · obtain ⟨rfl, rfl⟩ := Prod.mk.inj hi
    obtain ⟨t, gt, e, hex, hn, hk, ho, hm, hg, hw, hs, hkept, -⟩ := atom_oneWord (b := b) (d := none) (c := none)
      (by rw [exec_red, hslots _ rfl]) hint (fun h => by cases h) hr he hwidth hin htm hone hearly hprobe hu rfl hlocal
    exact ⟨t, gt, e, hex, hn, hk, ho, hm, hg, hw, hs, hkept, fun h0 => absurd rfl h0⟩
  · obtain ⟨rfl, rfl⟩ := Prod.mk.inj hi
    obtain ⟨t, gt, e, hex, hn, hk, ho, hm, hg, hw, hs, hkept, hf⟩ := atom_oneWord (b := b) (d := some d) (c := none)
      (by rw [exec_atom, hslots _ rfl]) hint (fun h => by cases h) hr he hwidth hin htm hone hearly hprobe hu rfl hlocal
    exact ⟨t, gt, e, hex, hn, hk, ho, hm, hg, hw, hs, hkept, fun _ => hf d rfl⟩
  · obtain ⟨rfl, rfl⟩ := Prod.mk.inj hi
    obtain ⟨t, gt, e, hex, hn, hk, ho, hm, hg, hw, hs, hkept, hf⟩ := atom_oneWord (b := b) (d := some d) (c := some c)
      (exec_acas ..) rfl (fun _ => rfl) hr he hwidth hin htm hone hearly hprobe hu rfl hlocal
    have hturn : laneTurn cx .exch b64 b (some c) = fun l v => if k + 2 = 0 ∨ k + 2 = 1 then onWord op (8 * nb) v (lowOf b l)
        else if v = lowOf b l then lowOf c l else v := by
      funext l v
      rw [if_neg (by omega)]
      rfl
    rw [hturn] at hw hf
    exact ⟨t, gt, e, hex, hn, hk, ho, hm, hg, hw, hs, hkept, fun _ => hf d rfl⟩

end Sys2Proof.Proofs
end
